-- ==== Sys2Proof/Word.lean ====
section
/-! DEFINITION. Word.lean: the word types of the machine (03 R53) and their plainest arithmetic. -/

namespace Sys2Proof

/-- One byte. -/
abbrev Byte := BitVec 8
/-- A lane's register value, 32 bits (R53). -/
abbrev Word := BitVec 32
/-- A uniform register, a program counter, an address: 64 bits (R53, R76). -/
abbrev DWord := BitVec 64
/-- A set of lanes of a group, bit j for lane j. -/
abbrev Mask := BitVec 32
/-- The values of one vector register in lanes 0 to 31 (R53). -/
abbrev Lanes := List Word

/-- The lanes 0 to 31 of a group (R27). -/
def laneIds : List Nat := List.range 32

/-- Bit `j` of a mask as a truth value. -/
def Mask.has (m : Mask) (j : Nat) : Bool := m.getLsbD j

/-- The lanes of a mask in ascending order. -/
def Mask.lanes (m : Mask) : List Nat := laneIds.filter (fun j => Mask.has m j)

/-- The mask of the lanes for which `f` holds. -/
def Mask.ofFn (f : Nat → Bool) : Mask :=
  BitVec.ofNat 32 (laneIds.foldl (fun acc j => if f j then acc + 2 ^ j else acc) 0)

/-- All 32 lanes. -/
def Mask.full : Mask := BitVec.allOnes 32

end Sys2Proof
end

