-- ==== Sys2Proof/Config.lean ====
section
/-! DEFINITION. Config.lean: what the spec fixes once for the part, and the values it leaves open, as opaque constants
without a body: no proof can see what they are (DESIGN CHOICE, log 5 and the entries named below). -/

namespace Sys2Proof.Config

/-- Which enabled turn comes next when the agenda names none: any number, read modulo the number of turns (DESIGN CHOICE, log 6). -/
opaque pick : Nat → Nat
/-- R97: a read inside an open lookahead window takes the new value (true) or the old one, per draw, register and lane. -/
opaque windowNew : Nat → Nat → Nat → Bool
/-- R148: whether a generic load finds a sector that the L1 holds, per draw (DESIGN CHOICE, log 11). -/
opaque l1Hits : Nat → Bool
/-- R167: whether a TLB entry that is held is used, per draw (DESIGN CHOICE, log 12). -/
opaque tlbHits : Nat → Bool
/-- R82: whether a pending store or copy is performed at an internal turn, per draw. -/
opaque coin : Nat → Bool
/-- R151, R153: the hash of a line's physical address from which its L2 set is taken. -/
opaque l2Hash : Nat → Nat
/-- Sets of the 64 MiB L2 of a die: lines of 128 bytes, 16 ways (R3, R153). -/
def l2Sets : Nat := 2 ^ 26 / (128 * 16)
/-- The L2 set that holds a line. -/
def l2Set (line : Nat) : Nat := l2Hash line % l2Sets
/-- R160: the internal hash from which the channel of a line is taken. -/
opaque channelHash : Nat → Nat
/-- The hash spreads the 512 lines of a frame over 32 channels, 16 lines in each (R160). -/
def channelsEven (frame : Nat) : Bool :=
  (List.range 32).all (fun k => ((List.range 512).filter (fun i => channelHash (512 * frame + i) % 32 == k)).length == 16)
/-- R160: the channel of a line within its stack, 0 to 31. Any hash that spreads each frame evenly. -/
def channelOf (line : Nat) : Nat := if channelsEven (line / 512) then channelHash line % 32 else line % 32
/-- R275: the channel under which an event of on-chip SRAM outside the cores is logged, which R274 does not list. -/
opaque sramChan : Nat → Nat
/-- R172: granules (1 to 8) that the 1 KiB block takes; the algorithm is internal. -/
opaque granules : List Byte → Nat
/-- R82, R147: one less than the stores that a group's store queue holds; the capacity is not given. -/
opaque storeCap : Nat
/-- R295: the bytes in which a report states the fused security versions, the identity certificate, and the signature over what stands
before it, under the device identity key. -/
opaque versionBytes : Nat → List Byte
opaque certificate : List Byte
opaque attestSign : List Byte → List Byte
/-- R295: a Falcon-1024 signature over a digest is valid under a key: key, digest, signature. -/
opaque falconVerify : List Byte → List Byte → List Byte → Bool
/-- R295: the SHAKE256 hash of the signing key, and the least security version, both fused. -/
opaque fusedKeyHash : List Byte
opaque fusedVersion : Nat
/-- R298: watts drawn at a tick at a clock step: the load is the environment's. -/
opaque power : Nat → Nat → Nat
/-- R300: the word a scan chain shows; the contents are internal. -/
opaque scanWord : Nat → Nat → BitVec 64
/-- R161: the STATUS with which a create or a resume ends that needs an uncorrectable sector, per draw. -/
opaque eccStatus : Nat → Nat
/-- R275: the syndrome an error log entry holds in INFO. -/
opaque syndrome : Nat → BitVec 32
/-- R297: by how much a link correction may lag; any draw. -/
opaque drift : Nat → Nat
/-- R203, R194: the mixture of old and new bytes a stopped record leaves: true takes the new byte. -/
opaque mixNew : Nat → Nat → Bool

/-- R275: the channel number of event 0x09, which the list of channels does not give. -/
opaque lostChan : Nat → Nat

/-- R50, R256: the die that takes a die group, and the free working core that takes a logical core: any of those allowed. -/
opaque place : Nat → Nat

/-- R164: which of the Ringus ports that are up an access to a peer's frame leaves on, per rank; the choice is not given. -/
opaque linkPort : Nat → Nat

/-- Bytes of one stack: 36 GiB (R12). -/
def stackBytes : Nat := 36 * 2 ^ 30
/-- Physical address space of the twelve stacks: 432 GiB (R160). -/
def physBytes : Nat := 12 * stackBytes
/-- Scratchpad of a logical core: 1 MiB (R139). -/
def scratchBytes : Nat := 2 ^ 20
/-- Architecture revision (R285). -/
def archRev : Nat := 0x00010000

end Sys2Proof.Config
end

