-- ==== Sys2Proof/Syntax.lean ====
section
/-! DEFINITION. Syntax.lean: the instructions and the machine events, one constructor of Instr per row of the
opcode table (04 R84 to R94 for the fields of the words; 95_what_each_step_holds for the events). -/

namespace Sys2Proof

/-- Vector register number v0 to v255 (R53). -/
abbrev VReg := BitVec 8
/-- Uniform register number s0 to s127 (R53). -/
abbrev SReg := BitVec 7
/-- Predicate number 0 to 7, lane or uniform as the place says (R53). -/
abbrev PReg := BitVec 3
/-- Array register number a0 to a15 (R53). -/
abbrev AReg := BitVec 4
/-- Handle register number h0 to h15 (R53). -/
abbrev HReg := BitVec 4
/-- Lookahead count 0 to 15 (R84, R95). -/
abbrev LA := BitVec 4

/-- The guard of an instruction: GN and GP of Table 4.4. -/
structure Guard where
  neg  : Bool
  pred : PReg
deriving DecidableEq, Repr

/-- The unguarded form, GP 7 with GN 0 (R84). -/
def Guard.always : Guard := ⟨false, 7⟩

/-- A source operand of formats V: a vector register, a uniform register or a signed 8-bit immediate (R86). -/
inductive Src where
  | v (r : VReg)
  | s (r : SReg)
  | imm (i : BitVec 8)
deriving DecidableEq, Repr

/-- The destination of an instruction with a vector and a uniform form. -/
inductive Dst where
  | v (r : VReg)
  | s (r : SReg)
deriving DecidableEq, Repr

/-- Integer types of TYPE (Table 4.6). -/
inductive IntTy where | i32 | ui32 | i64 | ui64
deriving DecidableEq, Repr

/-- Floating-point types of TYPE (Table 4.6). -/
inductive FTy where | f32 | f64 | f16 | bf16 | f16x2 | bf16x2
deriving DecidableEq, Repr

/-- Types of REDUX, SCAN and SEGRED (R384, R389, R390). -/
inductive RedTy where | int (t : IntTy) | f32
deriving DecidableEq, Repr

/-- Types of CVT: the scalar types of Table 4.6. -/
inductive CvtTy where | int (t : IntTy) | f32 | f64 | f16 | bf16
deriving DecidableEq, Repr

/-- Rounding modes of RND (R109). -/
inductive Rnd where | rn | rz | ru | rd
deriving DecidableEq, Repr

/-- Orderings ORD (Table 4.8). -/
inductive Ord where | plain | acq | rel | acqrel | sc
deriving DecidableEq, Repr

/-- Scopes (Table 2.7). -/
inductive Scope where | group | core | die | device | system
deriving DecidableEq, Repr

/-- The reuse class field RC of format M (Table 4.8, Table 6.7). -/
inductive Reuse where | fromArray | stream | normal | keep | embed
deriving DecidableEq, Repr

/-- The element count field N of format M (Table 4.8). -/
inductive NElem where | one | two | four
deriving DecidableEq, Repr

/-- Branch and comparison conditions (Table 4.12). -/
inductive Cond where | eq | ne | lt | le | gt | ge | ltu | leu | gtu | geu
deriving DecidableEq, Repr

/-- FCMP relations (Table 17.3). -/
inductive FRel where | eq | ne | lt | le | gt | ge | un | ord
deriving DecidableEq, Repr

/-- Atomic operations (Table 16.2). -/
inductive AtomOp where | add | min | max | and | or | xor | exch | inc | dec
deriving DecidableEq, Repr

/-- Types of format A (Table 4.9). -/
inductive AtomTy where | i32 | ui32 | i64 | ui64 | f32 | bf16x2 | f16x2 | f64
deriving DecidableEq, Repr

/-- Operations of REDUX, SCAN and SEGRED (Tables 18.9 and 19.1). -/
inductive RedOp where | add | min | max | and | or | xor
deriving DecidableEq, Repr

/-- Scratchpad access sizes of LDS and STS (Tables 17.8 and 19.5). -/
inductive SpSize where | b1 | b2 | b4 | b8 | b16
deriving DecidableEq, Repr

/-- SHFL modes (Table 19.2). -/
inductive ShflMode where | idx | up | down | xor
deriving DecidableEq, Repr

/-- Integer and logic operation with two sources; `d` says vector or uniform form (R313, R351). -/
structure Bin where
  g   : Guard
  d   : Dst
  a   : Src
  b   : Src
  ty  : IntTy
  sat : Bool
deriving DecidableEq, Repr

/-- Integer operation with one source. -/
structure Un where
  g   : Guard
  d   : Dst
  a   : Src
  ty  : IntTy
  sat : Bool
deriving DecidableEq, Repr

/-- Integer operation with three sources: IMAD, BFX, BFI. -/
structure Tern where
  g   : Guard
  d   : Dst
  a   : Src
  b   : Src
  c   : Src
  ty  : IntTy
  sat : Bool
deriving DecidableEq, Repr

/-- LEA: a + b * 2^k (R361). -/
structure LeaOp where
  g   : Guard
  d   : Dst
  a   : Src
  b   : Src
  k   : BitVec 5
  ty  : IntTy
  sat : Bool
deriving DecidableEq, Repr

/-- ICMP: lane predicate or uniform predicate destination (R352); `uni` selects major 0x40. -/
structure IcmpOp where
  g    : Guard
  uni  : Bool
  d    : PReg
  a    : Src
  b    : Src
  ty   : IntTy
  cond : Cond
deriving DecidableEq, Repr

/-- A predicate source of PLOP and SEL: lane predicate or, with the K bit, uniform predicate (R374, R391). -/
structure PSrc where
  uni : Bool
  p   : PReg
deriving DecidableEq, Repr

/-- SEL (R391). -/
structure SelOp where
  g  : Guard
  d  : Dst
  a  : Src
  b  : Src
  c  : PSrc
  ty : IntTy
deriving DecidableEq, Repr

/-- MOV (Table 18.3). -/
inductive MovOp where
  | reg (d : Dst) (a : Src) (ty : IntTy)
  | toHandle (d : HReg) (a : SReg)
  | fromHandle (d : SReg) (a : HReg)
deriving DecidableEq, Repr

/-- PLOP operations (Table 18.6). -/
inductive PlopOp where
  | and (a b : PSrc) | or (a b : PSrc) | xor (a b : PSrc) | andn (a b : PSrc)
  | not (a : PSrc) | mov (a : PSrc) | sel (a b c : PSrc) | setm (a : SReg)
deriving DecidableEq, Repr

/-- Floating-point operation with two sources (R340). -/
structure FBin where
  g   : Guard
  d   : VReg
  a   : Src
  b   : Src
  ty  : FTy
  rnd : Rnd
deriving DecidableEq, Repr

/-- FFMA (R340). -/
structure FTern where
  g   : Guard
  d   : VReg
  a   : Src
  b   : Src
  c   : Src
  ty  : FTy
  rnd : Rnd
deriving DecidableEq, Repr

/-- FMIN and FMAX (R340, R112). -/
structure FMinMax where
  g   : Guard
  d   : VReg
  a   : Src
  b   : Src
  ty  : FTy
  num : Bool
deriving DecidableEq, Repr

/-- FCMP (R343). -/
structure FcmpOp where
  g   : Guard
  d   : PReg
  a   : Src
  b   : Src
  ty  : FTy
  rel : FRel
  sig : Bool
deriving DecidableEq, Repr

/-- FCLASS (R342). -/
structure FclassOp where
  g  : Guard
  d  : VReg
  a  : Src
  ty : FTy
deriving DecidableEq, Repr

/-- Special functions of major 0x58 (R344). -/
structure SfuOp where
  g   : Guard
  la  : LA
  d   : VReg
  a   : Src
  rnd : Rnd
deriving DecidableEq, Repr

/-- CVT (R335). -/
structure CvtOp where
  g   : Guard
  d   : VReg
  a   : Src
  src : CvtTy
  dst : CvtTy
  rnd : Rnd
  sat : Bool
deriving DecidableEq, Repr

/-- CVTN (R336); `fmt` is an element format code of Table 5.4. -/
structure CvtnOp where
  g    : Guard
  d    : VReg
  a    : Src
  ty   : FTy
  fmt  : BitVec 8
  rnd  : Rnd
  satf : Bool
deriving DecidableEq, Repr

/-- CVTW (R337). -/
structure CvtwOp where
  g   : Guard
  d   : VReg
  a   : Src
  ty  : FTy
  fmt : BitVec 8
  k   : BitVec 2
deriving DecidableEq, Repr

/-- PACK and UNPACK (R371, R404). -/
structure PackOp where
  g   : Guard
  d   : VReg
  a   : VReg
  fmt : BitVec 8
deriving DecidableEq, Repr

/-- QSCALE (R381). -/
structure QscaleOp where
  g   : Guard
  d   : SReg
  a   : VReg
  fmt : BitVec 8
  n   : BitVec 8
  ty  : FTy
deriving DecidableEq, Repr

/-- BCAST (R320): b is a uniform register or an immediate. -/
structure BcastOp where
  g  : Guard
  la : LA
  d  : VReg
  a  : VReg
  b  : Src
  ty : IntTy
deriving DecidableEq, Repr

/-- SHFL (R392); `w` holds the C field as encoded. -/
structure ShflOp where
  g    : Guard
  la   : LA
  d    : VReg
  a    : VReg
  b    : Src
  w    : BitVec 8
  ty   : IntTy
  mode : ShflMode
deriving DecidableEq, Repr

/-- REDUX (R384). -/
structure ReduxOp where
  g   : Guard
  la  : LA
  d   : SReg
  a   : VReg
  ty  : RedTy
  op  : RedOp
  rnd : Rnd
  sat : Bool
deriving DecidableEq, Repr

/-- SCAN (R389). -/
structure ScanOp where
  g    : Guard
  la   : LA
  d    : VReg
  a    : VReg
  ty   : RedTy
  op   : RedOp
  excl : Bool
  rnd  : Rnd
  sat  : Bool
deriving DecidableEq, Repr

/-- SEGRED (R390). -/
structure SegredOp where
  g   : Guard
  la  : LA
  d   : VReg
  a   : VReg
  b   : VReg
  ty  : RedTy
  op  : RedOp
  rnd : Rnd
  sat : Bool
deriving DecidableEq, Repr

/-- CONFLICT and CONFLICT.ALL (R332). -/
structure ConflictOp where
  g  : Guard
  la : LA
  d  : VReg
  a  : VReg
  ty : IntTy
deriving DecidableEq, Repr

/-- VOTE (Table 19.8). -/
inductive VoteOp where
  | any (d a : PReg) | all (d a : PReg) | uni (d a : PReg) | ballot (d : SReg) (a : PReg)
deriving DecidableEq, Repr

/-- The fields of format M (Table 4.8) with a vector index. -/
structure MemV where
  g     : Guard
  la    : LA
  d     : VReg
  x     : VReg
  arr   : AReg
  off   : BitVec 8
  ord   : Ord
  scope : Scope
  fr    : Bool
  rc    : Reuse
  n     : NElem
  sx    : Bool
deriving DecidableEq, Repr

/-- The fields of format M with a uniform index and data register (LDU, STU). -/
structure MemU where
  g     : Guard
  la    : LA
  d     : SReg
  x     : SReg
  arr   : AReg
  off   : BitVec 8
  ord   : Ord
  scope : Scope
  fr    : Bool
  rc    : Reuse
  sx    : Bool
deriving DecidableEq, Repr

/-- LDS and STS (Tables 17.8 and 19.5). -/
structure MemS where
  g     : Guard
  la    : LA
  d     : VReg
  x     : VReg
  off   : BitVec 8
  ord   : Ord
  scope : Scope
  fr    : Bool
  rc    : Reuse
  n     : NElem
  size  : SpSize
  sx    : Bool
deriving DecidableEq, Repr

/-- LDLINES (R360): `n1` is the operand count less one. -/
structure LdlinesOp where
  g     : Guard
  la    : LA
  d     : VReg
  x     : VReg
  arr   : AReg
  off   : BitVec 8
  ord   : Ord
  scope : Scope
  fr    : Bool
  rc    : Reuse
  n     : NElem
  n1    : BitVec 4
deriving DecidableEq, Repr

/-- PREF (R379): `l2` is SUB 1. -/
structure PrefOp where
  g   : Guard
  la  : LA
  x   : VReg
  arr : AReg
  off : BitVec 8
  rc  : Reuse
  l2  : Bool
deriving DecidableEq, Repr

/-- SPILL and FILL (R346, R394): slot `k`. -/
structure SpillOp where
  g  : Guard
  la : LA
  d  : VReg
  k  : BitVec 8
deriving DecidableEq, Repr

/-- GSHUF (R348): `n1` is the block size less one. -/
structure GshufOp where
  g   : Guard
  la  : LA
  d   : VReg
  x   : VReg
  arr : AReg
  off : BitVec 8
  n1  : BitVec 4
deriving DecidableEq, Repr

/-- CPA (R333): `size` 0 to 3 for 4, 8, 16, 32 bytes. -/
structure CpaOp where
  g    : Guard
  la   : LA
  d    : VReg
  x    : VReg
  arr  : AReg
  off  : BitVec 8
  fr   : Bool
  rc   : Reuse
  size : BitVec 2
deriving DecidableEq, Repr

/-- ATOM and RED (R316, R383). RED has no destination: `d` is 0. -/
structure AtomInstr where
  g     : Guard
  la    : LA
  d     : VReg
  x     : VReg
  arr   : AReg
  v     : VReg
  ty    : AtomTy
  ord   : Ord
  scope : Scope
  op    : AtomOp
deriving DecidableEq, Repr

/-- CAS (R331). -/
structure CasOp where
  g     : Guard
  la    : LA
  d     : VReg
  x     : VReg
  arr   : AReg
  v     : VReg
  ty    : IntTy
  ord   : Ord
  scope : Scope
deriving DecidableEq, Repr

/-- BRX modes (Table 16.4). -/
inductive BrxOp where
  | vec (a : VReg) (disp : BitVec 32)
  | uni (a : SReg) (disp : BitVec 32)
  | full (a : SReg)
deriving DecidableEq, Repr

/-- CALL forms (R330). -/
inductive CallOp where
  | direct (disp : BitVec 32)
  | reg (a : SReg)
deriving DecidableEq, Repr

/-- A scope number in a uniform register or in the B field (Table 17.5). -/
inductive SOrN where
  | s (r : SReg)
  | n (k : BitVec 8)
deriving DecidableEq, Repr

/-- A payload of POST: a uniform or a handle register (Table 18.7). -/
inductive SOrH where
  | s (r : SReg)
  | h (r : HReg)
deriving DecidableEq, Repr

/-- A matrix operand: registers or a scratchpad pair (R126). -/
inductive MOperand where
  | regs (r : VReg)
  | sp (r : SReg)
deriving DecidableEq, Repr

/-- MMA and MMA.Z (R126). -/
structure MmaOp where
  g  : Guard
  la : LA
  d  : VReg
  a  : MOperand
  b  : MOperand
  f  : SReg
deriving DecidableEq, Repr

/-- MLD (R364): `opB` is SUB 1. -/
structure MldOp where
  g   : Guard
  la  : LA
  d   : VReg
  a   : SReg
  f   : SReg
  opB : Bool
deriving DecidableEq, Repr

/-- MST and MST.SUM (R368). -/
structure MstOp where
  g  : Guard
  la : LA
  d  : VReg
  a  : SReg
  f  : SReg
deriving DecidableEq, Repr

/-- SRD (Table 19.4): `reg` is the number of Table 3.2. -/
inductive SrdOp where
  | uni (d : SReg) (reg : BitVec 8)
  | vec (d : VReg) (reg : BitVec 8)
deriving DecidableEq, Repr

/-- A group by its context slot, logical core and handle (R143). -/
structure GroupRef where
  slot : Nat
  lcid : Nat
  gh   : Nat
deriving DecidableEq, Repr

/-- A split-table entry of a group (R29). -/
structure SplitRef where
  slot : Nat
  lcid : Nat
  gh   : Nat
  k    : Nat
deriving DecidableEq, Repr

/-- The group of a split. -/
def SplitRef.group (r : SplitRef) : GroupRef := ⟨r.slot, r.lcid, r.gh⟩

/-- A unit of work of a copy engine: record `idx` of kick entry `entry`, or a CPA copy by its number (R183, R179). -/
inductive EngRef where
  | record (slot lcid entry idx : Nat)
  | cpa (slot lcid n : Nat)
deriving DecidableEq, Repr

/-- One indivisible operation that a peer is asked for. -/
inductive PeerOp where
  | atomic (size : Nat) (op : AtomOp) (ty : AtomTy) (v : DWord)
  | cas (size : Nat) (cmp swap : DWord)
deriving DecidableEq, Repr

/-- What an arriving Ringus flit carries, sender's rank first (R296): a post; a request for sectors of a physical line (R156), a write of
bytes with the bits each changes, or operations on a line at their offsets; and the answers to such requests. -/
inductive Flit where
  | post (src : Nat) (port : Nat) (payload : DWord)
  | read (src : Nat) (line : Nat) (secs : BitVec 4) (txn : Nat)
  | write (src : Nat) (pa : Nat) (bytes bits : List Byte) (txn : Nat)
  | rmw (src : Nat) (line : Nat) (ops : List (Nat × PeerOp)) (txn : Nat)
  | reply (src : Nat) (txn : Nat) (bytes : List Byte)
  | refuse (src : Nat) (txn : Nat)
  /-- The request met an uncorrectable sector (R161). -/
  | ecc (src : Nat) (sector : Nat) (txn : Nat)
deriving DecidableEq, Repr

/-- Instructions and machine events: one constructor per row of the opcode table, in its order. -/
inductive Instr where
  | aget (g : Guard) (d : SReg) (a : AReg)
  | aoff (g : Guard) (d a : AReg) (b : SReg)
  | aset (g : Guard) (d : AReg) (a : SReg)
  | and (o : Bin)
  | or (o : Bin)
  | xor (o : Bin)
  | andn (o : Bin)
  | not (o : Un)
  | atom (o : AtomInstr)
  | bar (g : Guard) (k : BitVec 2)
  | bararr (g : Guard) (d : SReg) (k : BitVec 2)
  | barwait (g : Guard) (k : BitVec 2) (b : SReg)
  | bcast (o : BcastOp)
  | bfi (o : Tern)
  | bfx (o : Tern)
  | bkpt (g : Guard) (code : BitVec 16)
  | bra (g : Guard) (disp : BitVec 32)
  | brc (g : Guard) (cond : Cond) (a : VReg) (b : Src) (disp : BitVec 24)
  | breakl (g : Guard)
  | brev (o : Un)
  | clz (o : Un)
  | brx (g : Guard) (o : BrxOp)
  | calget (g : Guard) (d : SReg) (a : VReg)
  | calset (g : Guard) (d : VReg) (a : SReg)
  | caltop (g : Guard) (d : VReg)
  | call (g : Guard) (o : CallOp)
  | cas (o : CasOp)
  | conflict (o : ConflictOp)
  | conflictAll (o : ConflictOp)
  | cpa (o : CpaOp)
  | cpseal (g : Guard)
  | cpwait (g : Guard) (n : BitVec 3)
  | cvt (o : CvtOp)
  | cvtn (o : CvtnOp)
  | cvtw (o : CvtwOp)
  | exit (g : Guard)
  | fadd (o : FBin)
  | fsub (o : FBin)
  | fmul (o : FBin)
  | ffma (o : FTern)
  | fmin (o : FMinMax)
  | fmax (o : FMinMax)
  | fclass (o : FclassOp)
  | fcmp (o : FcmpOp)
  | frcp (o : SfuOp)
  | frsq (o : SfuOp)
  | fsqrt (o : SfuOp)
  | fexp2 (o : SfuOp)
  | flog2 (o : SfuOp)
  | fsin (o : SfuOp)
  | fcos (o : SfuOp)
  | ftanh (o : SfuOp)
  | fence (g : Guard) (ord : Ord) (scope : Scope)
  | fenceEngRel (g : Guard) (scope : Scope)
  | fill (o : SpillOp)
  | fsopen (g : Guard) (a : SReg)
  | fsclose (g : Guard) (a : SOrN)
  | fswait (g : Guard) (a : SOrN)
  | gshuf (o : GshufOp)
  | gtimer (g : Guard) (a : SReg)
  | gtimerGet (g : Guard) (d : SReg)
  | hwait (g : Guard) (a : HReg)
  | htest (g : Guard) (d : SReg) (a : HReg)
  | hcancel (g : Guard) (a : HReg)
  | iadd (o : Bin)
  | isub (o : Bin)
  | imul (o : Bin)
  | imulh (o : Bin)
  | imad (o : Tern)
  | imin (o : Bin)
  | imax (o : Bin)
  | iabs (o : Un)
  | ineg (o : Un)
  | icmp (o : IcmpOp)
  | kick (g : Guard) (d : HReg) (a : SReg) (n : BitVec 8)
  | launch (g : Guard) (a b : SReg) (n : BitVec 8)
  | ld (o : MemV)
  | ldu (o : MemU)
  | ldp (o : MemV)
  | lds (o : MemS)
  | ldlines (o : LdlinesOp)
  | lea (o : LeaOp)
  | loop (a : SReg) (disp : BitVec 32)
  | loopEnd
  | merid (g : Guard) (d : SReg)
  | meridDev (g : Guard) (d : SReg)
  | mld (o : MldOp)
  | mma (o : MmaOp)
  | mmaZ (o : MmaOp)
  | mov (g : Guard) (o : MovOp)
  | movi (g : Guard) (d : Dst) (imm : BitVec 32)
  | moviHi (g : Guard) (d : SReg) (imm : BitVec 32)
  | mst (o : MstOp)
  | mstSum (o : MstOp)
  | nop (g : Guard)
  | pack (o : PackOp)
  | park (g : Guard)
  | patload (g : Guard) (a : SReg) (bank : BitVec 4)
  | plop (g : Guard) (uni : Bool) (d : PReg) (o : PlopOp)
  | popc (o : Un)
  | post (g : Guard) (a : SReg) (b : SOrH)
  | postq (g : Guard) (d : PReg) (a : SReg) (b : SOrH)
  | pref (o : PrefOp)
  | publish (g : Guard) (a : SOrN) (scope : Scope)
  | qscale (o : QscaleOp)
  | reconv
  | red (o : AtomInstr)
  | redux (o : ReduxOp)
  | regroup (la : LA) (k : BitVec 2) (p : PReg)
  | ret (g : Guard)
  | rte
  | rteNext
  | scan (o : ScanOp)
  | segred (o : SegredOp)
  | sel (o : SelOp)
  | shfl (o : ShflOp)
  | shl (o : Bin)
  | shr (o : Bin)
  | shra (o : Bin)
  | spill (o : SpillOp)
  | srd (g : Guard) (o : SrdOp)
  | st (o : MemV)
  | stu (o : MemU)
  | sts (o : MemS)
  | stp (o : MemV)
  | swr (g : Guard) (reg : BitVec 8) (a : SReg)
  | tagfind (g : Guard) (d a : SReg)
  | tagwaitAny (g : Guard) (a : SReg)
  | tagwaitAll (g : Guard) (a : SReg)
  | tbinit (g : Guard) (a b : SReg)
  | tbarrive (g : Guard) (a : SReg)
  | tbarriveTx (g : Guard) (a b : SReg)
  | tbexpect (g : Guard) (a b : SReg)
  | tbwait (g : Guard) (a b : SReg)
  | tracemark (g : Guard) (a : SReg)
  | trap (g : Guard) (code : BitVec 32)
  | unpack (o : PackOp)
  | vote (g : Guard) (la : LA) (o : VoteOp)
  | widenTrap (g : Guard) (d : VReg) (a b : SReg)
  | widenClamp (g : Guard) (d : VReg) (a b : SReg)
  | yield
  | clauseStart (r : SplitRef)
  | longLatencyCompletion (r : GroupRef) (n : Nat)
  | loadCompletion (r : GroupRef) (n : Nat)
  | matrixCompletion (r : GroupRef) (n : Nat)
  | storeQueueDrain (r : GroupRef)
  | messageArrival (slot idx : Nat)
  | bankCycle (slot bank : Nat)
  | gangRecordTake (slot recNum : Nat)
  | instancePlacement (slot recNum : Nat)
  | queueHeadStarvation (slot recNum : Nat)
  | bindRecordDispatch (slot : Nat)
  | issueAgeBoost (r : SplitRef)
  | instanceRetirement (slot recNum inst : Nat)
  | cpaCopyCompletion (slot lcid n : Nat)
  | recordStart (slot lcid entry idx : Nat)
  | recordCompletion (slot lcid entry idx : Nat)
  | recordFailure (r : EngRef)
  | publishFlip (slot idx : Nat)
  | timerExpiry (r : GroupRef)
  | haltPropagation (r : SplitRef)
  | haltrel (die slot : Nat) (seq : BitVec 32)
  | sliceEnd (die : Nat)
  | switchOut (slot lcid : Nat)
  | switchIn (slot lcid : Nat)
  | preemption (slot recNum : Nat)
  | fqrespReplay (die index : Nat)
  | fqrespFail (die index : Nat)
  | xlinvCommand (die npages ctx : Nat)
  | xlinvCompletion (die : Nat)
  | compressFrame (die j : Nat) (arg : Nat)
  | freeRecord (die j : Nat) (arg : Nat)
  | tierCommandCompletion (die j : Nat)
  | framePush (die j : Nat) (frame : Nat)
  | tierRegionWrite (die j : Nat) (value : DWord)
  | backgroundPull (die idx unit : Nat)
  | pageMoveStart (slot : Nat) (vpage : Nat) (stack : Nat)
  | pageMoveCompletion (die idx : Nat)
  | placementPolicyPass (die : Nat)
  | pinCountHalving (die : Nat)
  | l2cfgWrite (die : Nat) (value : DWord)
  | unpin (die : Nat)
  | mailboxWrite (off : Nat) (bytes : List Byte)
  | hostBar4Access (off : Nat) (n : Nat) (data : Option (List Byte))
  | ringusFlitArrival (port rank : Nat) (f : Flit)
  | drainRequestArrival (port rank : Nat)
  | drainMarkerArrival (port slot : Nat)
  | drainTimeout (port slot : Nat)
  | resumeMarkerArrival (port rank : Nat)
  | meridianSync (tick : DWord)
  | parkRequest (die slot : Nat)
  | parkCapture (slot : Nat)
  | resumeRequest (die slot : Nat)
  | contextCreate
  | contextDestroy (slot : Nat)
  | deviceReset
  | functionReady (bit : Nat)
  | attestationRequest
  | clockStep (step : Nat)
  | thermalLimit
  | thermalShutdown
  | freezeArm
  | freeze
  | debugStop (die slot : Nat)
  | debugResume (die slot : Nat)
  | contextHalt (die slot : Nat)
  | traceSync (die slot : Nat)
  | elogClear (die : Nat)
  | eventCountRead (die code requester : Nat)
  | topdownTotalRead (die core set requester : Nat)
  | faultRingConfigWrite (die slot : Nat) (value : DWord)
  | registerWrite (off : Nat) (value : DWord)
  | linkPortDown (port : Nat)
  | resumeEnd (die slot : Nat)
  | contextCommandEnd
  | attestationReportEnd
  | debugStopPropagation (r : SplitRef)
  | flitRetry (die : Nat) (ringus : Bool)
  | scrub (pa : Nat)
deriving DecidableEq, Repr

end Sys2Proof
end

