-- ==== Sys2Proof/Machine/State.lean ====
section
/-! DEFINITION. State.lean: all the state the spec gives the machine, as plain data (INVENTORY.md lists each piece with
its rule), the reasons a step can stop, and the state after reset (14 R294). -/

namespace Sys2Proof.Machine

open Sys2Proof

/-- Bytes of a storage, addresses strictly rising, no entry equal to what an unlisted address reads as (0). -/
abbrev Cells := List Host.Cell

/-- Causes of Table 12.1. -/
inductive Cause where
  | illegal | priv | convergence | format | bound | caliper | align | access | xlate | spillx | portfull | fpexc
  | swtrap | brk | timer | ecc | target | gang | halted
deriving DecidableEq, Repr

/-- Paths of Table 6.1. -/
inductive Path where | g | f | k | s | y | w | b
deriving DecidableEq, Repr

/-- A closed interval of signed values. -/
structure Interval where
  lo : Int
  hi : Int
deriving DecidableEq, Repr

/-- A caliper: an interval, or unknown when K is clear (R56). -/
abbrev Caliper := Option Interval

/-- The kind of a stack entry (R35); a return entry has the code of `pending` (Table 13.9). -/
inductive EntryKind where | pending | waiting
deriving DecidableEq, Repr

/-- An entry of a return or divergence stack (R35, R38). -/
structure StackEntry where
  pc   : DWord
  mask : Mask
  kind : EntryKind
deriving DecidableEq, Repr

/-- A return or divergence stack (R38): on-chip entries, oldest first; total depth; bottom index; spill tag. -/
structure Stack where
  chip  : List StackEntry
  depth : Nat
  bot   : Nat
  tag   : BitVec 32
deriving DecidableEq, Repr

/-- One loop level (R29, Table 13.9). -/
structure LoopLevel where
  lstart : DWord
  lend   : DWord
  lcount : BitVec 32
deriving DecidableEq, Repr

/-- A caliper override entry of a split (R56). -/
structure Override where
  reg : Nat
  cal : Caliper
deriving DecidableEq, Repr

/-- The clause a split has started (R77, R79): its header's CLASSES, COUNT and YIELD. -/
structure Clause where
  hdr     : DWord
  classes : BitVec 4
  count   : Nat
  yields  : Bool
deriving DecidableEq, Repr

/-- What an access is for (R164). -/
inductive Acc where
  | read | write | atomic | fetch | eread | ewrite
deriving DecidableEq, Repr

/-- The memory instruction that requests are part of (R156): its group, its sequence within the group, which is the core cycle of its issue,
its kind of access, ORD and SCOPE. -/
structure ReqTag where
  group : GroupRef
  seq   : Nat
  kind  : Acc
  ord   : Ord
  scope : Scope
deriving DecidableEq, Repr

/-- A translation that an instruction in progress has made: its virtual address and kind, the rank of a peer's page, where it lies and the L2
class of its page. -/
structure Trans where
  va   : Nat
  acc  : Acc
  rank : Option Nat
  pa   : Nat
  cls  : Nat
deriving DecidableEq, Repr

/-- An instruction that has issued and waits for a peer or for a promotion: the registers, calipers and overrides that it read at its issue
(R96), its identity in its requests (R156), the lines that it has reserved (R150) and the translations that it has made. -/
structure Held where
  vregs : List Lanes
  cals  : List Caliper
  sregs : List DWord
  pregs : List Mask
  qregs : List Bool
  aregs : List (BitVec 256)
  hregs : List DWord
  ovr   : List Override
  tag   : Option ReqTag
  resv  : List Nat
  trans : List Trans
deriving DecidableEq, Repr

/-- What a split waits for (Table 13.10), and the waits that are not saved with a kind of their own. -/
inductive Wait where
  /-- Kind 1: HWAIT on a handle, or the clause header's HWAIT mask. -/
  | handle (h : DWord) (hwait : BitVec 8)
  /-- Kind 2: TBWAIT. -/
  | barrier (off : Nat) (phase : BitVec 32)
  /-- Kind 3: TAGWAIT. -/
  | tag (mask : DWord) (all : Bool)
  /-- Kind 4: POST on a full STALL port. -/
  | port (payload : DWord) (port : Nat)
  /-- Kind 5: CPWAIT, or a CPSEAL with 8 batches. -/
  | batch (lanes : Mask) (n : Nat) (isSeal : Bool)
  /-- Kind 6: RECONV at X; the splits it waits for, each with the backward branches counted for it (R34). -/
  | reconv (x : DWord) (awaits : List (Nat × Nat))
  /-- Kind 7: cohort barrier. -/
  | cohort (c : Nat) (phase : BitVec 32)
  /-- Kind 8: FSWAIT. -/
  | scope (sc : Nat)
  /-- Kind 9: REGROUP rendezvous. -/
  | regroup (slot : Nat) (p : PReg)
  /-- Kind 10: a replayable fault at an address, with the active mask at the instruction and STRADDLE (R273). -/
  | fault (va : DWord) (act : Mask) (straddle : Bool)
  /-- R264: another split is in the handler; the instruction executes again afterwards. -/
  | handler
  /-- R377: a POST without the bank's answer yet. -/
  | answer
  /-- R189: a KICK without a free entry; the instruction executes again. -/
  | kick
  /-- R372: PARK. -/
  | park
deriving DecidableEq, Repr

/-- State of a split-table entry (Table 2.3). -/
inductive SplitSt where
  | free | ready | issuing | wait (w : Wait) | halted
deriving DecidableEq, Repr

/-- A split-table entry (R29, Table 13.9) with its scheduling state (R254). -/
structure Split where
  st        : SplitSt
  /-- PC, Table 4.1. -/
  pc        : DWord
  mask      : Mask
  ret       : Stack
  div       : Stack
  loops     : List LoopLevel
  /-- Up to 8, oldest first. -/
  ovr       : List Override
  /-- Backward branches of the current path, 0 to 63. -/
  back      : Nat
  /-- The clause being issued, when the split is inside one. -/
  clause    : Option Clause
  /-- Eligible since this core-cycle count; none when not eligible (R254). -/
  age       : Option Nat
  /-- Ranks below the splits that become eligible in the same cycle (YIELD, R254). -/
  yielded   : Bool
  boosted   : Bool
  /-- No comparator matches its next issue (R302). -/
  exempt    : Bool
  /-- Its next issue counts as replay (R310). -/
  replay    : Bool
  /-- R40: a refill of this stack must be made before the split issues. -/
  refill    : Bool
  haltTick  : Nat
  skidCyc   : Nat
  skidIns   : Nat
  /-- A halt that has reached the split's group and must stop it: cycles and instructions left (Table 12.2). -/
  skid      : Option (Nat × Nat)
  /-- A debug stop on its way: cycles and instructions left; and whether it has stopped (R303). -/
  dskid     : Option (Nat × Nat)
  dstopped  : Bool
  /-- Core cycle from which it has stood in WAIT or with unmet header conditions (R310). -/
  since     : Option Nat
  /-- The instruction that it has issued, while that waits for a peer or a promotion. -/
  held      : Option Held
deriving DecidableEq, Repr

/-- One lane's registers written by an open instruction: register, mask and values. -/
structure VecDest where
  reg  : Nat
  mask : Mask
  vals : Lanes
  /-- The final interval at completion (R60). -/
  cal  : Caliper
  /-- LDLINES writes every lane position and drops every override (R360). -/
  all  : Bool
deriving DecidableEq, Repr

/-- A uniform result of an open instruction. -/
inductive UniDest where
  | s (r : Nat) (v : DWord)
  | q (r : Nat) (v : Bool)
deriving DecidableEq, Repr

/-- Which completion event ends a long-latency instruction. -/
inductive Unit3 where | alu | load | matrix
deriving DecidableEq, Repr

/-- An MMA whose scratchpad bytes may still be read (R134): its operands, the registers as it was issued, and the scratchpad then. -/
structure MmaJob where
  z       : Bool
  op      : MmaOp
  vregs   : List Lanes
  sregs   : List DWord
  scratch : Cells
  /-- The 16-byte chunks of the scratchpad that its group has written since, which it sees as they were. -/
  own     : List Nat
  /-- What it has read, once a release, a fence or an acquire fence has ordered its reads (R230). -/
  fixed   : Option Cells
deriving DecidableEq, Repr

/-- A long-latency instruction in flight (R95, R156). -/
structure Pending where
  id     : Nat
  split  : Nat
  kind   : Unit3
  /-- Instructions the window still covers; none once it has closed. -/
  window : Option Nat
  vecs   : List VecDest
  unis   : List UniDest
  /-- Flags that accrue at completion. -/
  flags  : BitVec 5
  /-- What an MMA still reads (R134); none once it has been read. -/
  job    : Option MmaJob
deriving DecidableEq, Repr

/-- Where a byte is stored: a physical address, a scratchpad byte, or a byte of a register window. -/
inductive Loc where
  | phys (pa : Nat)
  | scratch (lcid off : Nat)
  | window (lcid gh : Nat) (cls idx : Nat)
deriving DecidableEq, Repr

/-- One byte written: its place, the bits it changes and their value (a 4-bit store changes a nibble, R120). -/
structure ByteWr where
  loc  : Loc
  val  : Byte
  bits : Byte
deriving DecidableEq, Repr

/-- A store in a group's store queue (R241), with the virtual lines it touches (R147) and the MST in flight that makes it, which is
complete only when it has left (R369). -/
structure StoreEnt where
  wr    : List ByteWr
  lines : List Nat
  mst   : Option Nat
deriving DecidableEq, Repr

/-- A lane's CPA batches (R181). -/
structure Batch where
  num       : BitVec 32
  /-- Copies of the current, unsealed batch not yet performed. -/
  current   : List Nat
  /-- Sealed unfinished batches, oldest first, each with its copies not yet performed. -/
  sealed    : List (List Nat)
deriving DecidableEq, Repr

/-- What a group's slot-table entry keeps of its bind record (R251): the run's first group, its groups, first slot, register base,
and whether it is the last record of the instance. -/
structure BindTag where
  gfirst  : Nat
  gcount  : Nat
  slot    : Nat
  regBase : Nat
  last    : Bool
deriving DecidableEq, Repr

/-- State of a group (02 R25, 03 R53, Table 13.8). -/
structure GroupCtl where
  role      : Nat
  groupIdx  : Nat
  ganginst  : Nat
  recNum    : Nat
  /-- Gang-wide group number (R26). -/
  number    : Nat
  budget    : Nat
  rank      : Nat
  nranks    : Nat
  peers     : DWord
  quad      : Nat
  slotInQ   : Nat
  regBase   : Nat
  bind      : BindTag
  cls       : Nat
  eligible  : Bool
  retired   : Bool
  spillBase : DWord
  cohorts   : List (Option Nat)
  arrived   : List Mask
  live      : Mask
  lorigin   : Lanes
  spillCnt  : BitVec 32
deriving DecidableEq, Repr

/-- Trap state of a group (12 R264, R268). -/
structure TrapCtl where
  inHandler : Bool
  hsplit    : Nat
  hmask     : Mask
  family    : BitVec 4
  tvec      : DWord
  tpc       : DWord
  tmask     : Mask
  tcause    : DWord
  tval      : DWord
  gtimer    : Nat
  tpend     : Bool
  /-- The count has reached zero in this cycle (R268). -/
  tdue      : Bool
  /-- The split that has taken a pending TIMER and waits for the handler (R264, R268). -/
  tsplit    : Option Nat
deriving DecidableEq, Repr

/-- A group: registers, calipers, trap state, queues and splits. -/
structure Group where
  ctl      : GroupCtl
  trap     : TrapCtl
  vregs    : List Lanes
  cals     : List Caliper
  sregs    : List DWord
  pregs    : List Mask
  qregs    : List Bool
  aregs    : List (BitVec 256)
  hregs    : List DWord
  viol     : Mask
  fflags   : DWord
  storeQ   : List StoreEnt
  inflight : List Pending
  nextId   : Nat
  batches  : List Batch
  splits   : List Split
deriving DecidableEq, Repr

/-- State of a kick entry (R193). -/
inductive KickSt where | done | pending | cancelled | failed
deriving DecidableEq, Repr

/-- A kick entry (R189, Table 13.7). -/
structure Kick where
  gen      : BitVec 32
  st       : KickSt
  count    : Nat
  off      : Nat
  doneMask : BitVec 16
  ganginst : Nat
  recNum   : Nat
  gh       : Nat
  role     : Nat
deriving DecidableEq, Repr

/-- A bulk record in the engine (R189 to R191): the record and layout words as read, its tag and its progress. -/
structure EngRec where
  entry   : Nat
  idx     : Nat
  off     : Nat
  /-- 64 bytes each: as they stood at the KICK until the first start of the KICK, then as the engine has read them (R190, R280). -/
  bytes   : List Byte
  layout  : List Byte
  loaded  : Bool
  started : Bool
  tag     : Nat
  done    : Nat
  /-- Bytes of the unit at `done` that a remainder has performed (R280). -/
  skip    : Nat
  /-- Waits at a replayable fault. -/
  faulted : Bool
  /-- The cause and address of its failure (R203), until the failure takes effect. -/
  fail    : Option (Cause × DWord)
deriving DecidableEq, Repr

/-- A CPA copy not yet performed (R180). -/
structure CpaCopy where
  num   : Nat
  gh    : Nat
  lane  : Nat
  size  : Nat
  valid : Nat
  src   : DWord
  dst   : Nat
  /-- Bytes read from nowhere: a null lane or a violating lane writes zeros. -/
  zero  : Bool
  split : Nat
  recNum : Nat
  ganginst : Nat
  role : Nat
  /-- Reuse class and L2 class of its reads (R179). -/
  hint : Nat
  /-- Its 16-byte units that have been performed ahead of the rest (R185). -/
  units : List Nat
  faulted : Bool
  /-- The cause and address of its failure (R203), until the failure takes effect; `failed` from then on. -/
  fail : Option (Cause × DWord)
  failed : Bool
deriving DecidableEq, Repr

/-- A logical core (R50, Table 2.6, Table 13.7). -/
structure LogicalCore where
  dieGrp   : Nat
  /-- The die that holds its die group (R50). -/
  die      : Nat
  scratch  : Cells
  tags     : DWord
  kicks    : List Kick
  engine   : List EngRec
  cpas     : List CpaCopy
  nextCpa  : Nat
  /-- Stores that left a group's queue, in the core order, not yet performed at their home slice (R241). -/
  outbound : List (List ByteWr)
  /-- The working core that holds it: die and core (R256). -/
  placed   : Option (Nat × Nat)
  sinceIn  : Nat
  leaves   : List DWord
deriving DecidableEq, Repr

/-- A message of a port (R204). -/
structure Msg where
  payload : DWord
  hold    : Option Nat
deriving DecidableEq, Repr

/-- An Orrery bank (R204 to R213). `failed`: patterns whose descriptor read was answered with FAIL (R425); `left`: core cycles left of the
bank cycle in progress (R210), 0 between two. -/
structure Bank where
  ports    : List DWord
  queues   : List (List Msg)
  overflow : List (Nat × Msg)
  patterns : List (BitVec 256)
  rrptr    : Nat
  owed     : List DWord
  failed   : DWord
  left     : Nat
deriving DecidableEq, Repr

/-- State of a finish scope (Table 9.6). -/
inductive ScopeSt where | free | open | closed | done | error
deriving DecidableEq, Repr

structure FScope where
  tag     : BitVec 32
  live    : Nat
  nerr    : Nat
  port    : Nat
  pen     : Bool
  hasPar  : Bool
  parent  : Nat
  depth   : Nat
  st      : ScopeSt
deriving DecidableEq, Repr

/-- Sources of posts that no group makes (R19, R208). -/
inductive PostSrc where
  | scopeEnd (sc : Nat)
  | host
  | link (port : Nat)
  | engine (lcid : Nat)
deriving DecidableEq, Repr

/-- A message on its way to its bank (R19): a POST of a split, a post of another source, or one that a debug stop held (R304). -/
inductive Transit where
  | post (r : SplitRef) (port : Nat) (m : Msg)
  | ext (src : PostSrc) (port : Nat) (m : Msg)
  | held (src : PostSrc) (port : Nat) (m : Msg)
deriving DecidableEq, Repr

/-- Cohort state (R46). -/
structure Cohort where
  live    : Nat
  arrived : Nat
  phase   : BitVec 32
deriving DecidableEq, Repr

/-- A PUBLISH not yet flipped (R200): buffer, issuing group and its scope, and the shadow records it waits for. -/
structure Flip where
  buf     : Nat
  group   : GroupRef
  scope   : Scope
  /-- Logical core, kick entry, index and generation of each shadow record. -/
  records : List (Nat × Nat × Nat × Nat)
deriving DecidableEq, Repr

/-- A halt spreading through an instance (R269 to R271). -/
inductive HaltSt where
  | none | spreading | held (seq : BitVec 32)
deriving DecidableEq, Repr

/-- A gang instance (R41, R285). -/
structure GangInst where
  recNum   : Nat
  inst     : Nat
  scope    : Option Nat
  lcids    : List Nat
  cohorts  : List Cohort
  desc     : List Byte
  descAddr : DWord
  halt     : HaltSt
  /-- The SEQ of the fault that HALTREL names (R271). -/
  seq      : BitVec 32
  error    : Bool
  /-- Bind records of it still to be carried out. -/
  binding  : Bool
deriving DecidableEq, Repr

/-- A gang record (R217, R247, R285). -/
structure GangRec where
  num      : Nat
  descAddr : DWord
  payloads : List DWord
  scope    : Option Nat
  prio     : Nat
  launched : Bool
  pattern  : Nat
  /-- The descriptor as read (R216), when it has been read. -/
  desc     : Option (List Byte)
  next     : Nat
  last     : Nat
  running  : Nat
  error    : Bool
  queued   : Bool
  /-- Meridian tick at which it became head without placing (R247). -/
  headAt   : Option Nat
  starving : Bool
  /-- FAIL answered the translation of its descriptor (R425), or the address is none that R219 allows. -/
  failed   : Bool
  /-- The LAUNCH at its context's creation has not read doubleword 0 yet (R293, R425). -/
  launching : Bool
deriving DecidableEq, Repr

/-- A bind record (R251) with what dispatch needs to start its groups (R25). -/
structure Bind where
  /-- Its place in the order in which the firmware wrote the records still to be carried out (R252). -/
  ord      : Nat
  recNum   : Nat
  inst     : Nat
  role     : Nat
  gfirst   : Nat
  gcount   : Nat
  lcid     : Nat
  quad     : Nat
  slot     : Nat
  regBase  : Nat
  cls      : Nat
  last     : Bool
  budget   : Nat
  pc       : DWord
  spill    : DWord
  payloads : List DWord
  total    : Nat
  firstNum : Nat
  cohorts  : List (List Nat)
  rank     : Nat
  nranks   : Nat
  peers    : DWord
deriving DecidableEq, Repr

/-- A context's debug stop (R303). -/
structure DebugSt where
  stopping : Bool
  stopped  : Bool
  /-- Completions held unseen, in the order in which they occurred, each with its core cycle and its engine's working core (R303, R304). -/
  held     : List (Nat × List Nat × Instr)
deriving DecidableEq, Repr

/-- Park progress of a context (R278). -/
inductive ParkSt where | none | stopping | draining | captured
deriving DecidableEq, Repr

/-- A context (R24, R293). -/
structure Context where
  root      : Nat
  pbtab     : Nat
  cls       : Nat
  weight    : Nat
  sup       : Bool
  joinDie   : Nat
  lcs       : List LogicalCore
  banks     : List Bank
  scopes    : List FScope
  groups    : List (GroupRef × Group)
  insts     : List GangInst
  records   : List GangRec
  binds     : List Bind
  fronts    : BitVec 256
  flips     : List Flip
  transit   : List Transit
  /-- Ports that have enqueued a message in this core cycle (R19). -/
  enqd      : List Nat
  /-- Cohorts at which lanes have arrived in this core cycle, by record, instance and number, and whether a phase has completed (R46). -/
  met       : List (List Nat × Bool)
  /-- The peer tables of the gangs that have been placed (R260, R296). -/
  tables    : List DWord
  waiting   : List (Nat × SplitRef × Msg)
  ctxclk    : DWord
  merOff    : DWord
  dbg       : DebugSt
  halting   : Bool
  park      : ParkSt
  parkSrc   : Nat
  /-- Ports whose drain marker a park still waits for, and the tick at which the drain began (R281). -/
  drains    : List Nat
  drainAt   : Nat
  destroying : Bool
deriving DecidableEq, Repr

/-- A ring in memory that the device fills: control word, LOST, PROD, CONS (Tables 12.4, 13.4, 15.3). -/
structure Ring where
  base : DWord
  lost : BitVec 32
  prod : BitVec 32
  cons : BitVec 32
deriving DecidableEq, Repr

/-- Park registers of one slot (Table 13.1). -/
structure ParkRegs where
  addr   : DWord
  size   : DWord
  busy   : Bool
  status : Nat
  rslot  : Nat
  src    : Nat
  op     : Nat
  len    : DWord
  root   : DWord
  pbtab  : DWord
deriving DecidableEq, Repr

/-- Debug registers of one slot (Table 15.2). -/
structure DbgRegs where
  hit    : Nat
  bkstop : Bool
  comps  : List (BitVec 128)
deriving DecidableEq, Repr

/-- A waiter of a fault queue entry (R170, R171). -/
inductive Waiter where
  | split (r : SplitRef)
  | cpa (slot lcid n : Nat)
  | record (slot lcid entry idx : Nat)
  | start (slot recNum : Nat)
  | fire (slot bank pat : Nat)
  /-- A line that PREF fetches from a peer for a logical core: its virtual line and reuse class, and whether it fills the L1 (R379). No
  fault queue holds it. -/
  | pref (slot lcid line reuse : Nat) (l1 : Bool)
deriving DecidableEq, Repr

/-- A fault queue entry (Table 7.5) with its waiters. -/
structure FaultEnt where
  tick     : Nat
  addr     : DWord
  seq      : BitVec 32
  waiters  : List Waiter
  /-- Each waiter's own faulting address and STRADDLE (R273). -/
  own      : List (Waiter × DWord × Bool)
  count    : Nat
  cause    : Cause
  kinds    : BitVec 4
  level    : Nat
  reason   : Nat
  straddle : Bool
  lcid     : Nat
  slot     : Nat
deriving DecidableEq, Repr

/-- An error log entry (Table 12.7). -/
structure LogEnt where
  tick  : Nat
  addr  : Nat
  seq   : BitVec 32
  info  : BitVec 32
  chan  : Nat
  event : Nat
  cause : Nat
  slot  : Nat
deriving DecidableEq, Repr

/-- An event counter block with its read latch (Table 12.9). -/
structure EvCount where
  count    : DWord
  lastTick : Nat
  lastSeq  : BitVec 32
  latch    : List (Nat × Nat × BitVec 32)
deriving DecidableEq, Repr

/-- A compressed record (R172): its index, the page it holds, its granules, and the sectors of the page that are poisoned (R161). -/
structure ZRec where
  idx   : Nat
  bytes : List Byte
  gran  : Nat
  bad   : List Nat
deriving DecidableEq, Repr

/-- Compressed-tier registers and pools of one near stack (Table 7.7). -/
structure Tier where
  size    : Nat
  start   : Nat
  frames  : List Nat
  granules : Nat
  records : List ZRec
  status  : Nat
  op      : Nat
  arg     : Nat
  /-- OP and ARG of the command in progress. -/
  run     : Option (Nat × Nat)
  result  : Nat
  pulls   : DWord
  moves   : DWord
deriving DecidableEq, Repr

/-- A page in motion (R174 to R177): source frame or record, destination frame, units already pulled. -/
structure MovePage where
  slot    : Nat
  vpage   : Nat
  pte     : Nat
  src     : Option Nat
  record  : Nat
  dst     : Nat
  pulled  : List Nat
deriving DecidableEq, Repr

/-- A line of an L2 home slice (R151 to R155), most recently used first in its list. -/
structure L2Line where
  line   : Nat
  cls    : Nat
  reuse  : Nat
  count  : Nat
  pinned : Bool
  dirty  : Bool
deriving DecidableEq, Repr

/-- A line of a core's L1 (R146): context slot, virtual line number, reuse class of its fill (Table 6.7), and the sectors it
holds, each with its number 0 to 3 and its 32 bytes. -/
structure L1Line where
  slot  : Nat
  line  : Nat
  reuse : Nat
  secs  : List (Nat × List Byte)
deriving DecidableEq, Repr

/-- A translation held in a TLB (R167): page, frame and permissions, and whether AC and D of its PTE are known to be set. -/
structure TlbEnt where
  slot  : Nat
  vpage : Nat
  pte   : DWord
  aset  : Bool
  dset  : Bool
  pteAddr : Nat
deriving DecidableEq, Repr

/-- A quadrant's slot of this core cycle: the leaf it has counted in, if taken (R310). -/
structure Quad where
  taken : Option Nat
  /-- A check cycle to insert (R70). -/
  insert : Nat
deriving DecidableEq, Repr

/-- A working core (R16): the logical core it holds, L1, L1 TLB, counters. -/
structure Core where
  holds  : Option (Nat × Nat)
  /-- Most recently used first. -/
  l1     : List L1Line
  tlb    : List TlbEnt
  quads  : List Quad
  leaves : List DWord
  latchAll : List (Nat × List DWord)
  latchLc  : List (Nat × List DWord)
deriving DecidableEq, Repr

/-- A trace packet before it is written (Table 15.4). -/
structure Packet where
  type : Nat
  kind : Nat := 0
  aux  : Nat := 0
  hdr  : DWord := 0
  pos  : Nat := 0
  r    : SplitRef := ⟨0, 0, 0, 0⟩
  w    : DWord := 0
deriving DecidableEq, Repr

/-- Registers of one context slot in a die's management block. -/
structure SlotRegs where
  fring : Ring
  dlog  : Ring
  trace : Ring
  /-- Packets of this tick, which are written in the order of their splits (R299). -/
  tickPkts : List Packet
  /-- Tick of the last trace packet, packets dropped since the last written one. -/
  traceTick : Nat
  dropped   : Nat
  /-- Tick at which the periodic SYNC was last written or trace was turned on (R307). -/
  syncAt    : Nat
  park  : ParkRegs
  dbg   : DbgRegs
deriving DecidableEq, Repr

/-- A compute die (R17, R167, R170, R274). -/
structure Die where
  l2cfg    : DWord
  xlinva   : DWord
  /-- NPAGES and CTX as written, and the command in progress: first page, pages, context slot (R168). -/
  xlPages  : Nat
  xlCtx    : Nat
  xlRun    : Option (Nat × Nat × Nat)
  faults   : List (Option FaultEnt)
  ftail    : Nat
  fhead    : Nat
  seq      : BitVec 32
  elog     : List LogEnt
  elogOvf  : Bool
  elogLost : BitVec 32
  counts   : List EvCount
  tiers    : List Tier
  moves    : List MovePage
  slots    : List SlotRegs
  l2       : List L2Line
  tlb      : List TlbEnt
  cores    : List Core
  /-- Footprint samples of its near stacks' pages: virtual page, context slot, die group (R72, R178). -/
  samples  : List (Nat × Nat × Nat)
  /-- Ticks at which the placement policy was last carried out and the pin counts last halved (R178, R155). -/
  passTick : Nat
  halveTick : Nat
  /-- The core cycle of the last numbered event and the highest channel of the events numbered in it (R274). -/
  evCycle  : Nat
  evChan   : Nat
  /-- Tick at which a slice last ended, and slices each context has used of its turn (R255). -/
  sliceTick : Nat
  sliceUse  : List Nat
deriving DecidableEq, Repr

/-- A firmware image that the boot ROM has been handed: its SHAKE256 measurement and its security version (R295). -/
structure FwImage where
  digest  : List Byte
  version : Nat
deriving DecidableEq, Repr

/-- A request for one line of a home slice (R156): the instruction it is part of, if any, the line and the sectors touched. -/
structure Request where
  tag  : Option ReqTag
  line : Nat
  secs : BitVec 4
deriving DecidableEq, Repr

/-- What a request asks of a line of a peer: its sectors, a write of its bytes with the bits each changes, whether such a write would be
admitted (R120), or the operations of some lanes, each with its lane and its offset in the line. -/
inductive PeerAsk where
  | read
  | write (bytes bits : List Byte)
  | probe
  | rmw (ops : List (Nat × Nat × PeerOp))
deriving DecidableEq, Repr

/-- A peer's answer: bytes, a refusal, or an uncorrectable sector (R161, R296). -/
inductive PeerReply where
  | bytes (b : List Byte)
  | refused
  | ecc (sector : Nat)
deriving DecidableEq, Repr

/-- A request to a peer in progress (R156, R164, R296): its transaction, its requester and the instruction it is part of, the rank and the
line, the sectors and what is asked of them, the publish backings that the load has selected as front (R199), and the answer. -/
structure RemoteTxn where
  txn   : Nat
  who   : Waiter
  tag   : Option ReqTag
  rank  : Nat
  line  : Nat
  secs  : BitVec 4
  ask   : PeerAsk
  front : List (Nat × Bool)
  /-- A read that a store, an atomic or an invalidation of its core has passed: its answer fills no L1 (R147, R149). -/
  stale : Bool
  reply : Option PeerReply
deriving DecidableEq, Repr

/-- A peer window (Table 14.5) and the other package registers (Tables 14.2, 15.1). -/
structure Package where
  ready    : DWord
  winsel   : DWord
  wbase    : DWord
  nen      : DWord
  pend     : DWord
  mersrc   : Bool
  drto     : Nat
  cmdStatus : Nat
  cmdSlot  : Nat
  cmdOp    : Nat
  /-- OP and slot of the command in progress. -/
  cmdRun   : Option (Nat × Nat)
  crec     : DWord
  rsel     : List DWord
  pwin     : List (BitVec 128)
  nonce    : List Byte
  report   : List Byte
  attBusy  : Bool
  pwrlim   : DWord
  pstep    : Nat
  hot      : Bool
  railsOff : Bool
  frztick  : DWord
  frozen   : Bool
  arm      : Bool
  /-- Tick at which ARM was set (R300). -/
  armTick  : Nat
  scansel  : DWord
  /-- The host port selected at bring-up, true for that of IO1; the other is held in reset (R15). -/
  hostPort : Option Bool
  /-- log2 of the size of BAR4, 30 to 39 (R291). -/
  bar4Log  : Nat
  /-- Firmware images verified and running, and whether one has failed (R295). -/
  images   : List FwImage
  fwFailed : List FwImage
  ordering : Nat
  linkDown : BitVec 16
  /-- Traffic held for a parked context of a peer, by port (R281). -/
  heldFor  : List (Nat × Nat × Flit)
  /-- Ports and ranks whose traffic is held after a drain marker (R281). -/
  holds    : List (Nat × Nat)
  /-- Resume markers received, port and rank, whose held traffic waits for the peer table to name the port (R296). -/
  resumes  : List (Nat × Nat)
  remote   : List RemoteTxn
  nextTxn  : Nat
deriving DecidableEq, Repr

/-- The split whose instruction runs. -/
structure Issuer where
  r : SplitRef
deriving DecidableEq, Repr

/-- The requests of the turn in progress (R156): the memory instruction that makes them, the lines of home slices requested, the virtual
lines that a load has reserved in its core's L1 (R150), the publish backings that the load has selected as front (buffer, and whether it is
backing B), the translations it has made, and the requests to peers that leave when the turn ends. -/
structure Requests where
  tag   : Option ReqTag
  lines : List Request
  resv  : List Nat
  front : List (Nat × Bool)
  trans : List Trans
  asks  : List RemoteTxn
  /-- The numbered events of the turn: die and channel (R274). -/
  events : List (Nat × Nat)
  /-- The fault records of the turn that a full ring has lost, each with its die and context slot: event 0x09 is logged as the turn ends
  (R272). -/
  lost  : List (Nat × Nat)
  /-- The sectors that the turn's write-backs of L2 lines have marked poisoned: event 0x02 follows the turn (Table 12.6). -/
  evicted : List Nat
deriving DecidableEq, Repr

def Requests.none : Requests := ⟨Option.none, [], [], [], [], [], [], [], []⟩

/-- Where an uncorrectable soft error stands (Table 12.6): a stack sector, an L2 line, a 32-byte chunk of a scratchpad, or a
group's registers or slot-table entry, in a place that its next instruction consumes (log 47). -/
inductive SoftPlace where
  | stack (sector : Nat)
  | l2 (line : Nat)
  | scratch (slot lcid chunk : Nat)
  | group (r : GroupRef)
deriving DecidableEq, Repr

/-- A turn of an agent (the model's own, log 4): an event of the opcode table, the issue slot of a split, a core cycle,
the performing of one outbound store, a step of a copy, or a park's step to the drain of its peers. -/
inductive Turn where
  | event (i : Instr)
  | issue (r : SplitRef)
  | tick
  | perform (slot lcid : Nat) (n : Nat)
  | chunk (slot lcid entry idx : Nat)
  | drain (slot : Nat)
  /-- A soft error that ECC corrects (events 0x01 and 0x03), one that it cannot correct, and one in a core's L1 (R275). -/
  | corrected (p : SoftPlace)
  | uncorrected (p : SoftPlace)
  | l1Error (die core line : Nat)
  /-- One 16-byte unit of a CPA copy is performed ahead of the rest (R185). -/
  | copyUnit (slot lcid n u : Nat)
  /-- System software selects the host port, or sizes BAR4 (R15, R291). -/
  | selectPort (io1 : Bool)
  | resizeBar4 (log : Nat)
  /-- The boot ROM is handed a firmware image: its bytes, its key, its signature and its security version (R295). -/
  | bootImage (body key sig : List Byte) (version : Nat)
  /-- The junction has cooled below 105 °C (R298). -/
  | cooled
  /-- A write-back has marked a sector poisoned (R275). -/
  | wroteBack (sector : Nat)
deriving DecidableEq, Repr

/-- What the device has sent out: MSI-X vectors, read completions, flits on a port. -/
inductive HostOut where
  | msix (v : Nat)
  | read (off : Nat) (bytes : List Byte)
  | unsupported (off : Nat)
  /-- A read that met an uncorrectable sector (R161): no data. -/
  | uncorrectable (off : Nat)
deriving DecidableEq, Repr

inductive LinkOut where
  | flit (port rank : Nat) (f : Flit)
  | drainRequest (port slot : Nat)
  | drainMarker (port : Nat)
  | resumeMarker (port slot : Nat)
  /-- A meridian timestamp (R297). -/
  | timestamp (port tick : Nat)
deriving DecidableEq, Repr

/-- The state of the device. -/
structure State where
  mem      : Cells
  poison   : List Nat
  /-- Uncorrectable soft errors that nothing has met yet (R275). -/
  soft     : List SoftPlace
  /-- Bytes of uncorrectable places that have been rewritten since: the context slot of a scratchpad, zero for a stack, and the byte. A place
  is whole again when every byte of it has been (Table 12.6). -/
  mended   : List (Nat × Loc)
  req      : Requests
  pkg      : Package
  dies     : List Die
  ctxs     : List (Option Context)
  meridian : DWord
  /-- Core cycles since reset (ages of R254 count them) and the fraction of a cycle owed under a clock step. -/
  cycles   : Nat
  cycleAcc : Nat
  agenda   : List Turn
  cur      : Option Issuer
  freeCtr  : Nat
  hostOut  : List HostOut
  linkOut  : List LinkOut
deriving DecidableEq, Repr

/-- Why a step stops without a next state. -/
inductive Fault where
  /-- exec of an instruction form with no issuing split: the state names no issuer, or one that does not exist. Raised by
  every instruction meaning; safe: no run reaches it, because only an issue turn runs an instruction and it names one. -/
  | noIssuer
deriving DecidableEq, Repr

/-- Why the model gives no meaning. -/
inductive Refusal where
  /-- An opcode-table row without a meaning yet; raised by Dispatch only; safe. -/
  | notModelled (mnemonic : String)
deriving DecidableEq, Repr

/-! ## Reset -/

def Ring.reset : Ring := ⟨0, 0, 0, 0⟩

def ParkRegs.reset : ParkRegs := ⟨0, 0, false, 0, 0, 0, 0, 0, 0, 0⟩

def DbgRegs.reset : DbgRegs := ⟨0, false, List.replicate 8 0⟩

def SlotRegs.reset : SlotRegs := ⟨Ring.reset, Ring.reset, Ring.reset, [], 0, 0, 0, ParkRegs.reset, DbgRegs.reset⟩

def Tier.reset : Tier := ⟨0, 0, [], 0, [], 0, 0, 0, none, 0, 0, 0⟩

def EvCount.reset : EvCount := ⟨0, 0, 0, []⟩

def Core.reset : Core :=
  ⟨none, [], [], List.replicate 4 ⟨none, 0⟩, List.replicate 16 0, [], []⟩

/-- Cores of a compute die that the part enables: 24 of 26 (192 cores) or 22 (176) (R1, R16). -/
def coresPerDie : Nat := 26

/-- A die after reset: L2CFG holds quotas of 16 (Table 6.5). -/
def Die.reset : Die where
  l2cfg := 0x10101010
  xlinva := 0
  xlPages := 0
  xlCtx := 0
  xlRun := none
  faults := List.replicate 1024 none
  ftail := 0
  fhead := 0
  seq := 0
  elog := []
  elogOvf := false
  elogLost := 0
  counts := List.replicate 10 EvCount.reset
  tiers := List.replicate 2 Tier.reset
  moves := []
  slots := List.replicate 8 SlotRegs.reset
  l2 := []
  tlb := []
  cores := List.replicate coresPerDie Core.reset
  samples := []
  passTick := 0
  halveTick := 0
  evCycle := 0
  evChan := 0
  sliceTick := 0
  sliceUse := List.replicate 8 0

/-- The package block after reset (Tables 14.2, 14.4, 15.1; R298: PWRLIM 8,000). -/
def Package.reset : Package where
  ready := 0
  winsel := 0
  wbase := 0
  nen := 0
  pend := 0
  mersrc := false
  drto := 0
  cmdStatus := 0
  cmdSlot := 0
  cmdOp := 0
  cmdRun := none
  crec := 0
  rsel := List.replicate 8 0
  pwin := List.replicate 64 0
  nonce := List.replicate 64 0
  report := []
  attBusy := false
  pwrlim := 8000
  pstep := 0
  hot := false
  railsOff := false
  frztick := 0
  frozen := false
  arm := false
  armTick := 0
  scansel := 0
  hostPort := none
  bar4Log := 39
  images := []
  fwFailed := []
  ordering := 0
  linkDown := 0
  heldFor := []
  holds := []
  resumes := []
  remote := []
  nextTxn := 0

/-- The machine right after reset: no context, every stack zero, every register at the value the tables give
(DESIGN CHOICE: log entries 1 to 5 name the values the spec does not give). -/
def State.reset : State where
  mem := []
  poison := []
  soft := []
  mended := []
  req := Requests.none
  pkg := Package.reset
  dies := List.replicate 8 Die.reset
  ctxs := List.replicate 8 none
  meridian := 0
  cycles := 0
  cycleAcc := 0
  agenda := []
  cur := none
  freeCtr := 0
  hostOut := []
  linkOut := []

end Sys2Proof.Machine
end

