-- ==== Sys2Proof/Machine/Memory.lean ====
section
/-! DEFINITION. Memory.lean: bytes of a storage in canonical form (addresses strictly rising, no zero entry, since an
unlisted address reads zero: the stacks are zeroed at bring-up, 14 R294), little-endian words over them (00 R7), and
lists as register files. -/

namespace Sys2Proof.Machine

open Sys2Proof

/-- Canonical form above a bound: strictly rising from it and no zero byte. -/
def Memory.wfFrom : Nat → Cells → Bool
  | _, [] => true
  | lo, (a, b) :: m => decide (lo ≤ a) && b != 0 && Memory.wfFrom (a + 1) m

/-- The canonical form. -/
def Memory.wf (m : Cells) : Bool := Memory.wfFrom 0 m

/-- One byte; an unlisted address reads zero. DESIGN CHOICE (log 35). -/
def Cells.get : Cells → Nat → Byte
  | [], _ => 0
  | (a, b) :: m, x => if x = a then b else if x < a then 0 else Cells.get m x

/-- Write one byte, keeping the canonical form. -/
def Cells.set : Cells → Nat → Byte → Cells
  | [], x, v => if v = 0 then [] else [(x, v)]
  | (a, b) :: m, x, v =>
    if x < a then (if v = 0 then (a, b) :: m else (x, v) :: (a, b) :: m)
    else if x = a then (if v = 0 then m else (x, v) :: m)
    else (a, b) :: Cells.set m x v

/-- Bytes `a` to `a + n - 1`. -/
def Cells.read (m : Cells) (a n : Nat) : List Byte := (List.range n).map (fun i => Cells.get m (a + i))

/-- Write bytes upward from `a`. -/
def Cells.write : Cells → Nat → List Byte → Cells
  | m, _, [] => m
  | m, a, b :: bs => Cells.write (Cells.set m a b) (a + 1) bs

/-- Little-endian value of a list of bytes (00 R7). -/
def leNat : List Byte → Nat
  | [] => 0
  | b :: bs => b.toNat + 256 * leNat bs

/-- The `n` little-endian bytes of a number. -/
def natLe : Nat → Nat → List Byte
  | 0, _ => []
  | n + 1, v => BitVec.ofNat 8 v :: natLe n (v / 256)

/-- Bits [hi:lo] of a number, `w` of them from bit `lo`. -/
def bitsOf (x lo w : Nat) : Nat := x / 2 ^ lo % 2 ^ w

/-- Entry `i` of a list used as a register file, `d` outside it. -/
def regGet {α : Type} (d : α) (l : List α) (i : Nat) : α := l.getD i d

/-- Replace entry `i`; a number outside the list changes nothing. -/
def regSet {α : Type} (l : List α) (i : Nat) (x : α) : List α := l.set i x

/-- Change entry `i` by `f`. -/
def regMod {α : Type} (l : List α) (i : Nat) (f : α → α) : List α :=
  match l[i]? with
  | none => l
  | some x => l.set i (f x)

/-- The first index whose entry satisfies `p`. -/
def findIdx? {α : Type} (p : α → Bool) (l : List α) : Option Nat :=
  (l.zipIdx.find? (fun x => p x.1)).map (fun x => x.2)

/-- Insert in ascending order of a key. -/
def insertBy {α : Type} (key : α → Nat) (x : α) : List α → List α
  | [] => [x]
  | y :: ys => if key x ≤ key y then x :: y :: ys else y :: insertBy key x ys

/-- Sort by ascending key; equal keys keep their order. -/
def sortBy {α : Type} (key : α → Nat) : List α → List α
  | [] => []
  | x :: xs => insertBy key x (sortBy key xs)

/-- `f` applied `n` times. -/
def iterate {α : Type} (f : α → α) : Nat → α → α
  | 0, x => x
  | n + 1, x => iterate f n (f x)

end Sys2Proof.Machine
end

