-- ==== Sys2Proof/WellFormed.lean ====
section
/-! DEFINITION. WellFormed.lean: which instructions have a word: the operand, TYPE, RND, SAT and register rules of the
entries (03 R54, R67, R69; 04 R84 to R92; 16 to 19) that do not depend on the state of the group. -/

namespace Sys2Proof

/-- GN 1 with GP 7 is no guard (R84). -/
def Guard.ok (g : Guard) : Bool := !(g.neg && g.pred == 7)

def IntTy.wide : IntTy → Bool
  | .i32 | .ui32 => false
  | .i64 | .ui64 => true

def IntTy.signed : IntTy → Bool
  | .i32 | .i64 => true
  | .ui32 | .ui64 => false

def RedTy.wide : RedTy → Bool
  | .int t => t.wide
  | .f32 => false

def CvtTy.wide : CvtTy → Bool
  | .int t => t.wide
  | .f64 => true
  | .f32 | .f16 | .bf16 => false

def AtomTy.wide : AtomTy → Bool
  | .i64 | .ui64 | .f64 => true
  | .i32 | .ui32 | .f32 | .bf16x2 | .f16x2 => false

def AtomTy.isInt : AtomTy → Bool
  | .i32 | .ui32 | .i64 | .ui64 => true
  | .f32 | .f64 | .bf16x2 | .f16x2 => false

/-- An even register number, as a pair's first register must have (R54). -/
def evenReg (r : BitVec 8) : Bool := !r.getLsbD 0

/-- A source operand of width one register or an even pair. -/
def Src.pairOk (wide : Bool) : Src → Bool
  | .v r => !wide || evenReg r
  | .s _ => true
  | .imm _ => true

def Src.isImm : Src → Bool
  | .imm _ => true
  | .v _ | .s _ => false

def Src.isV : Src → Bool
  | .v _ => true
  | .s _ | .imm _ => false

def Dst.isS : Dst → Bool
  | .s _ => true
  | .v _ => false

def Dst.pairOk (wide : Bool) : Dst → Bool
  | .v r => !wide || evenReg r
  | .s _ => true

/-- A source that may stand before the last one: a register, and a uniform one in a uniform form (R86, R103). -/
def regSrc (uni wide : Bool) (a : Src) : Bool :=
  !a.isImm && !(uni && a.isV) && a.pairOk wide

/-- A last source: a register or an immediate (R86). -/
def lastSrc (uni wide : Bool) (b : Src) : Bool :=
  !(uni && b.isV) && b.pairOk wide

/-- A vector register source that takes no K bit (form vA, R312). -/
def plainSrc (uni wide : Bool) (a : Src) : Bool :=
  regSrc uni wide a && (uni || a.isV)

/-- Two-source integer and logic operations (R313, R315, R351); `wideB` is false for a shift amount (R393). -/
def Bin.ok (o : Bin) (satOk : Bool) (tyOk : IntTy → Bool) (shift : Bool) : Bool :=
  o.g.ok && tyOk o.ty && (satOk || !o.sat) && o.d.pairOk o.ty.wide
    && regSrc o.d.isS o.ty.wide o.a && lastSrc o.d.isS (o.ty.wide && !shift) o.b

def Un.ok (o : Un) (satOk : Bool) (tyOk : IntTy → Bool) : Bool :=
  o.g.ok && tyOk o.ty && (satOk || !o.sat) && o.d.pairOk o.ty.wide && regSrc o.d.isS o.ty.wide o.a

def imadOk (o : Tern) : Bool :=
  o.g.ok && o.d.pairOk o.ty.wide && regSrc o.d.isS o.ty.wide o.a && regSrc o.d.isS o.ty.wide o.b
    && lastSrc o.d.isS o.ty.wide o.c

/-- BFX (R321): A is a vector register without KA, B a register, C a register or an immediate. DEDUCED (log 17). -/
def bfxOk (o : Tern) : Bool :=
  o.g.ok && !o.sat && o.d.pairOk o.ty.wide && plainSrc o.d.isS o.ty.wide o.a && regSrc o.d.isS false o.b
    && lastSrc o.d.isS false o.c

/-- BFI (R322): A and B are vector registers without K bits, C a register. DEDUCED (log 17). -/
def bfiOk (o : Tern) : Bool :=
  o.g.ok && !o.sat && o.d.pairOk o.ty.wide && plainSrc o.d.isS o.ty.wide o.a && plainSrc o.d.isS o.ty.wide o.b
    && regSrc o.d.isS false o.c

def LeaOp.ok (o : LeaOp) : Bool :=
  o.g.ok && o.d.pairOk o.ty.wide && regSrc o.d.isS o.ty.wide o.a && lastSrc o.d.isS o.ty.wide o.b

def IcmpOp.ok (o : IcmpOp) : Bool :=
  o.g.ok && regSrc o.uni o.ty.wide o.a && lastSrc o.uni o.ty.wide o.b

def SelOp.ok (o : SelOp) : Bool :=
  o.g.ok && o.d.pairOk o.ty.wide && regSrc o.d.isS o.ty.wide o.a && lastSrc o.d.isS o.ty.wide o.b
    && (!o.d.isS || o.c.uni)

def movOk : MovOp → Bool
  | .reg d a ty => d.pairOk ty.wide && regSrc d.isS ty.wide a
  | .toHandle _ _ => true
  | .fromHandle _ _ => true

/-- Predicate sources of PLOP: every one is uniform in the uniform form; SETM has a lane form only (R374). -/
def plopOk (uni : Bool) : PlopOp → Bool
  | .and a b | .or a b | .xor a b | .andn a b => !uni || (a.uni && b.uni)
  | .not a | .mov a => !uni || a.uni
  | .sel a b c => !uni || (a.uni && b.uni && c.uni)
  | .setm _ => !uni

def FTy.wide : FTy → Bool
  | .f64 => true
  | .f32 | .f16 | .bf16 | .f16x2 | .bf16x2 => false

/-- A floating-point source is a vector or a uniform register, never an immediate (R338). -/
def fSrc (wide : Bool) (a : Src) : Bool := regSrc false wide a

def FBin.ok (o : FBin) : Bool :=
  o.g.ok && (!o.ty.wide || evenReg o.d) && fSrc o.ty.wide o.a && fSrc o.ty.wide o.b

def FTern.ok (o : FTern) : Bool :=
  o.g.ok && (!o.ty.wide || evenReg o.d) && fSrc o.ty.wide o.a && fSrc o.ty.wide o.b && fSrc o.ty.wide o.c

def FMinMax.ok (o : FMinMax) : Bool :=
  o.g.ok && (!o.ty.wide || evenReg o.d) && fSrc o.ty.wide o.a && fSrc o.ty.wide o.b

/-- FCMP takes F32, F64, F16 and BF16 (R343). -/
def FcmpOp.ok (o : FcmpOp) : Bool :=
  o.g.ok && (o.ty != .f16x2 && o.ty != .bf16x2) && fSrc o.ty.wide o.a && fSrc o.ty.wide o.b

/-- FCLASS takes F32, F16 and BF16 (R342). -/
def FclassOp.ok (o : FclassOp) : Bool :=
  o.g.ok && (o.ty == .f32 || o.ty == .f16 || o.ty == .bf16) && fSrc false o.a

/-- FRCP, FRSQ and FSQRT take every mode, the others RN only (R115). -/
def SfuOp.ok (o : SfuOp) (modes : Bool) : Bool :=
  o.g.ok && (modes || o.rnd == .rn) && fSrc false o.a

def CvtTy.bits : CvtTy → Nat
  | .int .i32 | .int .ui32 | .f32 => 32
  | .int .i64 | .int .ui64 | .f64 => 64
  | .f16 | .bf16 => 16

def CvtTy.isInt : CvtTy → Bool
  | .int _ => true
  | .f32 | .f64 | .f16 | .bf16 => false

/-- A narrowing float pair of Table 5.5. -/
def cvtNarrowing (src dst : CvtTy) : Bool := !src.isInt && !dst.isInt && decide (dst.bits < src.bits)

/-- A widening float pair of Table 5.5. -/
def cvtWidening (src dst : CvtTy) : Bool := !src.isInt && !dst.isInt && decide (src.bits < dst.bits)

/-- The pairs of Table 5.5: every other pair is ILLEGAL (R335). -/
def cvtPair (src dst : CvtTy) : Bool :=
  (src.isInt && !dst.isInt) || (!src.isInt && dst.isInt) || cvtNarrowing src dst || cvtWidening src dst

def CvtOp.ok (o : CvtOp) : Bool :=
  o.g.ok && cvtPair o.src o.dst && (!o.sat || cvtNarrowing o.src o.dst) && (!o.dst.wide || evenReg o.d)
    && fSrc o.src.wide o.a

/-- KW of an element format code (Table 5.4): 0 K8, 1 K6, 2 K4, 3 wide. -/
def fmtKW (f : BitVec 8) : Nat := (f.extractLsb' 6 2).toNat

def CvtnOp.ok (o : CvtnOp) : Bool :=
  o.g.ok && (o.ty == .f32 || o.ty == .f16 || o.ty == .bf16) && (o.rnd == .rn || o.rnd == .rz)
    && fmtKW o.fmt != 3 && fSrc false o.a

def CvtwOp.ok (o : CvtwOp) : Bool :=
  o.g.ok && (o.ty == .f32 || o.ty == .bf16) && fmtKW o.fmt != 3 && fSrc false o.a

/-- PACK and UNPACK refuse K8 and wide codes (R371, R404). -/
def PackOp.ok (o : PackOp) : Bool := o.g.ok && (fmtKW o.fmt == 1 || fmtKW o.fmt == 2)

def QscaleOp.ok (o : QscaleOp) : Bool :=
  o.g.ok && fmtKW o.fmt != 3 && o.ty != .f64 && decide (1 ≤ o.n.toNat) && decide (o.n.toNat ≤ 32)

/-- BCAST: b is a uniform register or an immediate, of which bits [4:0] count (R320). -/
def BcastOp.ok (o : BcastOp) : Bool :=
  o.g.ok && !o.b.isV && (!o.ty.wide || (evenReg o.d && evenReg o.a))

/-- SHFL: w is 0, 1, 2, 4, 8, 16 or 32 (R392). -/
def ShflOp.ok (o : ShflOp) : Bool :=
  o.g.ok && [0, 1, 2, 4, 8, 16, 32].contains o.w.toNat && (!o.ty.wide || (evenReg o.d && evenReg o.a))

/-- TYPE, RND and SAT rules shared by REDUX, SCAN and SEGRED (R384, R389, R390). -/
def redRules (ty : RedTy) (op : RedOp) (rnd : Rnd) (sat : Bool) : Bool :=
  match ty with
  | .f32 => (op == .add || op == .min || op == .max) && (op == .add || rnd == .rn) && !sat
  | .int _ => rnd == .rn && (op == .add || !sat)

def ReduxOp.ok (o : ReduxOp) : Bool :=
  o.g.ok && redRules o.ty o.op o.rnd o.sat && (!o.ty.wide || evenReg o.a)

def ScanOp.ok (o : ScanOp) : Bool :=
  o.g.ok && redRules o.ty o.op o.rnd o.sat && (!o.ty.wide || (evenReg o.a && evenReg o.d))

def SegredOp.ok (o : SegredOp) : Bool :=
  o.g.ok && redRules o.ty o.op o.rnd o.sat && (!o.ty.wide || (evenReg o.a && evenReg o.d))

def ConflictOp.ok (o : ConflictOp) : Bool := o.g.ok && (!o.ty.wide || evenReg o.a)

/-- A load carries PLAIN, ACQ or SC; PLAIN has SCOPE zero (R88). -/
def loadOrd (ord : Ord) (scope : Scope) : Bool :=
  match ord with
  | .plain => scope == .group
  | .acq | .sc => true
  | .rel | .acqrel => false

/-- A store carries PLAIN, REL or SC; PLAIN has SCOPE zero (R88). -/
def storeOrd (ord : Ord) (scope : Scope) : Bool :=
  match ord with
  | .plain => scope == .group
  | .rel | .sc => true
  | .acq | .acqrel => false

def MemV.loadOk (o : MemV) (ptr : Bool) : Bool :=
  o.g.ok && loadOrd o.ord o.scope && (!ptr || evenReg o.x)

def MemV.storeOk (o : MemV) (ptr : Bool) : Bool :=
  o.g.ok && storeOrd o.ord o.scope && !o.sx && (!ptr || evenReg o.x)

def MemU.loadOk (o : MemU) : Bool := o.g.ok && loadOrd o.ord o.scope
def MemU.storeOk (o : MemU) : Bool := o.g.ok && storeOrd o.ord o.scope && !o.sx

def SpSize.bytes : SpSize → Nat
  | .b1 => 1 | .b2 => 2 | .b4 => 4 | .b8 => 8 | .b16 => 16

/-- LDS and STS (R355, R356): sizes of 8 and 16 bytes need an even register. -/
def MemS.evenOk (o : MemS) : Bool := decide (o.size.bytes < 8) || evenReg o.d

def MemS.loadOk (o : MemS) : Bool :=
  o.g.ok && loadOrd o.ord o.scope && o.evenOk && (!o.sx || decide (o.size.bytes < 4))

def MemS.storeOk (o : MemS) : Bool := o.g.ok && storeOrd o.ord o.scope && o.evenOk && !o.sx

def LdlinesOp.ok (o : LdlinesOp) : Bool := o.g.ok && loadOrd o.ord o.scope

/-- The type and operation pairs of Table 16.2. DESIGN CHOICE (log 44): F64 is a TYPE of ATOM and RED, as Tables 4.9 and 16.2 give
it, although 05 R110 does not list them among the instructions that accept F64; 90_conflicts.md does not name the point. -/
def atomPair (ty : AtomTy) (op : AtomOp) : Bool :=
  match op with
  | .add | .min | .max => true
  | .exch => ty.isInt || ty == .f32 || ty == .f64
  | .and | .or | .xor | .inc | .dec => ty.isInt

def atomOk (o : AtomInstr) : Bool :=
  o.g.ok && atomPair o.ty o.op && (!o.ty.wide || (evenReg o.d && evenReg o.v))

/-- RED: no EXCH, no destination, PLAIN, REL or SC (R383). -/
def redOk (o : AtomInstr) : Bool :=
  o.g.ok && atomPair o.ty o.op && o.op != .exch && o.d == 0 && (o.ord == .plain || o.ord == .rel || o.ord == .sc)
    && (!o.ty.wide || evenReg o.v)

def CasOp.ok (o : CasOp) : Bool := o.g.ok && (!o.ty.wide || (evenReg o.d && evenReg o.v))

/-- A displacement in bytes is a multiple of 8 (R90). -/
def dispOk (d : BitVec 32) : Bool := d.extractLsb' 0 3 == 0

def brxOk : BrxOp → Bool
  | .vec _ d => dispOk d
  | .uni _ d => dispOk d
  | .full _ => true

def callOk : CallOp → Bool
  | .direct d => dispOk d
  | .reg _ => true

/-- A uniform register pair has its first register at 126 or below (R92). -/
def pairReg (r : SReg) : Bool := decide (r.toNat ≤ 126)

def MOperand.ok : MOperand → Bool
  | .regs _ => true
  | .sp r => pairReg r

def MmaOp.ok (o : MmaOp) : Bool := o.g.ok && o.a.ok && o.b.ok && pairReg o.f
def MldOp.ok (o : MldOp) : Bool := o.g.ok && pairReg o.a && pairReg o.f
def MstOp.ok (o : MstOp) : Bool := o.g.ok && pairReg o.a && pairReg o.f

/-- Numbers of Table 3.2. -/
def specialReg (n : BitVec 8) : Bool := decide (n.toNat ≤ 0x0C) || (decide (0x10 ≤ n.toNat) && decide (n.toNat ≤ 0x1A))

/-- LANEID and LORIGIN, the two lane registers of Table 3.2. -/
def laneSpecial (n : BitVec 8) : Bool := n == 0x00 || n == 0x08

def srdOk : SrdOp → Bool
  | .uni _ r => specialReg r && !laneSpecial r
  | .vec _ r => laneSpecial r

/-- SWR: VIOLMASK, FFLAGS, TVEC and TPC (R399). -/
def swrOk (r : BitVec 8) : Bool := decide (0x10 ≤ r.toNat) && decide (r.toNat ≤ 0x13)

/-- LAUNCH: n at most 32, the payloads within s0 to s127, B zero without payloads (R354). -/
def launchOk (b : SReg) (n : BitVec 8) : Bool :=
  decide (n.toNat ≤ 32) && decide (b.toNat + n.toNat ≤ 128) && (n != 0 || b == 0)

/-- The instructions that have a word. An event has none. -/
def Instr.wf : Instr → Bool
  | .aget g d _ => g.ok && decide (d.toNat + 3 < 128)
  | .aoff g _ _ _ => g.ok
  | .aset g _ a => g.ok && decide (a.toNat + 3 < 128)
  | .and o | .or o | .xor o | .andn o => o.ok false (fun _ => true) false
  | .not o => o.ok false (fun _ => true)
  | .atom o => atomOk o
  | .bar g _ => g.ok
  | .bararr g _ _ => g.ok
  | .barwait g _ _ => g.ok
  | .bcast o => o.ok
  | .bfi o => bfiOk o
  | .bfx o => bfxOk o
  | .bkpt g _ => g.ok
  | .bra g d => g.ok && dispOk d
  | .brc g _ _ _ _ => g.ok
  | .breakl g => g.ok
  | .brev o | .clz o | .popc o => o.ok false (fun _ => true)
  | .brx g o => g.ok && brxOk o
  | .calget g _ _ => g.ok
  | .calset g _ _ => g.ok
  | .caltop g _ => g.ok
  | .call g o => g.ok && callOk o
  | .cas o => o.ok
  | .conflict o | .conflictAll o => o.ok
  | .cpa o => o.g.ok && evenReg o.d
  | .cpseal g => g.ok
  | .cpwait g _ => g.ok
  | .cvt o => o.ok
  | .cvtn o => o.ok
  | .cvtw o => o.ok
  | .exit g => g.ok
  | .fadd o | .fsub o | .fmul o => o.ok
  | .ffma o => o.ok
  | .fmin o | .fmax o => o.ok
  | .fclass o => o.ok
  | .fcmp o => o.ok
  | .frcp o | .frsq o | .fsqrt o => o.ok true
  | .fexp2 o | .flog2 o | .fsin o | .fcos o | .ftanh o => o.ok false
  | .fence g ord _ => g.ok && ord != .plain
  | .fenceEngRel g scope => g.ok && scope != .group
  | .fill o => o.g.ok
  | .fsopen g _ => g.ok
  | .fsclose g _ => g.ok
  | .fswait g _ => g.ok
  | .gshuf o => o.g.ok
  | .gtimer g _ => g.ok
  | .gtimerGet g _ => g.ok
  | .hwait g _ => g.ok
  | .htest g _ _ => g.ok
  | .hcancel g _ => g.ok
  | .iadd o | .isub o | .imul o => o.ok true (fun _ => true) false
  | .imulh o | .imin o | .imax o => o.ok false (fun _ => true) false
  | .imad o => imadOk o
  | .iabs o | .ineg o => o.ok true IntTy.signed
  | .icmp o => o.ok
  | .kick g _ _ n => g.ok && decide (1 ≤ n.toNat) && decide (n.toNat ≤ 16)
  | .launch g _ b n => g.ok && launchOk b n
  | .ld o => o.loadOk false
  | .ldu o => o.loadOk
  | .ldp o => o.loadOk true
  | .lds o => o.loadOk
  | .ldlines o => o.ok
  | .lea o => o.ok
  | .loop _ d => dispOk d
  | .loopEnd => true
  | .merid g _ => g.ok
  | .meridDev g _ => g.ok
  | .mld o => o.ok
  | .mma o | .mmaZ o => o.ok
  | .mov g o => g.ok && movOk o
  | .movi g _ _ => g.ok
  | .moviHi g _ _ => g.ok
  | .mst o | .mstSum o => o.ok
  | .nop g => g.ok
  | .pack o | .unpack o => o.ok
  | .park g => g.ok
  | .patload g _ _ => g.ok
  | .plop g uni _ o => g.ok && plopOk uni o
  | .post g _ _ => g.ok
  | .postq g _ _ _ => g.ok
  | .pref o => o.g.ok
  | .publish g _ scope => g.ok && scope != .group
  | .qscale o => o.ok
  | .reconv => true
  | .red o => redOk o
  | .redux o => o.ok
  | .regroup _ _ _ => true
  | .ret g => g.ok
  | .rte => true
  | .rteNext => true
  | .scan o => o.ok
  | .segred o => o.ok
  | .sel o => o.ok
  | .shfl o => o.ok
  | .shl o | .shr o => o.ok false (fun _ => true) true
  | .shra o => o.ok false IntTy.signed true
  | .spill o => o.g.ok
  | .srd g o => g.ok && srdOk o
  | .st o => o.storeOk false
  | .stu o => o.storeOk
  | .sts o => o.storeOk
  | .stp o => o.storeOk true
  | .swr g r _ => g.ok && swrOk r
  | .tagfind g _ _ => g.ok
  | .tagwaitAny g _ => g.ok
  | .tagwaitAll g _ => g.ok
  | .tbinit g _ _ => g.ok
  | .tbarrive g _ => g.ok
  | .tbarriveTx g _ _ => g.ok
  | .tbexpect g _ _ => g.ok
  | .tbwait g _ _ => g.ok
  | .tracemark g _ => g.ok
  | .trap g _ => g.ok
  | .vote g _ _ => g.ok
  | .widenTrap g _ _ _ => g.ok
  | .widenClamp g _ _ _ => g.ok
  | .yield => true
  | .clauseStart _ | .longLatencyCompletion _ _ | .loadCompletion _ _ | .matrixCompletion _ _ | .storeQueueDrain _
  | .messageArrival _ _ | .bankCycle _ _ | .gangRecordTake _ _ | .instancePlacement _ _ | .queueHeadStarvation _ _
  | .bindRecordDispatch _ | .issueAgeBoost _ | .instanceRetirement _ _ _ | .cpaCopyCompletion _ _ _
  | .recordStart _ _ _ _ | .recordCompletion _ _ _ _ | .recordFailure _ | .publishFlip _ _ | .timerExpiry _
  | .haltPropagation _ | .haltrel _ _ _ | .sliceEnd _ | .switchOut _ _ | .switchIn _ _ | .preemption _ _
  | .fqrespReplay _ _ | .fqrespFail _ _ | .xlinvCommand _ _ _ | .xlinvCompletion _ | .compressFrame _ _ _
  | .freeRecord _ _ _ | .tierCommandCompletion _ _ | .framePush _ _ _ | .tierRegionWrite _ _ _
  | .backgroundPull _ _ _ | .pageMoveStart _ _ _ | .pageMoveCompletion _ _ | .placementPolicyPass _
  | .pinCountHalving _ | .l2cfgWrite _ _ | .unpin _ | .mailboxWrite _ _ | .hostBar4Access _ _ _
  | .ringusFlitArrival _ _ _ | .drainRequestArrival _ _ | .drainMarkerArrival _ _ | .drainTimeout _ _
  | .resumeMarkerArrival _ _ | .meridianSync _ | .parkRequest _ _ | .parkCapture _ | .resumeRequest _ _
  | .contextCreate | .contextDestroy _ | .deviceReset | .functionReady _ | .attestationRequest | .clockStep _
  | .thermalLimit | .thermalShutdown | .freezeArm | .freeze | .debugStop _ _ | .debugResume _ _
  | .contextHalt _ _ | .traceSync _ _ | .elogClear _ | .eventCountRead _ _ _ | .topdownTotalRead _ _ _ _
  | .faultRingConfigWrite _ _ _ | .registerWrite _ _ | .linkPortDown _ | .resumeEnd _ _ | .contextCommandEnd
  | .attestationReportEnd | .debugStopPropagation _ | .flitRetry _ _ | .scrub _ => false

end Sys2Proof
end

