-- ==== Sys2Proof/Machine/Float.lean ====
section
/-! DEFINITION. Float.lean: floating point as exact dyadic numbers and one rounding (05 R108 to R116): a value is a NaN, an
infinity, or ± m * 2^e; an operation forms its exact result and rounds it once, with the flags of R113. -/

namespace Sys2Proof.Machine

open Sys2Proof

/-- Flags, in the order of FFLAGS.FLAGS (Table 3.3): [4] invalid, [3] divide-by-zero, [2] overflow, [1] underflow,
[0] inexact. -/
abbrev Flags := BitVec 5

def flInvalid : Flags := 16
def flDivZero : Flags := 8
def flOverflow : Flags := 4
def flUnderflow : Flags := 2
def flInexact : Flags := 1

/-- A binary format: exponent bits and trailing significand bits (R108). -/
structure BinFmt where
  ebits : Nat
  mbits : Nat
deriving DecidableEq, Repr

def fmtF16 : BinFmt := ⟨5, 10⟩
def fmtBF16 : BinFmt := ⟨8, 7⟩
def fmtF32 : BinFmt := ⟨8, 23⟩
def fmtF64 : BinFmt := ⟨11, 52⟩

def BinFmt.bias (f : BinFmt) : Nat := 2 ^ (f.ebits - 1) - 1
def BinFmt.width (f : BinFmt) : Nat := 1 + f.ebits + f.mbits
/-- Exponent of the least normal number. -/
def BinFmt.emin (f : BinFmt) : Int := 1 - (f.bias : Int)
/-- Exponent of the greatest finite number. -/
def BinFmt.emax (f : BinFmt) : Int := f.bias
def BinFmt.infBits (f : BinFmt) : Nat := (2 ^ f.ebits - 1) * 2 ^ f.mbits
def BinFmt.maxBits (f : BinFmt) : Nat := f.infBits - 1
def BinFmt.signBit (f : BinFmt) : Nat := 2 ^ (f.ebits + f.mbits)
/-- The canonical quiet NaN (Table 5.1). -/
def BinFmt.qnan (f : BinFmt) : Nat := f.infBits + 2 ^ (f.mbits - 1)

/-- A decoded number. -/
inductive Num where
  | nan (signalling : Bool)
  | inf (neg : Bool)
  /-- ± m * 2^e; m = 0 is a zero of that sign. -/
  | fin (neg : Bool) (m : Nat) (e : Int)
deriving DecidableEq, Repr

/-- The number a code stands for. -/
def BinFmt.decode (f : BinFmt) (bits : Nat) : Num :=
  let neg := bits / f.signBit % 2 = 1
  let ex := bits / 2 ^ f.mbits % 2 ^ f.ebits
  let t := bits % 2 ^ f.mbits
  if ex = 2 ^ f.ebits - 1 then (if t = 0 then .inf neg else .nan (t < 2 ^ (f.mbits - 1)))
  else if ex = 0 then .fin neg t (f.emin - f.mbits)
  else .fin neg (2 ^ f.mbits + t) ((ex : Int) - f.bias - f.mbits)

def Num.isNan : Num → Bool
  | .nan _ => true
  | .inf _ | .fin _ _ _ => false

def Num.isSnan : Num → Bool
  | .nan s => s
  | .inf _ | .fin _ _ _ => false

def Num.isZero : Num → Bool
  | .fin _ m _ => m == 0
  | .nan _ | .inf _ => false

def Num.neg : Num → Num
  | .nan s => .nan s
  | .inf n => .inf (!n)
  | .fin n m e => .fin (!n) m e

def Num.abs : Num → Num
  | .nan s => .nan s
  | .inf _ => .inf false
  | .fin _ m e => .fin false m e

/-- Number of bits of a positive number. -/
def bitLen (m : Nat) : Nat := if m = 0 then 0 else Nat.log2 m + 1

/-- Whether m / 2^shift rounds away from the truncated quotient (R109). -/
def roundsUp (r : Rnd) (neg : Bool) (q rem half : Nat) : Bool :=
  match r with
  | .rn => decide (half < rem) || (rem == half && q % 2 == 1)
  | .rz => false
  | .ru => !neg && rem != 0
  | .rd => neg && rem != 0

/-- m * 2^e as a multiple of 2^q, rounded, and whether it is exact. -/
def roundAt (r : Rnd) (neg : Bool) (m : Nat) (e q : Int) : Nat × Bool :=
  if q ≤ e then (m * 2 ^ (e - q).toNat, true)
  else
    let sh := (q - e).toNat
    let t := m / 2 ^ sh
    let rem := m % 2 ^ sh
    (if roundsUp r neg t (2 * rem) (2 ^ sh) then t + 1 else t, rem == 0)

/-- Rounding with `sat`, overflow gives the largest finite value (R122); otherwise by the mode. -/
def overflowBits (f : BinFmt) (r : Rnd) (neg sat : Bool) : Nat :=
  let toMax := sat || (match r with | .rn => false | .rz => true | .ru => neg | .rd => !neg)
  (if neg then f.signBit else 0) + (if toMax then f.maxBits else f.infBits)

/-- One rounding of ± m * 2^e to a format: bits and flags (R109, R113). A zero keeps the sign given. -/
def roundNum (f : BinFmt) (r : Rnd) (sat neg : Bool) (m : Nat) (e : Int) : Nat × Flags :=
  let s := if neg then f.signBit else 0
  if m = 0 then (s, 0)
  else
    let ex : Int := e + bitLen m - 1
    let q := max (ex - f.mbits) (f.emin - f.mbits)
    let (n, exact) := roundAt r neg m e q
    let big : Bool := decide (2 ^ (f.mbits + 1) ≤ n)
    let top : Int := if big then q + f.mbits + 1 else q + f.mbits
    if decide (2 ^ f.mbits ≤ n) && decide (f.emax < top) then (overflowBits f r neg sat, flOverflow ||| flInexact)
    else
      let carried : Bool := (roundAt r neg m e (ex - f.mbits)).1 == 2 ^ (f.mbits + 1)
      let tiny : Bool := decide (ex < f.emin) && !(ex == f.emin - 1 && carried)
      let fl : Flags := if exact then 0 else if tiny then flUnderflow ||| flInexact else flInexact
      let bits :=
        if n < 2 ^ f.mbits then n
        else if big then (top + f.bias).toNat * 2 ^ f.mbits + (n / 2 - 2 ^ f.mbits)
        else (top + f.bias).toNat * 2 ^ f.mbits + (n - 2 ^ f.mbits)
      (s + bits, fl)

/-- The code of a number that needs no rounding but may be a NaN or an infinity. -/
def BinFmt.special (f : BinFmt) : Num → Nat
  | .nan _ => f.qnan
  | .inf n => (if n then f.signBit else 0) + f.infBits
  | .fin n _ _ => if n then f.signBit else 0

/-- Round any number to a format; a NaN gives the canonical NaN, with invalid if signalling (R111). -/
def roundAny (f : BinFmt) (r : Rnd) (sat : Bool) (x : Num) : Nat × Flags :=
  match x with
  | .nan s => (f.qnan, if s then flInvalid else 0)
  | .inf n => (f.special (.inf n), 0)
  | .fin n m e => roundNum f r sat n m e

/-- ± m * 2^e as an integer multiple of 2^q, for q at most e. -/
def alignTo (neg : Bool) (m : Nat) (e q : Int) : Int :=
  let v : Int := (m : Int) * 2 ^ (e - q).toNat
  if neg then -v else v

/-- The sign of an exact zero sum (R109): the common sign of the addends if they agree, else − in RD only. -/
def zeroSign (r : Rnd) (allNeg allPos : Bool) : Bool := if allNeg then true else if allPos then false else r == .rd

/-- The exact sum of finite numbers as an integer multiple of 2^q. -/
def sumAt (q : Int) : List Num → Int
  | [] => 0
  | .fin n m e :: xs => alignTo n m e q + sumAt q xs
  | .nan _ :: xs => sumAt q xs
  | .inf _ :: xs => sumAt q xs

/-- The least exponent among finite numbers. -/
def minExp : List Num → Int
  | [] => 0
  | .fin _ _ e :: xs => min e (minExp xs)
  | .nan _ :: xs => minExp xs
  | .inf _ :: xs => minExp xs

/-- Every term is a zero or number of negative sign. -/
def allNegTerms : List Num → Bool
  | [] => true
  | .fin n _ _ :: xs => n && allNegTerms xs
  | .nan _ :: _ => false
  | .inf _ :: _ => false

def allPosTerms : List Num → Bool
  | [] => true
  | .fin n _ _ :: xs => !n && allPosTerms xs
  | .nan _ :: _ => false
  | .inf _ :: _ => false

/-- What a list of addends sums to before rounding: a NaN (with invalid or not), an infinity, or the exact sum (R116). -/
inductive Sum where
  | nan (invalid : Bool)
  | inf (neg : Bool)
  | exact (v : Int) (q : Int)
deriving DecidableEq, Repr

/-- The exact sum of addends (R116). DESIGN CHOICE (log 44): where infinities of both signs stand beside a quiet NaN, one sentence of
R116 gives an invalid operation and another no flag for a quiet NaN; the NaN decides and no flag is raised. -/
def exactSum (xs : List Num) : Sum :=
  let posInf := xs.any (fun x => x == .inf false)
  let negInf := xs.any (fun x => x == .inf true)
  let nan := xs.any Num.isNan
  let snan := xs.any Num.isSnan
  if nan then .nan snan
  else if posInf && negInf then .nan true
  else if posInf then .inf false
  else if negInf then .inf true
  else .exact (sumAt (minExp xs) xs) (minExp xs)

/-- Round an exact sum; `neg0` is the sign of an exact zero. -/
def roundSum (f : BinFmt) (r : Rnd) (sat neg0 : Bool) : Sum → Nat × Flags
  | .nan inv => (f.qnan, if inv then flInvalid else 0)
  | .inf n => (f.special (.inf n), 0)
  | .exact v q => if v = 0 then ((if neg0 then f.signBit else 0), 0) else roundNum f r sat (decide (v < 0)) v.natAbs q

/-- The round of the exact sum of addends with the zero rule of R109 (FADD, FSUB, R116). -/
def addNums (f : BinFmt) (r : Rnd) (xs : List Num) : Nat × Flags :=
  roundSum f r false (zeroSign r (!xs.isEmpty && allNegTerms xs) (!xs.isEmpty && allPosTerms xs)) (exactSum xs)

/-- The exact product; 0 * ∞ has no value and gives a signalling mark (invalid). -/
def mulNum (a b : Num) : Num :=
  match a, b with
  | .nan s, .nan t => .nan (s || t)
  | .nan s, .inf _ => .nan s
  | .nan s, .fin _ _ _ => .nan s
  | .inf _, .nan s => .nan s
  | .fin _ _ _, .nan s => .nan s
  | .inf x, .inf y => .inf (x != y)
  | .inf x, .fin y m _ => if m = 0 then .nan true else .inf (x != y)
  | .fin x m _, .inf y => if m = 0 then .nan true else .inf (x != y)
  | .fin x m e, .fin y n d => .fin (x != y) (m * n) (e + d)

/-- FMUL. -/
def mulNums (f : BinFmt) (r : Rnd) (a b : Num) : Nat × Flags := roundAny f r false (mulNum a b)

/-- FFMA: one rounding of a * b + c; 0 * ∞ raises invalid even when c is a quiet NaN (R341). -/
def fmaNums (f : BinFmt) (r : Rnd) (a b c : Num) : Nat × Flags :=
  match mulNum a b with
  | .nan s => (f.qnan, if s || c.isSnan then flInvalid else 0)
  | .inf n => addNums f r [.inf n, c]
  | .fin n m e => addNums f r [.fin n m e, c]

/-- Compare two numbers that are not NaN; −0 equals +0. -/
def numLt (a b : Num) : Bool :=
  match a, b with
  | .inf x, .inf y => x && !y
  | .inf x, .fin _ _ _ => x
  | .fin _ _ _, .inf y => !y
  | .fin x m e, .fin y n d =>
    let q := min e d
    decide (alignTo x m e q < alignTo y n d q)
  | .nan _, _ => false
  | .inf _, .nan _ => false
  | .fin _ _ _, .nan _ => false

def numEq (a b : Num) : Bool := !a.isNan && !b.isNan && !numLt a b && !numLt b a

def Num.isNeg : Num → Bool
  | .nan _ => false
  | .inf n => n
  | .fin n _ _ => n

/-- `a` is the smaller of two numbers, −0 below +0 (R112). -/
def numLe112 (a b : Num) : Bool := numLt a b || (numEq a b && (a.isNeg || !b.isNeg))

/-- FMIN and FMAX on codes (R112). -/
def minMaxNum (f : BinFmt) (isMax num : Bool) (x y : Nat) : Nat × Flags :=
  let a := f.decode x
  let b := f.decode y
  let fl : Flags := if a.isSnan || b.isSnan then flInvalid else 0
  if a.isNan && b.isNan then (f.qnan, fl)
  else if a.isNan then (if num then y else f.qnan, fl)
  else if b.isNan then (if num then x else f.qnan, fl)
  else if numLe112 a b == isMax then (y, fl) else (x, fl)

/-- FCLASS (Table 17.2). -/
def classOf (f : BinFmt) (bits : Nat) : Nat :=
  match f.decode bits with
  | .nan s => if s then 8 else 9
  | .inf n => if n then 0 else 7
  | .fin n m _ =>
    if m = 0 then (if n then 3 else 4)
    else if m < 2 ^ f.mbits then (if n then 2 else 5)
    else (if n then 1 else 6)

/-- FCMP (Table 17.3): the relation and the flags. -/
def fcmpNum (rel : FRel) (sig : Bool) (a b : Num) : Bool × Flags :=
  let un := a.isNan || b.isNan
  let fl : Flags := if a.isSnan || b.isSnan || (sig && un) then flInvalid else 0
  let v := match rel with
    | .eq => !un && numEq a b
    | .ne => un || !numEq a b
    | .lt => !un && numLt a b
    | .le => !un && !numLt b a
    | .gt => !un && numLt b a
    | .ge => !un && !numLt a b
    | .un => un
    | .ord => !un
  (v, fl)

/-- A float to an integer of bounds lo and hi (Table 5.5, R335). -/
def toIntNum (r : Rnd) (lo hi : Int) (x : Num) : Int × Flags :=
  match x with
  | .nan _ => (0, flInvalid)
  | .inf n => (if n then lo else hi, flInvalid)
  | .fin n m e =>
    let (t, exact) := roundAt r n m e 0
    let v : Int := if n then -(t : Int) else t
    if v < lo then (lo, flInvalid) else if hi < v then (hi, flInvalid) else (v, if exact then 0 else flInexact)

/-- An integer to a float. -/
def ofIntNum (f : BinFmt) (r : Rnd) (v : Int) : Nat × Flags := roundNum f r false (decide (v < 0)) v.natAbs 0

/-! ## The FP32 special functions (R115)

Each is evaluated so far beyond the precision of F32 that one rounding of the truncated value, with a sticky bit, is the
rounding of the function (DESIGN CHOICE, log 20). -/

/-- A truncated positive value m * 2^e, marked inexact by a sticky bit. -/
def sticky (exact : Bool) (m : Nat) (e : Int) : Nat × Int := if exact then (m, e) else (2 * m + 1, e - 1)

/-- Integer square root by bits, from bit `i` down. -/
def isqrtGo (n : Nat) : Nat → Nat → Nat
  | 0, r => r
  | i + 1, r => if (r + 2 ^ i) * (r + 2 ^ i) ≤ n then isqrtGo n i (r + 2 ^ i) else isqrtGo n i r

def isqrt (n : Nat) : Nat := isqrtGo n (bitLen n / 2 + 1) 0

/-- 1 / (m * 2^e). -/
def recip (m : Nat) (e : Int) : Nat × Int :=
  let k := bitLen m + 64
  sticky (2 ^ k % m == 0) (2 ^ k / m) (-(k : Int) - e)

/-- √(m * 2^e). -/
def sqrtOf (m : Nat) (e : Int) : Nat × Int :=
  let odd := e % 2 = 1
  let m' := if odd then 2 * m else m
  let e' := if odd then e - 1 else e
  let x := m' * 2 ^ 80
  let s := isqrt x
  sticky (s * s == x) s (e' / 2 - 40)

/-- 1 / √(m * 2^e). -/
def rsqrtOf (m : Nat) (e : Int) : Nat × Int :=
  let odd := e % 2 = 1
  let m' := if odd then 2 * m else m
  let e' := if odd then e - 1 else e
  let x := 2 ^ 128 / m'
  let s := isqrt x
  sticky (s * s * m' == 2 ^ 128) s (-(e' / 2) - 64)

/-- Fraction bits of the fixed-point evaluations. -/
def fxP : Nat := 480

/-- Σ over i from k of x^(2i+1) / ((2i+1) s^..): the series of atanh (sign + each time) or atan (alternating) at 1/d. -/
def invSeries (alt : Bool) (d : Nat) : Nat → Nat → Int → Int
  | 0, _, _ => 0
  | n + 1, i, pw =>
    let t := pw / (2 * (i : Int) + 1)
    (if alt && i % 2 == 1 then -t else t) + invSeries alt d n (i + 1) (pw / ((d : Int) * d))

/-- ln 2 = 2 atanh(1/3), in units of 2^−480. -/
def ln2Fx : Int := 2 * invSeries false 3 160 0 (2 ^ fxP / 3)

/-- π = 16 atan(1/5) − 4 atan(1/239). -/
def piFx : Int := 16 * invSeries true 5 110 0 (2 ^ fxP / 5) - 4 * invSeries true 239 40 0 (2 ^ fxP / 239)

/-- Product of fixed-point numbers. -/
def fxMul (a b : Int) : Int := a * b / 2 ^ fxP

/-- Σ x^i / i! with n terms left. -/
def expSeries (x : Int) : Nat → Nat → Int → Int
  | 0, _, _ => 0
  | n + 1, i, t => t + expSeries x n (i + 1) (fxMul t x / ((i : Int) + 1))

/-- e^x for 0 ≤ x < 1 in fixed point. -/
def expFx (x : Int) : Int := expSeries x 110 0 (2 ^ fxP)

/-- ± m * 2^e in fixed point, truncated toward −∞. -/
def toFx (neg : Bool) (m : Nat) (e : Int) : Int :=
  let v : Int := if 0 ≤ e + fxP then (m : Int) * 2 ^ (e + fxP).toNat else (m : Int) / 2 ^ (-(e + fxP)).toNat
  if neg then -v else v

/-- 2^x. -/
def exp2Of (neg : Bool) (m : Nat) (e : Int) : Nat × Int :=
  if 9 < e + bitLen m then (if neg then (1, -1000) else (1, 1000))
  else
    let x := toFx neg m e
    let n := x / 2 ^ fxP
    let f := x % 2 ^ fxP
    if f = 0 then (1, n) else sticky false (expFx (fxMul f ln2Fx)).toNat (n - fxP)

/-- Σ z^(2i+1) / (2i+1). -/
def atanhSeries (z2 : Int) : Nat → Nat → Int → Int
  | 0, _, _ => 0
  | n + 1, i, t => t / (2 * (i : Int) + 1) + atanhSeries z2 n (i + 1) (fxMul t z2)

/-- log2 of m * 2^e as sign, magnitude and exponent; exact at a power of two. -/
def log2Of (m : Nat) (e : Int) : Bool × Nat × Int :=
  let l := bitLen m - 1
  let n : Int := e + l
  if m = 2 ^ l then (decide (n < 0), n.natAbs, 0)
  else
    let y := toFx false m (-(l : Int))
    let z := (y - 2 ^ fxP) * 2 ^ fxP / (y + 2 ^ fxP)
    let ln := 2 * atanhSeries (fxMul z z) 160 0 z
    let v := n * 2 ^ fxP + ln * 2 ^ fxP / ln2Fx
    let r := sticky false v.natAbs (-(fxP : Int))
    (decide (v < 0), r.1, r.2)

/-- Σ (−1)^i x^(2i+s) / (2i+s)!: the series of sin (s = 1) and cos (s = 0). -/
def trigSeries (x2 : Int) (s : Nat) : Nat → Nat → Int → Int
  | 0, _, _ => 0
  | n + 1, i, t =>
    t + trigSeries x2 s n (i + 1) (-(fxMul t x2) / ((2 * (i : Int) + s + 1) * (2 * (i : Int) + s + 2)))

def sinFx (x : Int) : Int := trigSeries (fxMul x x) 1 60 0 x
def cosFx (x : Int) : Int := trigSeries (fxMul x x) 0 60 0 (2 ^ fxP)

/-- sin or cos of ± m * 2^e in radians, the argument reduced by multiples of π/2. -/
def trigOf (isCos neg : Bool) (m : Nat) (e : Int) : Bool × Nat × Int :=
  let x := toFx false m e
  let h := piFx / 2
  let q := x / h
  let r := x % h
  let oct := ((q + (if isCos then 1 else 0)) % 4).toNat
  let v := if oct = 0 then sinFx r else if oct = 1 then cosFx r else if oct = 2 then -(sinFx r) else -(cosFx r)
  let w := if neg && !isCos then -v else v
  let t := sticky false w.natAbs (-(fxP : Int))
  (decide (w < 0), t.1, t.2)

/-- tanh of m * 2^e, positive. -/
def tanhOf (m : Nat) (e : Int) : Nat × Int :=
  if 6 < e + bitLen m then (2 ^ 64 - 1, -64)
  else
    let y := 2 * toFx false m e
    let n := y / ln2Fx
    let ex := expFx (y % ln2Fx) * 2 ^ n.toNat
    sticky false (((ex - 2 ^ fxP) * 2 ^ fxP) / (ex + 2 ^ fxP)).toNat (-(fxP : Int))

/-- The functions of major 0x58. -/
inductive SfuFn where | rcp | rsq | sqrt | exp2 | log2 | sin | cos | tanh
deriving DecidableEq, Repr

/-- One special function of an F32 code: bits and flags (R115, Table 5.2). DESIGN CHOICE (log 20). -/
def sfu (fn : SfuFn) (r : Rnd) (bits : Nat) : Nat × Flags :=
  let f := fmtF32
  let x := f.decode bits
  match x with
  | .nan s => (f.qnan, if s then flInvalid else 0)
  | .inf n =>
    match fn with
    | .rcp => (f.special (.fin n 0 0), 0)
    | .rsq => if n then (f.qnan, flInvalid) else (0, 0)
    | .sqrt => if n then (f.qnan, flInvalid) else (f.infBits, 0)
    | .exp2 => if n then (0, 0) else (f.infBits, 0)
    | .log2 => if n then (f.qnan, flInvalid) else (f.infBits, 0)
    | .sin => (f.qnan, flInvalid)
    | .cos => (f.qnan, flInvalid)
    | .tanh => roundNum f .rn false n 1 0
  | .fin n m e =>
    if m = 0 then
      match fn with
      | .rcp => (f.special (.inf n), flDivZero)
      | .rsq => (f.special (.inf n), flDivZero)
      | .sqrt => (f.special (.fin n 0 0), 0)
      | .exp2 => roundNum f .rn false false 1 0
      | .log2 => (f.special (.inf true), flDivZero)
      | .sin => (f.special (.fin n 0 0), 0)
      | .cos => roundNum f .rn false false 1 0
      | .tanh => (f.special (.fin n 0 0), 0)
    else
      match fn with
      | .rcp => let t := recip m e; roundNum f r false n t.1 t.2
      | .rsq => if n then (f.qnan, flInvalid) else let t := rsqrtOf m e; roundNum f r false false t.1 t.2
      | .sqrt => if n then (f.qnan, flInvalid) else let t := sqrtOf m e; roundNum f r false false t.1 t.2
      | .exp2 => let t := exp2Of n m e; roundNum f r false false t.1 t.2
      | .log2 => if n then (f.qnan, flInvalid) else let t := log2Of m e; roundNum f r false t.1 t.2.1 t.2.2
      | .sin => let t := trigOf false n m e; roundNum f r false t.1 t.2.1 t.2.2
      | .cos => let t := trigOf true n m e; roundNum f r false t.1 t.2.1 t.2.2
      | .tanh => let t := tanhOf m e; roundNum f r false n t.1 t.2

end Sys2Proof.Machine
end

