-- ==== Sys2Proof/Machine/GroupOps.lean ====
section
/-! DEFINITION. GroupOps.lean: named reads and writes of a group's registers, predicates and splits (03 R53, R54), the
program counter of Table 4.1, stacks (02 R38), and the values an instruction sees inside lookahead windows (04 R97). -/

namespace Sys2Proof.Machine

open Sys2Proof

/-! ## Registers -/

def zeroLanes : Lanes := List.replicate 32 0

/-- The lanes of vector register `r`; a number beyond the budget reads zero and is never named (R54). -/
def Group.vec (g : Group) (r : Nat) : Lanes := regGet zeroLanes g.vregs r

/-- vr in lane `j`. -/
def Group.v (g : Group) (r j : Nat) : Word := regGet 0 (g.vec r) j

/-- The 64-bit value of the pair vr, vr+1 in lane `j`, low word in vr (R54). -/
def Group.vPair (g : Group) (r j : Nat) : DWord := g.v (r + 1) j ++ g.v r j

/-- Lanes of `old` replaced by `new` under a mask. -/
def mergeLanes (m : Mask) (old new : Lanes) : Lanes :=
  laneIds.map (fun j => if Mask.has m j then regGet 0 new j else regGet 0 old j)

/-- Write the lanes of `m` of vector register `r`; other lanes keep their values. -/
def Group.setVec (g : Group) (r : Nat) (m : Mask) (vals : Lanes) : Group :=
  { g with vregs := regSet g.vregs r (mergeLanes m (g.vec r) vals) }

def Group.s (g : Group) (r : Nat) : DWord := regGet 0 g.sregs r
def Group.setS (g : Group) (r : Nat) (x : DWord) : Group := { g with sregs := regSet g.sregs r x }

/-- A lane predicate; p7 reads true in every lane (R54). -/
def Group.p (g : Group) (r : Nat) : Mask := if r = 7 then Mask.full else regGet 0 g.pregs r

/-- Write the lanes of `m` of predicate `r`; a write to p7 is discarded. -/
def Group.setP (g : Group) (r : Nat) (m vals : Mask) : Group :=
  if r = 7 then g
  else { g with pregs := regSet g.pregs r ((g.p r &&& ~~~m) ||| (vals &&& m)) }

/-- A uniform predicate; q7 reads true (R54). -/
def Group.q (g : Group) (r : Nat) : Bool := if r = 7 then true else regGet false g.qregs r

def Group.setQ (g : Group) (r : Nat) (x : Bool) : Group :=
  if r = 7 then g else { g with qregs := regSet g.qregs r x }

def Group.a (g : Group) (r : Nat) : BitVec 256 := regGet 0 g.aregs r
def Group.setA (g : Group) (r : Nat) (x : BitVec 256) : Group := { g with aregs := regSet g.aregs r x }
def Group.h (g : Group) (r : Nat) : DWord := regGet 0 g.hregs r
def Group.setH (g : Group) (r : Nat) (x : DWord) : Group := { g with hregs := regSet g.hregs r x }

/-- The group has written bytes of its scratchpad, which an MMA of its that still reads does not see (R134). -/
def Group.wrote (g : Group) (offs : List Nat) : Group :=
  { g with inflight := g.inflight.map (fun p => { p with job := p.job.map (fun j => { j with own := j.own ++ offs.map (fun o => o / 16) }) }) }

/-! ## Stacks, loop levels and splits -/

def Stack.empty : Stack := ⟨[], 0, 0, 0⟩
def LoopLevel.closed : LoopLevel := ⟨0, 0, 0⟩

/-- A free split-table entry. -/
def Split.freeEntry : Split where
  st := .free
  pc := 0
  mask := 0
  ret := Stack.empty
  div := Stack.empty
  loops := List.replicate 4 LoopLevel.closed
  ovr := []
  back := 0
  clause := none
  age := none
  yielded := false
  boosted := false
  exempt := false
  replay := false
  refill := false
  haltTick := 0
  skidCyc := 0
  skidIns := 0
  skid := none
  dskid := none
  dstopped := false
  since := none
  held := none

def Group.split (g : Group) (k : Nat) : Split := regGet Split.freeEntry g.splits k
def Group.setSplit (g : Group) (k : Nat) (sp : Split) : Group := { g with splits := regSet g.splits k sp }
def Group.modSplit (g : Group) (k : Nat) (f : Split → Split) : Group := g.setSplit k (f (g.split k))

/-- A split-table entry in use. -/
def Split.inUse (sp : Split) : Bool := sp.st != .free

/-- The entries in use, by number. -/
def Group.usedSplits (g : Group) : List Nat := (List.range 4).filter (fun k => (g.split k).inUse)

/-- S is the group's only split (R58). -/
def Group.onlySplit (g : Group) (k : Nat) : Bool := g.usedSplits.all (fun j => j == k)

/-- S.active under a lane guard: the lanes of the mask whose guard passes (R84). -/
def Group.active (g : Group) (k : Nat) (gd : Guard) : Mask :=
  let p := g.p gd.pred.toNat
  (g.split k).mask &&& (if gd.neg then ~~~p else p)

/-- A uniform guard passes (R84). -/
def Group.passes (g : Group) (gd : Guard) : Bool := (g.q gd.pred.toNat) != gd.neg

/-! ## Program counters (Table 4.1) -/

def pcPath (pc : DWord) : Nat := (pc.extractLsb' 60 4).toNat
def pcPos (pc : DWord) : Nat := (pc.extractLsb' 56 4).toNat
/-- The header address: path bits and bits [55:3]. -/
def pcHdr (pc : DWord) : DWord := pc &&& 0xF0FFFFFFFFFFFFF8
def mkPc (hdr : DWord) (pos : Nat) : DWord := hdr ||| (BitVec.ofNat 64 pos <<< 56)
/-- Address of the word at a PC: H + 8 (p + 1) (R76). -/
def pcWord (pc : DWord) : DWord := pcHdr pc + BitVec.ofNat 64 (8 * (pcPos pc + 1))
/-- The header that follows a clause: H + 8 (COUNT + 2) (R330). -/
def nextHdr (hdr : DWord) (count : Nat) : DWord := hdr + BitVec.ofNat 64 (8 * (count + 2))

/-- A program counter with POS zero. -/
def atPosZero (pc : DWord) : DWord := pc &&& ~~~((0xF : DWord) <<< 56)

/-- The COUNT of the clause a split is in. -/
def Split.count (sp : Split) : Nat := match sp.clause with | some c => c.count | none => 0

/-- The header after the split's clause. -/
def Split.nextHdr (sp : Split) : DWord := Machine.nextHdr (pcHdr sp.pc) sp.count

/-! ## What an instruction sees (R97) -/

/-- Lookahead windows of split `k` that are still open. -/
def Group.openOf (g : Group) (k : Nat) : List Pending :=
  g.inflight.filter (fun p => p.split == k && p.window.isSome)

/-- A vector result as it is read inside its window: each register and each lane on its own is old or new (R97). That the registers of a pair or
block draw apart in one lane, which R97 leaves open, is DESIGN CHOICE (log 53). -/
def seeVec (draw : Nat) (g : Group) (d : VecDest) : Group :=
  g.setVec d.reg (Mask.ofFn (fun j => Mask.has d.mask j && Config.windowNew draw d.reg j)) d.vals

def seeUni (draw : Nat) (g : Group) : UniDest → Group
  | .s r x => if Config.windowNew draw (256 + r) 32 then g.setS r x else g
  | .q r x => if Config.windowNew draw (512 + r) 32 then g.setQ r x else g

/-- The group as an instruction of split `k` reads it: each result of an open instruction is, lane by lane, its old or its
new value, by a free draw (R97). With no open window it is the group itself. -/
def Group.seen (g : Group) (k draw : Nat) : Group :=
  (g.openOf k).foldl (fun acc p => p.unis.foldl (seeUni draw) (p.vecs.foldl (seeVec draw) acc)) g

end Sys2Proof.Machine
end

