-- ==== Sys2Proof/Machine/Calipers.lean ====
section
/-! DEFINITION. Calipers.lean: views, the writing rule R58, the two steps of R60, propagation (03 R64, Table 3.4) and
refinement by BRC (R65, R66). -/

namespace Sys2Proof.Machine

open Sys2Proof

def minI32 : Int := -(2 ^ 31)
def maxI32 : Int := 2 ^ 31 - 1

/-- An interval whose bounds fit, else unknown (R64). -/
def fitCal (lo hi : Int) : Caliper :=
  if minI32 ≤ lo ∧ hi ≤ maxI32 ∧ lo ≤ hi then some ⟨lo, hi⟩ else none

/-- The exact interval of one value. -/
def exactCal (x : Int) : Caliper := some ⟨x, x⟩

def clampI32 (x : Int) : Int := min (max x minI32) maxI32

/-- The hull of two calipers; unknown with unknown (R58). -/
def hull : Caliper → Caliper → Caliper
  | some a, some b => some ⟨min a.lo b.lo, max a.hi b.hi⟩
  | none, _ => none
  | some _, none => none

/-- The override of `r` in a split, if it holds one. -/
def Split.override? (sp : Split) (r : Nat) : Option Caliper :=
  (sp.ovr.find? (fun o => o.reg == r)).map (fun o => o.cal)

/-- The group caliper of vr. -/
def Group.cal (g : Group) (r : Nat) : Caliper := regGet none g.cals r

/-- The view of vr in split `k` (R57). -/
def Group.view (g : Group) (k r : Nat) : Caliper := ((g.split k).override? r).getD (g.cal r)

/-- Write an override entry as the newest, evicting the least recently written of 8 (R58). -/
def Split.setOverride (sp : Split) (r : Nat) (c : Caliper) : Split :=
  let rest := sp.ovr.filter (fun o => o.reg != r)
  { sp with ovr := (if rest.length < 8 then rest else rest.drop 1) ++ [⟨r, c⟩] }

def Split.dropOverride (sp : Split) (r : Nat) : Split := { sp with ovr := sp.ovr.filter (fun o => o.reg != r) }

/-- `a` holds every lane of `b`. -/
def maskCovers (a b : Mask) : Bool := (b &&& ~~~a) == 0

/-- R58: split `k` writes vr in the lanes of `m` with the interval `c`. -/
def Group.calWrite (g : Group) (k r : Nat) (m : Mask) (c : Caliper) : Group :=
  if m = 0 then g
  else
    let gc := if g.onlySplit k && maskCovers m g.ctl.live then c else hull (g.cal r) c
    let oc := if maskCovers m (g.split k).mask then c else hull (g.view k r) c
    { g with cals := regSet g.cals r gc }.modSplit k (fun sp => sp.setOverride r oc)

/-- R60, second step: the final interval at completion, for the lanes written, in every split that holds some of them.
DESIGN CHOICE (log 42): where the issuing split has diverged or merged since issue, R60 does not say which splits' overrides take
the final interval; every used split that holds a written lane does. -/
def Group.calFinal (g : Group) (r : Nat) (m : Mask) (c : Caliper) : Group :=
  if m = 0 then g
  else
    let used := g.usedSplits
    let gc := if decide (used.length ≤ 1) && maskCovers m g.ctl.live then c else hull (g.cal r) c
    used.foldl (fun acc k =>
        if (g.split k).mask &&& m = 0 then acc
        else acc.modSplit k (fun sp =>
          sp.setOverride r (if maskCovers m (g.split k).mask then c else hull (g.view k r) c)))
      { g with cals := regSet g.cals r gc }

/-- The group caliper becomes `c` and every override of vr is dropped (R61, R67 CALTOP and CALSET, R360). -/
def Group.calReset (g : Group) (r : Nat) (c : Caliper) : Group :=
  { g with cals := regSet g.cals r c, splits := g.splits.map (fun sp => sp.dropOverride r) }

/-- Write a vector register in the lanes of `m` together with its caliper (R58, R107). -/
def Group.writeVec (g : Group) (k r : Nat) (m : Mask) (vals : Lanes) (c : Caliper) : Group :=
  (g.setVec r m vals).calWrite k r m c

/-- Write a pair; every 64-bit result is unknown in both registers (R58). -/
def Group.writePair (g : Group) (k r : Nat) (m : Mask) (vals : List DWord) : Group :=
  let lo : Lanes := vals.map (fun x => x.extractLsb' 0 32)
  let hi : Lanes := vals.map (fun x => x.extractLsb' 32 32)
  (g.writeVec k r m lo none).writeVec k (r + 1) m hi none

/-! ## Propagation (Table 3.4) -/

/-- Integer instructions that have a row of Table 3.4. -/
inductive CalRow where | add | sub | mul | min | max | and
deriving DecidableEq, Repr

/-- Bounds of a row before the fit test; `none` where the row gives unknown. -/
def rowBounds : CalRow → Interval → Interval → Option (Int × Int)
  | .add, a, b => some (a.lo + b.lo, a.hi + b.hi)
  | .sub, a, b => some (a.lo - b.hi, a.hi - b.lo)
  | .mul, a, b =>
    let p := a.lo * b.lo
    let q := a.lo * b.hi
    let r := a.hi * b.lo
    let t := a.hi * b.hi
    some (min (min p q) (min r t), max (max p q) (max r t))
  | .min, a, b => some (min a.lo b.lo, min a.hi b.hi)
  | .max, a, b => some (max a.lo b.lo, max a.hi b.hi)
  | .and, _, _ => none

/-- The fit test, or with SAT on I32 the clamped bounds (R64); UI32 with SAT is unknown. -/
def satFit (ty : IntTy) (sat : Bool) (lo hi : Int) : Caliper :=
  match ty, sat with
  | .i32, false => fitCal lo hi
  | .ui32, false => fitCal lo hi
  | .i32, true => fitCal (clampI32 lo) (clampI32 hi)
  | .ui32, true => none
  | .i64, _ => none
  | .ui64, _ => none

/-- AND: one source with lo ≥ 0, or both. -/
def andRow : Caliper → Caliper → Caliper
  | some a, some b =>
    if 0 ≤ a.lo ∧ 0 ≤ b.lo then some ⟨0, min a.hi b.hi⟩
    else if 0 ≤ a.lo then some ⟨0, a.hi⟩
    else if 0 ≤ b.lo then some ⟨0, b.hi⟩
    else none
  | some a, none => if 0 ≤ a.lo then some ⟨0, a.hi⟩ else none
  | none, some b => if 0 ≤ b.lo then some ⟨0, b.hi⟩ else none
  | none, none => none

/-- Two-source rows. -/
def propBin (row : CalRow) (ty : IntTy) (sat : Bool) (a b : Caliper) : Caliper :=
  if ty.wide then none
  else match row with
    | .and => andRow a b
    | .add | .sub | .mul | .min | .max =>
      match a, b with
      | some x, some y =>
        if (row == .min || row == .max) && ty == .ui32 && (decide (x.lo < 0) || decide (y.lo < 0)) then none
        else match rowBounds row x y with
          | some (lo, hi) => satFit ty sat lo hi
          | none => none
      | some _, none => none
      | none, some _ => none
      | none, none => none

/-- IABS row (R64). -/
def propAbs (ty : IntTy) (sat : Bool) (a : Caliper) : Caliper :=
  if ty.wide then none
  else match a with
    | none => none
    | some x =>
      let r : Int × Int := if 0 ≤ x.lo then (x.lo, x.hi) else if x.hi ≤ 0 then (-x.hi, -x.lo) else (0, max (-x.lo) x.hi)
      satFit ty sat r.1 r.2

/-- SHL, SHR and SHRA by a uniform or immediate amount (R64, R393). -/
inductive ShiftOp where | shl | shr | shra
deriving DecidableEq, Repr

def propShift (op : ShiftOp) (ty : IntTy) (a : Caliper) (k : Nat) : Caliper :=
  if ty.wide then none
  else match op with
    | .shl => if 32 ≤ k then some ⟨0, 0⟩
              else match a with
                | some x => fitCal (x.lo * 2 ^ k) (x.hi * 2 ^ k)
                | none => none
    | .shra => match a with
               | some x => some ⟨x.lo >>> min k 32, x.hi >>> min k 32⟩
               | none => none
    | .shr => match a with
              | some x => if 0 ≤ x.lo then some ⟨x.lo >>> min k 32, x.hi >>> min k 32⟩ else none
              | none => none

/-- LEA row. -/
def propLea (ty : IntTy) (sat : Bool) (a b : Caliper) (k : Nat) : Caliper :=
  if ty.wide then none
  else match a, b with
    | some x, some y => satFit ty sat (x.lo + y.lo * 2 ^ k) (x.hi + y.hi * 2 ^ k)
    | some _, none => none
    | none, some _ => none
    | none, none => none

/-! ## Refinement by BRC (R65, R66) -/

/-- The condition with its operands exchanged. -/
def mirror : Cond → Cond
  | .eq => .eq | .ne => .ne | .lt => .gt | .le => .ge | .gt => .lt | .ge => .le
  | .ltu => .gtu | .leu => .geu | .gtu => .ltu | .geu => .leu

/-- The signed twin of a condition, and whether it was unsigned. -/
def signedTwin : Cond → Cond × Bool
  | .ltu => (.lt, true) | .leu => (.le, true) | .gtu => (.gt, true) | .geu => (.ge, true)
  | .eq => (.eq, false) | .ne => (.ne, false) | .lt => (.lt, false) | .le => (.le, false)
  | .gt => (.gt, false) | .ge => (.ge, false)

/-- The EQ column's other path of Table 3.5. -/
def refineNe (a b : Interval) : Interval :=
  if b.lo = b.hi ∧ b.lo = a.lo then ⟨a.lo + 1, a.hi⟩
  else if b.lo = b.hi ∧ b.lo = a.hi then ⟨a.lo, a.hi - 1⟩
  else a

/-- Table 3.5. -/
def refineSigned (c : Cond) (taken : Bool) (a b : Interval) : Interval :=
  match c, taken with
  | .lt, true | .ge, false => ⟨a.lo, min a.hi (b.hi - 1)⟩
  | .lt, false | .ge, true => ⟨max a.lo b.lo, a.hi⟩
  | .le, true | .gt, false => ⟨a.lo, min a.hi b.hi⟩
  | .le, false | .gt, true => ⟨max a.lo (b.lo + 1), a.hi⟩
  | .eq, true | .ne, false => ⟨max a.lo b.lo, min a.hi b.hi⟩
  | .eq, false | .ne, true => refineNe a b
  | .ltu, _ | .leu, _ | .gtu, _ | .geu, _ => a

/-- The refined interval of `a`; none where nothing is refined (a view unknown, an unsigned condition with a negative
bound) or where the interval would be empty, so that the path has no live lane. -/
def refineCal (c : Cond) (taken : Bool) (a b : Caliper) : Caliper :=
  match a, b with
  | some x, some y =>
    let t := signedTwin c
    if t.2 && (decide (x.lo < 0) || decide (y.lo < 0)) then none
    else
      let r := refineSigned t.1 taken x y
      if r.lo ≤ r.hi then some r else none
  | some _, none => none
  | none, some _ => none
  | none, none => none

/-- Where a refinement is stored (R66). -/
inductive RefineAt where | groupCal | override
deriving DecidableEq, Repr

def Group.refine (g : Group) (k r : Nat) (place : RefineAt) (c : Caliper) : Group :=
  match c with
  | none => g
  | some _ =>
    match place with
    | .groupCal => { g with cals := regSet g.cals r c }
    | .override => g.modSplit k (fun sp => sp.setOverride r c)

end Sys2Proof.Machine
end

