-- ==== Sys2Proof/Machine/Operands.lean ====
section
/-! DEFINITION. Operands.lean: the operand forms of formats V and S (04 R86, 16 R313, 17 R338) with their views, and the
checks of the last step of R85 that depend on the role's budget (03 R54). -/

namespace Sys2Proof

open Machine

/-- A source of 32 bits in lane `j`: a vector lane, bits [31:0] of a uniform register, or the immediate (R54, R86). -/
def Src.word (g : Group) (j : Nat) : Src → Word
  | .v r => g.v r.toNat j
  | .s r => (g.s r.toNat).extractLsb' 0 32
  | .imm i => i.signExtend 32

/-- A source of 64 bits in lane `j`: a pair, a whole uniform register, or the immediate. -/
def Src.dword (g : Group) (j : Nat) : Src → DWord
  | .v r => g.vPair r.toNat j
  | .s r => g.s r.toNat
  | .imm i => i.signExtend 64

/-- A source as a number of `ty`: signed types as signed, unsigned ones as unsigned (R351). -/
def Src.num (g : Group) (ty : IntTy) (j : Nat) (a : Src) : Int :=
  match ty with
  | .i32 => (a.word g j).toInt
  | .ui32 => (a.word g j).toNat
  | .i64 => (a.dword g j).toInt
  | .ui64 => (a.dword g j).toNat

/-- The bits of a source as a number of the operation's width, unsigned. -/
def Src.bits (g : Group) (ty : IntTy) (j : Nat) (a : Src) : Nat :=
  if ty.wide then (a.dword g j).toNat else (a.word g j).toNat

/-- The view of a 32-bit source: a vector register's view, the exact value of a uniform register or an immediate (R64). -/
def Src.cal (g : Group) (k : Nat) : Src → Caliper
  | .v r => g.view k r.toNat
  | .s r => exactCal ((g.s r.toNat).extractLsb' 0 32).toInt
  | .imm i => exactCal i.toInt

/-- The value of a uniform or immediate amount, the same in every lane. -/
def Src.isUniform : Src → Bool
  | .v _ => false
  | .s _ | .imm _ => true

/-- Bits of a type. -/
def IntTy.bits (ty : IntTy) : Nat := if ty.wide then 64 else 32

/-- The least and greatest number of a type. -/
def IntTy.least (ty : IntTy) : Int := if ty.signed then -(2 ^ (ty.bits - 1) : Int) else 0
def IntTy.greatest (ty : IntTy) : Int := if ty.signed then (2 ^ (ty.bits - 1) : Int) - 1 else 2 ^ ty.bits - 1

/-- SAT ? sat(x, TYPE) : wrap(x, N) (R351). -/
def intResult (ty : IntTy) (sat : Bool) (x : Int) : DWord :=
  BitVec.ofInt 64 (if sat then min (max x ty.least) ty.greatest else x)

/-- The value a uniform form writes: 32-bit results extended by the type (R313). -/
def uniExtend (ty : IntTy) (x : DWord) : DWord :=
  match ty with
  | .i32 => (x.extractLsb' 0 32).signExtend 64
  | .ui32 => (x.extractLsb' 0 32).setWidth 64
  | .i64 => x
  | .ui64 => x

/-- Per-lane values from a function of the lane. -/
def perLane (f : Nat → Word) : Lanes := laneIds.map f

/-- Write an integer result: a vector register or pair in the active lanes with its caliper, or a uniform register under
its guard (R58, R313). `val` gives the result in lane `j` (lane 0 for a uniform form). -/
def Machine.Group.intWrite (g : Group) (k : Nat) (d : Dst) (ty : IntTy) (val : Nat → DWord) (c : Caliper)
    (m : Mask) (pass : Bool) : Group :=
  match d with
  | .v r =>
    if ty.wide then g.writePair k r.toNat m (laneIds.map val)
    else g.writeVec k r.toNat m (perLane (fun j => (val j).extractLsb' 0 32)) c
  | .s r => if pass then g.setS r.toNat (uniExtend ty (val 0)) else g

/-! ## Register blocks and the budget -/

def regBlk (r : VReg) (n : Nat) : List (Nat × Nat) := [(r.toNat, n)]
def both (a b : List (Nat × Nat)) : List (Nat × Nat) := a ++ b

/-- The vector registers of a source, of a destination. -/
def Src.blk (wide : Bool) : Src → List (Nat × Nat)
  | .v r => regBlk r (if wide then 2 else 1)
  | .s _ => []
  | .imm _ => []

def Dst.blk (wide : Bool) : Dst → List (Nat × Nat)
  | .v r => regBlk r (if wide then 2 else 1)
  | .s _ => []

/-- Registers at A and at D of PACK (Table 18.5); UNPACK exchanges them. -/
def packRegs (fmt : BitVec 8) : Nat × Nat := if fmtKW fmt = 1 then (4, 3) else (2, 1)

/-- Registers of an N-element scratchpad access (R356). -/
def spRegs (size : SpSize) : Nat := if size.bytes ≤ 4 then 1 else size.bytes / 4

def NElem.count : NElem → Nat
  | .one => 1 | .two => 2 | .four => 4

/-- Registers of a matrix operand: 8 for F32 exactly, 16 for every other code (R92). -/
def operandRegs (fmt : BitVec 8) : Nat := if fmt = 0xD0 then 8 else 16

/-- Registers of the accumulator of MMA: 64 when ACC is 1, else 32 (R92). -/
def accRegs (f0 : DWord) : Nat := if f0.extractLsb' 18 2 = 1 then 64 else 32

def MOperand.blk (fmt : BitVec 8) : MOperand → List (Nat × Nat)
  | .regs r => regBlk r (operandRegs fmt)
  | .sp _ => []

/-- The blocks of vector registers an instruction names, each its first register and how many (R54, R85 step 6, R92). Blocks of LD, ST and their
kin are checked by the instruction itself with FORMAT (R356); LDS and STS here. -/
def Instr.vecBlocks (g : Group) : Instr → List (Nat × Nat)
  | .and o | .or o | .xor o | .andn o | .iadd o | .isub o | .imul o | .imulh o | .imin o | .imax o =>
    both (o.d.blk o.ty.wide) (both (o.a.blk o.ty.wide) (o.b.blk o.ty.wide))
  | .shl o | .shr o | .shra o => both (o.d.blk o.ty.wide) (both (o.a.blk o.ty.wide) (o.b.blk false))
  | .not o | .brev o | .clz o | .popc o | .iabs o | .ineg o => both (o.d.blk o.ty.wide) (o.a.blk o.ty.wide)
  | .imad o => both (both (o.d.blk o.ty.wide) (o.a.blk o.ty.wide)) (both (o.b.blk o.ty.wide) (o.c.blk o.ty.wide))
  | .bfx o => both (both (o.d.blk o.ty.wide) (o.a.blk o.ty.wide)) (both (o.b.blk false) (o.c.blk false))
  | .bfi o => both (both (o.d.blk o.ty.wide) (o.a.blk o.ty.wide)) (both (o.b.blk o.ty.wide) (o.c.blk false))
  | .lea o => both (o.d.blk o.ty.wide) (both (o.a.blk o.ty.wide) (o.b.blk o.ty.wide))
  | .icmp o => both (o.a.blk o.ty.wide) (o.b.blk o.ty.wide)
  | .sel o => both (o.d.blk o.ty.wide) (both (o.a.blk o.ty.wide) (o.b.blk o.ty.wide))
  | .mov _ (.reg d a ty) => both (d.blk ty.wide) (a.blk ty.wide)
  | .movi _ d _ => d.blk false
  | .brc _ _ a b _ => both (regBlk a 1) (b.blk false)
  | .brx _ (.vec a _) => regBlk a 1
  | .calget _ _ a => regBlk a 1
  | .calset _ d _ => regBlk d 1
  | .caltop _ d => regBlk d 1
  | .widenTrap _ d _ _ | .widenClamp _ d _ _ => regBlk d 1
  | .fadd o | .fsub o | .fmul o =>
    both (regBlk o.d (if o.ty.wide then 2 else 1)) (both (o.a.blk o.ty.wide) (o.b.blk o.ty.wide))
  | .ffma o =>
    both (both (regBlk o.d (if o.ty.wide then 2 else 1)) (o.a.blk o.ty.wide)) (both (o.b.blk o.ty.wide) (o.c.blk o.ty.wide))
  | .fmin o | .fmax o => both (regBlk o.d (if o.ty.wide then 2 else 1)) (both (o.a.blk o.ty.wide) (o.b.blk o.ty.wide))
  | .fcmp o => both (o.a.blk o.ty.wide) (o.b.blk o.ty.wide)
  | .fclass o => both (regBlk o.d 1) (o.a.blk false)
  | .frcp o | .frsq o | .fsqrt o | .fexp2 o | .flog2 o | .fsin o | .fcos o | .ftanh o => both (regBlk o.d 1) (o.a.blk false)
  | .cvt o => both (regBlk o.d (if o.dst.wide then 2 else 1)) (o.a.blk o.src.wide)
  | .cvtn o => both (regBlk o.d 1) (o.a.blk false)
  | .cvtw o => both (regBlk o.d 1) (o.a.blk false)
  | .pack o => both (regBlk o.a (packRegs o.fmt).1) (regBlk o.d (packRegs o.fmt).2)
  | .unpack o => both (regBlk o.a (packRegs o.fmt).2) (regBlk o.d (packRegs o.fmt).1)
  | .qscale o => regBlk o.a o.n.toNat
  | .shfl o => both (both (regBlk o.d (if o.ty.wide then 2 else 1)) (regBlk o.a (if o.ty.wide then 2 else 1))) (o.b.blk false)
  | .bcast o => both (regBlk o.d (if o.ty.wide then 2 else 1)) (regBlk o.a (if o.ty.wide then 2 else 1))
  | .redux o => regBlk o.a (if o.ty.wide then 2 else 1)
  | .scan o => both (regBlk o.d (if o.ty.wide then 2 else 1)) (regBlk o.a (if o.ty.wide then 2 else 1))
  | .segred o => both (both (regBlk o.d (if o.ty.wide then 2 else 1)) (regBlk o.a (if o.ty.wide then 2 else 1))) (regBlk o.b 1)
  | .conflict o | .conflictAll o => both (regBlk o.d 1) (regBlk o.a (if o.ty.wide then 2 else 1))
  | .gshuf o => both (regBlk o.d 1) (regBlk o.x 1)
  | .ld o | .st o => both (regBlk o.d 1) (regBlk o.x 1)
  | .ldp o | .stp o => both (regBlk o.d 1) (regBlk o.x 2)
  | .lds o | .sts o => both (regBlk o.d (spRegs o.size * NElem.count o.n)) (regBlk o.x 1)
  | .ldlines o => both (regBlk o.d (o.n1.toNat + 1)) (regBlk o.x 1)
  | .pref o => regBlk o.x 1
  | .spill o | .fill o => regBlk o.d 1
  | .atom o => both (both (regBlk o.d (if o.ty.wide then 2 else 1)) (regBlk o.x 1)) (regBlk o.v (if o.ty.wide then 2 else 1))
  | .red o => both (regBlk o.x 1) (regBlk o.v (if o.ty.wide then 2 else 1))
  | .cas o => both (both (regBlk o.d (if o.ty.wide then 2 else 1)) (regBlk o.x 1)) (regBlk o.v (if o.ty.wide then 4 else 2))
  | .cpa o => both (regBlk o.d 2) (regBlk o.x 1)
  | .srd _ (.vec d _) => regBlk d 1
  | .mma o | .mmaZ o =>
    let f0 := g.s o.f.toNat
    both (regBlk o.d (accRegs f0)) (both (o.a.blk (f0.extractLsb' 0 8)) (o.b.blk (f0.extractLsb' 8 8)))
  | .mld o =>
    let f0 := g.s o.f.toNat
    regBlk o.d (operandRegs (if o.opB then f0.extractLsb' 8 8 else f0.extractLsb' 0 8))
  | .mst o => regBlk o.d 32
  | .mstSum o => regBlk o.d 64
  | .aget _ _ _ | .aoff _ _ _ _ | .aset _ _ _ | .bar _ _ | .bararr _ _ _ | .barwait _ _ _ | .bkpt _ _ | .bra _ _
  | .breakl _ | .brx _ (.uni _ _) | .brx _ (.full _) | .call _ _ | .cpseal _ | .cpwait _ _ | .exit _ | .fence _ _ _
  | .fenceEngRel _ _ | .fsopen _ _ | .fsclose _ _ | .fswait _ _ | .gtimer _ _ | .gtimerGet _ _ | .hwait _ _
  | .htest _ _ _ | .hcancel _ _ | .kick _ _ _ _ | .launch _ _ _ _ | .ldu _ | .loop _ _ | .loopEnd | .merid _ _
  | .meridDev _ _ | .mov _ (.toHandle _ _) | .mov _ (.fromHandle _ _) | .moviHi _ _ _ | .nop _ | .park _
  | .patload _ _ _ | .plop _ _ _ _ | .post _ _ _ | .postq _ _ _ _ | .publish _ _ _ | .reconv | .regroup _ _ _ | .ret _
  | .rte | .rteNext | .srd _ (.uni _ _) | .stu _ | .swr _ _ _ | .tagfind _ _ _ | .tagwaitAny _ _ | .tagwaitAll _ _
  | .tbinit _ _ _ | .tbarrive _ _ | .tbarriveTx _ _ _ | .tbexpect _ _ _ | .tbwait _ _ _ | .tracemark _ _ | .trap _ _
  | .vote _ _ _ | .yield => []
  | .clauseStart _ | .longLatencyCompletion _ _ | .loadCompletion _ _ | .matrixCompletion _ _ | .storeQueueDrain _
  | .messageArrival _ _ | .bankCycle _ _ | .gangRecordTake _ _ | .instancePlacement _ _ | .queueHeadStarvation _ _
  | .bindRecordDispatch _ | .issueAgeBoost _ | .instanceRetirement _ _ _ | .cpaCopyCompletion _ _ _
  | .recordStart _ _ _ _ | .recordCompletion _ _ _ _ | .recordFailure _ | .publishFlip _ _ | .timerExpiry _
  | .haltPropagation _ | .haltrel _ _ _ | .sliceEnd _ | .switchOut _ _ | .switchIn _ _ | .preemption _ _
  | .fqrespReplay _ _ | .fqrespFail _ _ | .xlinvCommand _ _ _ | .xlinvCompletion _ | .compressFrame _ _ _
  | .freeRecord _ _ _ | .tierCommandCompletion _ _ | .framePush _ _ _ | .tierRegionWrite _ _ _
  | .backgroundPull _ _ _ | .pageMoveStart _ _ _ | .pageMoveCompletion _ _ | .placementPolicyPass _
  | .pinCountHalving _ | .l2cfgWrite _ _ | .unpin _ | .mailboxWrite _ _ | .hostBar4Access _ _ _
  | .ringusFlitArrival _ _ _ | .drainRequestArrival _ _ | .drainMarkerArrival _ _ | .drainTimeout _ _
  | .resumeMarkerArrival _ _ | .meridianSync _ | .parkRequest _ _ | .parkCapture _ | .resumeRequest _ _
  | .contextCreate | .contextDestroy _ | .deviceReset | .functionReady _ | .attestationRequest | .clockStep _
  | .thermalLimit | .thermalShutdown | .freezeArm | .freeze | .debugStop _ _ | .debugResume _ _
  | .contextHalt _ _ | .traceSync _ _ | .elogClear _ | .eventCountRead _ _ _ | .topdownTotalRead _ _ _ _
  | .faultRingConfigWrite _ _ _ | .registerWrite _ _ | .linkPortDown _ | .resumeEnd _ _ | .contextCommandEnd
  | .attestationReportEnd | .debugStopPropagation _ | .flitRetry _ _ | .scrub _ => []

/-- The highest vector register an instruction names, plus one. -/
def Instr.vecTop (g : Group) (i : Instr) : Nat := (i.vecBlocks g).foldl (fun n b => max n (b.1 + b.2)) 0

/-- Every vector register an instruction names lies below the role's budget (R54). -/
def Instr.fitsBudget (g : Group) (i : Instr) : Bool := decide (i.vecTop g ≤ g.ctl.budget)

end Sys2Proof
end

