-- ==== Sys2Proof/Machine/IntAlu.lean ====
section
/-! DEFINITION. IntAlu.lean: the integer, logic, shift, bit-field, predicate and move families as functions of the group
(16 R313 to R327, 17 R351, R352, R361, 18 R366 to R375, 19 R391, R393). `src` is the group as the instruction reads it
(R97), `g` the group it writes, `k` the issuing split. -/

namespace Sys2Proof.Machine

open Sys2Proof

/-- Write the result of an integer instruction under its guard. -/
def intOp (src g : Group) (k : Nat) (gd : Guard) (d : Dst) (ty : IntTy) (val : Nat → DWord) (c : Caliper) : Group :=
  g.intWrite k d ty val c (src.active k gd) (src.passes gd)

/-- Two sources, an exact value and a row of Table 3.4 (R351). -/
def binOp (o : Bin) (row : Option CalRow) (f : Int → Int → Int) (src g : Group) (k : Nat) : Group :=
  intOp src g k o.g o.d o.ty (fun j => intResult o.ty o.sat (f (o.a.num src o.ty j) (o.b.num src o.ty j)))
    (match row with
     | some r => propBin r o.ty o.sat (o.a.cal src k) (o.b.cal src k)
     | none => none)

/-- IMULH: the high N bits of the exact product (R351). -/
def imulhOp (o : Bin) (src g : Group) (k : Nat) : Group :=
  intOp src g k o.g o.d o.ty
    (fun j => BitVec.ofInt 64 ((o.a.num src o.ty j * o.b.num src o.ty j) / 2 ^ o.ty.bits)) none

/-- IMAD: a * b + c (R351). -/
def imadOp (o : Tern) (src g : Group) (k : Nat) : Group :=
  intOp src g k o.g o.d o.ty
    (fun j => intResult o.ty o.sat (o.a.num src o.ty j * o.b.num src o.ty j + o.c.num src o.ty j)) none

/-- IABS and INEG (R351). -/
def unOp (o : Un) (f : Int → Int) (c : Caliper) (src g : Group) (k : Nat) : Group :=
  intOp src g k o.g o.d o.ty (fun j => intResult o.ty o.sat (f (o.a.num src o.ty j))) c

/-- The bitwise operations of Table 16.1 on N bits. -/
def logicOp (o : Bin) (row : Option CalRow) (f : DWord → DWord → DWord) (src g : Group) (k : Nat) : Group :=
  intOp src g k o.g o.d o.ty
    (fun j => f (BitVec.ofNat 64 (o.a.bits src o.ty j)) (BitVec.ofNat 64 (o.b.bits src o.ty j)))
    (match row with
     | some r => propBin r o.ty o.sat (o.a.cal src k) (o.b.cal src k)
     | none => none)

def notOp (o : Un) (src g : Group) (k : Nat) : Group :=
  intOp src g k o.g o.d o.ty (fun j => ~~~(BitVec.ofNat 64 (o.a.bits src o.ty j))) none

/-- Number of one bits among the low `n`. -/
def popcount (n x : Nat) : Nat := (List.range n).foldl (fun acc i => if x.testBit i then acc + 1 else acc) 0

/-- Zero bits above the highest one bit of `n` bits; `n` when there is none (R327). -/
def clz (n x : Nat) : Nat := (List.range n).foldl (fun acc i => if x.testBit i then n - 1 - i else acc) n

/-- Bit i of the result is bit n − 1 − i (R327). -/
def brev (n x : Nat) : Nat := (List.range n).foldl (fun acc i => if x.testBit (n - 1 - i) then acc + 2 ^ i else acc) 0

/-- POPC, CLZ and BREV: `f` takes the width and the bits; [0, 32] for POPC and CLZ of 32 bits (R64). -/
def bitUn (o : Un) (counts : Bool) (f : Nat → Nat → Nat) (src g : Group) (k : Nat) : Group :=
  intOp src g k o.g o.d o.ty (fun j => BitVec.ofNat 64 (f o.ty.bits (o.a.bits src o.ty j)))
    (if counts && !o.ty.wide then some ⟨0, 32⟩ else none)

/-- A shifted by k on N bits, k never masked (Table 19.3). -/
def shiftVal (op : ShiftOp) (ty : IntTy) (bits : Nat) (num : Int) (k : Nat) : DWord :=
  let n := ty.bits
  match op with
  | .shl => if n ≤ k then 0 else BitVec.ofNat 64 (bits * 2 ^ k)
  | .shr => if n ≤ k then 0 else BitVec.ofNat 64 (bits / 2 ^ k)
  | .shra => if n ≤ k then (if num < 0 then BitVec.ofInt 64 (-1) else 0) else BitVec.ofInt 64 (num >>> k)

def shiftOp (op : ShiftOp) (o : Bin) (src g : Group) (k : Nat) : Group :=
  intOp src g k o.g o.d o.ty
    (fun j => shiftVal op o.ty (o.a.bits src o.ty j) (o.a.num src o.ty j) (o.b.word src j).toNat)
    (if o.b.isUniform then propShift op o.ty (o.a.cal src k) (o.b.word src 0).toNat else none)

/-- BFX (R321): width w from C[7:0], position from B[7:0]. -/
def bfxVal (ty : IntTy) (a pos c : Nat) : DWord :=
  let n := ty.bits
  let w := min c n
  let f := if n ≤ pos then 0 else a / 2 ^ pos % 2 ^ w
  if !ty.signed then BitVec.ofNat 64 f
  else if w = 0 then 0
  else if 2 ^ (w - 1) ≤ f then BitVec.ofInt 64 ((f : Int) - 2 ^ w)
  else BitVec.ofNat 64 f

def bfxOp (o : Tern) (src g : Group) (k : Nat) : Group :=
  let width (j : Nat) : Nat := ((o.c.word src j).extractLsb' 0 8).toNat
  intOp src g k o.g o.d o.ty
    (fun j => bfxVal o.ty (o.a.bits src o.ty j) ((o.b.word src j).extractLsb' 0 8).toNat (width j))
    (if o.ty == .ui32 && o.c.isUniform && decide (width 0 ≤ 31) then some ⟨0, 2 ^ width 0 - 1⟩ else none)

/-- BFI (R322): position C[7:0], width C[15:8]. -/
def bfiVal (ty : IntTy) (a b : Nat) (c : Word) : DWord :=
  let n := ty.bits
  let pos := (c.extractLsb' 0 8).toNat
  let w := min (c.extractLsb' 8 8).toNat n
  let m : DWord := BitVec.ofNat 64 (if n ≤ pos then 0 else ((2 ^ w - 1) * 2 ^ pos) % 2 ^ n)
  (BitVec.ofNat 64 b &&& ~~~m) ||| (BitVec.ofNat 64 (if n ≤ pos then 0 else a * 2 ^ pos) &&& m)

def bfiOp (o : Tern) (src g : Group) (k : Nat) : Group :=
  intOp src g k o.g o.d o.ty
    (fun j => bfiVal o.ty (o.a.bits src o.ty j) (o.b.bits src o.ty j) (o.c.word src j)) none

/-- LEA: a + b * 2^k (R361). -/
def leaOp (o : LeaOp) (src g : Group) (k : Nat) : Group :=
  intOp src g k o.g o.d o.ty
    (fun j => intResult o.ty o.sat (o.a.num src o.ty j + o.b.num src o.ty j * 2 ^ o.k.toNat))
    (propLea o.ty o.sat (o.a.cal src k) (o.b.cal src k) o.k.toNat)

/-- The conditions of Table 4.12 on N-bit values, given as signed and as unsigned numbers. -/
def condHolds (c : Cond) (sa sb : Int) (ua ub : Nat) : Bool :=
  match c with
  | .eq => ua == ub
  | .ne => ua != ub
  | .lt => decide (sa < sb)
  | .le => decide (sa ≤ sb)
  | .gt => decide (sa > sb)
  | .ge => decide (sa ≥ sb)
  | .ltu => decide (ua < ub)
  | .leu => decide (ua ≤ ub)
  | .gtu => decide (ua > ub)
  | .geu => decide (ua ≥ ub)

/-- TYPE gives the width only (R352). -/
def signedOf (ty : IntTy) : IntTy := if ty.wide then .i64 else .i32

def icmpLane (o : IcmpOp) (src : Group) (j : Nat) : Bool :=
  condHolds o.cond (o.a.num src (signedOf o.ty) j) (o.b.num src (signedOf o.ty) j) (o.a.bits src o.ty j)
    (o.b.bits src o.ty j)

def icmpOp (o : IcmpOp) (src g : Group) (k : Nat) : Group :=
  if o.uni then (if src.passes o.g then g.setQ o.d.toNat (icmpLane o src 0) else g)
  else g.setP o.d.toNat (src.active k o.g) (Mask.ofFn (icmpLane o src))

/-- A predicate source in lane `j`. -/
def PSrc.at (src : Group) (j : Nat) (p : PSrc) : Bool :=
  if p.uni then src.q p.p.toNat else Mask.has (src.p p.p.toNat) j

/-- SEL (R391). -/
def selOp (o : SelOp) (src g : Group) (k : Nat) : Group :=
  intOp src g k o.g o.d o.ty
    (fun j => BitVec.ofNat 64 (if PSrc.at src j o.c then o.a.bits src o.ty j else o.b.bits src o.ty j))
    (if o.ty.wide then none else hull (o.a.cal src k) (o.b.cal src k))

/-- MOV (Table 18.3). -/
def movOp (gd : Guard) (o : MovOp) (src g : Group) (k : Nat) : Group :=
  match o with
  | .reg d a ty =>
    intOp src g k gd d ty (fun j => BitVec.ofNat 64 (a.bits src ty j)) (if ty.wide then none else a.cal src k)
  | .toHandle d a => if src.passes gd then g.setH d.toNat (src.s a.toNat) else g
  | .fromHandle d a => if src.passes gd then g.setS d.toNat (src.h a.toNat) else g

/-- MOVI (R87, R367). -/
def moviOp (gd : Guard) (d : Dst) (imm : BitVec 32) (src g : Group) (k : Nat) : Group :=
  match d with
  | .v r => g.writeVec k r.toNat (src.active k gd) (List.replicate 32 imm) (exactCal imm.toInt)
  | .s r => if src.passes gd then g.setS r.toNat (imm.signExtend 64) else g

/-- MOVI.HI: sD[63:32] := IMM32, sD[31:0] kept (R87). -/
def moviHiOp (gd : Guard) (d : SReg) (imm : BitVec 32) (src g : Group) : Group :=
  if src.passes gd then g.setS d.toNat (imm ++ (src.s d.toNat).extractLsb' 0 32) else g

/-- PLOP in lane `j` (Table 18.6). -/
def plopLane (src : Group) (j : Nat) : PlopOp → Bool
  | .and a b => PSrc.at src j a && PSrc.at src j b
  | .or a b => PSrc.at src j a || PSrc.at src j b
  | .xor a b => PSrc.at src j a != PSrc.at src j b
  | .andn a b => PSrc.at src j a && !PSrc.at src j b
  | .not a => !PSrc.at src j a
  | .mov a => PSrc.at src j a
  | .sel a b c => if PSrc.at src j c then PSrc.at src j a else PSrc.at src j b
  | .setm a => (src.s a.toNat).getLsbD j

def plopOp (gd : Guard) (uni : Bool) (d : PReg) (o : PlopOp) (src g : Group) (k : Nat) : Group :=
  if uni then (if src.passes gd then g.setQ d.toNat (plopLane src 0 o) else g)
  else g.setP d.toNat (src.active k gd) (Mask.ofFn (fun j => plopLane src j o))

end Sys2Proof.Machine
end

