-- ==== Sys2Proof/Machine/Flags.lean ====
section
/-! DEFINITION. Flags.lean: what an instruction answers at the level of its group (an effect or a cause of Table 12.1), the
accrual of flags (05 R113), FPEXC (R114), and the opening of a long-latency instruction (03 R60, 04 R95). -/

namespace Sys2Proof.Machine

open Sys2Proof

/-- A cause raised by an instruction with what its records need (R262, R273, Table 7.5). `kinds`, `level`, `reason` and
`straddle` matter for XLATE and SPILLX; `event` is the error event an ECC is logged under, 0 for none (Table 12.6), and `home` the home die of
an L2 line whose error it met. -/
structure Exc where
  cause    : Cause
  tval     : DWord
  addr     : DWord
  straddle : Bool
  kinds    : BitVec 4
  level    : Nat
  reason   : Nat
  port     : Nat
  event    : Nat := 0
  home     : Option Nat := none
deriving DecidableEq, Repr

/-- A cause with a TVAL and no address. -/
def Exc.plain (c : Cause) (tval : DWord) : Exc := ⟨c, tval, 0, false, 0, 0, 0, 0, 0, none⟩

/-- A cause that names an address, also its TVAL. -/
def Exc.at (c : Cause) (addr : DWord) : Exc := ⟨c, addr, addr, false, 0, 0, 0, 0, 0, none⟩

/-- ECC of a stack sector, at its physical address (event 0x02), and of on-chip storage, with TVAL zero (event 0x04). -/
def Exc.stackEcc (sector : Nat) : Exc := { Exc.at .ecc (BitVec.ofNat 64 (32 * sector)) with event := 2 }
def Exc.sramEcc : Exc := { Exc.plain .ecc 0 with event := 4 }

/-- An instruction's answer: its group after the effect, or a cause. A cause leaves everything as it was but VIOLMASK and
FFLAGS where the raising rule writes them (R263, R70, R114), which `g` then holds. -/
inductive GRes where
  | ok (g : Group)
  | trap (e : Exc) (g : Group)

/-- FFLAGS.FLAGS := FFLAGS.FLAGS | fl (R113). -/
def Group.accrue (g : Group) (fl : Flags) : Group := { g with fflags := g.fflags ||| fl.setWidth 64 }

/-- FFLAGS.EN (Table 3.3). -/
def Group.enables (g : Group) : Flags := g.fflags.extractLsb' 8 5

/-- OR of the flags of the lanes of a mask. -/
def orFlags (m : Mask) (fl : Nat → Flags) : Flags := m.lanes.foldl (fun acc j => acc ||| fl j) 0

/-- TVAL of FPEXC: the raised enabled flags and the lanes that raised any of them (R114). -/
def fpexcVal (m : Mask) (fl : Nat → Flags) (hit : Flags) : DWord :=
  (hit.setWidth 64 <<< 32) ||| (Mask.ofFn (fun j => Mask.has m j && (fl j &&& hit) != 0)).setWidth 64

/-- R113, R114: the flags accrue with the effect `done`, or FPEXC with the flags alone. -/
def fpFinish (g : Group) (m : Mask) (fl : Nat → Flags) (done : Group) : GRes :=
  let total := orFlags m fl
  let hit := total &&& g.enables
  if hit = 0 then .ok (done.accrue total)
  else .trap (Exc.plain .fpexc (fpexcVal m fl hit)) (g.accrue total)

/-- The results of a long-latency instruction wait for its completion: destination calipers become unknown by R58 (R60),
and an open lookahead window covers the next `la` instructions (R95). -/
def Group.issueLong (g : Group) (k : Nat) (la : LA) (kind : Unit3) (vecs : List VecDest) (unis : List UniDest)
    (fl : Flags) (job : Option MmaJob := none) : Group :=
  let g1 := vecs.foldl (fun acc d => if d.all then acc.calReset d.reg none else acc.calWrite k d.reg d.mask none) g
  { g1 with
    inflight := g1.inflight ++
      [⟨g1.nextId, k, kind, if la = 0 then none else some la.toNat, vecs, unis, fl, job⟩]
    nextId := g1.nextId + 1 }

/-- A long-latency floating-point instruction: while an enable is set it executes as if LA were zero and its FPEXC is
taken at issue (R114, R384); otherwise its flags accrue at completion. -/
def longFp (g : Group) (k : Nat) (la : LA) (m : Mask) (fl : Nat → Flags) (vecs : List VecDest) (unis : List UniDest) :
    GRes :=
  let total := orFlags m fl
  let hit := total &&& g.enables
  if hit = 0 then .ok (g.issueLong k (if g.enables = 0 then la else 0) .alu vecs unis total)
  else .trap (Exc.plain .fpexc (fpexcVal m fl hit)) (g.accrue total)

/-- The results of a long-latency instruction take their effect (R60, R113): registers in lanes still live, calipers,
flags. -/
def Group.finish (g : Group) (p : Pending) : Group :=
  let g1 := p.vecs.foldl (fun acc d =>
    let m := d.mask &&& acc.ctl.live
    if d.all then (acc.setVec d.reg d.mask d.vals).calReset d.reg none
    else (acc.setVec d.reg m d.vals).calFinal d.reg m d.cal) g
  let g2 := p.unis.foldl (fun acc u => match u with
    | .s r x => acc.setS r x
    | .q r x => acc.setQ r x) g1
  { g2.accrue p.flags with inflight := g2.inflight.filter (fun x => x.id != p.id) }

end Sys2Proof.Machine
end

