-- ==== Sys2Proof/Machine/Narrow.lean ====
section
/-! DEFINITION. Narrow.lean: the narrow formats (05 R117 to R121), CVTN (R123), scales and QSCALE (R124, R125), and packed
streams (R119, R371, R404). -/

namespace Sys2Proof.Machine

open Sys2Proof

/-- A narrow format bKpP: K, P, signed, extended (R117). -/
structure NarrowFmt where
  k : Nat
  p : Nat
  s : Bool
  e : Bool
deriving DecidableEq, Repr

/-- An element format (Table 5.4): narrow, or one of the wide ones. -/
inductive ElemFmt where
  | narrow (f : NarrowFmt)
  | wide (f : BinFmt)
deriving DecidableEq, Repr

/-- A format code; none where R121 raises FORMAT. -/
def elemFmt (code : BitVec 8) : Option ElemFmt :=
  let p := (code.extractLsb' 3 3).toNat
  let s := code.getLsbD 2
  let e := code.getLsbD 1
  if code.getLsbD 0 then none
  else if fmtKW code = 3 then
    if s || e then none
    else if p = 0 then some (.wide fmtBF16)
    else if p = 1 then some (.wide fmtF16)
    else if p = 2 then some (.wide fmtF32)
    else none
  else
    let k := if fmtKW code = 0 then 8 else if fmtKW code = 1 then 6 else 4
    let most := if fmtKW code = 0 then 7 else if fmtKW code = 1 then 5 else 3
    if p = 0 ∨ most < p then none else some (.narrow ⟨k, p, s, e⟩)

/-- W and the bias of R117. -/
def NarrowFmt.w (f : NarrowFmt) : Nat := if f.s then f.k - f.p else f.k - f.p + 1
def NarrowFmt.bias (f : NarrowFmt) : Nat := 2 ^ (f.w - 1)
/-- The NaN code. -/
def NarrowFmt.nanCode (f : NarrowFmt) : Nat := if f.s then 2 ^ (f.k - 1) else 2 ^ f.k - 1
/-- The code of the largest finite value of the domain (R118). -/
def NarrowFmt.maxCode (f : NarrowFmt) : Nat :=
  let top := if f.s then 2 ^ (f.k - 1) - 1 else 2 ^ f.k - 2
  if f.e then top - 1 else top

/-- The magnitude of a magnitude code, m * 2^e (R117). -/
def NarrowFmt.mag (f : NarrowFmt) (m : Nat) : Nat × Int :=
  let e := m / 2 ^ (f.p - 1)
  let t := m % 2 ^ (f.p - 1)
  if e = 0 then (t, 1 - (f.bias : Int) - ((f.p : Int) - 1))
  else (2 ^ (f.p - 1) + t, (e : Int) - f.bias - ((f.p : Int) - 1))

/-- R117. A NaN code is marked so that its conversion and its product raise invalid (Table 5.5, R133). -/
def NarrowFmt.decode (f : NarrowFmt) (code : Nat) : Num :=
  let c := code % 2 ^ f.k
  let neg := f.s && c.testBit (f.k - 1)
  let m := if f.s then c % 2 ^ (f.k - 1) else c
  if c = f.nanCode then .nan true
  else if f.e && m == f.maxCode + 1 then .inf neg
  else .fin neg (f.mag m).1 (f.mag m).2

/-- The magnitude code below or at m * 2^e (exponent unbounded above), whether it is exact, and whether the remainder is
above or at the middle of the gap. -/
def NarrowFmt.floorCode (f : NarrowFmt) (m : Nat) (e : Int) : Nat × Bool × Bool × Bool :=
  let ex : Int := e + bitLen m - 1
  let ef : Nat := (max 1 (ex + f.bias)).toNat
  let q : Int := (ef : Int) - f.bias - ((f.p : Int) - 1)
  let den : Nat := 2 ^ (q - e).toNat
  let num : Nat := m * 2 ^ (e - q).toNat
  let t := num / den
  let rem := num % den
  let code := if t < 2 ^ (f.p - 1) then t else ef * 2 ^ (f.p - 1) + (t - 2 ^ (f.p - 1))
  (code, rem == 0, decide (den < 2 * rem), 2 * rem == den)

/-- R123 for a finite non-zero magnitude: the code of the magnitude, and the flags. -/
def NarrowFmt.roundMag (f : NarrowFmt) (rn satf : Bool) (m : Nat) (e : Int) : Option Nat × Flags :=
  let (c, exact, above, tie) := f.floorCode m e
  let r := if rn && (above || (tie && c % 2 == 1)) then c + 1 else c
  if f.maxCode < r then
    (if !rn || satf then some f.maxCode else if f.e then some (f.maxCode + 1) else none, flOverflow ||| flInexact)
  else
    let ex : Int := e + bitLen m - 1
    let emin : Int := 1 - (f.bias : Int)
    let carried := rn && (roundAt .rn false m e (ex - (f.p - 1))).1 == 2 ^ f.p
    let tiny := decide (ex < emin) && !(ex == emin - 1 && carried)
    (some r, if exact then 0 else if tiny then flUnderflow ||| flInexact else flInexact)

/-- R123. DEDUCED (log 27). -/
def cvtnNum (f : NarrowFmt) (rn satf : Bool) (x : Num) : Nat × Flags :=
  let sign (neg : Bool) (m : Nat) : Nat := if neg && f.s && m != 0 then m + 2 ^ (f.k - 1) else m
  match x with
  | .nan _ => (f.nanCode, flInvalid)
  | .inf neg =>
    if neg && !f.s then (if satf then (0, flInexact) else (f.nanCode, flInvalid))
    else if f.e then (sign neg (f.maxCode + 1), 0)
    else if satf then (sign neg f.maxCode, 0)
    else (f.nanCode, flInvalid)
  | .fin neg m e =>
    if m = 0 then (0, 0)
    else if neg && !f.s then (if satf then (0, flInexact) else (f.nanCode, flInvalid))
    else match f.roundMag rn satf m e with
      | (some c, fl) => (sign neg c, fl)
      | (none, fl) => (f.nanCode, fl)

/-- An element of any format as an exact number. -/
def ElemFmt.decode : ElemFmt → Nat → Num
  | .narrow f, c => f.decode c
  | .wide f, c => f.decode (c % 2 ^ f.width)

/-- Bits of an element in memory (R119). -/
def ElemFmt.width : ElemFmt → Nat
  | .narrow f => f.k
  | .wide f => f.width

/-- The scale 2^(c−128) of a b8p1uf code (R118, R124): zero for 0, NaN for 0xFF. -/
def scaleNum (c : Nat) : Num := (⟨8, 1, false, false⟩ : NarrowFmt).decode c

/-- The smallest s such that m * 2^(e−s) ≤ fm * 2^fe, by trying at most four around the leading bits. -/
def scaleExp (m : Nat) (e : Int) (fm : Nat) (fe : Int) : Int :=
  let s0 : Int := (e + bitLen m) - (fe + bitLen fm)
  let fits (s : Int) : Bool := !numLt (.fin false fm fe) (.fin false m (e - s))
  if fits (s0 - 1) then s0 - 1 else if fits s0 then s0 else s0 + 1

/-- R125. -/
def qscaleCode (f : NarrowFmt) (amax : Num) : Nat :=
  match amax with
  | .nan _ => 0xFF
  | .inf _ => 0xFF
  | .fin _ m e =>
    if m = 0 then 0x80
    else (min (max (scaleExp m e (f.mag f.maxCode).1 (f.mag f.maxCode).2) (-127)) 126 + 128).toNat

/-- The larger magnitude, NaN and infinity first (R125). -/
def maxMag (a b : Num) : Num :=
  match a, b with
  | .nan s, _ => .nan s
  | .inf _, .nan s => .nan s
  | .fin _ _ _, .nan s => .nan s
  | .inf _, _ => .inf false
  | .fin _ _ _, .inf _ => .inf false
  | .fin n m e, .fin n' m' e' => if numLt (.fin false m e) (.fin false m' e') then .fin n' m' e' else .fin n m e

/-- The stream of `n` codes of K bits, code i at bits K i (R119). -/
def packStream (k : Nat) : List Nat → Nat
  | [] => 0
  | c :: cs => c % 2 ^ k + 2 ^ k * packStream k cs

end Sys2Proof.Machine
end

