-- ==== Sys2Proof/Machine/FloatAlu.lean ====
section
/-! DEFINITION. FloatAlu.lean: the floating-point, conversion and packing families as functions of the group (17 R338 to
R344, 16 R335 to R337, 18 R371, R381, 19 R404). `src` is the group as the instruction reads it (04 R97). -/

namespace Sys2Proof

open Machine

/-- The element format of a type (R108). -/
def FTy.fmt : FTy → BinFmt
  | .f32 => fmtF32 | .f64 => fmtF64 | .f16 => fmtF16 | .bf16 => fmtBF16 | .f16x2 => fmtF16 | .bf16x2 => fmtBF16

/-- Elements in a value of a type: two in the x2 types. -/
def FTy.elems : FTy → Nat
  | .f16x2 | .bf16x2 => 2
  | .f32 | .f64 | .f16 | .bf16 => 1

/-- The bits of a source: 64 for F64, else 32 (R338). -/
def Src.fbits (g : Group) (ty : FTy) (j : Nat) (a : Src) : Nat :=
  if ty.wide then (a.dword g j).toNat else (a.word g j).toNat

/-- Element `e` of a value: its code. -/
def FTy.elem (ty : FTy) (bits e : Nat) : Nat := bits / 2 ^ (16 * e) % 2 ^ ty.fmt.width

namespace Machine

/-- A value from its element codes and flags (R108). -/
def perElem (ty : FTy) (f : Nat → Nat × Flags) : Nat × Flags :=
  if ty.elems = 2 then ((f 0).1 + 2 ^ 16 * (f 1).1, (f 0).2 ||| (f 1).2) else f 0

/-- Write a floating-point result in the lanes of `m`: a register or a pair, its caliper unknown (R338). -/
def fpWrite (g : Group) (k : Nat) (d : VReg) (wide : Bool) (m : Mask) (val : Nat → Nat) : Group :=
  if wide then g.writePair k d.toNat m (laneIds.map (fun j => BitVec.ofNat 64 (val j)))
  else g.writeVec k d.toNat m (perLane (fun j => BitVec.ofNat 32 (val j))) none

/-- A lane-wise floating-point operation of RND-rounded elements: results, flags, FPEXC. -/
def fpLanes (src g : Group) (k : Nat) (gd : Guard) (d : VReg) (wide : Bool) (f : Nat → Nat × Flags) : GRes :=
  let m := src.active k gd
  fpFinish g m (fun j => (f j).2) (fpWrite g k d wide m (fun j => (f j).1))

/-- FADD, FSUB and FMUL: `op` on the numbers of the two elements. -/
def fbinOp (o : FBin) (op : BinFmt → Rnd → Num → Num → Nat × Flags) (src g : Group) (k : Nat) : GRes :=
  fpLanes src g k o.g o.d o.ty.wide (fun j => perElem o.ty (fun e =>
    op o.ty.fmt o.rnd (o.ty.fmt.decode (o.ty.elem (o.a.fbits src o.ty j) e))
      (o.ty.fmt.decode (o.ty.elem (o.b.fbits src o.ty j) e))))

def faddNum (f : BinFmt) (r : Rnd) (a b : Num) : Nat × Flags := addNums f r [a, b]
def fsubNum (f : BinFmt) (r : Rnd) (a b : Num) : Nat × Flags := addNums f r [a, b.neg]

/-- FFMA. -/
def ffmaOp (o : FTern) (src g : Group) (k : Nat) : GRes :=
  fpLanes src g k o.g o.d o.ty.wide (fun j => perElem o.ty (fun e =>
    fmaNums o.ty.fmt o.rnd (o.ty.fmt.decode (o.ty.elem (o.a.fbits src o.ty j) e))
      (o.ty.fmt.decode (o.ty.elem (o.b.fbits src o.ty j) e)) (o.ty.fmt.decode (o.ty.elem (o.c.fbits src o.ty j) e))))

/-- FMIN and FMAX (R112). -/
def fminmaxOp (o : FMinMax) (isMax : Bool) (src g : Group) (k : Nat) : GRes :=
  fpLanes src g k o.g o.d o.ty.wide (fun j => perElem o.ty (fun e =>
    minMaxNum o.ty.fmt isMax o.num (o.ty.elem (o.a.fbits src o.ty j) e) (o.ty.elem (o.b.fbits src o.ty j) e)))

/-- FCLASS (R342); no flag. -/
def fclassOp (o : FclassOp) (src g : Group) (k : Nat) : Group :=
  fpWrite g k o.d false (src.active k o.g)
    (fun j => 2 ^ classOf o.ty.fmt (o.ty.elem (o.a.fbits src o.ty j) 0))

/-- FCMP (R343). -/
def fcmpLane (o : FcmpOp) (src : Group) (j : Nat) : Bool × Flags :=
  fcmpNum o.rel o.sig (o.ty.fmt.decode (o.ty.elem (o.a.fbits src o.ty j) 0))
    (o.ty.fmt.decode (o.ty.elem (o.b.fbits src o.ty j) 0))

def fcmpOp (o : FcmpOp) (src g : Group) (k : Nat) : GRes :=
  let m := src.active k o.g
  fpFinish g m (fun j => (fcmpLane o src j).2)
    (g.setP o.d.toNat m (Mask.ofFn (fun j => (fcmpLane o src j).1)))

/-- Major 0x58 (R115, R344): long-latency, or precise at issue while an enable is set (R114). -/
def sfuLane (fn : SfuFn) (o : SfuOp) (src : Group) (j : Nat) : Nat × Flags := sfu fn o.rnd (o.a.word src j).toNat

def sfuOp (fn : SfuFn) (o : SfuOp) (src g : Group) (k : Nat) : GRes :=
  let m := src.active k o.g
  longFp g k o.la m (fun j => (sfuLane fn o src j).2)
    [⟨o.d.toNat, m, perLane (fun j => BitVec.ofNat 32 (sfuLane fn o src j).1), none, false⟩] []

/-! ## Conversions -/

/-- Format of a floating CVT type. -/
def cvtFmt : CvtTy → Option BinFmt
  | .int _ => none
  | .f32 => some fmtF32 | .f64 => some fmtF64 | .f16 => some fmtF16 | .bf16 => some fmtBF16

/-- CVT of one lane (Table 5.5, R335). -/
def cvtLane (o : CvtOp) (src : Group) (j : Nat) : Nat × Flags :=
  let bits := if o.src.wide then (o.a.dword src j).toNat else (o.a.word src j).toNat
  match o.src, cvtFmt o.src, o.dst, cvtFmt o.dst with
  | _, some fs, _, some fd => roundAny fd o.rnd o.sat (fs.decode (bits % 2 ^ fs.width))
  | _, some fs, .int t, none =>
    let r := toIntNum o.rnd t.least t.greatest (fs.decode (bits % 2 ^ fs.width))
    ((BitVec.ofInt 64 r.1).toNat % 2 ^ t.bits, r.2)
  | .int t, none, _, some fd => ofIntNum fd o.rnd (o.a.num src t j)
  | _, _, _, _ => (0, 0)

def cvtOp (o : CvtOp) (src g : Group) (k : Nat) : GRes :=
  fpLanes src g k o.g o.d o.dst.wide (cvtLane o src)

/-- A narrow format code of an instruction; anything else raises FORMAT (R121). -/
def withNarrow (fmt : BitVec 8) (g : Group) (f : NarrowFmt → GRes) : GRes :=
  match elemFmt fmt with
  | some (.narrow nf) => f nf
  | some (.wide _) => .trap (Exc.plain .format 0) g
  | none => .trap (Exc.plain .format 0) g

/-- CVTN (R336, R123). -/
def cvtnOp (o : CvtnOp) (src g : Group) (k : Nat) : GRes :=
  withNarrow o.fmt g (fun nf =>
    fpLanes src g k o.g o.d false (fun j =>
      cvtnNum nf (o.rnd == .rn) o.satf (o.ty.fmt.decode (o.ty.elem (o.a.fbits src o.ty j) 0))))

/-- CVTW (R337). -/
def cvtwOp (o : CvtwOp) (src g : Group) (k : Nat) : GRes :=
  withNarrow o.fmt g (fun nf =>
    fpLanes src g k o.g o.d false (fun j =>
      roundAny o.ty.fmt .rn false (nf.decode ((o.a.word src j).toNat / 2 ^ (8 * o.k.toNat)))))

/-- Bits of a packed code, and codes: PACK and UNPACK (Table 18.5). -/
def packK (fmt : BitVec 8) : Nat := if fmtKW fmt = 1 then 6 else 4
def packCount (fmt : BitVec 8) : Nat := if fmtKW fmt = 1 then 16 else 8

/-- Write consecutive registers from `r` in the lanes of `m`, calipers unknown. -/
def writeBlock (g : Group) (k r : Nat) (m : Mask) (n : Nat) (val : Nat → Nat → Word) : Group :=
  (List.range n).foldl (fun acc i => acc.writeVec k (r + i) m (perLane (val i)) none) g

/-- PACK (R371). -/
def packOp (o : PackOp) (src g : Group) (k : Nat) : GRes :=
  withNarrow o.fmt g (fun _ =>
    let stream (j : Nat) : Nat := packStream (packK o.fmt) ((List.range (packCount o.fmt)).map (fun e =>
      (src.v (o.a.toNat + e / 4) j).toNat / 2 ^ (8 * (e % 4))))
    .ok (writeBlock g k o.d.toNat (src.active k o.g) (packRegs o.fmt).2
      (fun i j => BitVec.ofNat 32 (stream j / 2 ^ (32 * i)))))

/-- UNPACK (R404). -/
def unpackOp (o : PackOp) (src g : Group) (k : Nat) : GRes :=
  withNarrow o.fmt g (fun _ =>
    let stream (j : Nat) : Nat := packStream 32 ((List.range (packRegs o.fmt).2).map (fun i => (src.v (o.a.toNat + i) j).toNat))
    let kb := packK o.fmt
    .ok (writeBlock g k o.d.toNat (src.active k o.g) (packRegs o.fmt).1
      (fun i j => BitVec.ofNat 32 (packStream 8 ((List.range 4).map (fun b =>
        stream j / 2 ^ (kb * (4 * i + b)) % 2 ^ kb))))))

/-- amax of QSCALE: the largest magnitude among the elements of the tile (R381). -/
def qscaleMax (o : QscaleOp) (src : Group) (k : Nat) : Num :=
  (src.active k o.g).lanes.foldl (fun acc j =>
    (List.range o.n.toNat).foldl (fun acc i =>
      (List.range o.ty.elems).foldl (fun acc e =>
        maxMag acc (o.ty.fmt.decode (o.ty.elem (src.v (o.a.toNat + i) j).toNat e))) acc) acc) (.fin false 0 0)

/-- QSCALE (R381, R125). -/
def qscaleOp (o : QscaleOp) (src g : Group) (k : Nat) : GRes :=
  withNarrow o.fmt g (fun nf => .ok (g.setS o.d.toNat (BitVec.ofNat 64 (qscaleCode nf (qscaleMax o src k)))))

end Machine

end Sys2Proof
end

