-- ==== Sys2Proof/Machine/Device.lean ====
section
/-! DEFINITION. Device.lean: named reads and writes of the device's state: contexts, groups, logical cores, dies; physical
memory (01 R12, R13); notices (14 R292), sequence numbers and the error log (12 R274, R275). -/

namespace Sys2Proof.Machine

open Sys2Proof

/-! ## The fabric (01 R14)

Time on the fabric is no part of the model: what R14 says of it is this distance, and the order of one source's traffic to one
destination, which `Context.mayArrive` and each link's list keep. -/

/-- Compute dies stand in two rows of four: CD0 to CD3 and CD4 to CD7. -/
def dieCol (d : Nat) : Nat := d % 4
def dieRow (d : Nat) : Nat := d / 4

/-- Hops between two compute dies. -/
def hops (a b : Nat) : Nat := (dieCol a - dieCol b) + (dieCol b - dieCol a) + (if dieRow a = dieRow b then 0 else 1)

/-- The links between compute dies, and those of the two IO dies (IO0 to CD0 and CD4, IO1 to CD3 and CD7). -/
def dieLinked (a b : Nat) : Bool := decide (a < 8) && decide (b < 8) && hops a b == 1
def ioLinked (io d : Nat) : Bool := if io = 0 then d == 0 || d == 4 else d == 3 || d == 7

/-! ## Contexts, groups, logical cores, dies -/

def State.ctx (s : State) (slot : Nat) : Option Context := regGet none s.ctxs slot
def State.setCtx (s : State) (slot : Nat) (c : Context) : State := { s with ctxs := regSet s.ctxs slot (some c) }
def State.modCtx (s : State) (slot : Nat) (f : Context → Context) : State :=
  match s.ctx slot with
  | some c => s.setCtx slot (f c)
  | none => s

def Context.group? (c : Context) (r : GroupRef) : Option Group := (c.groups.find? (fun x => x.1 == r)).map (fun x => x.2)
def Context.modGroup (c : Context) (r : GroupRef) (f : Group → Group) : Context :=
  { c with groups := c.groups.map (fun x => if x.1 = r then (x.1, f x.2) else x) }

def State.group? (s : State) (r : GroupRef) : Option Group :=
  match s.ctx r.slot with
  | some c => c.group? r
  | none => none
def State.modGroup (s : State) (r : GroupRef) (f : Group → Group) : State := s.modCtx r.slot (fun c => c.modGroup r f)
def State.setGroup (s : State) (r : GroupRef) (g : Group) : State := s.modGroup r (fun _ => g)
def State.modSplit (s : State) (r : SplitRef) (f : Split → Split) : State :=
  s.modGroup r.group (fun g => g.modSplit r.k f)
def State.split? (s : State) (r : SplitRef) : Option Split := (s.group? r.group).map (fun g => g.split r.k)

/-- DESIGN CHOICE (log 3). -/
def LogicalCore.empty : LogicalCore where
  dieGrp := 0
  die := 0
  scratch := []
  tags := BitVec.allOnes 64
  kicks := List.replicate 256 ⟨0, .done, 0, 0, 0, 0, 0, 0, 0⟩
  engine := []
  cpas := []
  nextCpa := 0
  outbound := []
  placed := none
  sinceIn := 0
  leaves := List.replicate 16 0

def Context.lc (c : Context) (lcid : Nat) : LogicalCore := regGet LogicalCore.empty c.lcs lcid
def Context.modLc (c : Context) (lcid : Nat) (f : LogicalCore → LogicalCore) : Context := { c with lcs := regMod c.lcs lcid f }
def State.lc (s : State) (slot lcid : Nat) : LogicalCore :=
  match s.ctx slot with
  | some c => c.lc lcid
  | none => LogicalCore.empty
def State.modLc (s : State) (slot lcid : Nat) (f : LogicalCore → LogicalCore) : State :=
  s.modCtx slot (fun c => c.modLc lcid f)

def Context.inst? (c : Context) (recNum inst : Nat) : Option GangInst :=
  c.insts.find? (fun x => x.recNum == recNum && x.inst == inst)
def Context.modInst (c : Context) (recNum inst : Nat) (f : GangInst → GangInst) : Context :=
  { c with insts := c.insts.map (fun x => if x.recNum = recNum ∧ x.inst = inst then f x else x) }
def Context.record? (c : Context) (n : Nat) : Option GangRec := c.records.find? (fun x => x.num == n)
def Context.modRecord (c : Context) (n : Nat) (f : GangRec → GangRec) : Context :=
  { c with records := c.records.map (fun x => if x.num = n then f x else x) }

/-- The gang instance of a group. -/
def Context.instOf (c : Context) (g : Group) : Option GangInst := c.inst? g.ctl.recNum g.ctl.ganginst

def State.die (s : State) (d : Nat) : Die := regGet Die.reset s.dies d
def State.modDie (s : State) (d : Nat) (f : Die → Die) : State := { s with dies := regMod s.dies d f }
def Die.slot (d : Die) (slot : Nat) : SlotRegs := regGet SlotRegs.reset d.slots slot
def Die.modSlot (d : Die) (slot : Nat) (f : SlotRegs → SlotRegs) : Die := { d with slots := regMod d.slots slot f }
def State.modSlotRegs (s : State) (d slot : Nat) (f : SlotRegs → SlotRegs) : State := s.modDie d (fun x => x.modSlot slot f)
def Die.core (d : Die) (i : Nat) : Core := regGet Core.reset d.cores i
def State.modCore (s : State) (d i : Nat) (f : Core → Core) : State := s.modDie d (fun x => { x with cores := regMod x.cores i f })

/-- The context slot of a waiter. -/
def Waiter.slot : Waiter → Nat
  | .split r => r.slot
  | .cpa k _ _ | .record k _ _ _ | .start k _ | .fire k _ _ | .pref k _ _ _ _ => k

/-- A line that PREF fetches. -/
def Waiter.isPref : Waiter → Bool
  | .pref _ _ _ _ _ => true
  | .split _ | .cpa _ _ _ | .record _ _ _ _ | .start _ _ | .fire _ _ _ => false

/-- The join die of a context (R17). -/
def State.joinDie (s : State) (slot : Nat) : Nat :=
  match s.ctx slot with
  | some c => c.joinDie
  | none => 0

/-- A Ringus port that is trained and has not gone down (R281, R294, R296). -/
def State.portUp (s : State) (n : Nat) : Bool := s.pkg.ready.getLsbD (24 + n) && !s.pkg.linkDown.getLsbD n
def State.upPorts (s : State) : List Nat := (List.range 16).filter s.portUp

/-- The device runs: its clocks are neither frozen nor its core rails off (R298, R300). -/
def State.clocked (s : State) : Bool := !s.pkg.frozen && !s.pkg.railsOff

/-- Take one draw of the free values. -/
def State.draw (s : State) : Nat × State := (s.freeCtr, { s with freeCtr := s.freeCtr + 1 })

/-- The device meridian (R21) and a context's meridian (R290). -/
def State.tickNow (s : State) : Nat := s.meridian.toNat

/-! ## Physical memory (R12, R13, R160) -/

/-- The die near a stack (Table 1.1) and whether it is the die's lower-numbered near stack. -/
def stackDie (hs : Nat) : Nat × Nat :=
  regGet (0, 0) [(0, 0), (1, 0), (1, 1), (2, 0), (2, 1), (3, 0), (4, 0), (5, 0), (5, 1), (6, 0), (6, 1), (7, 0)] hs
def paStack (pa : Nat) : Nat := pa / Config.stackBytes
def homeDie (pa : Nat) : Nat := (stackDie (paStack pa)).1
def State.tier (s : State) (hs : Nat) : Tier := regGet Tier.reset (s.die (stackDie hs).1).tiers (stackDie hs).2
def State.modTier (s : State) (hs : Nat) (f : Tier → Tier) : State :=
  s.modDie (stackDie hs).1 (fun d => { d with tiers := regMod d.tiers (stackDie hs).2 f })

/-- Inside the compressed region of its stack (R172). -/
def State.inRegion (s : State) (pa : Nat) : Bool :=
  let t := s.tier (paStack pa)
  let off := pa % Config.stackBytes / 2 ^ 26
  decide (t.start ≤ off ∧ off < t.start + t.size)

def State.read (s : State) (pa n : Nat) : List Byte := Cells.read s.mem pa n
def State.readNat (s : State) (pa n : Nat) : Nat := leNat (s.read pa n)
def State.read64 (s : State) (pa : Nat) : DWord := BitVec.ofNat 64 (s.readNat pa 8)

/-- The bytes of the place of an error. -/
def SoftPlace.bytes : SoftPlace → List (Nat × Loc)
  | .stack sec => (List.range 32).map (fun i => (0, .phys (32 * sec + i)))
  | .l2 line => (List.range 128).map (fun i => (0, .phys (128 * line + i)))
  | .scratch k lcid chunk => (List.range 32).map (fun i => (k, .scratch lcid (32 * chunk + i)))
  | .group _ => []

/-- A byte lies in the place of an error. -/
def SoftPlace.holds (p : SoftPlace) (x : Nat × Loc) : Bool :=
  match p, x.2 with
  | .stack sec, .phys pa => pa / 32 == sec
  | .l2 line, .phys pa => pa / 128 == line
  | .scratch k lcid chunk, .scratch l off => x.1 == k && l == lcid && off / 32 == chunk
  | .stack _, _ | .l2 _, _ | .scratch _ _ _, _ | .group _, _ => false

/-- Bytes are rewritten: a place of which every byte has been loses its poison or its error (Table 12.6). -/
def State.rewrite (s : State) (ws : List (Nat × Loc)) : State :=
  if s.poison.isEmpty && s.soft.isEmpty then s
  else
    let bad := s.poison.map SoftPlace.stack ++ s.soft
    let m := (s.mended ++ ws.filter (fun x => bad.any (fun p => p.holds x))).dedup
    let whole (p : SoftPlace) : Bool := !p.bytes.isEmpty && p.bytes.all (fun x => m.contains x)
    let left := bad.filter (fun p => !whole p)
    { s with
      poison := s.poison.filter (fun sec => !whole (.stack sec))
      soft := s.soft.filter (fun p => !whole p)
      mended := m.filter (fun x => left.any (fun p => p.holds x)) }

/-- A sector is uncorrectable until it is wholly rewritten from now on. -/
def State.spoil (s : State) (sec : Nat) : State :=
  { s with
    poison := if s.poison.contains sec then s.poison else s.poison ++ [sec]
    soft := s.soft.filter (fun x => x != SoftPlace.stack sec)
    mended := s.mended.filter (fun x => !(SoftPlace.stack sec).holds x) }

/-- The bytes of a physical range. -/
def physBytes (pa n : Nat) : List (Nat × Loc) := (List.range n).map (fun i => (0, .phys (pa + i)))

/-- A write performed at the home slice; bytes beyond the stacks reach nothing (R160). -/
def State.write (s : State) (pa : Nat) (bytes : List Byte) : State :=
  if Config.physBytes < pa + bytes.length then s
  else { s.rewrite (physBytes pa bytes.length) with mem := Cells.write s.mem pa bytes }
def State.write64 (s : State) (pa : Nat) (x : DWord) : State := s.write pa (natLe 8 x.toNat)

/-- Sectors that a read finds uncorrectable: poisoned ones, and those whose error nothing has met yet (R161, Table 12.6). -/
def State.badSectors (s : State) : List Nat :=
  s.poison ++ s.soft.filterMap (fun p => match p with
    | .stack sec => some sec
    | .l2 _ | .scratch _ _ _ | .group _ => none)

/-- The sectors of a range. -/
def sectorsOf (pa n : Nat) : List Nat := (List.range ((pa + n - 1) / 32 + 1 - pa / 32)).map (fun i => pa / 32 + i)

/-- Some byte of the range lies in an uncorrectable sector (R161). -/
def State.poisoned (s : State) (pa n : Nat) : Bool :=
  s.badSectors.any (fun sec => decide (32 * sec < pa + n) && decide (pa < 32 * sec + 32))

/-- The ECC a read of a range meets: the first uncorrectable sector of it, or an L2 line of it with a soft error (Table 12.6). -/
def State.eccOf (s : State) (pa n : Nat) : Option Exc :=
  match (sectorsOf pa n).find? (fun sec => s.badSectors.contains sec) with
  | some sec => some (Exc.stackEcc sec)
  | none =>
    if s.soft.any (fun p => match p with
      | .l2 line => decide (128 * line < pa + n) && decide (pa < 128 * line + 128)
      | .stack _ | .scratch _ _ _ | .group _ => false) then some { Exc.sramEcc with home := some (homeDie pa) }
    else none

/-! ## Notices, sequence numbers, the error log (R292, R274, R275) -/

/-- R292: set a PEND bit; MSI-X when enabled and the bit was clear. -/
def State.notice (s : State) (bit : Nat) : State :=
  if s.pkg.pend.getLsbD bit then s
  else
    { s with
      pkg := { s.pkg with pend := s.pkg.pend ||| BitVec.ofNat 64 (2 ^ bit) }
      hostOut := if s.pkg.nen.getLsbD bit then s.hostOut ++ [.msix bit] else s.hostOut }

/-- The turn makes a numbered event of a channel on a die, or what takes effect before those of its cycle (`key` 0). -/
def State.noteEvent (s : State) (d key : Nat) : State := { s with req := { s.req with events := s.req.events ++ [(d, key)] } }

/-- A fault record of the turn has been lost. -/
def State.noteLost (s : State) (d slot : Nat) : State := { s with req := { s.req with lost := s.req.lost ++ [(d, slot)] } }

/-- R274: the next number of a die's event sequence, for an event of a channel. -/
def State.nextSeq (s : State) (d chan : Nat) : BitVec 32 × State :=
  ((s.die d).seq, (s.modDie d (fun x => { x with seq := x.seq + 1 })).noteEvent d (chan + 1))

/-- The channel of the last event that the turn has made on a die. -/
def State.lastChan (s : State) (d : Nat) : Nat := (s.req.events.filter (fun e => e.1 == d)).foldl (fun n e => max n (e.2 - 1)) 0

def causeCode : Cause → Nat
  | .illegal => 1 | .priv => 2 | .convergence => 3 | .format => 4 | .bound => 5 | .caliper => 6 | .align => 7
  | .access => 8 | .xlate => 9 | .spillx => 10 | .portfull => 11 | .fpexc => 12 | .swtrap => 13 | .brk => 14
  | .timer => 15 | .ecc => 16 | .target => 17 | .gang => 18 | .halted => 19

/-- R275: one step of an error event: counter, log entry or OVF and LOST, notice 3. -/
def State.logEvent (s : State) (d chan event cause addr slot : Nat) (info : BitVec 32) : State :=
  let (seq, s1) := s.nextSeq d chan
  let e : LogEnt := ⟨s.tickNow, addr, seq, info, chan, event, cause, slot⟩
  (s1.modDie d (fun x =>
    let y := { x with counts := regMod x.counts event (fun c =>
      { c with count := c.count + 1, lastTick := s.tickNow, lastSeq := seq }) }
    if y.elog.length < 16 then { y with elog := y.elog ++ [e] }
    else { y with elogOvf := true, elogLost := if y.elogLost = BitVec.allOnes 32 then y.elogLost else y.elogLost + 1 })).notice 3

/-- The channel of a line on its die: 0 to 31 for the lower-numbered near stack, 32 to 63 for the other (R160, R274). -/
def stackChan (pa : Nat) : Nat := 32 * (stackDie (paStack pa)).2 + Config.channelOf (pa / 128)

/-- The channel of a working core (R274). -/
def coreChan (core : Nat) : Nat := 64 + core

/-- The channels of the fabric and of the Sidereal core (R274). -/
def chanFabric : Nat := 106
def chanSidereal : Nat := 107

/-- The channel of an event that a logical core makes: its working core's, else the Sidereal core's. -/
def State.lcChan (s : State) (slot lcid : Nat) : Nat :=
  match (s.lc slot lcid).placed with
  | some p => coreChan p.2
  | none => chanSidereal

/-- The channel of an event of on-chip SRAM that is no core's: which memory channel it goes under is free (log 36). -/
def sramChannel (d : Nat) : Nat := Config.sramChan d % 64

/-- An access that needs an uncorrectable sector, or on-chip storage with an uncorrectable error, logs it with the cause it
raises (Table 12.6): a stack sector on its home die, an L2 line on its home die under a free memory channel, other on-chip storage on the
consumer's die under its core's channel. DESIGN CHOICE (log 36). -/
def State.logEcc (s : State) (slot die : Nat) (core : Option Nat) (e : Exc) : State :=
  if e.event = 2 then
    let (d, s1) := s.draw
    s1.logEvent (homeDie e.tval.toNat) (stackChan e.tval.toNat) 2 (causeCode .ecc) e.tval.toNat slot (Config.syndrome d)
  else if e.event = 4 then
    let (d, s1) := s.draw
    let where_ : Nat × Nat := match e.home, core with
      | some h, _ => (h, sramChannel d)
      | none, some c => (die, coreChan c)
      | none, none => (die, sramChannel d)
    s1.logEvent where_.1 where_.2 4 (causeCode .ecc) 0 slot (Config.syndrome d)
  else s

/-- Event 0x02 of a sector that a scrub or a write-back has marked poisoned (Table 12.6). -/
def State.logPoison (s : State) (sec : Nat) : State :=
  let (n, s1) := s.draw
  s1.logEvent (homeDie (32 * sec)) (stackChan (32 * sec)) 2 0 (32 * sec) 0 (Config.syndrome n)

end Sys2Proof.Machine
end

