-- ==== Sys2Proof/Machine/Home.lean ====
section
/-! DEFINITION. Home.lean: the home of a line of memory: the L2 home slices (06 R151 to R156) and the lines of pages in motion, which the
first access of any kind pulls (07 R161, R174 to R177). -/

namespace Sys2Proof.Machine

open Sys2Proof

/-! ## L2 home slices (06 R151 to R156) -/

/-- The lines of a physical range. -/
def lineNums (pa n : Nat) : List Nat := (List.range ((pa + n - 1) / 128 + 1 - pa / 128)).map (fun i => pa / 128 + i)

def l2Quota (cfg : DWord) (cls : Nat) : Nat := bitsOf cfg.toNat (8 * cls) 5
def l2PinWays (cfg : DWord) : Nat := bitsOf cfg.toNat 32 3
def l2PinThr (cfg : DWord) : Nat := bitsOf cfg.toNat 40 8

/-- Lines of a set of a home slice (R3). -/
def l2Ways : Nat := 16

/-- The line that a fill of class `cls` puts out of its set (R153, Table 6.7), least recently used last in the list; pinned
lines and the lines `resv` of outstanding requests are excluded. A class at its quota gives up a line of its own, in a set that
is not full too; rules 2 and 3 choose only in a full set. When the lines of the class at its quota are all excluded, rule 1 has
no victim and rules 2 and 3 choose. DESIGN CHOICE (log 45). -/
def l2Victim (cfg : DWord) (cls : Nat) (resv : List Nat) (set : List L2Line) : Option L2Line :=
  let held (c : Nat) : Nat := (set.filter (fun x => x.cls == c)).length
  let free := set.reverse.filter (fun x => !x.pinned && !resv.contains x.line)
  let own := if l2Quota cfg cls ≤ held cls then free.find? (fun x => x.cls == cls) else none
  let above (x : L2Line) : Bool := decide (l2Quota cfg x.cls < held x.cls)
  if own.isSome then own
  else if set.length < l2Ways then none
  else if free.any above then free.find? above
  else if set.any (fun x => decide (x.reuse ≤ 2)) then (free.find? (fun x => x.reuse != 3)).or free.head?
  else free.head?

/-- One request for a line (R152 to R155): hit or fill, its place in the order, its count and pinning. A hit leaves the class and
the reuse class of the fill, and makes the line the most recently used one; a fill of a full set without a victim is not kept.
DESIGN CHOICE (log 45). -/
def l2Access (cfg : DWord) (l2 : List L2Line) (resv : List Nat) (line cls reuse : Nat) (wr : Bool) : List L2Line :=
  let set := l2.filter (fun x => Config.l2Set x.line == Config.l2Set line)
  let old := l2.find? (fun x => x.line == line)
  let x0 : L2Line := match old with
    | some x => { x with dirty := x.dirty || wr }
    | none => ⟨line, cls, reuse, 0, false, wr⟩
  let x1 := if reuse = 7 then { x0 with count := min 255 (x0.count + 1) } else x0
  let pins := (set.filter (fun x => x.pinned)).length
  let x2 := if reuse == 7 && l2PinThr cfg != 0 && decide (l2PinThr cfg ≤ x1.count) && decide (pins < l2PinWays cfg) then
      { x1 with pinned := true } else x1
  let victim := if old.isNone then l2Victim cfg cls resv set else none
  if old.isNone && victim.isNone && decide (l2Ways ≤ set.length) then l2
  else
    let rest := l2.filter (fun x => x.line != line && (match victim with | some v => x.line != v.line | none => true))
    if reuse = 1 ∧ old.isNone then rest ++ [x2] else x2 :: rest

/-- The sectors that `n` bytes at an offset of a line touch. -/
def secMask (off n : Nat) : BitVec 4 :=
  BitVec.ofNat 4 ((List.range 4).foldl (fun m k =>
    if decide (32 * k < off + n) && decide (off < 32 * k + 32) then m + 2 ^ k else m) 0)

/-- A physical range line by line: line, offset in it, bytes. -/
def lineParts (pa n : Nat) : List (Nat × Nat × Nat) :=
  (lineNums pa n).map (fun l => (l, max pa (128 * l) - 128 * l, min (pa + n) (128 * l + 128) - max pa (128 * l)))

/-- The turn has requested a line of a home slice. -/
def Requests.asked (q : Requests) (line : Nat) : Bool := q.lines.any (fun x => x.line == line)

/-- Sectors of a line are requested: as part of the turn's request for that line, or as a new one (R156). -/
def Requests.ask (q : Requests) (line : Nat) (secs : BitVec 4) : Requests :=
  { q with lines :=
      if q.asked line then q.lines.map (fun x => if x.line = line then { x with secs := x.secs ||| secs } else x)
      else q.lines ++ [⟨q.tag, line, secs⟩] }

/-- A write-back marks sectors of a line poisoned; event 0x02 of each follows the turn (Table 12.6). -/
def State.writeBack (s : State) (line : Nat) (bad : Nat → Bool) : State :=
  let secs := (List.range 4).filter bad |>.map (fun k => 4 * line + k)
  let s1 := secs.foldl State.spoil s
  { s1 with req := { s1.req with evicted := s1.req.evicted ++ secs } }

/-- A line leaves its home slice. One that has been written goes back to its stack: what an uncorrectable error in the line has lost, or what
was written in part into an uncorrectable sector, is marked poisoned (Table 12.6). DESIGN CHOICE (log 47). -/
def State.putOut (s : State) (x : L2Line) : State :=
  if s.soft.isEmpty then s
  else
    let lost := s.soft.contains (.l2 x.line)
    let s1 : State := { s with soft := s.soft.filter (fun p => p != .l2 x.line) }
    if x.dirty then s1.writeBack x.line (fun k => lost || s.soft.contains (.stack (4 * x.line + k))) else s1

/-- The lines of a home slice become `new`; those that it held and holds no longer are put out. -/
def State.putLines (s : State) (d : Nat) (new : List L2Line) : State :=
  let s1 := s.modDie d (fun x => { x with l2 := new })
  if s.soft.isEmpty then s1
  else ((s.die d).l2.filter (fun x => !new.any (fun y => y.line == x.line))).foldl State.putOut s1

/-- A write of part of an uncorrectable sector that the home slice does not keep is a write-back of it. -/
def State.passLine (s : State) (line off n : Nat) : State :=
  if s.soft.isEmpty || (s.die (homeDie (128 * line))).l2.any (fun x => x.line == line) then s
  else s.writeBack line (fun k => s.soft.contains (.stack (4 * line + k)) && (secMask off n).getLsbD k
    && !(decide (off ≤ 32 * k) && decide (32 * k + 32 ≤ off + n)))

/-- One request for `n` bytes at an offset of one line; the accesses of the turn to a line that it has already requested are part of that request
(R156). `hint` is a reuse class (R154) plus 8 times an L2CLS, which names the class unless it is 0 (R152). -/
def State.l2Line (s : State) (cls hint : Nat) (wr : Bool) (line off n : Nat) : State :=
  let d := homeDie (128 * line)
  let c := if hint / 8 % 4 = 0 then cls else hint / 8 % 4
  if Config.physBytes ≤ 128 * line then s
  else
    let l2 := (s.die d).l2
    let s1 :=
      if s.req.asked line then
        (if wr then s.modDie d (fun x => { x with l2 := l2.map (fun y => if y.line = line then { y with dirty := true } else y) }) else s)
      else s.putLines d (l2Access (s.die d).l2cfg l2 (s.req.lines.map (fun y => y.line)) line c (hint % 8) wr)
    let s2 := if wr then s1.passLine line off n else s1
    { s2 with req := s2.req.ask line (secMask off n) }

/-- The requests for the lines of a physical range. -/
def State.l2Touch (s : State) (pa n cls hint : Nat) (wr : Bool) : State :=
  (lineParts pa n).foldl (fun acc l => acc.l2Line cls hint wr l.1 l.2.1 l.2.2) s

/-- The L2 class of an access that no PTE gives a class: of walkers, the host, peers and the device itself. DESIGN CHOICE (log 45). -/
def l2General : Nat := 3

/-! ## Pages in motion (R174 to R177) -/

/-- A compressed record of a stack. -/
def State.zrecord (s : State) (hs idx : Nat) : Option ZRec :=
  if 12 ≤ hs then none else (s.tier hs).records.find? (fun x => x.idx == idx)

/-- The page in motion whose destination frame is `frame`, on its die. -/
def State.movePage (s : State) (frame : Nat) : Option MovePage :=
  (s.die (homeDie (frame * 65536))).moves.find? (fun m => m.dst == frame)

/-- Bytes of one unit: a 1 KiB block of a promotion, a 128-byte line of a placement move. -/
def MovePage.unit (m : MovePage) : Nat := if m.src.isSome then 128 else 1024

/-- Where the bytes of a page in motion come from. -/
def State.moveSource (s : State) (m : MovePage) (i : Nat) : List Byte :=
  match m.src with
  | some f => s.read (f * 65536 + i * m.unit) m.unit
  | none =>
    match s.zrecord (m.record / 2 ^ 19) (m.record % 2 ^ 19) with
    | some rec => (rec.bytes.drop (i * m.unit)).take m.unit
    | none => []

/-- The bytes of a physical range at their home of this instant: what has not been pulled of a page in motion is still at the page's source
(R176). -/
def State.homeRead (s : State) (pa n : Nat) : List Byte :=
  (List.range n).map (fun i => match s.movePage ((pa + i) / 65536) with
    | some m =>
      let at_ := (pa + i) % 65536
      if m.pulled.contains (at_ / m.unit) then Cells.get s.mem (pa + i) else regGet 0 (s.moveSource m (at_ / m.unit)) (at_ % m.unit)
    | none => Cells.get s.mem (pa + i))

/-- Sectors that a pull or a compression finds uncorrectable: those of the stacks, and those of L2 lines with a soft error (Table 12.6). -/
def State.lostSectors (s : State) : List Nat :=
  s.badSectors ++ s.soft.flatMap (fun p => match p with
    | .l2 line => (List.range 4).map (fun k => 4 * line + k)
    | .stack _ | .scratch _ _ _ | .group _ => [])

/-- Sectors of unit `i` that are uncorrectable at the source, by their number in the page: they stay so at the destination (R161). -/
def State.moveBad (s : State) (m : MovePage) (i : Nat) : List Nat :=
  let n := m.unit / 32
  let here (k : Nat) : Bool := decide (i * n ≤ k) && decide (k < i * n + n)
  match m.src with
  | some f => (s.lostSectors.filter (fun k => decide (2048 * f ≤ k) && decide (k < 2048 * f + 2048))).map (fun k => k - 2048 * f) |>.filter here
  | none =>
    match s.zrecord (m.record / 2 ^ 19) (m.record % 2 ^ 19) with
    | some rec => rec.bad.filter here
    | none => []

/-- Pull one unit that has not been pulled (R174, R175); PULLS of the destination's stack counts those pulled on first touch (Table 7.7;
log 51). -/
def State.pullUnit (s : State) (m : MovePage) (i : Nat) (touch : Bool) : State :=
  if m.pulled.contains i then s
  else
    let s1 := s.write (m.dst * 65536 + i * m.unit) (s.moveSource m i)
    let s2 := (s.moveBad m i).foldl (fun acc k => acc.spoil (2048 * m.dst + k)) s1
    let s3 := s2.modDie (homeDie (m.dst * 65536)) (fun d => { d with moves := d.moves.map (fun x =>
      if x.dst = m.dst then { x with pulled := x.pulled ++ [i] } else x) })
    if touch then s3.modTier (paStack (m.dst * 65536)) (fun t => { t with pulls := t.pulls + 1 }) else s3

/-- An access to a physical address pulls its unit first. -/
def State.pullAt (s : State) (pa : Nat) : State :=
  match s.movePage (pa / 65536) with
  | some m => s.pullUnit m (pa % 65536 / m.unit) true
  | none => s

/-- The bytes of moving pages that an access touches are pulled first (R174, R175). -/
def State.pullRange (s : State) (pa n : Nat) : State := (lineNums pa n).foldl (fun acc l => acc.pullAt (128 * l)) s

/-! ## Accesses by physical address -/

/-- An access by physical address at the home slices: what a move in progress owes it is pulled, and its lines are those of an access
without a PTE class (R151, R176). -/
def State.homeAccess (s : State) (pa n : Nat) (wr : Bool) : State := (s.pullRange pa n).l2Touch pa n l2General 0 wr

/-- A write of the device itself, of a walker or of the host, performed at the home slices. -/
def State.homeWrite (s : State) (pa : Nat) (bytes : List Byte) : State := (s.homeAccess pa bytes.length true).write pa bytes
def State.homeWrite64 (s : State) (pa : Nat) (x : DWord) : State := s.homeWrite pa (natLe 8 x.toNat)

end Sys2Proof.Machine
end

