-- ==== Sys2Proof/Machine/Records.lean ====
section
/-! DEFINITION. Records.lean: what the device itself writes into rings in memory: fault records (12 R272, R273), trace packets (15 R307 to
R309), the dirty log (13 R283). -/

namespace Sys2Proof.Machine

open Sys2Proof

/-! ## Fault records (R272, R273, Table 12.5) -/

/-- What a fault record holds. Its channel, in which R274 numbers it, is that of the working core whose split or engine it is about; the other
records are the Sidereal core's. DESIGN CHOICE (log 36). -/
structure RecordArgs where
  die       : Nat
  chan      : Nat := chanSidereal
  aux0      : DWord := 0
  aux1      : DWord := 0
  pc        : DWord := 0
  addr      : DWord := 0
  tmask     : Mask := 0
  ganginst  : Nat := 0
  lcid      : Nat := 0
  gh        : Nat := 0
  role      : Nat := 0
  split     : Nat := 0
  cause     : Nat := 0
  kind      : Nat := 0
  unhandled : Bool := false
  nested    : Bool := false
  engine    : Bool := false
  straddle  : Bool := false
  skidCyc   : Nat := 0
  skidIns   : Nat := 0
  port      : Nat := 0
  pattern   : Nat := 0
  launched  : Bool := false
  part      : Nat := 0

def bit (b : Bool) : Nat := if b then 1 else 0

/-- The low four doublewords of a record. -/
def recordLow (a : RecordArgs) (slot : Nat) (tick : Nat) (seq : BitVec 32) : List DWord :=
  [ BitVec.ofNat 64 (slot + 2 ^ 3 * (a.part % 8) + 2 ^ 6 * bit a.launched + 2 ^ 18 * (a.pattern % 1024)
      + 2 ^ 28 * (a.port % 4096) + 2 ^ 40 * (a.skidIns % 256) + 2 ^ 48 * (a.skidCyc % 65536)),
    BitVec.ofNat 64 (bit a.straddle + 2 * bit a.engine + 4 * bit a.nested + 8 * bit a.unhandled + 2 ^ 4 * a.kind
      + 2 ^ 8 * a.cause + 2 ^ 16 * (a.split % 4) + 2 ^ 18 * (a.role % 4) + 2 ^ 20 * (a.gh % 1024)
      + 2 ^ 30 * (a.lcid % 1024) + 2 ^ 40 * (a.ganginst % 2 ^ 24)),
    BitVec.ofNat 64 (a.tmask.toNat + 2 ^ 32 * seq.toNat),
    BitVec.ofNat 64 tick ]

/-- Append 64 bytes to the context's fault ring on its join die; a full ring counts LOST, and event 0x09 is logged as the turn ends (R272), on
the die of the record, which R274's list does not name: DESIGN CHOICE (log 36). -/
def State.ringRecord (s : State) (slot : Nat) (d : Nat) (words : List DWord) : State :=
  let jd := s.joinDie slot
  let r := ((s.die jd).slot slot).fring
  let sz := (r.base.extractLsb' 0 4).toNat
  if sz = 15 ∨ (r.prod - r.cons).toNat = 2 ^ (sz + 4) then
    (s.modSlotRegs jd slot (fun x => { x with fring := { x.fring with
      lost := if x.fring.lost = BitVec.allOnes 32 then x.fring.lost else x.fring.lost + 1 } })).noteLost d slot
  else
    let pa := (r.base &&& 0x7FFFFFFFC0).toNat + 64 * (r.prod.toNat % 2 ^ (sz + 4))
    ((s.homeWrite pa (words.flatMap (fun w => natLe 8 w.toNat))).modSlotRegs jd slot (fun x =>
      { x with fring := { x.fring with prod := x.fring.prod + 1 } })).notice 1

/-- Write one fault record and answer its SEQ. -/
def State.record (s : State) (slot : Nat) (a : RecordArgs) : BitVec 32 × State :=
  let (seq, s1) := s.nextSeq a.die a.chan
  (seq, s1.ringRecord slot a.die (recordLow a slot s.tickNow seq ++ [a.addr, a.pc, a.aux0, a.aux1]))

/-- The KIND 3 records of a dead-scope join: payloads four at a time under the same SEQ (R273). -/
def State.payloadRecords (s : State) (slot : Nat) (a : RecordArgs) (seq : BitVec 32) (ps : List DWord) : State :=
  (List.range ((ps.length + 3) / 4)).foldl (fun acc c =>
    acc.ringRecord slot a.die (recordLow { a with kind := 3, part := c } slot s.tickNow seq
      ++ (List.range 4).map (fun i => regGet 0 ps (4 * c + i)))) s

/-! ## Trace (R307 to R309, Table 15.4) -/

def packetWords (p : Packet) (delta : Nat) : List DWord :=
  let common : Nat := if p.type = 1 ∨ p.type = 6 then p.type
    else p.type + 2 ^ 3 * p.kind + 2 ^ 5 * p.aux + 2 ^ 7 * delta + 2 ^ 18 * (p.r.lcid % 1024) + 2 ^ 28 * (p.r.gh % 1024)
      + 2 ^ 38 * (p.r.k % 4) + 2 ^ 40 * p.pos + 2 ^ 44 * (p.hdr.extractLsb' 3 20).toNat
  [BitVec.ofNat 64 common, p.w]

def traceOn (r : Ring) : Bool := r.base.getLsbD 4

/-- Put 16 bytes into a trace buffer, or drop them (R307). -/
def State.traceRaw (s : State) (d slot : Nat) (words : List DWord) : State :=
  let r := ((s.die d).slot slot).trace
  let sz := (r.base.extractLsb' 0 4).toNat
  if (r.prod - r.cons).toNat = 2 ^ (sz + 10) then
    s.modSlotRegs d slot (fun x => { x with
      dropped := x.dropped + 1
      trace := { x.trace with lost := if x.trace.lost = BitVec.allOnes 32 then x.trace.lost else x.trace.lost + 1 } })
  else
    let pa := (r.base &&& 0x7FFFFFF000).toNat + 16 * (r.prod.toNat % 2 ^ (sz + 10))
    (s.homeWrite pa (words.flatMap (fun w => natLe 8 w.toNat))).modSlotRegs d slot (fun x =>
      { x with trace := { x.trace with prod := x.trace.prod + 1 }, traceTick := s.tickNow })

def State.traceFull (s : State) (d slot : Nat) : Bool :=
  let r := ((s.die d).slot slot).trace
  (r.prod - r.cons).toNat == 2 ^ ((r.base.extractLsb' 0 4).toNat + 10)

/-- A SYNC packet. -/
def State.traceSyncPkt (s : State) (d slot : Nat) : State :=
  s.traceRaw d slot (packetWords { type := 1, w := s.meridian } 0)

/-- After a loss, a LOSS packet and a SYNC come first (R307). -/
def State.traceRecover (s : State) (d slot : Nat) : State :=
  let x := (s.die d).slot slot
  if x.dropped = 0 ∨ s.traceFull d slot then s
  else
    let s1 := (s.traceRaw d slot (packetWords { type := 6, w := BitVec.ofNat 64 (2 ^ 32 * (x.dropped % 2 ^ 32)) } 0)).modSlotRegs
      d slot (fun y => { y with dropped := 0 })
    s1.traceSyncPkt d slot

/-- Write one packet, with a SYNC before it where DELTA would not fit. -/
def State.tracePut (s : State) (d slot : Nat) (p : Packet) : State :=
  let s1 := s.traceRecover d slot
  let far := decide (2047 < s1.tickNow - ((s1.die d).slot slot).traceTick)
  let s2 := if far then s1.traceSyncPkt d slot else s1
  s2.traceRaw d slot (packetWords p (s2.tickNow - ((s2.die d).slot slot).traceTick))

/-- Order of the packets of one tick in one stream: LCID, GH, split-table entry (R299). -/
def Packet.key (p : Packet) : Nat := (p.r.lcid * 1024 + p.r.gh) * 4 + p.r.k

/-- The packets of this tick of one stream are written. -/
def State.traceFlush (s : State) (d slot : Nat) : State :=
  let l := ((s.die d).slot slot).tickPkts
  if l.isEmpty then s
  else (sortBy Packet.key l).foldl (fun acc p => acc.tracePut d slot p) (s.modSlotRegs d slot (fun x => { x with tickPkts := [] }))

/-- The packets of this tick of every stream. -/
def State.traceFlushAll (s : State) : State :=
  (List.range 8).foldl (fun acc d => (List.range 8).foldl (fun a slot => a.traceFlush d slot) acc) s

/-- A packet of a stream that is on. -/
def State.trace (s : State) (d slot : Nat) (p : Packet) : State :=
  if traceOn ((s.die d).slot slot).trace then s.modSlotRegs d slot (fun x => { x with tickPkts := x.tickPkts ++ [p] }) else s

/-- Where the packets and records of a logical core are written: its die. -/
def State.dieOf (s : State) (slot lcid : Nat) : Nat :=
  match (s.lc slot lcid).placed with
  | some p => p.1
  | none => (s.lc slot lcid).die

/-- A trace packet of a split's instruction. -/
def State.traceAt (s : State) (r : SplitRef) (pc : DWord) (p : Packet) : State :=
  s.trace (s.dieOf r.slot r.lcid) r.slot { p with r := r, hdr := pcHdr pc, pos := pcPos pc }

/-- A MASK packet (R309). -/
def State.traceMask (s : State) (r : SplitRef) (pc : DWord) (kind aux : Nat) (old new : Mask) : State :=
  if old = new then s
  else s.traceAt r pc { type := 4, kind := kind, aux := aux, w := old ++ new }

/-- A FLOW packet (R309). -/
def State.traceFlow (s : State) (r : SplitRef) (pc target : DWord) : State :=
  s.traceAt r pc { type := 3, w := target }

/-! ## Dirty log (R283) -/

def State.dirtyLog (s : State) (slot va : Nat) : State :=
  let jd := s.joinDie slot
  let r := ((s.die jd).slot slot).dlog
  if !r.base.getLsbD 4 then s
  else
    let sz := (r.base.extractLsb' 0 4).toNat
    if (r.prod - r.cons).toNat = 2 ^ (sz + 9) then
      s.modSlotRegs jd slot (fun x => { x with dlog := { x.dlog with
        lost := if x.dlog.lost = BitVec.allOnes 32 then x.dlog.lost else x.dlog.lost + 1 } })
    else
      (s.homeWrite64 ((r.base &&& 0x7FFFFFF000).toNat + 8 * (r.prod.toNat % 2 ^ (sz + 9)))
        ((BitVec.ofNat 64 va &&& 0x1FFFFFFFFFF0000) ||| 1)).modSlotRegs jd slot (fun x =>
          { x with dlog := { x.dlog with prod := x.dlog.prod + 1 } })

end Sys2Proof.Machine
end

