-- ==== Sys2Proof/Machine/Translate.lean ====
section
/-! DEFINITION. Translate.lean: page tables, TLBs, translation faults, accessed and dirty bits, promotion (07 R162 to R169, R174, R177). -/

namespace Sys2Proof.Machine

open Sys2Proof

def Acc.writes : Acc → Bool
  | .write | .atomic | .ewrite => true
  | .read | .fetch | .eread => false

/-- KINDS of Table 7.5. -/
def Acc.kinds : Acc → BitVec 4
  | .read => 1 | .write => 2 | .atomic => 2 | .fetch => 4 | .eread => 9 | .ewrite => 10

/-- What a translation answers. -/
inductive TRes where
  /-- A physical address and the L2 class of its PTE. -/
  | phys (pa cls : Nat)
  | remote (rank pa : Nat)
  /-- XLATE with LEVEL and REASON (R169). -/
  | fault (level reason : Nat)
  /-- A fetch from a page without X: ACCESS (R75). -/
  | noX
  /-- An uncorrectable error met in a table (R161, Table 12.6). -/
  | ecc (e : Exc)
  /-- A promotion that finds no free slot waits (R177). -/
  | wait
deriving DecidableEq, Repr

def TRes.isRemote (t : TRes) : Bool :=
  match t with
  | .remote _ _ => true
  | .phys _ _ | .fault _ _ | .noX | .ecc _ | .wait => false

/-- Some piece lies in the memory of a peer. -/
def hasRemote (ps : List (TRes × Nat)) : Bool := ps.any (fun p => p.1.isRemote)

/-! ## Table entries -/

def pteV (e : DWord) : Bool := e.getLsbD 0
def pteR (e : DWord) : Bool := e.getLsbD 4
def pteW (e : DWord) : Bool := e.getLsbD 5
def pteX (e : DWord) : Bool := e.getLsbD 6
def pteD (e : DWord) : Bool := e.getLsbD 8
def pteFrame (e : DWord) : Nat := (e.extractLsb' 16 23).toNat
def pteRank (e : DWord) : Nat := (e.extractLsb' 39 12).toNat
def pteContig (e : DWord) : Bool := e.getLsbD 51
def pteClass (e : DWord) : Nat := (e.extractLsb' 52 2).toNat
def pteTier (e : DWord) : Nat := (e.extractLsb' 54 2).toNat
def ptePhint (e : DWord) : Nat := (e.extractLsb' 56 4).toNat
def pteRmt (e : DWord) : Bool := e.getLsbD 63
/-- A PTE with another FRAME. -/
def pteSetFrame (e : DWord) (f : Nat) : DWord := (e &&& ~~~((0x7FFFFF : DWord) <<< 16)) ||| (BitVec.ofNat 64 (f % 2 ^ 23) <<< 16)
def pteSetTier (e : DWord) (t : Nat) : DWord := (e &&& ~~~((3 : DWord) <<< 54)) ||| (BitVec.ofNat 64 (t % 4) <<< 54)

/-- Table pointer: its RSVD fields (Table 7.2). -/
def ptrBad (e : DWord) : Bool := e.extractLsb' 39 25 != 0 || e.extractLsb' 1 12 != 0
def ptrNext (e : DWord) : Nat := (e &&& 0x7FFFFFE000).toNat

/-- PTE: RSVD fields and reserved codes (Table 7.3, R164). DEDUCED (log 28). -/
def pteBad (e : DWord) : Bool :=
  e.extractLsb' 60 3 != 0 || e.extractLsb' 9 7 != 0 || e.extractLsb' 1 3 != 0 || pteTier e == 3
    || decide (14 ≤ ptePhint e)
    || (if pteRmt e then pteTier e != 0 || ptePhint e != 0 || pteContig e || pteX e else pteRank e != 0)

/-- Index and level widths of Table 7.1. -/
def vaIndex (va level : Nat) : Nat :=
  if level = 3 then bitsOf va 46 11 else if level = 2 then bitsOf va 36 10 else if level = 1 then bitsOf va 26 10
  else bitsOf va 16 10

/-- A walk from the root: the physical address of the PTE and the PTE, or the failing level and reason (R169). -/
inductive WalkRes where
  | pte (pa : Nat) (e : DWord)
  | fault (level reason : Nat)
  | ecc (e : Exc)
deriving DecidableEq, Repr

/-- A walk from a table, which reads each entry at its home: what a move owes is pulled first (R174 to R176). A NEXT at or above 432 GiB, or in
a compressed region, has no fate in R169: it is read as it stands (log 51). -/
def walkFrom (s : State) (va : Nat) : Nat → Nat → WalkRes
  | 0, table =>
    let pa := table + 8 * vaIndex va 0
    let u := s.pullRange pa 8
    let e := u.read64 pa
    match u.eccOf pa 8 with
    | some x => .ecc x
    | none => if !pteV e then .fault 0 0 else if pteBad e then .fault 0 2 else .pte pa e
  | level + 1, table =>
    let pa := table + 8 * vaIndex va (level + 1)
    let u := s.pullRange pa 8
    let e := u.read64 pa
    match u.eccOf pa 8 with
    | some x => .ecc x
    | none =>
      if !pteV e then .fault (level + 1) 0
      else if ptrBad e then .fault (level + 1) 2
      else walkFrom s va level (ptrNext e)

/-- The table entries that a walk reads, from level 3 down. -/
def walkReads (s : State) (va : Nat) : Nat → Nat → List Nat
  | 0, table => [table + 8 * vaIndex va 0]
  | level + 1, table =>
    let pa := table + 8 * vaIndex va (level + 1)
    let e := (s.pullRange pa 8).read64 pa
    pa :: (if pteV e && !ptrBad e then walkReads s va level (ptrNext e) else [])

def walk (s : State) (root va : Nat) : WalkRes := walkFrom s va 3 root

/-- The record a TIER 1 FRAME names: stack and index (Table 7.3). -/
def tierOneOf (e : DWord) : Nat × Nat := (pteFrame e / 2 ^ 19, pteFrame e % 2 ^ 19)

/-- The FRAME tests at level 0 (R169). -/
def frameFault (s : State) (e : DWord) : Option Nat :=
  if pteRmt e then none
  else if pteTier e = 1 then
    (match s.zrecord (tierOneOf e).1 (tierOneOf e).2 with
     | some _ => none
     | none => some 2)
  else if Config.physBytes ≤ pteFrame e * 65536 then some 3
  else if s.inRegion (pteFrame e * 65536) then some 3
  else none

def permits (a : Acc) (e : DWord) : Bool :=
  match a with
  | .read | .eread => pteR e
  | .write | .ewrite => pteW e
  | .atomic => pteR e && pteW e
  | .fetch => pteX e

/-! ## Accessed and dirty bits (R165) -/

/-- R165: AC, and D for a write, by an indivisible OR at the PTE's home; a new D is logged. -/
def State.setAcD (s0 : State) (slot va pa : Nat) (a : Acc) : State :=
  let s := s0.pullRange pa 8
  let e := s.read64 pa
  let n := e ||| 0x80 ||| (if a.writes then 0x100 else 0)
  let s1 := if n = e then s else s.homeWrite64 pa n
  if a.writes && !pteD e then s1.dirtyLog slot va else s1

/-! ## Promotion (R174, R177) -/

/-- R174: the first access to a TIER 1 page takes the frame pushed first on the record's stack; the PTE becomes TIER 2. With no free slot it
waits, a free frame or none (R177; log 51). -/
inductive PromoteRes where
  | done (e : DWord) (s : State)
  | noFrame
  | noSlot

def State.promote (s : State) (slot va pa : Nat) (e : DWord) : PromoteRes :=
  let (hs, _) := tierOneOf e
  let d := (stackDie hs).1
  if 64 ≤ (s.die d).moves.length then .noSlot
  else match (s.tier hs).frames with
    | [] => .noFrame
    | f :: fs =>
      let n := pteSetTier (pteSetFrame e f) 2
      .done n (((s.homeWrite64 pa n).modTier hs (fun t => { t with frames := fs })).modDie d (fun x =>
        { x with moves := x.moves ++ [⟨slot, va / 65536, pa, none, pteFrame e, f, []⟩] }))

/-! ## TLBs (R167) -/

/-- Where a translation is made: the die, and the core whose L1 TLB serves it. -/
structure Port where
  die  : Nat
  core : Option Nat
deriving DecidableEq, Repr

/-- An entry that covers a page: its own, or one of its CONTIG run, whose TIER is 0 (R166). -/
def TlbEnt.covers (e : TlbEnt) (slot vp : Nat) : Bool :=
  e.slot == slot && (e.vpage == vp || (pteContig e.pte && pteTier e.pte == 0 && e.vpage / 32 == vp / 32))

/-- An entry as it applies to a page of its run; AC and D of another page's PTE are not known to be set (R165). -/
def TlbEnt.shift (e : TlbEnt) (vp : Nat) : TlbEnt :=
  { e with
    vpage := vp
    aset := e.aset && vp == e.vpage
    dset := e.dset && vp == e.vpage
    pte := pteSetFrame e.pte (pteFrame e.pte + vp - e.vpage)
    pteAddr := e.pteAddr + 8 * vp - 8 * e.vpage }

def State.tlbFind (s : State) (p : Port) (slot vp : Nat) : Option TlbEnt :=
  let l1 := match p.core with
    | some c => (((s.die p.die).core c).tlb.find? (fun (e : TlbEnt) => e.covers slot vp))
    | none => none
  match l1 with
  | some e => some (e.shift vp)
  | none => ((s.die p.die).tlb.find? (fun (e : TlbEnt) => e.covers slot vp)).map (fun (e : TlbEnt) => e.shift vp)

/-- Put an entry in front, dropping the oldest beyond the capacity. -/
def tlbPut (cap : Nat) (e : TlbEnt) (l : List TlbEnt) : List TlbEnt :=
  (e :: l.filter (fun x => !(x.slot == e.slot && x.vpage == e.vpage))).take cap

def State.tlbFill (s : State) (p : Port) (e : TlbEnt) : State :=
  let s1 := s.modDie p.die (fun d => { d with tlb := tlbPut 16384 e d.tlb })
  match p.core with
  | some c => s1.modCore p.die c (fun x => { x with tlb := tlbPut 256 e x.tlb })
  | none => s1

def State.rootOf (s : State) (slot : Nat) : Nat :=
  match s.ctx slot with
  | some c => c.root
  | none => 0

/-- The physical or remote address of a PTE with an offset. -/
def pteTarget (e : DWord) (va : Nat) : TRes :=
  let pa := pteFrame e * 65536 + va % 65536
  if pteRmt e then .remote (pteRank e) pa else .phys pa (pteClass e)

/-- A full walk with its updates; the walkers read the tables at their home slices (R151, R162). -/
def State.translateWalk (s0 : State) (p : Port) (slot va : Nat) (a : Acc) : TRes × State :=
  let s := (walkReads s0 va 3 (s0.rootOf slot)).foldl (fun acc pa => acc.homeAccess pa 8 false) s0
  match walk s (s.rootOf slot) va with
  | .fault l r => (.fault l r, s)
  | .ecc x => (.ecc x, s)
  | .pte pa e =>
    match frameFault s e with
    | some r => (.fault 0 r, s)
    | none =>
      if !permits a e then ((if a = .fetch then .noX else .fault 0 1), s)
      else if pteTier e = 1 then
        match s.promote slot va pa e with
        | .noSlot => (.wait, s)
        | .noFrame => (.fault 0 4, s)
        | .done n s1 => (pteTarget n va, (s1.setAcD slot va pa a).tlbFill p ⟨slot, va / 65536, n, true, a.writes || pteD n, pa⟩)
      else (pteTarget e va, (s.setAcD slot va pa a).tlbFill p ⟨slot, va / 65536, e, true, a.writes || pteD e, pa⟩)

/-- Translate one address of a context for an access: a held TLB entry may be used (R167), else a walk. The access that first needs AC or D set
reads the PTE, whose ECC it meets (R161, R165). The bytes of a moving page are pulled by the access itself. -/
def State.translate (s : State) (p : Port) (slot va : Nat) (a : Acc) : TRes × State :=
  match s.tlbFind p slot (va / 65536) with
  | none => s.translateWalk p slot va a
  | some e =>
    let (dr, s1) := s.draw
    if !Config.tlbHits dr || !permits a e.pte then s1.translateWalk p slot va a
    else if !e.aset || (a.writes && !e.dset) then
      let s2 := s1.homeAccess e.pteAddr 8 false
      let now := s2.read64 e.pteAddr
      match s2.eccOf e.pteAddr 8 with
      | some x => (.ecc x, s2)
      | none =>
        if pteV now && pteFrame now == pteFrame e.pte then
          (pteTarget e.pte va, (s2.setAcD slot va e.pteAddr a).tlbFill p { e with aset := true, dset := e.dset || a.writes })
        else s2.translateWalk p slot va a
    else (pteTarget e.pte va, s1)

/-- A translation that a TLB holds: for line reservation and the footprint sampler, which set neither AC nor D (R165). -/
def State.heldPa (s : State) (p : Port) (slot va : Nat) : Option Nat :=
  (s.tlbFind p slot (va / 65536)).bind (fun e => if pteRmt e.pte then none else some (pteFrame e.pte * 65536 + va % 65536))

/-- A walk that changes nothing, for PREF (R165) and for reading a header while choosing a split (R79): where the address lies; `wait` for a
page that the walk of an access would promote. -/
def State.peekTo (s : State) (slot va : Nat) (a : Acc) : TRes :=
  match walk s (s.rootOf slot) va with
  | .fault l r => .fault l r
  | .ecc x => .ecc x
  | .pte _ e =>
    match frameFault s e with
    | some r => .fault 0 r
    | none => if !permits a e then .fault 0 1 else if pteTier e = 1 then .wait else pteTarget e va

/-- The physical address where a peek finds one. -/
def State.peek (s : State) (slot va : Nat) (a : Acc) : Option Nat :=
  match s.peekTo slot va a with
  | .phys pa _ => some pa
  | .remote _ _ | .fault _ _ | .noX | .ecc _ | .wait => none

end Sys2Proof.Machine
end

