-- ==== Sys2Proof/Machine/Access.lean ====
section
/-! DEFINITION. Access.lean: addresses by path (06 R136 to R145), reads and writes of global memory, scratchpads, register
windows and publish buffers, the store queue and the core order (10 R241, 06 R147), the L1 (R146 to R149), the L2 home
slices (R151 to R155) and accesses to a peer's memory (07 R164, 14 R296). -/

namespace Sys2Proof.Machine

open Sys2Proof

/-- An access's answer: a value, a cause, or a wait for a peer's reply or a free slot (the state then holds the request). -/
inductive MRes (α : Type) where
  | ok (a : α) (s : State)
  | fault (e : Exc)
  | wait (s : State)

/-- The state that a wait leaves, else another one. -/
def MRes.waitOr {α : Type} (m : MRes α) (s : State) : State :=
  match m with
  | .wait s1 => s1
  | .ok _ _ | .fault _ => s

/-- Go on with a value; a cause or a wait ends it. -/
def MRes.bind {α β : Type} (m : MRes α) (f : α → State → MRes β) : MRes β :=
  match m with
  | .ok a s => f a s
  | .fault e => .fault e
  | .wait s => .wait s

/-- Who makes an access: its requester (for remote replies), context slot, logical core, group handle and TLB port. -/
structure Cx where
  who  : Waiter
  slot : Nat
  lcid : Nat
  gh   : Nat
  port : Port
deriving DecidableEq, Repr

/-- The rank that every access of a context names toward peers: RSELF of its slot (Table 14.2). DEDUCED (log 46). -/
def State.slotRank (s : State) (slot : Nat) : Nat := bitsOf (regGet 0 s.pkg.rsel slot).toNat 0 12

/-- The port of a logical core's translations. -/
def State.portOf (s : State) (slot lcid : Nat) : Port := ⟨s.dieOf slot lcid, ((s.lc slot lcid).placed).map (fun p => p.2)⟩

/-- The access context of a split's instruction. -/
def State.cxOf (s : State) (r : SplitRef) : Cx := ⟨.split r, r.slot, r.lcid, r.gh, s.portOf r.slot r.lcid⟩

/-- The instruction that a requester has issued and that waits for a peer or a promotion. -/
def State.heldOf (s : State) (who : Waiter) : Option Held :=
  match who with
  | .split r => (s.split? r).bind (fun sp => sp.held)
  | .cpa _ _ _ | .record _ _ _ _ | .start _ _ | .fire _ _ _ | .pref _ _ _ _ _ => none

/-! ## Addresses (Table 6.1, Table 6.3) -/

inductive Place where
  | global (path va : Nat)
  | scratch (lcid off : Nat)
  | window (lcid gh cls idx : Nat)
  | pub (id off : Nat)
deriving DecidableEq, Repr

def addrPath (a : DWord) : Nat := (a.extractLsb' 60 4).toNat

/-- The place of an address; none for a reserved path, a non-zero RSVD field or an LCID beyond the context (R136). -/
def placeOf (c : Context) (lcid : Nat) (a : DWord) : Option Place :=
  let x := a.toNat
  match addrPath a with
  | 0 => if bitsOf x 57 3 = 0 then some (.global 0 (bitsOf x 0 57)) else none
  | 1 => if bitsOf x 57 3 = 0 then some (.global 1 (bitsOf x 0 57)) else none
  | 2 => if bitsOf x 57 3 = 0 then some (.global 2 (bitsOf x 0 57)) else none
  | 3 => if bitsOf x 20 40 = 0 then some (.scratch lcid (bitsOf x 0 20)) else none
  | 4 => if bitsOf x 20 30 = 0 ∧ bitsOf x 50 10 < c.lcs.length then some (.scratch (bitsOf x 50 10) (bitsOf x 0 20)) else none
  | 5 =>
    if bitsOf x 32 8 = 0 ∧ bitsOf x 15 15 = 0 ∧ bitsOf x 50 10 < c.lcs.length then
      let cls := bitsOf x 30 2
      let i := bitsOf x 0 15
      if (cls = 1 ∧ 1024 ≤ i) ∨ (cls = 2 ∧ 0x21 ≤ i) ∨ (cls = 3 ∧ 512 ≤ i) then none
      else some (.window (bitsOf x 50 10) (bitsOf x 40 10) cls i)
    else none
  | 6 => if bitsOf x 32 20 = 0 then some (.pub (bitsOf x 52 8) (bitsOf x 0 32)) else none
  | _ => none

/-- Table 6.2 for loads, stores and atomics, engine reads and engine writes. -/
def pathPermits (path : Nat) (a : Acc) : Bool :=
  match a with
  | .read => decide (path ≤ 6)
  | .write => path == 0 || path == 1 || path == 3 || path == 4 || path == 5
  | .atomic => path == 0 || path == 1 || path == 3 || path == 4
  | .fetch => path == 0 || path == 2
  | .eread => decide (path ≤ 4)
  | .ewrite => path == 0 || path == 1 || path == 3 || path == 4 || path == 5

/-! ## Register windows (R143, R144) -/

/-- Bytes of the registers of a class: class 2 ends with the one byte of the uniform predicates (Table 6.3). -/
def windowSize (g : Group) (cls : Nat) : Nat :=
  match cls with
  | 0 => 128 * g.ctl.budget
  | 1 => 8 * 128
  | 2 => 4 * 8 + 1
  | _ => 32 * 16

/-- One register byte; a lane that has exited reads zero, its bit of a predicate too (R144). -/
def windowByte (g : Group) (cls idx : Nat) : Byte :=
  match cls with
  | 0 =>
    let j := idx / 4 % 32
    if Mask.has g.ctl.live j then (g.v (idx / 128) j).extractLsb' (8 * (idx % 4)) 8 else 0
  | 1 => (g.s (idx / 8)).extractLsb' (8 * (idx % 8)) 8
  | 2 =>
    if idx < 0x20 then (g.p (idx / 4) &&& g.ctl.live).extractLsb' (8 * (idx % 4)) 8
    else BitVec.ofNat 8 ((List.range 8).foldl (fun acc k => acc + (if g.q k then 2 ^ k else 0)) 0)
  | _ => (g.a (idx / 32)).extractLsb' (8 * (idx % 32)) 8

def putByte {w : Nat} (x : BitVec w) (i : Nat) (b : Byte) : BitVec w :=
  (x &&& ~~~((0xFF : BitVec w) <<< (8 * i))) ||| (b.setWidth w <<< (8 * i))

/-- Write one register byte with the caliper effect of R61; a lane that has exited keeps its word and its bit of a predicate, and writes to
p7 and q7 are discarded (R144). -/
def windowPut (g : Group) (cls idx : Nat) (b : Byte) : Group :=
  match cls with
  | 0 =>
    let r := idx / 128
    let j := idx / 4 % 32
    if Mask.has g.ctl.live j then
      (g.setVec r (Mask.ofFn (fun x => x == j)) (List.replicate 32 (putByte (g.v r j) (idx % 4) b))).calReset r none
    else g
  | 1 => g.setS (idx / 8) (putByte (g.s (idx / 8)) (idx % 8) b)
  | 2 =>
    if idx < 0x20 then g.setP (idx / 4) g.ctl.live (putByte (g.p (idx / 4)) (idx % 4) b)
    else (List.range 8).foldl (fun acc k => acc.setQ k (b.getLsbD k)) g
  | _ => g.setA (idx / 32) (putByte (g.a (idx / 32)) (idx % 32) b)

/-! ## Bytes written and forwarding -/

def applyWr (old : Byte) (w : ByteWr) : Byte := (old &&& ~~~w.bits) ||| (w.val &&& w.bits)

/-- The registers of a group with the writes of a list to its window laid over them, as they will be performed: what an exited lane, p7 and q7
discard stays as it is (R144). -/
def windowView (g : Group) (ws : List ByteWr) (lcid gh : Nat) : Group :=
  ws.foldl (fun acc w => match w.loc with
    | .window l h cls idx => if l = lcid ∧ h = gh then windowPut acc cls idx (applyWr (windowByte acc cls idx) w) else acc
    | .phys _ | .scratch _ _ => acc) g

/-- A byte as the writes of a list leave it, oldest first. -/
def forward (ws : List ByteWr) (l : Loc) (b : Byte) : Byte :=
  ws.foldl (fun acc w => if w.loc = l then applyWr acc w else acc) b

/-- Writes of a group's queue, and of its logical core's order, not yet performed (R241). -/
def Group.queued (g : Group) : List ByteWr := g.storeQ.flatMap (fun e => e.wr)
def LogicalCore.leaving (l : LogicalCore) : List ByteWr := l.outbound.flatten

/-- The writes a group sees before they are performed: its logical core's, then its own. -/
def State.ownWrites (s : State) (cx : Cx) : List ByteWr :=
  (s.lc cx.slot cx.lcid).leaving ++
    (match s.group? ⟨cx.slot, cx.lcid, cx.gh⟩ with
     | some g => g.queued
     | none => [])

/-- Perform one byte where it belongs. -/
def State.putByteWr (s : State) (slot : Nat) (w : ByteWr) : State :=
  match w.loc with
  | .phys pa => if Config.physBytes ≤ pa then s else { s with mem := Cells.set s.mem pa (applyWr (Cells.get s.mem pa) w) }
  | .scratch lcid off => s.modLc slot lcid (fun l => { l with scratch := Cells.set l.scratch off (applyWr (Cells.get l.scratch off) w) })
  | .window lcid gh cls idx => s.modGroup ⟨slot, lcid, gh⟩ (fun g => windowPut g cls idx (applyWr (windowByte g cls idx) w))

/-- A byte that a write rewrites, with the context slot of a scratchpad; a write of some of its bits rewrites none. -/
def ByteWr.rewrites (slot : Nat) (w : ByteWr) : Option (Nat × Loc) :=
  if w.bits = 0xFF then
    (match w.loc with
     | .phys pa => some (0, .phys pa)
     | .scratch lcid off => some (slot, .scratch lcid off)
     | .window _ _ _ _ => none)
  else none

/-- A batch of writes is performed; a place that they complete the rewriting of loses its poison or its error (Table 12.6). -/
def State.putAll (s : State) (slot : Nat) (ws : List ByteWr) : State :=
  (ws.foldl (fun acc w => acc.putByteWr slot w) s).rewrite (ws.filterMap (ByteWr.rewrites slot))

def isPhys (w : ByteWr) : Bool :=
  match w.loc with
  | .phys _ => true
  | .scratch _ _ | .window _ _ _ _ => false

/-- The aligned 16-byte chunk of a byte (R237). -/
def Loc.chunk : Loc → Loc
  | .phys pa => .phys (pa / 16)
  | .scratch lcid off => .scratch lcid (off / 16)
  | .window lcid gh cls idx => .window lcid gh cls (idx / 16)

/-- The chunks that some writes touch, and the writes in one of them. -/
def storeChunks (ws : List ByteWr) : List Loc := (ws.map (fun w => w.loc.chunk)).dedup
def writesIn (c : Loc) (ws : List ByteWr) : List ByteWr := ws.filter (fun w => w.loc.chunk == c)

/-- A store leaves its group's queue: the lines it touches leave the issuing core's L1 (R147), its scratchpad and window
bytes are performed, its global bytes enter the core order. -/
def State.leave (s : State) (r : GroupRef) (e : StoreEnt) : State :=
  let s1 := match (s.lc r.slot r.lcid).placed with
    | some p => s.modCore p.1 p.2 (fun c =>
        { c with l1 := c.l1.filter (fun x => !(x.slot == r.slot && e.lines.contains x.line)) })
    | none => s
  let here := e.wr.filterMap (fun w => match w.loc with
    | .scratch lcid off => if lcid = r.lcid then some off else none
    | .phys _ | .window _ _ _ _ => none)
  let s2 := (s1.putAll r.slot (e.wr.filter (fun w => !isPhys w))).modGroup r (fun g => g.wrote here)
  let g := e.wr.filter isPhys
  if g.isEmpty then s2
  else s2.modLc r.slot r.lcid (fun l => { l with outbound := l.outbound ++ (storeChunks g).map (fun c => writesIn c g) })

/-- STORE_QUEUE_DRAIN: a part of the oldest store of a group leaves. The lanes of one instruction are not ordered among themselves (R228),
so any aligned 16-byte chunk of it goes first, by a free draw. -/
def State.drainOne (s : State) (r : GroupRef) : State :=
  match s.group? r with
  | some g =>
    match g.storeQ with
    | e :: es =>
      let (n, s1) := s.draw
      match storeChunks e.wr with
      | [] => s1.setGroup r { g with storeQ := es }
      | c :: cs =>
        let k := regGet c (c :: cs) (Config.pick n % (cs.length + 1))
        let rest := e.wr.filter (fun w => w.loc.chunk != k)
        (s1.setGroup r { g with storeQ := if rest.isEmpty then es else { e with wr := rest } :: es }).leave r { e with wr := writesIn k e.wr }
    | [] => s
  | none => s

/-- The oldest store of a group leaves whole. -/
def State.drainHead (s : State) (r : GroupRef) : State :=
  match s.group? r with
  | some g =>
    match g.storeQ with
    | e :: es => (s.setGroup r { g with storeQ := es }).leave r e
    | [] => s
  | none => s

def State.drainAll (s : State) (r : GroupRef) : State :=
  match s.group? r with
  | some g => iterate (fun x => x.drainHead r) g.storeQ.length s
  | none => s

/-- The stores of an MST leave, and those before them (R369). -/
def State.drainMst (s : State) (r : GroupRef) (n : Nat) : State :=
  match s.group? r with
  | some g => iterate (fun x => x.drainHead r) (g.storeQ.length - (g.storeQ.reverse.takeWhile (fun e => e.mst != some n)).length) s
  | none => s

/-- Perform every store of a logical core at its home slice. -/
def State.performAll (s : State) (slot lcid : Nat) : State :=
  (s.lc slot lcid).outbound.foldl (fun acc e => acc.putAll slot e) s |>.modLc slot lcid (fun l => { l with outbound := [] })

/-- Two lists of writes touch a common byte. -/
def overlaps (a b : List ByteWr) : Bool := a.any (fun x => b.any (fun y => x.loc == y.loc))

/-- Perform entry `n` of a core order: not past an earlier entry on a common byte (R241). DESIGN CHOICE (log 37). -/
def State.performOne (s : State) (slot lcid n : Nat) : State :=
  let l := s.lc slot lcid
  match l.outbound[n]? with
  | none => s
  | some e =>
    if (l.outbound.take n).any (fun x => overlaps x e) then s
    else (s.putAll slot e).modLc slot lcid (fun x => { x with outbound := x.outbound.take n ++ x.outbound.drop (n + 1) })

/-- The scratchpad as an MMA reads it: of each aligned 16-byte chunk that another agent has changed since the issue, the old bytes or
the new ones, by a free draw (R134; log 5). -/
def MmaJob.seen (j : MmaJob) (n : Nat) (now : Cells) : Cells :=
  let chunks := ((j.scratch ++ now).map (fun x => x.1 / 16)).dedup
  chunks.foldl (fun m c =>
    if j.own.contains c || !Config.mixNew n c then m else Cells.write m (16 * c) (Cells.read now (16 * c) 16)) j.scratch

/-- An MMA of the group may still read its operands. -/
def Group.reading (g : Group) : Bool := g.inflight.any (fun p => p.job.any (fun j => j.fixed.isNone))

/-- The MMAs of a group have read their scratchpad bytes: a FENCE makes their reads accesses before whatever now follows (R134, R345). An
access that is a release leaves them open (R416). -/
def State.readsDone (s : State) (r : GroupRef) : State :=
  match s.group? r with
  | none => s
  | some g =>
    if !g.reading then s
    else
      let (n, s1) := s.draw
      let now := (s.lc r.slot r.lcid).scratch
      s1.setGroup r { g with inflight := g.inflight.map (fun p => { p with job := p.job.map (fun j =>
        { j with fixed := some (j.fixed.getD (j.seen n now)) }) }) }

/-- Everything the group stored is performed, as a release of a scope wider than the logical core asks. -/
def State.flush (s : State) (r : GroupRef) : State := (s.drainAll r).performAll r.slot r.lcid

/-- What a release of a scope asks of the group's earlier stores (R229). -/
def State.releaseAt (s : State) (r : GroupRef) (sc : Scope) : State :=
  match sc with
  | .group => s
  | .core => s.drainAll r
  | .die | .device | .system => s.flush r

/-! ## Accesses to a peer (R156, R164, R296) -/

/-- A flit leaves on a port, or is held there for a rank that drains (R281). -/
def State.sendFlit (s : State) (port rank : Nat) (f : Flit) : State :=
  if s.pkg.holds.contains (port, rank) then { s with pkg := { s.pkg with heldFor := s.pkg.heldFor ++ [(port, rank, f)] } }
  else { s with linkOut := s.linkOut ++ [.flit port rank f] }

/-- The port on which accesses to a rank leave: one of those that are up; none being up, the access waits on a port that is not.
DESIGN CHOICE (log 5). -/
def State.linkTo (s : State) (rank : Nat) : Nat :=
  match s.upPorts with
  | [] => Config.linkPort rank % 16
  | ps => regGet 0 ps (Config.linkPort rank % ps.length)

/-- What a request asks of a line with what another asks of it as well; none where they are of two kinds. -/
def PeerAsk.join : PeerAsk → PeerAsk → Option PeerAsk
  | .read, .read => some .read
  | .probe, .probe => some .probe
  | .write b m, .write c n =>
    some (.write (((b.zip c).zip n).map (fun x => (x.1.1 &&& ~~~x.2) ||| (x.1.2 &&& x.2))) ((m.zip n).map (fun x => x.1 ||| x.2)))
  | .rmw a, .rmw b => some (.rmw (a ++ b))
  | .read, _ | .probe, _ | .write _ _, _ | .rmw _, _ => none

/-- The requests of a turn to peers with one more ask: the lanes of an instruction share a request for a line (R156). -/
def askPeer (y : RemoteTxn) : List RemoteTxn → List RemoteTxn
  | [] => [y]
  | x :: xs =>
    match x.ask.join y.ask with
    | some a =>
      if x.who = y.who ∧ x.rank = y.rank ∧ x.line = y.line then { x with ask := a, secs := x.secs ||| y.secs } :: xs
      else x :: askPeer y xs
    | none => x :: askPeer y xs

/-- A request in progress covers an ask: a read of its sectors, a write or a test of one, the operation of a lane. -/
def RemoteTxn.covers (x : RemoteTxn) (who : Waiter) (rank line : Nat) (secs : BitVec 4) (ask : PeerAsk) : Bool :=
  x.who == who && x.rank == rank && x.line == line &&
    (match x.ask, ask with
     | .read, .read => secs &&& ~~~x.secs == 0
     | .write _ _, .write _ _ => true
     | .probe, .probe => true
     | .rmw a, .rmw b => b.all (fun y => a.any (fun z => z.1 == y.1))
     | .read, _ | .write _ _, _ | .probe, _ | .rmw _, _ => false)

def PeerOp.size : PeerOp → Nat
  | .atomic n _ _ _ => n
  | .cas n _ _ => n

/-- The part of an answer that an ask is for: all of it, or the value that the operation of its lane read. -/
def RemoteTxn.part (x : RemoteTxn) (ask : PeerAsk) (b : List Byte) : List Byte :=
  match x.ask, ask with
  | .rmw ops, .rmw ((j, _, op) :: _) =>
    (b.drop (((ops.takeWhile (fun z => z.1 != j)).map (fun z => PeerOp.size z.2.2)).foldl (fun m n => m + n) 0)).take (PeerOp.size op)
  | _, _ => b

/-- Ask something of a line of a peer, once, and look for the answer: `exc` is what a refusal raises (R296), and the ECC of an uncorrectable
sector (R161). The request leaves when the turn ends. -/
def State.remoteDo (s : State) (cx : Cx) (rank line : Nat) (secs : BitVec 4) (ask : PeerAsk) (exc : Exc) : MRes (List Byte) :=
  match s.pkg.remote.find? (fun x => x.covers cx.who rank line secs ask) with
  | some x =>
    (match x.reply with
     | none => .wait s
     | some .refused => .fault exc
     | some (.ecc sec) => .fault { exc with cause := .ecc, tval := BitVec.ofNat 64 (32 * sec) }
     | some (.bytes b) => .ok (x.part ask b) s)
  | none => .wait { s with req := { s.req with asks := askPeer ⟨0, cx.who, s.req.tag, rank, line, secs, ask, [], false, none⟩ s.req.asks } }

/-- Bytes of a line at an offset, zeros around them. -/
def inLine (off : Nat) (b : List Byte) : List Byte := List.replicate off 0 ++ b ++ List.replicate (128 - off - b.length) 0

/-- Read a range of a peer's memory, line by line; a wait leaves no line unasked. -/
def State.remoteRead (s : State) (cx : Cx) (rank : Nat) (exc : Exc) : List (Nat × Nat × Nat) → MRes (List Byte)
  | [] => .ok [] s
  | (l, off, n) :: rest =>
    match s.remoteDo cx rank l (secMask off n) .read exc with
    | .ok b s1 => (s1.remoteRead cx rank exc rest).bind (fun bs s2 => .ok ((b.drop off).take n ++ bs) s2)
    | .wait s1 => .wait ((s1.remoteRead cx rank exc rest).waitOr s1)
    | .fault e => .fault e

/-- Write a range of a peer's memory line by line, or ask whether it would be admitted. -/
def State.remoteWrite (s : State) (cx : Cx) (rank : Nat) (exc : Exc) (probe : Bool) :
    List (Nat × Nat × Nat) → List (Byte × Byte) → MRes Unit
  | [], _ => .ok () s
  | (l, off, n) :: rest, bytes =>
    let ask : PeerAsk :=
      if probe then .probe else .write (inLine off ((bytes.take n).map (fun x => x.1))) (inLine off ((bytes.take n).map (fun x => x.2)))
    match s.remoteDo cx rank l (secMask off n) ask exc with
    | .ok _ s1 => s1.remoteWrite cx rank exc probe rest (bytes.drop n)
    | .wait s1 => .wait ((s1.remoteWrite cx rank exc probe rest (bytes.drop n)).waitOr s1)
    | .fault e => .fault e

/-- The flit of a request: its sender's rank, and its line. -/
def RemoteTxn.flit (x : RemoteTxn) (self : Nat) : Flit :=
  match x.ask with
  | .read => .read self x.line x.secs x.txn
  | .write b m => .write self (128 * x.line) b m x.txn
  | .probe => .write self (128 * x.line) (List.replicate 128 0) (List.replicate 128 0) x.txn
  | .rmw ops => .rmw self x.line (ops.map (fun z => z.2)) x.txn

/-- The requests to peers that a turn has made leave. -/
def State.sendAsks (s : State) : State :=
  s.req.asks.foldl (fun acc x =>
    let y : RemoteTxn := { x with txn := acc.pkg.nextTxn, front := s.req.front }
    let s1 : State := { acc with pkg := { acc.pkg with remote := acc.pkg.remote ++ [y], nextTxn := acc.pkg.nextTxn + 1 } }
    s1.sendFlit (s.linkTo x.rank) x.rank (y.flit (s.slotRank x.who.slot))) s

/-- The requester's finished transactions are forgotten. -/
def State.remoteDone (s : State) (who : Waiter) : State :=
  { s with pkg := { s.pkg with remote := s.pkg.remote.filter (fun x => x.who != who) } }

/-! ## Global accesses -/

/-- Pieces of a range that lie in one page each. -/
def pieces (va : Nat) : Nat → Nat → List (Nat × Nat)
  | 0, _ => []
  | fuel + 1, n =>
    let room := 65536 - va % 65536
    if n = 0 then [] else if n ≤ room then [(va, n)] else (va, room) :: pieces ((va + room) % 2 ^ 57) fuel (n - room)

/-- What kind of virtual access is made: its address with path bits for the records. -/
structure VReq where
  addr   : DWord
  va     : Nat
  n      : Nat
  acc    : Acc
  packed : Bool
  spill  : Bool
deriving DecidableEq, Repr

/-- The cause of a failed translation of the piece at `va`, of a range of one or several pieces (R120, R169, R170). -/
def VReq.exc (q : VReq) (va : Nat) (straddle : Bool) (level reason : Nat) : Exc :=
  let base : DWord := q.addr &&& 0xF000000000000000
  let a : DWord := base ||| BitVec.ofNat 64 (if straddle then va / 65536 * 65536 else va)
  { cause := if q.spill then .spillx else .xlate
    tval := a, addr := a, straddle := straddle, kinds := q.acc.kinds, level := level, reason := reason, port := 0 }

/-- A packed element that lies in two pages (R120). -/
def VReq.straddles (q : VReq) : Bool := q.packed && decide (65536 < q.va % 65536 + q.n)

/-- A cause met by the access to the piece at `va`: that of an element in two pages names the first byte of the page, with STRADDLE (R120);
the TVAL of ECC stays the sector's address (Table 12.1). -/
def VReq.met (q : VReq) (va : Nat) (e : Exc) : Exc :=
  let page : DWord := (q.addr &&& 0xF000000000000000) ||| BitVec.ofNat 64 (va / 65536 * 65536)
  if q.straddles then { e with addr := page, tval := if e.cause = .ecc then e.tval else page, straddle := true } else e

/-- The address after a piece. -/
def vaNext (va n : Nat) : Nat := (va + n) % 2 ^ 57

/-- The place that a translation has given. -/
def Trans.place (t : Trans) : TRes :=
  match t.rank with
  | some rank => .remote rank t.pa
  | none => .phys t.pa t.cls

/-- The translation of an address that a split's instruction has made already: one access is translated once. -/
def State.madeTrans (s : State) (cx : Cx) (va : Nat) (a : Acc) : Option TRes :=
  match cx.who with
  | .split _ =>
    ((((s.heldOf cx.who).map (fun h => h.trans)).getD [] ++ s.req.trans).find? (fun t => t.va == va && t.acc == a)).map Trans.place
  | .cpa _ _ _ | .record _ _ _ _ | .start _ _ | .fire _ _ _ | .pref _ _ _ _ _ => none

def State.noteTrans (s : State) (t : Trans) : State := { s with req := { s.req with trans := s.req.trans ++ [t] } }

/-- Translate every piece of a range before any byte is accessed. -/
def State.transPieces (s : State) (cx : Cx) (q : VReq) (straddle : Bool) :
    List (Nat × Nat) → List (TRes × Nat) → MRes (List (TRes × Nat))
  | [], acc => .ok acc.reverse s
  | (va, n) :: rest, acc =>
    match s.madeTrans cx va q.acc with
    | some t => s.transPieces cx q straddle rest ((t, n) :: acc)
    | none =>
      match s.translate cx.port cx.slot va q.acc with
      | (.phys pa cls, s1) => (s1.noteTrans ⟨va, q.acc, none, pa, cls⟩).transPieces cx q straddle rest ((.phys pa cls, n) :: acc)
      | (.remote rank pa, s1) => (s1.noteTrans ⟨va, q.acc, some rank, pa, 0⟩).transPieces cx q straddle rest ((.remote rank pa, n) :: acc)
      | (.fault l r, _) => .fault (q.exc va straddle l r)
      | (.noX, _) => .fault (Exc.at .access (q.addr &&& 0xF000000000000000 ||| BitVec.ofNat 64 va))
      | (.ecc e, _) => .fault (q.met va e)
      | (.wait, s1) => .wait s1

def State.transRange (s : State) (cx : Cx) (q : VReq) : MRes (List (TRes × Nat)) :=
  let ps := pieces q.va (q.n + 1) q.n
  s.transPieces cx q (q.packed && decide (1 < ps.length)) ps []

/-- The bytes of a physical range at its home slice, with writes not yet performed laid over them. -/
def State.homeBytes (s : State) (ws : List ByteWr) (pa n : Nat) : List Byte :=
  (s.read pa n).zipIdx.map (fun x => forward ws (.phys (pa + x.2)) x.1)

/-- Read the pieces of a translated range, the first at `va`, at their home slices. -/
def State.readFrom (s : State) (cx : Cx) (ws : List ByteWr) (q : VReq) (reuse : Nat) :
    Nat → List (TRes × Nat) → List Byte → MRes (List Byte)
  | _, [], acc => .ok acc s
  | va, (.phys pa cls, n) :: rest, acc =>
    let s1 := s.pullRange pa n
    match s1.eccOf pa n with
    | some e => .fault (q.met va e)
    | none => (s1.l2Touch pa n cls reuse false).readFrom cx ws q reuse (vaNext va n) rest (acc ++ s1.homeBytes ws pa n)
  | va, (.remote rank pa, n) :: rest, acc =>
    (match s.remoteRead cx rank (q.met va (Exc.at .access q.addr)) (lineParts pa n) with
     | .ok bytes s1 => s1.readFrom cx ws q reuse (vaNext va n) rest (acc ++ bytes)
     | .fault e => .fault e
     | .wait s1 => .wait s1)
  | va, (_, n) :: rest, acc => s.readFrom cx ws q reuse (vaNext va n) rest acc

/-- Read the pieces of a translated range. -/
def State.readPieces (s : State) (cx : Cx) (ws : List ByteWr) (q : VReq) (reuse : Nat) (ps : List (TRes × Nat)) : MRes (List Byte) :=
  s.readFrom cx ws q reuse q.va ps []

/-- Read a virtual range at its home slices. -/
def State.readV (s : State) (cx : Cx) (ws : List ByteWr) (q : VReq) (reuse : Nat) : MRes (List Byte) :=
  match s.transRange cx q with
  | .ok ps s1 => s1.readPieces cx ws q reuse ps
  | .fault e => .fault e
  | .wait s1 => .wait s1

/-- A device read of a context's record: translated like a load (R425). -/
def State.readRecord (s : State) (cx : Cx) (addr : DWord) (n : Nat) : MRes (List Byte) :=
  s.readV cx [] ⟨addr, bitsOf addr.toNat 0 57, n, .read, false, false⟩ 0

/-- A device read of a context's memory that no instruction and no start makes: like a load it promotes a TIER 1 page and pulls what it
reads (R174, R175), and zeros stand for what it cannot read: an untranslated page, an uncorrectable sector, or a page of a peer's memory.
None while a promotion must wait. DESIGN CHOICE (log 50). -/
def State.devRead (s : State) (slot : Nat) (addr : DWord) (n : Nat) : Option (List Byte × State) :=
  let cx : Cx := ⟨.start slot 0, slot, 0, 0, ⟨s.joinDie slot, none⟩⟩
  let q : VReq := ⟨addr, bitsOf addr.toNat 0 57, n, .read, false, false⟩
  match s.transRange cx q with
  | .wait _ => none
  | .fault _ => some (List.replicate n 0, s)
  | .ok ps s1 =>
    if hasRemote ps then some (List.replicate n 0, s)
    else match s1.readPieces cx [] q 0 ps with
      | .ok b s2 => some (b, s2)
      | .fault _ | .wait _ => some (List.replicate n 0, s)

/-! ## The L1 (R146 to R150) -/

def L1Line.names (slot line : Nat) (x : L1Line) : Bool := x.slot == slot && x.line == line

/-- Lines that the 256 KiB L1 holds (R146). -/
def l1Lines : Nat := 2048

/-- The line that a fill of a full L1 puts out: not one that the load in progress has reserved (R150), and a keep line only
when every other is one too (Table 6.7). The L1 is taken as one set. DESIGN CHOICE (log 11). -/
def l1Victim (slot : Nat) (resv : List Nat) (l : List L1Line) : Option L1Line :=
  let free := l.reverse.filter (fun x => !(x.slot == slot && resv.contains x.line))
  (free.find? (fun x => x.reuse != 3)).or free.head?

/-- Fill one sector: into the line that is there, else into a new line, streaming ones at the least recently used position. A streaming
load leaves a line that is there in its place (R154). -/
def l1Put (slot : Nat) (resv : List Nat) (sector reuse : Nat) (bytes : List Byte) (l : List L1Line) : List L1Line :=
  let line := sector / 4
  let rest := l.filter (fun x => !x.names slot line)
  match l.find? (L1Line.names slot line) with
  | some x =>
    let y : L1Line := { x with secs := (sector % 4, bytes) :: x.secs.filter (fun y => y.1 != sector % 4) }
    if reuse = 1 then l.map (fun z => if z.names slot line then y else z) else y :: rest
  | none =>
    let x : L1Line := ⟨slot, line, reuse, [(sector % 4, bytes)]⟩
    let put (l : List L1Line) : List L1Line := if reuse = 1 then l ++ [x] else x :: l
    if l.length < l1Lines then put rest
    else match l1Victim slot resv l with
      | some v => put (rest.filter (fun y => !y.names v.slot v.line))
      | none => l

/-- A hit makes the line the most recently used one; that of a streaming load leaves it in its place (R154). -/
def l1Use (slot line reuse : Nat) (l : List L1Line) : List L1Line :=
  match l.find? (L1Line.names slot line) with
  | some x => if reuse = 1 then l else x :: l.filter (fun y => !y.names slot line)
  | none => l

def State.modL1 (s : State) (cx : Cx) (f : List L1Line → List L1Line) : State :=
  match cx.port.core with
  | some c => s.modCore cx.port.die c (fun x => { x with l1 := f x.l1 })
  | none => s

/-- The lines leave the issuing core's L1 (R147). -/
def State.l1Drop (s : State) (cx : Cx) (lines : List Nat) : State :=
  s.modL1 cx (fun l => l.filter (fun y => !(y.slot == cx.slot && lines.contains y.line)))

def State.l1Find (s : State) (cx : Cx) (sector : Nat) : Option (List Byte) :=
  match cx.port.core with
  | some c =>
    (((s.die cx.port.die).core c).l1.find? (L1Line.names cx.slot (sector / 4))).bind (fun x =>
      (x.secs.find? (fun y => y.1 == sector % 4)).map (fun y => y.2))
  | none => none

/-- The lines that loads in progress have reserved in the L1 of the issuing core (R150). -/
def State.reserved (s : State) (cx : Cx) : List Nat :=
  s.req.resv ++ (match s.ctx cx.slot with
    | some c => (c.groups.filter (fun x => x.1.lcid == cx.lcid)).flatMap (fun x => x.2.splits.flatMap (fun sp => match sp.held with
        | some h => h.resv
        | none => []))
    | none => [])

def State.l1Fill (s : State) (cx : Cx) (hint sector : Nat) (bytes : List Byte) : State :=
  s.modL1 cx (l1Put cx.slot (s.reserved cx) sector (hint % 8) bytes)

/-- A load's footprint lines that are reserved until it has its sectors (R72, R150): those whose translation a TLB holds (R165), of a peer's
page too. A load that has waited keeps those it has. -/
def State.reserve (s : State) (cx : Cx) (lines : List Nat) : State :=
  let here := lines.filter (fun l => (s.tlbFind cx.port cx.slot (l / 512)).isSome)
  { s with req := { s.req with resv := ((s.heldOf cx.who).map (fun h => h.resv)).getD here } }

/-- A requester's working core. -/
def State.coreOf (s : State) (who : Waiter) : Option (Nat × Nat) :=
  match who with
  | .split r => (s.lc r.slot r.lcid).placed
  | .pref slot lcid _ _ _ => (s.lc slot lcid).placed
  | .cpa _ _ _ | .record _ _ _ _ | .start _ _ | .fire _ _ _ => none

/-- The requester is at the working core of an access. -/
def State.atCore (s : State) (cx : Cx) (who : Waiter) : Bool :=
  match cx.port.core with
  | some c => s.coreOf who == some (cx.port.die, c)
  | none => false

/-- What a request asks changes its line. -/
def PeerAsk.changes : PeerAsk → Bool
  | .write _ _ | .rmw _ => true
  | .read | .probe => false

/-- What a peer has answered may fill the L1: no store and no atomic of the core to the line is in progress, and none has passed the read, nor has
an invalidation (R147, R149). -/
def State.mayFill (s : State) (cx : Cx) (t : TRes) : Bool :=
  match t with
  | .remote rank pa =>
    !s.pkg.remote.any (fun x => x.rank == rank && x.line == pa / 128 &&
      ((x.ask.changes && s.atCore cx x.who) || (x.stale && x.who == cx.who)))
  | .phys _ _ | .fault _ _ | .noX | .ecc _ | .wait => true

/-- Some reads in progress fill no L1 any more. -/
def State.passReads (s : State) (f : RemoteTxn → Bool) : State :=
  { s with pkg := { s.pkg with remote := s.pkg.remote.map (fun x => if f x then { x with stale := true } else x) } }

/-- Where a sector lies, by the pieces of a translated range that begins at `va`. -/
def sectorPlace (sector : Nat) : Nat → List (TRes × Nat) → TRes
  | _, [] => .wait
  | va, (t, n) :: rest =>
    if va / 65536 = sector / 2048 then
      (match t with
       | .phys pa cls => .phys (pa / 65536 * 65536 + sector * 32 % 65536) cls
       | .remote rank pa => .remote rank (pa / 65536 * 65536 + sector * 32 % 65536)
       | .fault _ _ | .noX | .ecc _ | .wait => t)
    else sectorPlace sector (vaNext va n) rest

/-- One sector of a generic load: from the L1 if it holds it and the draw takes it, else fetched and filled. What it meets is met by the
element (R120). -/
def State.l1Sector (s : State) (cx : Cx) (q : VReq) (ps : List (TRes × Nat)) (reuse : Nat) (sector : Nat) : MRes (List Byte) :=
  let t := sectorPlace sector q.va ps
  let fetch (s : State) : MRes (List Byte) :=
    match s.readFrom cx (s.lc cx.slot cx.lcid).leaving ⟨q.addr, sector * 32, 32, .read, false, false⟩ reuse (sector * 32) [(t, 32)] [] with
    | .ok bytes s1 => .ok bytes (if s1.mayFill cx t then s1.l1Fill cx reuse sector bytes else s1)
    | .fault e => .fault (q.met (sector * 32) e)
    | .wait s1 => .wait s1
  match s.l1Find cx sector with
  | none => fetch s
  | some bytes =>
    let (d, s1) := s.draw
    if Config.l1Hits d then .ok bytes (s1.modL1 cx (l1Use cx.slot (sector / 4) (reuse % 8))) else fetch s1

/-- The bytes of a generic load, sector by sector, with the group's own queued stores laid over them. -/
def State.l1Bytes (s : State) (cx : Cx) (q : VReq) (ps : List (TRes × Nat)) (reuse : Nat) : List Nat → List Byte → MRes (List Byte)
  | [], acc => .ok acc s
  | sec :: rest, acc =>
    match s.l1Sector cx q ps reuse sec with
    | .ok bytes s1 => s1.l1Bytes cx q ps reuse rest (acc ++ bytes)
    | .fault e => .fault e
    | .wait s1 => .wait ((s1.l1Bytes cx q ps reuse rest []).waitOr s1)

/-- A generic load of a virtual range, with the group's own queued stores laid over what its core's L1 gives. -/
def State.readGeneric (s : State) (cx : Cx) (q : VReq) (reuse : Nat) : MRes (List Byte) :=
  match s.transRange cx q with
  | .fault e => .fault e
  | .wait s1 => .wait s1
  | .ok ps s1 =>
    let first := q.va / 32
    let secs := (List.range ((q.va + q.n - 1) / 32 + 1 - first)).map (fun i => first + i)
    match s1.l1Bytes cx q ps reuse secs [] with
    | .fault e => .fault e
    | .wait s2 => .wait s2
    | .ok bytes s2 =>
      let part := (bytes.drop (q.va % 32)).take q.n
      let queued := match s2.group? ⟨cx.slot, cx.lcid, cx.gh⟩ with
        | some g => g.queued
        | none => []
      let locs := ps.flatMap (fun p => (List.range p.2).map (fun i => match p.1 with
        | .phys pa _ => some (pa + i)
        | .remote _ _ | .fault _ _ | .noX | .ecc _ | .wait => none))
      .ok ((part.zip locs).map (fun x => match x.2 with
        | some pa => forward queued (.phys pa) x.1
        | none => x.1)) s2

/-! ## Publish buffers (R145, R198, R199) -/

/-- A checked publish buffer entry: backings A and B and the size. -/
def pubEntry (bytes : List Byte) : Option (DWord × DWord × Nat) :=
  let x := leNat bytes
  let a := bitsOf x 0 64
  let b := bitsOf x 64 64
  let size := bitsOf x 128 32
  let okBk (v : Nat) : Bool := decide (v / 2 ^ 60 ≤ 1) && v % 128 == 0 && bitsOf v 57 3 == 0
  let va := a % 2 ^ 57
  let vb := b % 2 ^ 57
  if size ≠ 0 ∧ size % 128 = 0 ∧ okBk a ∧ okBk b ∧ (va + size ≤ vb ∨ vb + size ≤ va) then
    some (BitVec.ofNat 64 a, BitVec.ofNat 64 b, size)
  else none

/-- The entry of buffer `id`, read at each use; a non-zero RSVD field raises FORMAT (R10). -/
def State.pubBuffer (s : State) (cx : Cx) (id : Nat) : MRes (Option (DWord × DWord × Nat)) :=
  let tab := match s.ctx cx.slot with
    | some c => c.pbtab
    | none => 0
  match s.readRecord cx (BitVec.ofNat 64 (tab + 32 * id)) 32 with
  | .ok bytes s1 => if leNat bytes / 2 ^ 160 ≠ 0 then .fault (Exc.plain .format 0) else .ok (pubEntry bytes) s1
  | .fault e => .fault e
  | .wait s1 => .wait s1

/-- Backing B of buffer `id` is front. -/
def State.frontB (s : State) (slot id : Nat) : Bool :=
  match s.ctx slot with
  | some c => c.fronts.getLsbD id
  | none => false

/-- The backing that a path-B load reads: the one its instruction has selected already, else the one that is front (R199); it is noted for the
lanes and the answers to come. -/
def State.frontFor (s : State) (cx : Cx) (id : Nat) : Bool × State :=
  let kept := ((s.pkg.remote.filter (fun x => x.who == cx.who)).flatMap (fun x => x.front)) ++ s.req.front
  match kept.find? (fun x => x.1 == id) with
  | some x => (x.2, if s.req.front.contains x then s else { s with req := { s.req with front := s.req.front ++ [x] } })
  | none => (s.frontB cx.slot id, { s with req := { s.req with front := s.req.front ++ [(id, s.frontB cx.slot id)] } })

/-! ## Loads of a place -/

def scratchBytes (s : State) (cx : Cx) (ws : List ByteWr) (lcid off n : Nat) : List Byte :=
  (Cells.read (s.lc cx.slot lcid).scratch off n).zipIdx.map (fun x => forward ws (.scratch lcid (off + x.2)) x.1)

/-- A window access lies within one register and names a group and register that exist (R144). -/
def windowOk (s : State) (cx : Cx) (lcid gh cls idx n : Nat) : Bool :=
  match s.group? ⟨cx.slot, lcid, gh⟩ with
  | none => false
  | some g => !g.ctl.retired && decide (idx + n ≤ windowSize g cls)

/-- A window access is naturally aligned, but for a packed element, and lies within one register (R144). -/
def windowAligned (packed : Bool) (cls idx n : Nat) : Bool :=
  let w := match cls with
    | 0 => 128 | 1 => 8 | 2 => (if idx < 0x20 then 4 else 1) | _ => 32
  (packed || idx % n == 0) && decide (idx % w + n ≤ w)

/-- A soft error stands in a chunk of a scratchpad range (Table 12.6). -/
def State.softScratch (s : State) (slot lcid off n : Nat) : Bool :=
  s.soft.any (fun p => match p with
    | .scratch k l chunk => k == slot && l == lcid && decide (32 * chunk < off + n) && decide (off < 32 * chunk + 32)
    | .stack _ | .l2 _ | .group _ => false)

/-- How a load is served: `generic` through the L1, else at the home slice (R146). -/
def State.loadPlace (s : State) (cx : Cx) (addr : DWord) (n : Nat) (packed generic : Bool) (reuse : Nat) (p : Place) :
    MRes (List Byte) :=
  match p with
  | .global path va =>
    let q : VReq := ⟨addr, va, n, .read, packed, false⟩
    if generic && path != 1 then s.readGeneric cx q reuse else s.readV cx (s.ownWrites cx) q reuse
  | .scratch lcid off =>
    if Config.scratchBytes < off + n then .fault (Exc.at .access addr)
    else if s.softScratch cx.slot lcid off n then .fault Exc.sramEcc
    else .ok (scratchBytes s cx (s.ownWrites cx) lcid off n) s
  | .window lcid gh cls idx =>
    if !windowAligned packed cls idx n then .fault (Exc.at .align addr)
    else if !windowOk s cx lcid gh cls idx n then .fault (Exc.at .access addr)
    else
      match s.group? ⟨cx.slot, lcid, gh⟩ with
      | some g =>
        let view := windowView g (s.ownWrites cx) lcid gh
        .ok ((List.range n).map (fun i => windowByte view cls (idx + i))) s
      | none => .fault (Exc.at .access addr)
  | .pub id off =>
    match s.pubBuffer cx id with
    | .fault e => .fault e
    | .wait s1 => .wait s1
    | .ok none _ => .fault (Exc.at .access addr)
    | .ok (some (a, b, size)) s1 =>
      if size < off + n then .fault (Exc.at .access addr)
      else
        let (isB, s2) := s1.frontFor cx id
        let v := (if isB then b else a) + BitVec.ofNat 64 off
        s2.readV cx (s2.ownWrites cx) ⟨v, bitsOf v.toNat 0 57, n, .read, packed, false⟩ reuse

/-! ## Stores to a place -/

/-- The virtual lines of a range. -/
def linesOf (va n : Nat) : List Nat := (List.range ((va + n - 1) / 128 + 1 - va / 128)).map (fun i => va / 128 + i)

/-- The byte writes of the local pieces of a translated range. -/
def pieceWrites (ps : List (TRes × Nat)) (bytes : List (Byte × Byte)) : List ByteWr :=
  match ps with
  | [] => []
  | (.phys pa _, n) :: rest =>
    (bytes.take n).zipIdx.map (fun x => ⟨.phys (pa + x.2), x.1.1, x.1.2⟩) ++ pieceWrites rest (bytes.drop n)
  | (_, n) :: rest => pieceWrites rest (bytes.drop n)

/-- The home slices of a range take a write: pulls and requests for its lines. -/
def State.touchPieces (s : State) (hint : Nat) (ps : List (TRes × Nat)) : State :=
  ps.foldl (fun acc q => match q.1 with
    | .phys pa cls => (acc.pullRange pa q.2).l2Touch pa q.2 cls hint true
    | .remote _ _ | .fault _ _ | .noX | .ecc _ | .wait => acc) s

/-- Send the remote pieces of a write, the first at `va`, or ask whether they would be admitted. -/
def State.sendFrom (s : State) (cx : Cx) (q : VReq) (probe : Bool) : Nat → List (TRes × Nat) → List (Byte × Byte) → MRes Unit
  | _, [], _ => .ok () s
  | va, (.remote rank pa, n) :: rest, bytes =>
    (match s.remoteWrite cx rank (q.met va (Exc.at .access q.addr)) probe (lineParts pa n) (bytes.take n) with
     | .ok _ s1 => s1.sendFrom cx q probe (vaNext va n) rest (bytes.drop n)
     | .fault e => .fault e
     | .wait s1 => .wait ((s1.sendFrom cx q probe (vaNext va n) rest (bytes.drop n)).waitOr s1))
  | va, (_, n) :: rest, bytes => s.sendFrom cx q probe (vaNext va n) rest (bytes.drop n)

/-- Send the remote pieces of a write and wait for the answers, since a refused access raises ACCESS in its instruction (R296). An element
that lies in two pages is sent once neither would be refused, so that it writes no part (R120). DESIGN CHOICE (log 46). -/
def State.sendPieces (s : State) (cx : Cx) (q : VReq) (ps : List (TRes × Nat)) (bytes : List (Byte × Byte)) : MRes Unit :=
  if q.straddles && hasRemote ps then (s.sendFrom cx q true q.va ps bytes).bind (fun _ s1 => s1.sendFrom cx q false q.va ps bytes)
  else s.sendFrom cx q false q.va ps bytes

/-- The lines of a peer that a translated range touches. -/
def farLines (ps : List (TRes × Nat)) : List (Nat × Nat) :=
  ps.flatMap (fun p => match p.1 with
    | .remote rank pa => (lineNums pa p.2).map (fun l => (rank, l))
    | .phys _ _ | .fault _ _ | .noX | .ecc _ | .wait => [])

/-- The lines of a store or an atomic that goes to a peer leave the issuing core's L1, as it leaves and once more as it is done, and no read of the
core that it has passed fills them again (R147): it is in no queue. -/
def State.farDrop (s : State) (cx : Cx) (q : VReq) (ps : List (TRes × Nat)) : State :=
  if hasRemote ps then
    (s.l1Drop cx (linesOf q.va q.n)).passReads (fun x => x.ask == .read && (farLines ps).contains (x.rank, x.line) && s.atCore cx x.who)
  else s

/-- The local bytes of a translated range are written. -/
def State.writeLocal (s : State) : List (TRes × Nat) → List Byte → State
  | [], _ => s
  | (.phys pa _, n) :: rest, b => (s.write pa (b.take n)).writeLocal rest (b.drop n)
  | (_, n) :: rest, b => s.writeLocal rest (b.drop n)

/-- Write a virtual range at once: the accesses of stack spills (R40). -/
def State.writeV (s : State) (cx : Cx) (q : VReq) (bytes : List Byte) : MRes Unit :=
  (s.transRange cx q).bind (fun ps s1 =>
    match s1.sendPieces cx q ps (bytes.map (fun b => (b, (0xFF : Byte)))) with
    | .ok _ s2 => .ok () ((((s2.touchPieces 0 ps).writeLocal ps bytes).farDrop cx q ps).l1Drop cx (linesOf q.va q.n))
    | .fault e => .fault e
    | .wait s2 => .wait (s2.farDrop cx q ps))

/-- What a store to a place writes: bytes with the bits they change, after every check and translation. Bytes in a peer's
memory leave at once, behind every earlier store of the group (R241, R246). -/
def State.storePlace (s : State) (cx : Cx) (addr : DWord) (bytes : List (Byte × Byte)) (packed : Bool) (reuse : Nat)
    (p : Place) : MRes (List ByteWr × List Nat) :=
  let n := bytes.length
  match p with
  | .global _ va =>
    let q : VReq := ⟨addr, va, n, .write, packed, false⟩
    match s.transRange cx q with
    | .fault e => .fault e
    | .wait s1 => .wait s1
    | .ok ps s1 =>
      let s1 := if hasRemote ps then s1.drainAll ⟨cx.slot, cx.lcid, cx.gh⟩ else s1
      match s1.sendPieces cx q ps bytes with
      | .fault e => .fault e
      | .wait s2 => .wait (s2.farDrop cx q ps)
      | .ok _ s2 => .ok (pieceWrites ps bytes, linesOf va n) ((s2.touchPieces reuse ps).farDrop cx q ps)
  | .scratch lcid off =>
    if Config.scratchBytes < off + n then .fault (Exc.at .access addr)
    else .ok (bytes.zipIdx.map (fun x => ⟨.scratch lcid (off + x.2), x.1.1, x.1.2⟩), []) s
  | .window lcid gh cls idx0 =>
    if !windowAligned packed cls idx0 n then .fault (Exc.at .align addr)
    else if !windowOk s cx lcid gh cls idx0 n then .fault (Exc.at .access addr)
    else .ok (bytes.zipIdx.map (fun x => ⟨.window lcid gh cls (idx0 + x.2), x.1.1, x.1.2⟩), []) s
  | .pub _ _ => .fault (Exc.at .access addr)

/-- A group's store queue is full: it holds as many stores as its capacity, which the spec does not give (R82; log 8). -/
def Group.queueFull (g : Group) : Bool := decide (Config.storeCap < g.storeQ.length)

/-- A store enters its group's queue. DESIGN CHOICE (log 8). -/
def Group.enqueue (g : Group) (wr : List ByteWr) (lines : List Nat) (mst : Option Nat := none) : Group :=
  if wr.isEmpty then g else { g with storeQ := g.storeQ ++ [⟨wr, lines, mst⟩] }

end Sys2Proof.Machine
end

