-- ==== Sys2Proof/Machine/Ops.lean ====
section
/-! DEFINITION. Ops.lean: the operations instructions and events share: how an instruction is run and what follows it,
stacks with their spill (02 R38 to R40), control transfers (R31), merging (R33), taking an exception and returning from one
(12 R262 to R268), the fault queue (07 R170) and halts (12 R269 to R271). -/

namespace Sys2Proof.Machine

open Sys2Proof

/-! ## States of a split -/

/-- A split becomes READY at its PC (R32, R254); an issue that a RESUME exempts is still to come (R302). -/
def Split.toReady (now : Nat) (sp : Split) : Split :=
  { sp with st := .ready, clause := none, age := some now, yielded := false, boosted := false }

/-- The header after the current clause, when the split is inside one; else its PC (a restored wait, R286). -/
def Split.afterPc (sp : Split) : DWord :=
  match sp.clause with
  | some c => Machine.nextHdr (pcHdr sp.pc) c.count
  | none => sp.pc

/-- A clause ends: READY at a header (Table 2.3). `yields` ranks the split last in its cycle (R254). -/
def Split.goto (now : Nat) (pc : DWord) (yields : Bool) (sp : Split) : Split :=
  { sp with
    st := .ready, clause := none, pc := pc, age := some now, yielded := yields, boosted := false
    exempt := false, replay := false }

/-- The clause's YIELD bit. -/
def Split.clauseYields (sp : Split) : Bool :=
  match sp.clause with
  | some c => c.yields
  | none => false

/-- The split goes on with the next word, or ends its clause and falls through (R81). -/
def Split.step (now : Nat) (sp : Split) : Split :=
  if pcPos sp.pc < sp.count then { sp with pc := mkPc (pcHdr sp.pc) (pcPos sp.pc + 1) }
  else sp.goto now sp.nextHdr sp.clauseYields

/-- A wait ends: the split is READY past its instruction; an issue that a RESUME exempts is still to come (R302). -/
def Split.release (now : Nat) (sp : Split) : Split := { sp.goto now sp.afterPc sp.clauseYields with exempt := sp.exempt }

/-- Enter a wait at the current instruction; its PC stays until the release. -/
def Split.await (w : Wait) (sp : Split) : Split := { sp with st := .wait w, exempt := false, replay := false }

def Split.waiting (sp : Split) (f : Wait → Bool) : Bool :=
  match sp.st with
  | .wait w => f w
  | .free | .ready | .issuing | .halted => false

/-! ## Lookahead windows (R95) -/

/-- An instruction of split `k` issues: each open window covers one instruction less. -/
def Group.countWindows (g : Group) (k : Nat) : Group :=
  { g with inflight := g.inflight.map (fun p => if p.split = k then { p with window := p.window.map (fun n => n - 1) } else p) }

/-- A taken transfer, a diversion or an RTE closes every window of the split. -/
def Group.closeWindows (g : Group) (k : Nat) : Group :=
  { g with inflight := g.inflight.map (fun p => if p.split = k then { p with window := none } else p) }

/-- No split waits for split `k` at a RECONV any more (R34). -/
def Group.unawait (g : Group) (k : Nat) : Group :=
  { g with splits := g.splits.map (fun sp => match sp.st with
    | .wait (.reconv x awaits) => { sp with st := .wait (.reconv x (awaits.filter (fun a => a.1 != k))) }
    | .wait _ | .free | .ready | .issuing | .halted => sp) }

/-- The splits that wait for split `k` at a RECONV wait for its new split `k2` too, with no branch counted yet. DEDUCED (log 29). -/
def Group.awaitChild (g : Group) (k k2 : Nat) : Group :=
  { g with splits := g.splits.map (fun sp => match sp.st with
    | .wait (.reconv x awaits) =>
      if awaits.any (fun a => a.1 == k) then { sp with st := .wait (.reconv x (awaits.filter (fun a => a.1 != k2) ++ [(k2, 0)])) } else sp
    | .wait _ | .free | .ready | .issuing | .halted => sp) }

/-- A number that no split-table entry has: the issuer of an instruction whose entry has been freed (R96). -/
def noSplit : Nat := 4

/-- Split-table entry `k` is freed: what it had in flight belongs to no entry, and nothing waits for it. -/
def Group.freeSplit (g : Group) (k : Nat) : Group :=
  let g1 := (g.setSplit k Split.freeEntry).unawait k
  { g1 with inflight := g1.inflight.map (fun p => if p.split = k then { p with split := noSplit, window := none } else p) }

/-! ## Stacks (R38 to R40) -/

def entryBytes (e : StackEntry) : List Byte :=
  natLe 8 e.pc.toNat ++ natLe 4 e.mask.toNat ++ natLe 4 (match e.kind with | .pending => 0 | .waiting => 1)

def entryOf (b : List Byte) : StackEntry :=
  ⟨BitVec.ofNat 64 (leNat (b.take 8)), BitVec.ofNat 32 (leNat ((b.drop 8).take 4)),
    if leNat ((b.drop 12).take 1) % 2 = 1 then .waiting else .pending⟩

/-- Address of a slot of a stack of split-table entry `k` (Table 2.4). -/
def spillAddr (g : Group) (k : Nat) (isDiv : Bool) (i : Nat) : DWord :=
  g.ctl.spillBase + BitVec.ofNat 64 (k * 0x8000 + (if isDiv then 0x4000 else 0) + 16 * (i % 1024))

/-- A spill request: SPILLX on a translation fault, ACCESS on a path without main memory. -/
def State.spillOp {α : Type} (s : State) (addr : DWord) (n : Nat) (acc : Acc) (f : State → VReq → MRes α) : MRes α :=
  if 2 < addrPath addr ∨ bitsOf addr.toNat 57 3 ≠ 0 ∨ !pathPermits (addrPath addr) acc then .fault (Exc.at .access addr)
  else f s ⟨addr, bitsOf addr.toNat 0 57, n, acc, false, true⟩

def State.spillRead (s : State) (cx : Cx) (addr : DWord) (n : Nat) : MRes (List Byte) :=
  s.spillOp addr n .read (fun s q => s.readV cx (s.ownWrites cx) q 0)

def State.spillWrite (s : State) (cx : Cx) (addr : DWord) (bytes : List Byte) : MRes Unit :=
  s.spillOp addr bytes.length .write (fun s q => s.writeV cx q bytes)

/-- Entries of a stack that lie in its slots. -/
def Stack.spilled (st : Stack) : Nat := st.depth - st.chip.length

def Split.stack (sp : Split) (isDiv : Bool) : Stack := if isDiv then sp.div else sp.ret
def Split.setStack (sp : Split) (isDiv : Bool) (st : Stack) : Split :=
  if isDiv then { sp with div := st } else { sp with ret := st }

/-- Write entries to the slots from number `i` up. -/
def State.writeEntries (s : State) (cx : Cx) (g : Group) (k : Nat) (isDiv : Bool) (bot : Nat) :
    Nat → List StackEntry → MRes Unit
  | _, [] => .ok () s
  | i, e :: es =>
    match s.spillWrite cx (spillAddr g k isDiv (bot + i)) (entryBytes e) with
    | .ok _ s1 => s1.writeEntries cx g k isDiv bot (i + 1) es
    | .fault x => .fault x
    | .wait s1 => .wait s1

/-- Read `n` entries from number `i` up. -/
def State.readEntries (s : State) (cx : Cx) (g : Group) (k : Nat) (isDiv : Bool) (bot i : Nat) :
    Nat → List StackEntry → MRes (List StackEntry)
  | 0, acc => .ok acc s
  | n + 1, acc =>
    match s.spillRead cx (spillAddr g k isDiv (bot + i)) 16 with
    | .ok b s1 => s1.readEntries cx g k isDiv bot (i + 1) n (acc ++ [entryOf b])
    | .fault x => .fault x
    | .wait s1 => .wait s1

/-- A write of entries to slots gives the stack a new tag (R38). -/
def Group.newTag (g : Group) : Group := { g with ctl := { g.ctl with spillCnt := g.ctl.spillCnt + 1 } }

/-- Push: a ninth on-chip entry spills the four oldest first; beyond 1,024 entries ACCESS (R38, R40). -/
def State.push (s : State) (cx : Cx) (g : Group) (k : Nat) (isDiv : Bool) (e : StackEntry) : MRes Group :=
  let st := (g.split k).stack isDiv
  if 1024 ≤ st.depth then .fault (Exc.plain .access 0)
  else if st.chip.length < 8 then
    .ok (g.modSplit k (fun sp => sp.setStack isDiv { st with chip := st.chip ++ [e], depth := st.depth + 1 })) s
  else
    match s.writeEntries cx g k isDiv st.bot st.spilled (st.chip.take 4) with
    | .fault x => .fault x
    | .wait s1 => .wait s1
    | .ok _ s1 =>
      let g1 := g.newTag
      .ok (g1.modSplit k (fun sp => sp.setStack isDiv
        { st with chip := st.chip.drop 4 ++ [e], depth := st.depth + 1, tag := g1.ctl.spillCnt })) s1

/-- Refill up to 4 entries when none is on chip while some are spilled. -/
def State.refill (s : State) (cx : Cx) (g : Group) (k : Nat) (isDiv : Bool) : MRes Group :=
  let st := (g.split k).stack isDiv
  if st.chip.isEmpty && decide (0 < st.depth) then
    let n := min 4 st.depth
    match s.readEntries cx g k isDiv st.bot (st.depth - n) n [] with
    | .fault x => .fault x
    | .wait s1 => .wait s1
    | .ok es s1 => .ok (g.modSplit k (fun sp => sp.setStack isDiv { st with chip := es })) s1
  else .ok g s

/-- Remove the top entry of a stack that has one on chip. -/
def Stack.dropTop (st : Stack) : Stack := { st with chip := st.chip.dropLast, depth := st.depth - 1 }

/-- Pop: the top entry, with the refill it needs. -/
def State.pop (s : State) (cx : Cx) (g : Group) (k : Nat) (isDiv : Bool) : MRes Group :=
  s.refill cx (g.modSplit k (fun sp => sp.setStack isDiv ((sp.stack isDiv).dropTop))) k isDiv

def Split.top (sp : Split) (isDiv : Bool) : Option StackEntry := (sp.stack isDiv).chip.getLast?

/-- R36: insert at the bottom; BOT falls by one and the stack takes a new tag unless the entry fits on chip. -/
def State.insertBottom (s : State) (cx : Cx) (g : Group) (k : Nat) (e : StackEntry) : MRes Group :=
  let st := (g.split k).div
  let bot := (st.bot + 1023) % 1024
  if st.chip.length < 8 && st.spilled == 0 then
    let g1 := g
    .ok (g1.modSplit k (fun sp => { sp with div := { st with chip := e :: st.chip, depth := st.depth + 1 } })) s
  else
    match s.spillWrite cx (spillAddr g k true bot) (entryBytes e) with
    | .fault x => .fault x
    | .wait s1 => .wait s1
    | .ok _ s1 =>
      let g1 := g.newTag
      .ok (g1.modSplit k (fun sp => { sp with div := { st with depth := st.depth + 1, bot := bot, tag := g1.ctl.spillCnt } })) s1

/-- Copy the spilled entries of one stack of `k` to the same slots of `k2` (R31). -/
def State.copySpill (s : State) (cx : Cx) (g : Group) (k k2 : Nat) (isDiv : Bool) : MRes Unit :=
  let st := (g.split k).stack isDiv
  match s.readEntries cx g k isDiv st.bot 0 st.spilled [] with
  | .fault x => .fault x
  | .wait s1 => .wait s1
  | .ok es s1 => s1.writeEntries cx g k2 isDiv st.bot 0 es

/-! ## Equal stack state and merging (R30, R33) -/

def stackEq (isDiv : Bool) (a b : Stack) : Bool :=
  a.depth == b.depth && a.chip == b.chip &&
    (a.spilled == 0 || (a.tag == b.tag && (!isDiv || a.bot == b.bot)))

def equalStacks (a b : Split) : Bool := stackEq false a.ret b.ret && stackEq true a.div b.div && a.loops == b.loops

def Group.inFamily (g : Group) (k : Nat) : Bool := g.trap.family.getLsbD k

/-- While the handler flag is set, no split outside the family merges with one inside (R264). -/
def Group.mayMerge (g : Group) (a b : Nat) : Bool :=
  equalStacks (g.split a) (g.split b) && (!g.trap.inHandler || g.inFamily a == g.inFamily b)

/-- Entry `b` merges into `a`, which takes both masks: overrides are dropped, the backward count restarts, open windows of
`b` belong to `a`; the survivor of a merge within the handler family is the handler split from then on (R264). -/
def Group.merge (g : Group) (a b : Nat) : Group :=
  let m := (g.split a).mask ||| (g.split b).mask
  let g0 := g.modSplit a (fun sp => { sp with mask := m, ovr := [], back := 0 })
  let taken : Group := { g0 with
    inflight := g0.inflight.map (fun p => if p.split = b then { p with split := a, window := none } else p) }
  let g1 := taken.freeSplit b
  { g1 with
    trap := if g1.trap.inHandler && g1.inFamily b then
        { g1.trap with
          hsplit := a
          family := g1.trap.family &&& ~~~(BitVec.ofNat 4 (2 ^ b)) }
      else g1.trap }

/-! ## The fault queue (R170) -/

def sameFault (slot : Nat) (e : Exc) (x : FaultEnt) : Bool :=
  x.slot == slot && bitsOf x.addr.toNat 16 41 == bitsOf e.addr.toNat 16 41 && x.cause == e.cause && x.reason == e.reason

/-- The entry at TAIL, once it is free: entries are filled in ring order (R170, Table 7.6). DEDUCED (log 28). -/
def freeFault (d : Die) : Option Nat := if (regGet none d.faults d.ftail).isNone then some d.ftail else none

/-- Enter a fault with its waiter: merged into a pending entry, or in a new one; none while no entry is free. An entry is numbered under the
channel of the working core that asked, or under the Sidereal core's for a read made for a start. DESIGN CHOICE (log 36). -/
def State.faultEnter (s : State) (d chan slot lcid : Nat) (e : Exc) (w : Waiter) : Option State :=
  match findIdx? (fun x => match x with | some y => sameFault slot e y | none => false) (s.die d).faults with
  | some i =>
    some (s.modDie d (fun x => { x with faults := regMod x.faults i (fun y => y.map (fun f =>
      { f with
        kinds := f.kinds ||| e.kinds
        straddle := f.straddle || e.straddle
        count := min 65535 (f.count + 1)
        waiters := f.waiters ++ [w]
        own := f.own ++ [(w, e.addr, e.straddle)] })) }))
  | none =>
    match freeFault (s.die d) with
    | none => none
    | some i =>
      let (seq, s1) := s.nextSeq d chan
      let f : FaultEnt := ⟨s.tickNow, e.addr, seq, [w], [(w, e.addr, e.straddle)], 1, e.cause, e.kinds, e.level, e.reason, e.straddle, lcid, slot⟩
      some ((s1.modDie d (fun x => { x with faults := regSet x.faults i (some f), ftail := (i + 1) % 1024 })).notice 0)

/-- HEAD advances past every freed entry. -/
def Die.advanceHead (d : Die) : Die :=
  match ((List.range 1024).map (fun i => (d.fhead + i) % 1024)).find? (fun i => (regGet none d.faults i).isSome) with
  | some i => { d with fhead := i }
  | none => { d with fhead := d.ftail }

/-- Some waiters leave the fault queue of a die; an entry left with none is freed (R279). -/
def Die.withdraw (mine : Waiter → Bool) (d : Die) : Die :=
  Die.advanceHead { d with faults := d.faults.map (fun f => match f with
    | some x =>
      if x.waiters.any mine && x.waiters.all mine then none else some
        { x with waiters := x.waiters.filter (fun w => !mine w), own := x.own.filter (fun y => !mine y.1) }
    | none => none) }

/-- The waiters that some waiters name leave every fault queue. -/
def State.withdraw (s : State) (mine : Waiter → Bool) : State := { s with dies := s.dies.map (Die.withdraw mine) }

/-! ## Halts (R269 to R271) -/

/-- The splits of a context in use, in order of their groups. -/
def Context.splitRefs (c : Context) (slot : Nat) : List SplitRef :=
  c.groups.flatMap (fun x => x.2.usedSplits.map (fun k => ⟨slot, x.1.lcid, x.1.gh, k⟩))

/-- A split halts where it stands and writes its HALT record (R271). -/
def State.haltSplit (s : State) (r : SplitRef) : State :=
  match s.group? r.group with
  | none => s
  | some g =>
    let sp := g.split r.k
    if sp.st == .halted || sp.st == .free then s
    else
      let s1 := s.modSplit r (fun sp => { sp with st := .halted, haltTick := s.tickNow, skid := none, dskid := none, held := none })
      (s1.record r.slot
        { die := s.dieOf r.slot r.lcid, chan := s.lcChan r.slot r.lcid, pc := sp.pc, tmask := sp.mask, ganginst := g.ctl.ganginst, lcid := r.lcid, gh := r.gh
          role := g.ctl.role, split := r.k, cause := 0x13, kind := 1, skidCyc := sp.skidCyc, skidIns := sp.skidIns }).2

/-- Bounds of Table 12.2 for a split, from where the fault was raised: same logical core, same die, another die. DEDUCED (log 14). -/
def skidOf (lcid die : Option Nat) (l d : Nat) : Nat × Nat :=
  if lcid = some l then (24, 4) else if die = some d then (64, 8) else (256, 16)

/-- The halt of an instance begins: every split of it that has not halted gets its skid. -/
def State.spreadHalt (s : State) (slot recNum inst : Nat) (lcid die : Option Nat) (seq : BitVec 32) : State :=
  match s.ctx slot with
  | none => s
  | some c =>
    let s1 := s.setCtx slot (c.modInst recNum inst (fun x =>
      { x with error := true, halt := if x.halt = .none then .spreading else x.halt, seq := if x.halt = .none then seq else x.seq }))
    let refs := (c.splitRefs slot).filter (fun r => match c.group? r.group with
      | some g => g.ctl.recNum == recNum && g.ctl.ganginst == inst
      | none => false)
    refs.foldl (fun acc r =>
      match acc.split? r with
      | none => acc
      | some sp =>
        if sp.st == .halted || sp.skid.isSome then acc
        else acc.modSplit r (fun x => { x with skid := some (skidOf lcid die r.lcid (s.dieOf slot r.lcid)), skidCyc := 0, skidIns := 0 })) s1

/-- A fatal fault of a split (R269): the record, the split halts at its instruction, its instance begins to halt. A BOUND that
takes no trap has still put its index into TVAL (R70, R263). -/
def State.fatal (s : State) (r : SplitRef) (act : Mask) (e : Exc) (unhandled nested : Bool) : State :=
  match s.group? r.group with
  | none => s
  | some g =>
    let sp := g.split r.k
    let (seq, s1) := s.record r.slot
      { die := s.dieOf r.slot r.lcid, chan := s.lcChan r.slot r.lcid, aux0 := e.tval, pc := sp.pc, addr := e.addr, tmask := act, ganginst := g.ctl.ganginst
        lcid := r.lcid, gh := r.gh, role := g.ctl.role, split := r.k, cause := causeCode e.cause, unhandled := unhandled
        nested := nested, straddle := e.straddle, port := e.port }
    let s2 := s1.modGroup r.group (fun g => ((if e.cause = .bound then { g with trap := { g.trap with tval := e.tval } } else g).closeWindows
      r.k).modSplit r.k (fun sp => { sp with st := .halted, haltTick := s.tickNow, skid := none, dskid := none, held := none }))
    s2.spreadHalt r.slot g.ctl.recNum g.ctl.ganginst (some r.lcid) (some (s.dieOf r.slot r.lcid)) seq

/-! ## Taking an exception (R262 to R266) -/

inductive CauseClass where | user | fatal | replayable
deriving DecidableEq, Repr

def causeClass : Cause → CauseClass
  | .bound | .caliper | .align | .portfull | .fpexc | .swtrap | .brk | .timer => .user
  | .xlate | .spillx => .replayable
  | .illegal | .priv | .convergence | .format | .access | .ecc | .target | .gang | .halted => .fatal

def Group.tvecEn (g : Group) : Bool := g.trap.tvec.getLsbD 0
/-- The handler's header address (R264). -/
def Group.handler (g : Group) : DWord := g.trap.tvec &&& ~~~7

/-- Trap entry (R264): only the raising split diverts; its mask, stacks, loops and overrides stay. -/
def Group.enterTrap (g : Group) (k : Nat) (act : Mask) (e : Exc) : Group :=
  let g1 := { g with trap := { g.trap with
    inHandler := true
    hsplit := k
    hmask := (g.split k).mask
    family := BitVec.ofNat 4 (2 ^ k)
    tpc := (g.split k).pc
    tmask := act
    tcause := BitVec.ofNat 64 (causeCode e.cause)
    tval := e.tval } }
  (g1.closeWindows k).modSplit k (fun sp =>
    { sp with st := .issuing, clause := none, pc := g.handler, exempt := false, replay := false, held := none })

/-- A user cause (R264, R265). `s0` is the state before the instruction, `s` after what it may change. -/
def State.userTrap (s0 s : State) (r : SplitRef) (act : Mask) (e : Exc) : State :=
  match s.group? r.group with
  | none => s
  | some g =>
    if !g.tvecEn then s.fatal r act e true false
    else if g.trap.inHandler && g.trap.hsplit == r.k then s.fatal r act e false true
    else if g.trap.inHandler then s0.modSplit r (fun sp => { sp with st := .wait .handler, exempt := false, held := none })
    else
      let pc := (g.split r.k).pc
      let s1 := (s.setGroup r.group (g.enterTrap r.k act e)).traceFlow r pc g.handler
      if g.handler.extractLsb' 56 4 = 0 then s1
      else (s1.modGroup r.group (fun x => { x with trap := { x.trap with tpc := atPosZero g.handler, tval := g.handler } })).fatal
        r act (Exc.at .target g.handler) false true

/-- A replayable cause suspends the split at the instruction (R169, R170); with no free entry the access waits. SPILLX puts
its address into TVAL (R40). No window stays open (R98). -/
def State.suspend (s0 : State) (r : SplitRef) (act : Mask) (e : Exc) : State :=
  match s0.faultEnter (s0.dieOf r.slot r.lcid) (s0.lcChan r.slot r.lcid) r.slot r.lcid e (.split r) with
  | none => s0
  | some s1 =>
    let s2 := s1.modGroup r.group (fun g => (if e.cause = .spillx then
        { g with trap := { g.trap with tval := e.tval } } else g).closeWindows r.k)
    s2.modSplit r (fun sp => { sp with st := .wait (.fault e.addr act e.straddle), exempt := false, held := none })

/-- Taking an exception: the one operation every raising rule uses. -/
def State.raise (s0 s : State) (r : SplitRef) (act : Mask) (e : Exc) : State :=
  match causeClass e.cause with
  | .user => s0.userTrap (s.remoteDone (.split r)) r act e
  | .replayable => s0.suspend r act e
  | .fatal => ((s.remoteDone (.split r)).logEcc r.slot (s.dieOf r.slot r.lcid) (s.portOf r.slot r.lcid).core e).fatal r act e false false

/-- An exception of a split that stands in WAIT: its split holds no quadrant, so one that diverts stands READY at its handler (Table
2.3, R254). -/
def State.raiseWaiting (s : State) (r : SplitRef) (act : Mask) (e : Exc) : State :=
  (s.raise s r act e).modSplit r (fun sp => if sp.st = .issuing then { sp with st := .ready, age := none } else sp)


/-- Splits that wait for the handler become READY to execute their instructions again (R264, R339). -/
def Group.handlerDone (g : Group) (now : Nat) : Group :=
  { g with
    trap := { g.trap with inHandler := false, hsplit := 0, hmask := 0, family := 0 }
    splits := g.splits.map (fun sp => if sp.waiting (fun w => w == .handler) then sp.toReady now else sp) }

/-! ## Running an instruction -/

/-- What an instruction's meaning answers. -/
inductive Res where
  /-- Its effect; the split goes on with the instruction after it. -/
  | next (s : State)
  /-- Its effect, with where the split goes. -/
  | jump (s : State)
  /-- A cause, with what the raising rule lets it change. -/
  | trap (e : Exc) (s : State)
  /-- A bounded wait (R82): no effect yet. -/
  | stall (s : State)

/-- The lanes a lane guard selects, and those of a uniform guard. -/
def laneAct (gd : Guard) (g : Group) (k : Nat) : Mask := g.active k gd
def uniAct (_ : Guard) (g : Group) (k : Nat) : Mask := (g.split k).mask
/-- A form whose guard follows its destination (R84). -/
def dstAct (d : Dst) (gd : Guard) : Group → Nat → Mask :=
  match d with
  | .v _ => laneAct gd
  | .s _ => uniAct gd

/-- The split goes on after its instruction. -/
def State.advance (s : State) (r : SplitRef) : State :=
  s.modSplit r (fun sp => { sp.step s.cycles with exempt := false, replay := false })

def State.modQuad (s : State) (slot lcid quad : Nat) (f : Quad → Quad) : State :=
  match (s.lc slot lcid).placed with
  | some p => s.modCore p.1 p.2 (fun c => { c with quads := regMod c.quads quad f })
  | none => s

/-- One instruction less in a skid. -/
def skidStep (x : Option (Nat × Nat)) : Option (Nat × Nat) := x.map (fun y => (y.1, y.2 - 1))

/-- An instruction of the split has issued and is done: it takes its quadrant's slot (R310) and counts in the skids (R271, R303). -/
def State.noteIssued (s : State) (r : SplitRef) (quad : Nat) (replay : Bool) : State :=
  (s.modQuad r.slot r.lcid quad (fun q => { q with taken := some (if replay then 1 else 2) })).modSplit r (fun sp =>
    if sp.skid.isNone && sp.dskid.isNone then { sp with held := none }
    else
      { sp with
        held := none
        skid := skidStep sp.skid, dskid := skidStep sp.dskid
        skidIns := if sp.skid.isSome then sp.skidIns + 1 else sp.skidIns })

/-- The registers, calipers and overrides that an instruction of split `k` reads: those of its issue, where it has waited since (R96). -/
def Group.asHeld (g : Group) (k : Nat) : Group :=
  match (g.split k).held with
  | none => g
  | some h =>
    { g with vregs := h.vregs, cals := h.cals, sregs := h.sregs, pregs := h.pregs, qregs := h.qregs, aregs := h.aregs, hregs := h.hregs }.modSplit k
      (fun sp => { sp with ovr := h.ovr })

/-- What an instruction of split `k` has read, with its identity, its reserved lines and its translations. -/
def Group.holds (g : Group) (k : Nat) (tag : Option ReqTag) (resv : List Nat) (trans : List Trans) : Held where
  vregs := g.vregs
  cals := g.cals
  sregs := g.sregs
  pregs := g.pregs
  qregs := g.qregs
  aregs := g.aregs
  hregs := g.hregs
  ovr := (g.split k).ovr
  tag := tag
  resv := resv
  trans := trans

/-- The split waits for a peer inside its instruction. -/
def State.asksPeer (s : State) (r : SplitRef) : Bool :=
  s.pkg.remote.any (fun x => x.who == .split r) || s.req.asks.any (fun x => x.who == .split r)

/-- An instruction that has made requests or reserved lines, and waits, keeps what it has read, as `src` holds it, until it is done: its
translations while a peer is to answer. -/
def State.keepHeld (s : State) (r : SplitRef) (src : Group) : State :=
  let peer := s.asksPeer r
  if !peer && s.req.resv.isEmpty then s
  else s.modSplit r (fun sp => { sp with held := some (src.holds r.k s.req.tag s.req.resv
    (if peer then ((sp.held.map (fun h => h.trans)).getD [] ++ s.req.trans) else [])) })

/-- Run the meaning of the instruction that the current issuer issues: what it reads may see results of open instructions
(R97), a cause is taken (R262), the issue is counted, and the split goes on. Without an issuer the model stops by name. -/
def runRes (act : Group → Nat → Mask) (f : State → SplitRef → Group → Group → Res) (s : State) :
    Host.Outcome State Fault Refusal :=
  match s.cur with
  | none => .fault .noIssuer
  | some i =>
    match s.group? i.r.group with
    | none => .fault .noIssuer
    | some g =>
      if (g.split i.r.k).st = .free then .fault .noIssuer
      else
        let s0 := { s with cur := none, freeCtr := s.freeCtr + 1 }
        let g1 := g.countWindows i.r.k
        let note (x : State) : State := x.noteIssued i.r g.ctl.quad (g.split i.r.k).replay
        let src := (g1.seen i.r.k s.freeCtr).asHeld i.r.k
        match f s0 i.r src g1 with
        | .next s1 => .next (note (s1.advance i.r))
        | .jump s1 => .next (note s1)
        | .trap e s1 => .next (note (s0.raise s1 i.r (act g i.r.k) e))
        | .stall s1 => .next (s1.keepHeld i.r src)

/-- A meaning over the group alone. -/
def liftG (h : Group → Group → Nat → GRes) (s : State) (r : SplitRef) (src g : Group) : Res :=
  match h src g r.k with
  | .ok g1 => .next (s.setGroup r.group g1)
  | .trap e g1 => .trap e (s.setGroup r.group g1)

/-- Run a meaning over the group that may raise a cause. -/
def runG (act : Group → Nat → Mask) (h : Group → Group → Nat → GRes) (s : State) : Host.Outcome State Fault Refusal :=
  runRes act (liftG h) s

/-- Run a meaning over the group that raises nothing. -/
def runOk (act : Group → Nat → Mask) (h : Group → Group → Nat → Group) (s : State) : Host.Outcome State Fault Refusal :=
  runG act (fun src g k => .ok (h src g k)) s

/-- An effect under a uniform guard: none when it fails (R84). -/
def underQ (gd : Guard) (f : State → SplitRef → Group → Group → Res) (s : State) (r : SplitRef) (src g : Group) : Res :=
  if src.passes gd then f s r src g else .next (s.setGroup r.group g)

/-- A memory access's answer as an instruction's. -/
def MRes.toRes {α : Type} (m : MRes α) (s : State) (f : α → State → Res) : Res :=
  match m with
  | .ok a s1 => f a s1
  | .fault e => .trap e s
  | .wait s1 => .stall s1

end Sys2Proof.Machine
end

