-- ==== Sys2Proof/Machine/Control.lean ====
section
/-! DEFINITION. Control.lean: control transfers: division into splits and serial paths (02 R31, R35), RECONV, the empty mask
and rotation (R34, R36), BRA, BRC, BRX, CALL, RET, LOOP, BREAKL, EXIT, RTE (16 R324 to R328, R330, 17 R339, R362, 18 R382,
R386, R387). -/

namespace Sys2Proof.Machine

open Sys2Proof

/-- What a target set does to the split that holds it, besides its place (R35). -/
inductive WayFix where
  | none
  | push (ret : DWord)
  | pop
  | level (j : Nat) (l : LoopLevel)
deriving DecidableEq, Repr

/-- A target set of a transfer: its address, its lanes, its effect, its refinements (R31, R66). -/
structure Way where
  pc   : DWord
  mask : Mask
  fix  : WayFix
  refs : List (Nat × Caliper)
deriving DecidableEq, Repr

def Group.refineAll (g : Group) (k : Nat) (place : RefineAt) (refs : List (Nat × Caliper)) : Group :=
  refs.foldl (fun acc x => acc.refine k x.1 place x.2) g

/-- Apply the effect of a target set to split `k`. -/
def State.applyFix (s : State) (cx : Cx) (g : Group) (k : Nat) : WayFix → MRes Group
  | .none => .ok g s
  | .push ret => s.push cx g k false ⟨ret, 0, .pending⟩
  | .pop => s.pop cx g k false
  | .level j l => .ok (g.modSplit k (fun sp => { sp with loops := regSet sp.loops j l })) s

/-- A new split at a free entry: copies of the stacks, loop registers and overrides, READY at its target (R31); the YIELD bit ranks the
clause's own split only (R254). -/
def State.spawn (s : State) (cx : Cx) (g : Group) (k k2 : Nat) (w : Way) : MRes Group :=
  (s.copySpill cx g k k2 false).bind (fun _ s1 =>
    (s1.copySpill cx g k k2 true).bind (fun _ s2 =>
      let sp := { (g.split k) with mask := w.mask, back := 0, exempt := false, replay := false }
      let g1 := (g.setSplit k2 (sp.goto s2.cycles w.pc false)).awaitChild k k2
      let g2 := if g1.trap.inHandler && g1.inFamily k then
          { g1 with trap := { g1.trap with family := g1.trap.family ||| BitVec.ofNat 4 (2 ^ k2) } } else g1
      s2.applyFix cx g2 k2 w.fix))

def State.spawnAll (s : State) (cx : Cx) (k : Nat) : Group → List (Nat × Way) → MRes Group
  | g, [] => .ok g s
  | g, (k2, w) :: rest => (s.spawn cx g k k2 w).bind (fun g1 s1 => s1.spawnAll cx k g1 rest)

/-- Push the sets that find no entry, highest address first (R31, R35). -/
def State.pushAll (s : State) (cx : Cx) (k : Nat) (redo : Option DWord) : Group → List Way → MRes Group
  | g, [] => .ok g s
  | g, w :: rest =>
    (s.push cx g k true ⟨redo.getD w.pc, w.mask, .pending⟩).bind (fun g1 s1 => s1.pushAll cx k redo g1 rest)

/-- The header after the clause that ends at a RECONV: its PC names its last position. -/
def afterReconv (pc : DWord) : DWord := nextHdr (pcHdr pc) (pcPos pc)

def StackEntry.resumePc (e : StackEntry) : DWord :=
  match e.kind with
  | .pending => e.pc
  | .waiting => afterReconv e.pc

/-- R36: the running path goes beneath the stack; the top entry runs. -/
def State.rotate (s : State) (cx : Cx) (g : Group) (k : Nat) (pc : DWord) : MRes Group :=
  (s.insertBottom cx g k ⟨pc, (g.split k).mask, .pending⟩).bind (fun g1 s1 =>
    match (g1.split k).top true with
    | none => .ok g1 s1
    | some t =>
      (s1.pop cx g1 k true).bind (fun g2 s2 =>
        .ok (g2.modSplit k (fun sp => { sp with pc := t.resumePc, mask := t.mask, ovr := [], back := 0 })) s2))

/-- R34: a backward branch of split `k` is counted by the splits that wait at a RECONV. -/
def Group.countForWaiters (g : Group) (k : Nat) : Group :=
  { g with splits := g.splits.map (fun sp => match sp.st with
    | .wait (.reconv x awaits) =>
      { sp with st := .wait (.reconv x (awaits.map (fun a => if a.1 = k then (a.1, a.2 + 1) else a))) }
    | .wait _ | .free | .ready | .issuing | .halted => sp) }

/-- A transfer that has been carried out: the entry given to the first further set, sets pushed, a rotation. -/
structure Moved where
  g       : Group
  spawned : Option Nat
  pending : Bool
  rotated : Bool

/-- What a transfer is: its sets by ascending address, whether a pushed set executes the instruction again, whether it can be
a backward branch, whether a lane takes it, whether its refinement may go to the group calipers (R66). -/
structure Transfer where
  ways   : List Way
  redo   : Bool
  counts : Bool
  took   : Bool
  whole  : Bool
  /-- The target is a stored program counter (Table 4.1), which may name a place inside a clause. -/
  stored : Bool := false

/-- The sets by ascending address, each with the split that holds it: the lowest stays, as many as there are free entries become splits, the
others are pushed (R31). -/
def Transfer.holders (t : Transfer) (g : Group) (k : Nat) : List (Nat × Way) :=
  match sortBy (fun w => w.pc.toNat) t.ways with
  | [] => []
  | head :: tail =>
    let new := ((List.range 4).filter (fun j => !(g.split j).inUse)).zip tail
    (k, head) :: new ++ (tail.drop new.length).map (fun w => (k, w))

/-- A computed target that is no header address, its bits [59:56] not being zero (R75, R328): the transfer has taken its full effect, and the
split that holds the set raises TARGET (R78), for a pushed set the split that pushed it. DEDUCED (log 43). -/
def State.raiseTargets (s : State) (r : SplitRef) (hs : List (Nat × Way)) : State :=
  (hs.filter (fun x => pcPos x.2.pc != 0)).foldl (fun acc x =>
    let rk : SplitRef := { r with k := x.1 }
    let pc := atPosZero x.2.pc
    let s1 := acc.modGroup r.group (fun g => { g with trap := { g.trap with tpc := pc, tval := pc } }.modSplit x.1 (fun sp =>
      if sp.pc = x.2.pc then { sp with pc := pc } else sp))
    if (s1.split? rk).any (fun sp => sp.st == .halted) then acc else s1.raise s1 rk x.2.mask (Exc.at .target pc)) s

/-- R31, R36, R66: the lowest target stays in the split. A branch that pushes sets is a branch of the running path, whose count
goes on (R59: a push is no change of path). -/
def State.transfer (s : State) (cx : Cx) (g : Group) (k : Nat) (t : Transfer) : MRes Moved :=
  match sortBy (fun w => w.pc.toNat) t.ways with
  | [] => .ok ⟨g, none, false, false⟩ s
  | head :: tail =>
    let sp := g.split k
    let free := (List.range 4).filter (fun j => !(g.split j).inUse)
    let new := free.zip tail
    let rest := tail.drop new.length
    (s.spawnAll cx k g new).bind (fun g1 s1 =>
      (s1.pushAll cx k (if t.redo then some sp.pc else none) g1 rest.reverse).bind (fun g2 s2 =>
        (s2.applyFix cx g2 k head.fix).bind (fun g3 s3 =>
          let back := t.counts && head.pc != sp.nextHdr && decide ((pcHdr head.pc).toNat ≤ (pcHdr sp.pc).toNat)
          let count := if back then sp.back + 1 else sp.back
          let g4 := g3.modSplit k (fun x => ({ x with mask := head.mask, back := if count = 64 then 0 else count }).goto
            s3.cycles head.pc sp.clauseYields)
          let g5 := if back then g4.countForWaiters k else g4
          let taken := t.took || !tail.isEmpty || head.pc != sp.nextHdr
          let g6 := if taken then g5.closeWindows k else g5
          let g7 := if rest.isEmpty then
              (new.foldl (fun acc x => acc.refineAll x.1 .override x.2.refs) g6).refineAll k
                (if t.whole && tail.isEmpty then .groupCal else .override) head.refs
            else g6
          let done (x : Group) (rot : Bool) (s : State) : MRes Moved :=
            .ok ⟨x, (new.head?).map (fun y => y.1), !rest.isEmpty, rot⟩ s
          if count = 64 && !((g7.split k).div.depth == 0) then
            (s3.rotate cx (g7.closeWindows k) k head.pc).bind (fun g8 s4 => done g8 true s4)
          else done g7 false s3)))

/-- Sets of a two-way transfer: the lanes of `m` go to `target`, the others to the next header. Where these are one address they
are one set (R31, R95), which takes the effect when a lane takes the transfer, and a path's refinement when every lane goes that
way (DEDUCED, log 40). -/
def twoWays (sp : Split) (m : Mask) (target : DWord) (fix : WayFix) (taken fall : List (Nat × Caliper)) : List Way :=
  if target = sp.nextHdr then
    [⟨target, sp.mask, if m = 0 then .none else fix, if m = sp.mask then taken else if m = 0 then fall else []⟩]
  else
    (if m = 0 then [] else [⟨target, m, fix, taken⟩]) ++
      (if sp.mask &&& ~~~m = 0 then [] else [⟨sp.nextHdr, sp.mask &&& ~~~m, .none, fall⟩])

/-- Packets of a transfer: a MASK for a rotation, from the mask that the branch left the split with (R309). -/
def State.traceRotation (s : State) (r : SplitRef) (pc : DWord) (hs : List (Nat × Way)) (m : Moved) : State :=
  match hs with
  | x :: _ => if m.rotated then s.traceMask r pc 2 0 x.2.mask (m.g.split r.k).mask else s
  | [] => s

/-- Run a transfer as an instruction; `post` writes its packets. -/
def runTransfer (s : State) (r : SplitRef) (g : Group) (t : Transfer) (post : State → Moved → State) : Res :=
  let hs := t.holders g r.k
  (s.transfer (s.cxOf r) g r.k t).toRes s (fun m s1 =>
    .jump (((post ((s1.remoteDone (.split r)).setGroup r.group m.g) m).traceRotation r (g.split r.k).pc hs m).raiseTargets r
      (if t.stored then [] else hs)))

/-- BRA (R324). -/
def braRes (gd : Guard) (disp : BitVec 32) (s : State) (r : SplitRef) (src g : Group) : Res :=
  let sp := g.split r.k
  let act := src.active r.k gd
  runTransfer s r g ⟨twoWays sp act (pcWord sp.pc + disp.signExtend 64) .none [] [], false, true, act != 0, false, false⟩ (fun s _ => s)

/-- The lanes in which a BRC is taken (R325). -/
def brcTaken (src : Group) (k : Nat) (gd : Guard) (cond : Cond) (a : VReg) (b : Src) : Mask :=
  src.active k gd &&& Mask.ofFn (fun j =>
    condHolds cond (src.v a.toNat j).toInt (b.word src j).toInt (src.v a.toNat j).toNat (b.word src j).toNat)

/-- Refinements of the taken or the other path (R65, R66, R325). -/
def brcRefs (src : Group) (k : Nat) (cond : Cond) (a : VReg) (b : Src) (taken : Bool) : List (Nat × Caliper) :=
  let va := src.view k a.toNat
  let vb := b.cal src k
  [(a.toNat, refineCal cond taken va vb)] ++
    (match b with
     | .v rb => if rb = a then [] else [(rb.toNat, refineCal (mirror cond) taken vb va)]
     | .s _ => []
     | .imm _ => [])

/-- BRANCH packet of BRC (Table 15.4). -/
def branchPacket (s : State) (r : SplitRef) (pc : DWord) (act taken : Mask) (m : Moved) : State :=
  if act = 0 then s
  else
    let kind := if m.pending then 2 else if m.spawned.isSome then 1 else 0
    s.traceAt r pc { type := 2, kind := kind, aux := if kind = 1 then m.spawned.getD 0 else 0, w := taken ++ act }

/-- BRC (R325). -/
def brcRes (gd : Guard) (cond : Cond) (a : VReg) (b : Src) (disp : BitVec 24) (s : State) (r : SplitRef) (src g : Group) : Res :=
  let sp := g.split r.k
  let act := src.active r.k gd
  let taken := brcTaken src r.k gd cond a b
  let target := pcWord sp.pc + (disp.signExtend 64 <<< 3)
  let fall := if gd = Guard.always then brcRefs src r.k cond a b false else []
  runTransfer s r g
    ⟨twoWays sp taken target .none (brcRefs src r.k cond a b true) fall, false, true, taken != 0,
      g.onlySplit r.k && act == g.ctl.live, false⟩
    (fun s1 m => branchPacket s1 r sp.pc act taken m)

/-- Target of a lane of BRX (Table 16.4). -/
def brxTarget (src : Group) (own : DWord) (j : Nat) : BrxOp → DWord
  | .vec a disp => own + disp.signExtend 64 + (src.v a.toNat j).setWidth 64
  | .uni a disp => own + disp.signExtend 64 + ((src.s a.toNat).extractLsb' 0 32).setWidth 64
  | .full a => src.s a.toNat

/-- Put a lane into the set of its target. -/
def addLane (j : Nat) (pc : DWord) : List Way → List Way
  | [] => [⟨pc, Mask.ofFn (fun i => i == j), .none, []⟩]
  | w :: ws => if w.pc = pc then { w with mask := w.mask ||| Mask.ofFn (fun i => i == j) } :: ws else w :: addLane j pc ws

/-- The lowest target of the lanes that take a BRX: what its FLOW packet holds (R309). DEDUCED (log 40). -/
def brxFlow (src : Group) (own : DWord) (act : Mask) (o : BrxOp) : DWord :=
  match sortBy (fun (x : DWord) => x.toNat) (act.lanes.map (fun j => brxTarget src own j o)) with
  | [] => own
  | x :: _ => x

/-- BRX (R328). -/
def brxRes (gd : Guard) (o : BrxOp) (s : State) (r : SplitRef) (src g : Group) : Res :=
  let sp := g.split r.k
  let act := src.active r.k gd
  let own := pcWord sp.pc
  let ways := sp.mask.lanes.foldl (fun ws j =>
    addLane j (if Mask.has act j then brxTarget src own j o else sp.nextHdr) ws) []
  runTransfer s r g ⟨ways, false, true, act != 0, false, false⟩ (fun s1 _ =>
    if act = 0 then s1 else s1.traceFlow r sp.pc (brxFlow src own act o))

/-- CALL (R330). -/
def callRes (gd : Guard) (o : CallOp) (s : State) (r : SplitRef) (src g : Group) : Res :=
  let sp := g.split r.k
  let act := src.active r.k gd
  let target := match o with
    | .direct disp => pcWord sp.pc + disp.signExtend 64
    | .reg a => src.s a.toNat
  runTransfer s r g ⟨twoWays sp act target (.push sp.nextHdr) [] [], true, false, act != 0, false, false⟩ (fun s1 _ =>
    if act = 0 then s1 else s1.traceFlow r sp.pc target)

/-- ILLEGAL with TVAL holding the instruction word (R85). -/
def illegalWord (s : State) (_ : SplitRef) (w : DWord) : Res := .trap (Exc.plain .illegal w) s

/-- RET (R386): ILLEGAL on an empty return stack. -/
def retRes (gd : Guard) (word : DWord) (s : State) (r : SplitRef) (src g : Group) : Res :=
  let sp := g.split r.k
  let act := src.active r.k gd
  match sp.top false with
  | none => illegalWord s r word
  | some t =>
    runTransfer s r g ⟨twoWays sp act t.pc .pop [] [], true, false, act != 0, false, true⟩ (fun s1 _ =>
      if act = 0 then s1 else s1.traceFlow r sp.pc t.pc)

/-! ## Loop levels (R362, R326) -/

def LoopLevel.isOpen (l : LoopLevel) : Bool := l.lcount != 0
def Split.openLevels (sp : Split) : Nat := (sp.loops.filter (fun l => l.isOpen)).length
/-- The innermost open level. -/
def Split.innermost (sp : Split) : Option Nat := ((List.range 4).filter (fun j => (regGet LoopLevel.closed sp.loops j).isOpen)).getLast?

/-- LOOP sA, end (R362). -/
def loopRes (a : SReg) (disp : BitVec 32) (word : DWord) (s : State) (r : SplitRef) (src g : Group) : Res :=
  let sp := g.split r.k
  let n := (src.s a.toNat).extractLsb' 0 32
  let target := pcWord sp.pc + disp.signExtend 64
  let j := sp.openLevels
  if j = 4 then illegalWord s r word
  else if n = 0 then
    runTransfer s r g ⟨[⟨target, sp.mask, .none, []⟩], false, false, true, false, false⟩ (fun s1 m =>
      branchPacket s1 r sp.pc sp.mask sp.mask m)
  else
    runTransfer s r g ⟨[⟨sp.nextHdr, sp.mask, .level j ⟨sp.nextHdr, target, n⟩, []⟩], false, false, false, false, false⟩
      (fun s1 m => branchPacket s1 r sp.pc sp.mask 0 m)

/-- LOOP.END (R362). -/
def loopEndRes (word : DWord) (s : State) (r : SplitRef) (_src g : Group) : Res :=
  let sp := g.split r.k
  match sp.innermost with
  | none => illegalWord s r word
  | some j =>
    let l := regGet LoopLevel.closed sp.loops j
    if l.lcount = 1 then
      runTransfer s r g ⟨[⟨l.lend, sp.mask, .level j LoopLevel.closed, []⟩], false, false, false, false, true⟩
        (fun s1 m => branchPacket s1 r sp.pc sp.mask 0 m)
    else
      runTransfer s r g ⟨[⟨l.lstart, sp.mask, .level j { l with lcount := l.lcount - 1 }, []⟩], false, true, true, false, true⟩
        (fun s1 m => branchPacket s1 r sp.pc sp.mask sp.mask m)

/-- The sets of a BREAKL (R326): the lanes of `m` leave, and with them alone the level closes; the others keep it open, so the two are two sets
also where LEND is the next header. There the leaving lanes stay in the split: DESIGN CHOICE (log 40). -/
def breakWays (sp : Split) (m : Mask) (lend : DWord) (j : Nat) : List Way :=
  (if m = 0 then [] else [⟨lend, m, .level j LoopLevel.closed, []⟩]) ++
    (if sp.mask &&& ~~~m = 0 then [] else [⟨sp.nextHdr, sp.mask &&& ~~~m, .none, []⟩])

/-- BREAKL (R326): ILLEGAL with no open level. -/
def breaklRes (gd : Guard) (word : DWord) (s : State) (r : SplitRef) (src g : Group) : Res :=
  let sp := g.split r.k
  let act := src.active r.k gd
  match sp.innermost with
  | none => illegalWord s r word
  | some j =>
    let l := regGet LoopLevel.closed sp.loops j
    runTransfer s r g ⟨breakWays sp act l.lend j, true, false, act != 0, false, true⟩ (fun s1 _ => s1)

/-! ## RECONV (R34, R36, R382) -/

/-- Splits of equal stack state that a RECONV of `k` may wait for: live, not halted; a split of the handler family waits only
for its family (R264). -/
def Group.peers (g : Group) (k : Nat) : List Nat :=
  g.usedSplits.filter (fun j => j != k && (g.split j).st != .halted && equalStacks (g.split j) (g.split k)
    && (!(g.trap.inHandler && g.inFamily k) || g.inFamily j))

def Split.atReconv (x : DWord) (sp : Split) : Bool :=
  sp.waiting (fun w => match w with | .reconv y _ => x == y | _ => false)

/-- Whether a split waiting at the RECONV at X goes on alone: each split it waits for has merged, freed its entry, halted or
reached X, or one of them has taken 64 backward branches (R34). DEDUCED (log 29). -/
def Group.reconvDone (g : Group) (k : Nat) : Bool :=
  match (g.split k).st with
  | .wait (.reconv x awaits) =>
    let rest := awaits.filter (fun a => (g.split a.1).inUse && (g.split a.1).st != .halted && !(g.split a.1).atReconv x)
    rest.isEmpty || rest.any (fun a => decide (64 ≤ a.2))
  | .free | .ready | .issuing | .halted => false
  | .wait _ => false

/-- A serial path at RECONV (R36). -/
def State.serialReconv (s : State) (cx : Cx) (g : Group) (k : Nat) (t : StackEntry) : MRes Group :=
  let sp := g.split k
  let me : StackEntry := ⟨sp.pc, sp.mask, .waiting⟩
  let put (pc : DWord) (m : Mask) (g : Group) : Group :=
    (g.closeWindows k).modSplit k (fun x => ({ x with mask := m, ovr := [], back := 0 }).goto s.cycles pc sp.clauseYields)
  let swap (g : Group) : Group :=
    g.modSplit k (fun x => { x with div := { x.div with chip := x.div.chip.dropLast ++ [me] } })
  if t.kind = .pending then .ok (put t.pc t.mask (swap g)) s
  else if t.pc = sp.pc then
    (s.pop cx g k true).bind (fun g1 s1 => .ok (put sp.nextHdr (sp.mask ||| t.mask) g1) s1)
  else .ok (put (afterReconv t.pc) t.mask (swap g)) s

/-- What split `k` waits for at a RECONV. -/
def Group.awaits (g : Group) (k : Nat) : List (Nat × Nat) :=
  match (g.split k).st with
  | .wait (.reconv _ awaits) => awaits
  | .wait _ | .free | .ready | .issuing | .halted => []

/-- Waits at RECONVs after a restore: each waits for its peers that have not reached it (R286). -/
def Group.reawait (g : Group) : Group :=
  { g with splits := g.splits.zipIdx.map (fun y => match y.1.st with
    | .wait (.reconv x _) =>
      { y.1 with st := .wait (.reconv x (((g.peers y.2).filter (fun j => !(g.split j).atReconv x)).map (fun j => (j, 0)))) }
    | .wait _ | .free | .ready | .issuing | .halted => y.1) }

/-- What a split that reaches a RECONV waits for: what those that it meets there still wait for, with their counts, and its own
peers that have not reached it. -/
def Group.awaitsAt (g : Group) (k : Nat) (here rest : List Nat) : List (Nat × Nat) :=
  let old := (here.flatMap g.awaits).filter (fun a => a.1 != k && !here.contains a.1)
  old ++ (rest.filter (fun j => !old.any (fun a => a.1 == j))).map (fun j => (j, 0))

/-- The waiting splits at X of equal stack state merge with `k`, the lowest number surviving. -/
def Group.mergeAt (g : Group) (k : Nat) (here : List Nat) : Group × Nat :=
  here.foldl (fun acc j =>
    let a := min acc.2 j
    let b := max acc.2 j
    let st := (acc.1.split acc.2)
    (((acc.1.merge a b).modSplit a (fun sp => { sp with st := st.st, pc := st.pc, clause := st.clause, age := st.age })), a)) (g, k)

/-- RECONV (R382). -/
def reconvRes (s : State) (r : SplitRef) (_src g : Group) : Res :=
  let sp := g.split r.k
  let x := pcWord sp.pc
  match sp.top true with
  | some t =>
    (s.serialReconv (s.cxOf r) g r.k t).toRes s (fun g1 s1 =>
      .jump ((s1.setGroup r.group g1).traceMask r sp.pc 2 0 sp.mask (g1.split r.k).mask))
  | none =>
    let g0 := g.modSplit r.k (fun y => { y with back := 0 })
    let peers := g0.peers r.k
    let here := peers.filter (fun j => (g0.split j).atReconv x && g0.mayMerge j r.k)
    let rest := peers.filter (fun j => !(g0.split j).atReconv x)
    let awaits := g0.awaitsAt r.k here rest
    let merged := g0.mergeAt r.k here
    let k := merged.2
    let g1 := if awaits.isEmpty then merged.1.modSplit k (fun y => y.goto s.cycles sp.nextHdr sp.clauseYields)
      else merged.1.modSplit k (fun y => y.await (.reconv x awaits))
    let s1 := s.setGroup r.group g1
    .jump (here.foldl (fun acc j =>
      acc.traceMask { r with k := k } sp.pc 0 (max j r.k) (g0.split k).mask (g1.split k).mask) s1)

/-! ## EXIT (R339, R27, R46) -/

/-- A cohort after some lanes of a group exit: deducted from its live count, their arrivals withdrawn; a phase may complete
(R46). -/
def Cohort.settle (c : Cohort) : Cohort :=
  if (c.arrived = c.live ∧ 0 < c.live) ∨ (c.live = 0 ∧ 0 < c.arrived) then { c with phase := c.phase + 1, arrived := 0 } else c

def maskCount (m : Mask) : Nat := m.lanes.length

/-- Cohort numbers of a group's slots. -/
def Group.cohortOf (g : Group) (slot : Nat) : Option Nat := regGet none g.ctl.cohorts slot

def Group.arrivedIn (g : Group) (slot : Nat) : Mask := regGet 0 g.ctl.arrived slot

/-- Change cohort `c` of an instance and clear the arrival marks of its members when its phase completes. -/
def Context.modCohort (ctx : Context) (recNum inst c : Nat) (f : Cohort → Cohort) : Context :=
  match ctx.inst? recNum inst with
  | none => ctx
  | some gi =>
    let old := regGet ⟨0, 0, 0⟩ gi.cohorts c
    let new := f old
    let ctx1 := ctx.modInst recNum inst (fun x => { x with cohorts := regSet x.cohorts c new })
    if new.phase = old.phase then ctx1
    else
      { ctx1 with groups := ctx1.groups.map (fun x =>
          if x.2.ctl.recNum = recNum ∧ x.2.ctl.ganginst = inst then
            (x.1, { x.2 with ctl := { x.2.ctl with arrived := (x.2.ctl.arrived.zipIdx).map (fun y =>
              if x.2.cohortOf y.2 = some c then 0 else y.1) } })
          else x) }

/-- The lanes of `m` of a group are deducted from every cohort of it. -/
def Context.cohortExit (ctx : Context) (r : GroupRef) (m : Mask) : Context :=
  match ctx.group? r with
  | none => ctx
  | some g =>
    (List.range 4).foldl (fun acc slot =>
      match g.cohortOf slot with
      | none => acc
      | some c =>
        let back := maskCount (m &&& g.arrivedIn slot)
        (acc.modGroup r (fun x => { x with ctl := { x.ctl with
          arrived := regMod x.ctl.arrived slot (fun a => a &&& ~~~m) } })).modCohort g.ctl.recNum g.ctl.ganginst c
          (fun y => ({ y with live := y.live - maskCount m, arrived := y.arrived - back }).settle)) ctx

/-- R36: the mask of split `k` is empty: it becomes FREE or takes up the top path, whose refill is made before its first
instruction. The handler's end clears the handler flag (R339). -/
def Group.maskEmpty (g : Group) (k now : Nat) : Group :=
  let sp := g.split k
  let g1 := match sp.top true with
    | none => g.freeSplit k
    | some t =>
      (g.closeWindows k).modSplit k (fun x =>
        let d := x.div.dropTop
        ({ x with div := d, mask := t.mask, ovr := [], back := 0, refill := d.chip.isEmpty && decide (0 < d.depth) }).goto
          now t.resumePc sp.clauseYields)
  if g.trap.inHandler && g.trap.hsplit == k then g1.handlerDone now
  else { g1 with trap := { g1.trap with family := if (g1.split k).inUse then g1.trap.family
      else g1.trap.family &&& ~~~(BitVec.ofNat 4 (2 ^ k)) } }

/-- Outstanding results into the lanes of `m` are discarded (R27), but for those of an LDLINES, which writes every lane position
(R360). -/
def Pending.discard (m : Mask) (p : Pending) : Pending :=
  { p with vecs := p.vecs.map (fun d => if d.all then d else { d with mask := d.mask &&& ~~~m }) }

/-- Lanes of a group exit. -/
def Group.exitLanes (g : Group) (k : Nat) (m : Mask) : Group :=
  { g with ctl := { g.ctl with live := g.ctl.live &&& ~~~m }, inflight := g.inflight.map (Pending.discard m) }.modSplit k
    (fun sp => { sp with mask := sp.mask &&& ~~~m })

/-- A retired group: its stores leave its queue, its slot is freed (R253); its long-latency results are discarded. -/
def State.retireGroup (s : State) (r : GroupRef) : State :=
  (s.drainAll r).modGroup r (fun g => { g with ctl := { g.ctl with retired := true, eligible := false }, inflight := [] })

/-- EXIT (R339). -/
def exitRes (gd : Guard) (s : State) (r : SplitRef) (src g : Group) : Res :=
  let sp := g.split r.k
  let m := src.active r.k gd
  if m = 0 then .next (s.setGroup r.group g)
  else
    let g1 := g.exitLanes r.k m
    let s1 := (s.setGroup r.group g1).modCtx r.slot (fun c => c.cohortExit r.group m)
    if (g1.split r.k).mask = 0 then
      let s2 := s1.modGroup r.group (fun x => x.maskEmpty r.k s.cycles)
      let new := match s2.split? r with
        | some y => y.mask
        | none => 0
      let s3 := if g1.ctl.live = 0 then s2.retireGroup r.group else s2
      .jump ((s3.traceMask r sp.pc 1 0 sp.mask 0).traceMask r sp.pc 2 0 0 new)
    else .next (s1.traceMask r sp.pc 1 0 sp.mask (g1.split r.k).mask)

/-! ## RTE (R266, R387) -/

/-- The instruction after a PC: POS + 1, or the next header when it is its clause's last. -/
def pcAfter (pc : DWord) (count : Nat) : DWord :=
  if pcPos pc < count then mkPc (pcHdr pc) (pcPos pc + 1) else nextHdr (pcHdr pc) count

end Sys2Proof.Machine
end

