-- ==== Sys2Proof/Machine/Debug.lean ====
section
/-! DEFINITION. Debug.lean: comparators and the debug stop (15 R301 to R304), the issue slots of a quadrant (R310), and the
fetch of a code word (04 R75, R76). -/

namespace Sys2Proof.Machine

open Sys2Proof

/-! ## Comparators (Table 15.2) -/

def compAddr (c : BitVec 128) : DWord := c.extractLsb' 64 64
def compLen (c : BitVec 128) : Nat := (c.extractLsb' 40 24).toNat
def compAct (c : BitVec 128) : Bool := c.getLsbD 3
def compW (c : BitVec 128) : Bool := c.getLsbD 2
def compR (c : BitVec 128) : Bool := c.getLsbD 1
def compV (c : BitVec 128) : Bool := c.getLsbD 0

/-- The debug registers of a slot stand on the join die of its context (R301). -/
def State.dbgRegs (s : State) (slot : Nat) : DbgRegs := ((s.die (s.joinDie slot)).slot slot).dbg

def State.comps (s : State) (slot : Nat) : List (BitVec 128) := (s.dbgRegs slot).comps

/-- The first code comparator that names a program counter. -/
def State.codeHit (s : State) (slot : Nat) (pc : DWord) : Option Nat :=
  (List.range 4).find? (fun i =>
    let c := regGet 0 (s.comps slot) i
    compV c && compAddr c == pc)

/-- What an instruction's access is for a data comparator: it reads, it writes. -/
structure Watched where
  reads  : Bool
  writes : Bool
deriving DecidableEq, Repr

/-- A data comparator watches an access of `n` bytes on path G, F or K. -/
def compHits (c : BitVec 128) (k : Watched) (path va n : Nat) : Bool :=
  compV c && ((compR c && k.reads) || (compW c && k.writes)) && decide (path ≤ 2)
    && decide (addrPath (compAddr c) = path)
    && decide (bitsOf (compAddr c).toNat 0 57 < va + n ∧ va < bitsOf (compAddr c).toNat 0 57 + compLen c)

/-- The first data comparator that a lane's access meets, with the lowest watched byte of the lowest-numbered matching lane.
`accs` gives each lane's accesses in ascending lane order: path, address, bytes. -/
def State.dataHit (s : State) (slot : Nat) (k : Watched) (accs : List (Nat × Nat × Nat)) : Option (Nat × DWord) :=
  ((List.range 4).map (fun i => i + 4)).findSome? (fun i =>
    let c := regGet 0 (s.comps slot) i
    (accs.find? (fun a => compHits c k a.1 a.2.1 a.2.2)).map (fun a =>
      (i, BitVec.ofNat 64 (a.1 * 2 ^ 60 + max a.2.1 (bitsOf (compAddr c).toNat 0 57)))))

/-! ## The debug stop (R303) -/

def State.modDebug (s : State) (slot : Nat) (f : DebugSt → DebugSt) : State :=
  s.modCtx slot (fun c => { c with dbg := f c.dbg })

/-- A debug stop of the context is under way or complete (R303). -/
def Context.debugging (c : Context) : Bool := c.dbg.stopping || c.dbg.stopped

/-- A completion that a debug stop holds. -/
def DebugSt.has (d : DebugSt) (i : Instr) : Bool := d.held.any (fun x => x.2.2 == i)

/-- STOPPED sets when the last split of the context has stopped. DEDUCED (log 10). -/
def Context.settleStop (c : Context) : Context :=
  let all := c.groups.all (fun x => x.2.usedSplits.all (fun k => (x.2.split k).dstopped || (x.2.split k).st == .halted))
  if c.dbg.stopping && all then { c with dbg := { c.dbg with stopping := false, stopped := true } } else c

/-- One split stops where it stands. -/
def State.stopSplit (s : State) (r : SplitRef) : State :=
  (s.modSplit r (fun sp => { sp with dstopped := true, dskid := none })).modCtx r.slot Context.settleStop

/-- A debug stop begins, or a split meets one that is under way. Skids are those of Table 12.2. -/
def State.beginStop (s : State) (slot : Nat) (hitter : Option SplitRef) (hit : Nat) : State :=
  match s.ctx slot with
  | none => s
  | some c =>
    let s1 := if c.dbg.stopping then s
      else
        let from_ := hitter.map (fun r => r.lcid)
        let die := match hitter with
          | some r => s.dieOf slot r.lcid
          | none => c.joinDie
        (c.splitRefs slot).foldl (fun acc r =>
          acc.modSplit r (fun sp => if sp.st = .halted then sp
            else { sp with dskid := some (skidOf from_ (some die) r.lcid (s.dieOf slot r.lcid)) }))
          ((s.modDebug slot (fun d => { d with stopping := true })).modSlotRegs c.joinDie slot (fun x =>
            { x with dbg := { x.dbg with hit := hit } }))
    match hitter with
    | some r => s1.stopSplit r
    | none => s1.modCtx slot Context.settleStop

/-- A comparator hit (R302): BREAK with its TVAL, or a debug stop that leaves the split at the instruction. -/
def State.compHit (s : State) (r : SplitRef) (i : Nat) (tval : DWord) : Res :=
  if compAct (regGet 0 (s.comps r.slot) i) then .jump (s.beginStop r.slot (some r) (i + 1))
  else .trap (Exc.plain .brk tval) s

/-- The issue of a split meets no comparator: an exempt one (R302), and that of an instruction which has met them and waits. -/
def Split.unwatched (sp : Split) : Bool := sp.exempt || sp.held.isSome

/-- The code comparator at a split's instruction. -/
def State.codeAt (s : State) (slot : Nat) (sp : Split) : Option Nat := if sp.unwatched then none else s.codeHit slot sp.pc

/-- The code comparator at the instruction that a split issues, once its array check has passed: `trapped` is what the check leaves (R302). -/
def State.codeStop (s : State) (r : SplitRef) (trapped : State) : Option Res :=
  match s.group? r.group with
  | none => none
  | some g => (s.codeAt r.slot (g.split r.k)).map (fun n => match s.compHit r n (g.split r.k).pc with
    | .trap e _ => .trap e trapped
    | x => x)

/-- An effect under a uniform guard of an instruction with an array check, which a code comparator stops also where the guard fails. -/
def underQCode (gd : Guard) (f : State → SplitRef → Group → Group → Res) (s : State) (r : SplitRef) (src g : Group) : Res :=
  if src.passes gd then f s r src g else (s.codeStop r s).getD (.next (s.setGroup r.group g))

/-! ## Issue slots (R70, R310) -/

/-- The inserted cycle of a check. -/
def State.insertCycle (s : State) (r : SplitRef) : State :=
  match s.group? r.group with
  | some g => s.modQuad r.slot r.lcid g.ctl.quad (fun q => { q with insert := q.insert + 1 })
  | none => s

/-! ## Fetch (R75, R76) -/

/-- Read a code word at an address of path G or K. Of the old and the new word that R83 allows a group already started, it reads
what has been performed: DESIGN CHOICE (log 43). -/
def State.fetch (s : State) (cx : Cx) (addr : DWord) : MRes DWord :=
  match s.readV cx [] ⟨addr, bitsOf addr.toNat 0 57, 8, .fetch, false, false⟩ 0 with
  | .ok b s1 => .ok (BitVec.ofNat 64 (leNat b)) s1
  | .fault e => .fault e
  | .wait s1 => .wait s1

/-- Fields of a clause header (Table 4.2). -/
def hdrMaj (w : DWord) : Nat := bitsOf w.toNat 56 8
def hdrClasses (w : DWord) : BitVec 4 := w.extractLsb' 52 4
def hdrCount (w : DWord) : Nat := bitsOf w.toNat 48 4
def hdrHwait (w : DWord) : BitVec 8 := w.extractLsb' 40 8
def hdrWaitcls (w : DWord) : BitVec 4 := w.extractLsb' 36 4
def hdrYield (w : DWord) : Bool := w.getLsbD 35
def hdrRsvd (w : DWord) : Bool := w.extractLsb' 0 35 != 0

/-- A program counter that R76 allows, its POS apart. -/
def pcOk (pc : DWord) : Bool := (pcPath pc == 0 || pcPath pc == 2) && pc.extractLsb' 0 3 == 0

end Sys2Proof.Machine
end

