-- ==== Sys2Proof/Machine/Arrays.lean ====
section
/-! DEFINITION. Arrays.lean: array registers (03 R68), ASET, AGET, AOFF (R69, 16 R314) and the caliper instructions WIDEN,
CALGET, CALSET, CALTOP (03 R67, 16 R329, 19 R406). -/

namespace Sys2Proof.Machine

open Sys2Proof

/-! ## Fields of Table 3.7 -/

def arBase (a : BitVec 256) : DWord := a.extractLsb' 0 64
def arExtent (a : BitVec 256) : Nat := (a.extractLsb' 64 31).toNat
def arSentinel (a : BitVec 256) : Nat := (a.extractLsb' 96 31).toNat
def arSen (a : BitVec 256) : Bool := a.getLsbD 127
def arEsz (a : BitVec 256) : Nat := (a.extractLsb' 128 4).toNat
def arMode (a : BitVec 256) : Nat := (a.extractLsb' 132 2).toNat
def arWr (a : BitVec 256) : Bool := a.getLsbD 134
def arReuse (a : BitVec 256) : Nat := (a.extractLsb' 135 3).toNat
def arL2cls (a : BitVec 256) : Nat := (a.extractLsb' 138 2).toNat

/-- A reserved code or a non-zero RSVD bit. -/
def arBad (a : BitVec 256) : Bool :=
  a.extractLsb' 140 52 != 0 || a.extractLsb' 192 64 != 0 || a.getLsbD 95
    || (decide (4 ≤ arReuse a) && arReuse a != 7) || decide (2 ≤ arMode a) || decide (7 ≤ arEsz a)

/-- Bits of one element. -/
def eszBits (esz : Nat) : Nat := match esz with
  | 0 => 8 | 1 => 16 | 2 => 32 | 3 => 64 | 4 => 128 | 5 => 6 | _ => 4

/-- A BASE that is not a multiple of the element size (R68). -/
def arMisbased (a : BitVec 256) : Bool :=
  decide (arEsz a ≤ 4) && decide ((arBase a).toNat % (eszBits (arEsz a) / 8) ≠ 0)

/-- ASET aD, sA (R68). -/
def asetOp (gd : Guard) (d : AReg) (a : SReg) (src g : Group) (_k : Nat) : GRes :=
  if !src.passes gd then .ok g
  else
    let x : BitVec 256 := src.s (a.toNat + 3) ++ src.s (a.toNat + 2) ++ src.s (a.toNat + 1) ++ src.s a.toNat
    if arBad x || arMisbased x then .trap (Exc.plain .format 0) g else .ok (g.setA d.toNat x)

/-- AGET sD, aA (R69). -/
def agetOp (gd : Guard) (d : SReg) (a : AReg) (src g : Group) (_k : Nat) : Group :=
  if !src.passes gd then g
  else
    let x := src.a a.toNat
    (List.range 4).foldl (fun acc i => acc.setS (d.toNat + i) (x.extractLsb' (64 * i) 64)) g

/-- AOFF aD, aA, sB (R69, R314). -/
def aoffOp (gd : Guard) (d a : AReg) (b : SReg) (src g : Group) (_k : Nat) : GRes :=
  if !src.passes gd then .ok g
  else
    let x := src.a a.toNat
    let n := ((src.s b.toNat).extractLsb' 0 32).toInt
    if arBad x then .trap (Exc.plain .format 0) g
    else if n < 0 ∨ (arExtent x : Int) < n then .trap (Exc.plain .bound (BitVec.ofInt 64 n)) g
    else if (arEsz x = 6 ∧ n % 2 ≠ 0) ∨ (arEsz x = 5 ∧ n % 4 ≠ 0) then .trap (Exc.plain .align (BitVec.ofInt 64 n)) g
    else
      let m := n.toNat
      let base := arBase x + BitVec.ofNat 64 (m * eszBits (arEsz x) / 8)
      .ok (g.setA d.toNat ((x &&& ~~~((0x7FFFFFFFFFFFFFFFFFFFFFFF : BitVec 256)))
        ||| base.setWidth 256 ||| (BitVec.ofNat 256 (arExtent x - m) <<< 64)))

/-! ## Caliper instructions -/

/-- CALGET sD, vA (R67). -/
def calgetOp (gd : Guard) (d : SReg) (a : VReg) (src g : Group) (k : Nat) : Group :=
  if !src.passes gd then g
  else
    let c := (src.view k a.toNat).getD ⟨minI32, maxI32⟩
    g.setS d.toNat (BitVec.ofInt 32 c.hi ++ BitVec.ofInt 32 c.lo)

/-- CALSET vD, sA: PRIV outside a supervisor context, then FORMAT (R67, R329). -/
def calsetRes (gd : Guard) (d : VReg) (a : SReg) (word : DWord) : State → SplitRef → Group → Group → Res :=
  underQ gd (fun s r src g =>
    let sup := match s.ctx r.slot with
      | some c => c.sup
      | none => false
    let lo := ((src.s a.toNat).extractLsb' 0 32).toInt
    let hi := ((src.s a.toNat).extractLsb' 32 32).toInt
    if !sup then .trap (Exc.plain .priv word) (s.setGroup r.group g)
    else if hi < lo then .trap (Exc.plain .format 0) (s.setGroup r.group g)
    else .next (s.setGroup r.group (g.calReset d.toNat (some ⟨lo, hi⟩))))

/-- CALTOP vD (R67). -/
def caltopOp (gd : Guard) (d : VReg) (src g : Group) (_k : Nat) : Group :=
  if src.passes gd then g.calReset d.toNat none else g

/-- The view of a register lies within bounds, so that WIDEN compares no lane. -/
def provenIn (c : Caliper) (lo hi : Int) : Bool :=
  match c with
  | some x => decide (lo ≤ x.lo) && decide (x.hi ≤ hi)
  | none => false

/-- WIDEN.TRAP and WIDEN.CLAMP (R67, R406). -/
def widenRes (clamp : Bool) (gd : Guard) (d : VReg) (a b : SReg) (s : State) (r : SplitRef) (src g : Group) : Res :=
  let lo := ((src.s a.toNat).extractLsb' 0 32).toInt
  let hi := ((src.s b.toNat).extractLsb' 0 32).toInt
  let m := src.active r.k gd
  let x (j : Nat) : Int := (src.v d.toNat j).toInt
  if hi < lo then .trap (Exc.plain .format 0) (s.setGroup r.group g)
  else
    let proven := provenIn (src.view r.k d.toNat) lo hi
    let s1 := if proven then s else s.insertCycle r
    let out := m &&& Mask.ofFn (fun j => decide (x j < lo) || decide (hi < x j))
    if !proven && !clamp && out != 0 then .trap (Exc.plain .caliper (out.setWidth 64)) (s1.setGroup r.group g)
    else
      let g1 := if !proven && clamp then g.setVec d.toNat m (perLane (fun j => BitVec.ofInt 32 (min (max (x j) lo) hi))) else g
      .next (s1.setGroup r.group (g1.calWrite r.k d.toNat m (some ⟨lo, hi⟩)))

end Sys2Proof.Machine
end

