-- ==== Sys2Proof/Machine/Lanes.lean ====
section
/-! DEFINITION. Lanes.lean: the array check at issue (03 R70, 17 R358), footprints (R72), elements and their lanes (05 R119,
17 R356), alignment and access checks (R357, R397), and the accesses of all lanes of one instruction (06 R157, R158). -/

namespace Sys2Proof.Machine

open Sys2Proof

/-! ## The check of R70 -/

/-- What the check answers: the lanes that violate, the lanes that access memory with their indices, and whether it took an
inserted cycle. -/
structure Checked where
  viol  : Mask
  live  : Mask
  idx   : Nat → Int
  slow  : Bool

inductive ChkRes where
  | ok (c : Checked)
  /-- A cause, and VIOLMASK where the check has written it. -/
  | trap (e : Exc) (viol : Option Mask)

/-- The check needs no comparison. -/
def checkFast (a : BitVec 256) (view : Caliper) (off : Int) (n : Nat) : Bool :=
  match view with
  | none => false
  | some c =>
    decide (0 ≤ c.lo + off) && decide (c.hi + off + n - 1 ≤ (arExtent a : Int) - 1)
      && (!arSen a || decide ((arSentinel a : Int) < c.lo + off) || decide (c.hi + off < (arSentinel a : Int)))

/-- The lowest lane of a mask. -/
def Mask.lowest (m : Mask) : Nat := m.lanes.headD 0

/-- The lane part of the check over indices; `cmp` says whether lanes are compared. -/
def laneCheck (a : BitVec 256) (act : Mask) (n : Nat) (cmp : Bool) (idx : Nat → Int) : ChkRes :=
  let isNull (j : Nat) : Bool := cmp && arSen a && decide (idx j = (arSentinel a : Int))
  let isViol (j : Nat) : Bool :=
    cmp && !isNull j && (decide (idx j < 0) || decide ((arExtent a : Int) ≤ idx j + n - 1))
  let null := act &&& Mask.ofFn isNull
  let viol := act &&& Mask.ofFn isViol
  if viol != 0 && arMode a == 1 then .trap (Exc.plain .bound (BitVec.ofInt 64 (idx (Mask.lowest viol)))) (some viol)
  else .ok ⟨viol, act &&& ~~~null &&& ~~~viol, idx, cmp⟩

/-- R70 for an index register's values `x`. -/
def arrayCheck (a : BitVec 256) (view : Caliper) (act : Mask) (writes : Bool) (off : Int) (n : Nat) (x : Nat → Int) : ChkRes :=
  if writes && !arWr a then .trap (Exc.plain .access 0) none
  else laneCheck a act n (!checkFast a view off n) (fun j => x j + off)

/-- R358: the indices that pointers give; a pointer off the element grid is ALIGN for its lane, once no lane traps by R70. -/
def pointerCheck (a : BitVec 256) (act : Mask) (writes : Bool) (off : Int) (n : Nat) (p : Nat → DWord) : ChkRes :=
  if writes && !arWr a then .trap (Exc.plain .access 0) none
  else
    let size : Int := eszBits (arEsz a) / 8
    let q (j : Nat) : Int := (p j - arBase a).toInt
    let odd := act &&& Mask.ofFn (fun j => decide (q j % size ≠ 0))
    match laneCheck a (act &&& ~~~odd) n true (fun j => q j / size + off) with
    | .trap e v => .trap e v
    | .ok c => if odd = 0 then .ok c else .trap (Exc.at .align (p (Mask.lowest odd))) (some c.viol)

/-! ## Footprints (R72, R159) -/

/-- A footprint: its first byte and its last, as flat addresses without wrap. -/
structure Footprint where
  first : Nat
  last  : Nat
deriving DecidableEq, Repr

def Footprint.lines (f : Footprint) : Nat := f.last / 128 + 1 - f.first / 128
/-- L0 of R159. -/
def Footprint.line0 (f : Footprint) : Nat := f.first / 128 * 128

def elemBit (a : BitVec 256) (i : Nat) : Nat := (arBase a).toNat * 8 + i * eszBits (arEsz a)

def footprint (a : BitVec 256) (view : Caliper) (off : Int) (n : Nat) : Option Footprint :=
  match view with
  | none => none
  | some c =>
    let lo := max (c.lo + off) 0
    let hi := min (c.hi + off + n - 1) ((arExtent a : Int) - 1)
    if hi < lo then none
    else some ⟨elemBit a lo.toNat / 8, (elemBit a (hi.toNat + 1) - 1) / 8⟩

/-- The pages of a footprint. -/
def Footprint.pages (f : Footprint) : List Nat :=
  (List.range (f.last / 65536 + 1 - f.first / 65536)).map (fun i => (f.first / 65536 + i) * 65536)

/-- The footprint sampler records a span of 64 lines or fewer, at the die near each of its pages; it uses only translations that
a TLB holds (R72, R165, R178). An instruction that waits has sampled its span. -/
def State.sample (s : State) (r : SplitRef) (f : Option Footprint) : State :=
  match f with
  | none => s
  | some fp =>
    if 64 < fp.lines ∨ 2 < fp.first / 2 ^ 60 ∨ (s.heldOf (.split r)).isSome then s
    else fp.pages.foldl (fun acc va =>
      match s.heldPa (s.portOf r.slot r.lcid) r.slot (va % 2 ^ 57) with
      | none => acc
      | some pa => acc.modDie (homeDie pa) (fun d =>
          { d with samples := d.samples ++ [(va % 2 ^ 57 / 65536, r.slot, (s.lc r.slot r.lcid).dieGrp)] })) s

/-- A load over path G with FR clear reserves the lines of its footprint (R72, R150). -/
def State.reserveSpan (s : State) (r : SplitRef) (fr : Bool) (f : Option Footprint) : State :=
  match f with
  | none => s
  | some fp =>
    if fr || decide (64 < fp.lines) || decide (fp.first / 2 ^ 60 ≠ 0) then s
    else s.reserve (s.cxOf r) ((List.range fp.lines).map (fun i => fp.first / 128 + i))

/-! ## Elements -/

/-- One element in memory: address of its first byte, bytes it touches, first bit and width. -/
structure Elem where
  addr : DWord
  n    : Nat
  bit  : Nat
  k    : Nat
deriving DecidableEq, Repr

/-- Element `i` of an array (R70, R119). -/
def arrayElem (a : BitVec 256) (i : Nat) : Elem :=
  let k := eszBits (arEsz a)
  let off := i * k
  ⟨arBase a + BitVec.ofNat 64 (off / 8), (off % 8 + k + 7) / 8, off % 8, k⟩

def Elem.packed (e : Elem) : Bool := e.k % 8 != 0

/-- A plain element of `n` bytes. -/
def Elem.plain (addr : DWord) (n : Nat) : Elem := ⟨addr, n, 0, 8 * n⟩

/-- The value an element's bytes hold. -/
def Elem.value (e : Elem) (bytes : List Byte) : Nat := leNat bytes / 2 ^ e.bit % 2 ^ e.k

/-- The bytes and changed bits of a store of a value. -/
def Elem.bytes (e : Elem) (x : Nat) : List (Byte × Byte) :=
  (natLe e.n (x % 2 ^ e.k * 2 ^ e.bit)).zip (natLe e.n ((2 ^ e.k - 1) * 2 ^ e.bit))

/-- Each accessing lane with its elements, lanes ascending. -/
abbrev LaneElems := List (Nat × List Elem)

/-- The elements of the lanes of a check. -/
def Checked.elems (c : Checked) (a : BitVec 256) (n : Nat) : LaneElems :=
  c.live.lanes.map (fun j => (j, (List.range n).map (fun e => arrayElem a ((c.idx j).toNat + e))))

/-! ## ALIGN and ACCESS -/

/-- The first element is a multiple of min(W × N, 16) and path-W elements keep R144; a width of 0 asks nothing (R317). -/
def laneAligned (c : Context) (lcid : Nat) (w : Nat) (es : List Elem) : Bool :=
  match es with
  | [] => true
  | e :: _ =>
    w == 0 || (e.packed || e.addr.toNat % min w 16 == 0) &&
      es.all (fun x => match placeOf c lcid x.addr with
        | some (.window _ _ cls idx) => windowAligned x.packed cls idx x.n
        | _ => true)

/-- The lowest-numbered misaligned lane's first address. -/
def findMisaligned (c : Context) (lcid : Nat) (w : Nat) (ls : LaneElems) : Option DWord :=
  (ls.find? (fun l => !laneAligned c lcid w l.2)).map (fun l => match l.2 with | e :: _ => e.addr | [] => 0)

/-- An element that R136, R137 or the extent of its storage refuses. Path B's size is checked when its buffer is read. -/
def elemRefused (s : State) (cx : Cx) (c : Context) (acc : Acc) (e : Elem) : Bool :=
  match placeOf c cx.lcid e.addr with
  | none => true
  | some p =>
    !pathPermits (addrPath e.addr) acc ||
      (match p with
       | .scratch _ off => decide (Config.scratchBytes < off + e.n)
       | .window lcid gh cls idx => !windowOk s cx lcid gh cls idx e.n
       | .global _ _ | .pub _ _ => false)

def findRefused (s : State) (cx : Cx) (c : Context) (acc : Acc) (ls : LaneElems) : Option DWord :=
  (ls.flatMap (fun l => l.2)).findSome? (fun e => if elemRefused s cx c acc e then some e.addr else none)

/-- Accesses of the lanes as a comparator sees them. -/
def watchList (ls : LaneElems) : List (Nat × Nat × Nat) :=
  ls.flatMap (fun l => l.2.map (fun e => (addrPath e.addr, bitsOf e.addr.toNat 0 57, e.n)))

/-- The data comparators, which see the accesses of the active, non-null lanes; an unwatched issue meets none (R302). -/
def State.watchStop (s : State) (r : SplitRef) (sp : Split) (k : Watched) (accs : List (Nat × Nat × Nat)) (trapped : State) :
    Option Res :=
  (if sp.unwatched then none else s.dataHit r.slot k accs).map (fun hit =>
    match s.compHit r hit.1 hit.2 with
    | .trap e _ => .trap e trapped
    | x => x)

/-- The checks after the array check, in their order: comparators, ALIGN, ACCESS. The answer is what stops the instruction. -/
def State.laneChecks (s : State) (r : SplitRef) (sp : Split) (acc : Acc) (k : Watched) (w : Nat) (ls : LaneElems)
    (trapped : State) : Option Res :=
  match s.ctx r.slot with
  | none => some (.stall s)
  | some c =>
    match s.watchStop r sp k (watchList ls) trapped with
    | some x => some x
    | none =>
      match findMisaligned c r.lcid w ls with
      | some a => some (.trap (Exc.at .align a) trapped)
      | none =>
        match findRefused s (s.cxOf r) c acc ls with
        | some a => some (.trap (Exc.at .access a) trapped)
        | none => none

/-! ## Loads of all lanes -/

/-- Bytes already read by the instruction, so that lanes that read one byte return one value (R158). -/
abbrev Seen := List (DWord × Byte)

def Seen.over (seen : Seen) (addr : DWord) (bytes : List Byte) : List Byte :=
  bytes.zipIdx.map (fun x => match seen.find? (fun y => y.1 == addr + BitVec.ofNat 64 x.2) with
    | some y => y.2
    | none => x.1)

/-- Load one element. -/
def State.loadElem (s : State) (cx : Cx) (generic : Bool) (hint : Nat) (e : Elem) : MRes (List Byte) :=
  match s.ctx cx.slot with
  | none => .wait s
  | some c =>
    match placeOf c cx.lcid e.addr with
    | none => .fault (Exc.at .access e.addr)
    | some p => s.loadPlace cx e.addr e.n e.packed generic hint p

/-- Load elements in order; `acc` holds the values read so far. Where one must wait for a peer, the others make their requests too, so that
the lanes share one for each line (R156). -/
def State.loadElems (s : State) (cx : Cx) (generic : Bool) (hint : Nat) :
    List Elem → Seen → List Nat → MRes (Seen × List Nat)
  | [], seen, acc => .ok (seen, acc) s
  | e :: es, seen, acc =>
    match s.loadElem cx generic hint e with
    | .fault x => .fault x
    | .wait s1 => .wait ((s1.loadElems cx generic hint es [] []).waitOr s1)
    | .ok b s1 =>
      let bytes := Seen.over seen e.addr b
      s1.loadElems cx generic hint es (seen ++ bytes.zipIdx.map (fun x => (e.addr + BitVec.ofNat 64 x.2, x.1)))
        (acc ++ [e.value bytes])

/-- The values of every lane's elements, by lane. -/
def State.loadLanes (s : State) (cx : Cx) (generic : Bool) (hint : Nat) :
    LaneElems → Seen → List (Nat × List Nat) → MRes (List (Nat × List Nat))
  | [], _, acc => .ok acc s
  | (j, es) :: rest, seen, acc =>
    match s.loadElems cx generic hint es seen [] with
    | .fault x => .fault x
    | .wait s1 => .wait ((s1.loadLanes cx generic hint rest [] []).waitOr s1)
    | .ok v s1 => s1.loadLanes cx generic hint rest v.1 (acc ++ [(j, v.2)])

/-! ## Stores of all lanes -/

/-- Translate every global element before any lane takes effect (R169). -/
def State.transElems (s : State) (cx : Cx) (acc : Acc) : List Elem → MRes Unit
  | [] => .ok () s
  | e :: es =>
    if 2 < addrPath e.addr then s.transElems cx acc es
    else
      match s.transRange cx ⟨e.addr, bitsOf e.addr.toNat 0 57, e.n, acc, e.packed, false⟩ with
      | .ok _ s1 => s1.transElems cx acc es
      | .fault x => .fault x
      | .wait s1 => .wait s1

/-- What the elements with their values write, in order. -/
def State.storeElems (s : State) (cx : Cx) (hint : Nat) :
    List (Elem × Nat) → List ByteWr → List Nat → MRes (List ByteWr × List Nat)
  | [], wr, ln => .ok (wr, ln) s
  | (e, x) :: es, wr, ln =>
    match s.ctx cx.slot with
    | none => .wait s
    | some c =>
      match placeOf c cx.lcid e.addr with
      | none => .fault (Exc.at .access e.addr)
      | some p =>
        match s.storePlace cx e.addr (e.bytes x) e.packed hint p with
        | .fault y => .fault y
        | .wait s1 => .wait ((s1.storeElems cx hint es [] []).waitOr s1)
        | .ok w s1 => s1.storeElems cx hint es (wr ++ w.1) (ln ++ w.2)

/-! ## Registers of elements (R356, R397) -/

/-- Registers that one element fills. -/
def elemRegs (k : Nat) : Nat := if k ≤ 32 then 1 else k / 32

/-- Word `i` of an element's registers. -/
def elemWord (sx : Bool) (k : Nat) (x i : Nat) : Word :=
  if sx && decide (k < 32) && x.testBit (k - 1) then BitVec.ofInt 32 ((x : Int) - 2 ^ k) else BitVec.ofNat 32 (x / 2 ^ (32 * i))

/-- The destination registers of a load of `n` elements of `k` bits: lanes without an access receive zero (R359). -/
def loadDests (d : Nat) (act : Mask) (sx : Bool) (n k : Nat) (vals : List (Nat × List Nat)) : List VecDest :=
  (List.range (n * elemRegs k)).map (fun i =>
    ⟨d + i, act, perLane (fun j =>
      match vals.find? (fun v => v.1 == j) with
      | some v => elemWord sx k (regGet 0 v.2 (i / elemRegs k)) (i % elemRegs k)
      | none => 0), none, false⟩)

/-- The value that element `e` of a store takes from lane `j`. -/
def storeValue (src : Group) (d j e k : Nat) : Nat :=
  (List.range (elemRegs k)).foldl (fun acc i => acc + (src.v (d + e * elemRegs k + i) j).toNat * 2 ^ (32 * i)) 0

end Sys2Proof.Machine
end

