-- ==== Sys2Proof/Machine/MemInstr.lean ====
section
/-! DEFINITION. MemInstr.lean: loads and stores (17 R355 to R359, 19 R396 to R398), LDLINES, GSHUF and PREF (17 R348, R360,
18 R379), SPILL and FILL (03 R74, 17 R346, 19 R394), atomics (16 R316, R317, R331, 18 R383) and FENCE (17 R345). -/

namespace Sys2Proof.Machine

open Sys2Proof

/-! ## Shared parts -/

def offInt (o : BitVec 8) : Int := o.toInt

/-- Reuse class with the class of the array register (R152, R154). -/
def accessHint (rc : Reuse) (a : BitVec 256) : Nat :=
  (match rc with
   | .fromArray => if arReuse a = 0 then 2 else arReuse a
   | .stream => 1 | .normal => 2 | .keep => 3 | .embed => 7) + 8 * arL2cls a

/-- A load with ORD PLAIN and FR clear is generic on paths G and K (R146). -/
def isGeneric (ord : Ord) (fr : Bool) : Bool := ord == .plain && !fr

/-- The requests of the turn are those of a memory instruction of the split, whose sequence is the core cycle of its issue (R156). -/
def State.asking (s : State) (r : SplitRef) (kind : Acc) (ord : Ord) (scope : Scope) : State :=
  { s with req := { s.req with tag := ((s.heldOf (.split r)).bind (fun h => h.tag)).or (some ⟨r.group, s.cycles, kind, ord, scope⟩) } }

/-- The effect on the group's stores of an access that is a release at a scope, before it is made (R229). -/
def State.before (s : State) (r : SplitRef) (ord : Ord) (scope : Scope) (kind : Acc := .read) : State :=
  match ord with
  | .plain | .acq => s.asking r kind ord scope
  | .rel | .acqrel | .sc => (s.asking r kind ord scope).releaseAt r.group scope

/-- Finish an instruction: `f` changes its group after its windows have been counted. -/
def State.done (s : State) (r : SplitRef) (f : Group → Group) : State :=
  (s.remoteDone (.split r)).modGroup r.group (fun x => f (x.countWindows r.k))

/-- VIOLMASK as the check leaves it. -/
def Group.withViol (v : Mask) (g : Group) : Group := { g with viol := v }

/-- What the check leaves behind, whatever follows it: its inserted cycle and VIOLMASK. -/
def State.checked (s : State) (r : SplitRef) (c : Checked) : State :=
  (if c.slow then s.insertCycle r else s).modGroup r.group (Group.withViol c.viol)

/-- What an array access's data block asks (R356, R397). -/
def blockBad (g : Group) (d : VReg) (esz n : Nat) : Bool :=
  ((esz == 3 || esz == 4) && d.getLsbD 0) || decide (g.ctl.budget < d.toNat + n * elemRegs (eszBits esz))

/-- Run the array check and continue with its lanes; an inserted cycle is taken, a code comparator may stop the instruction (R302), and the
span is sampled. -/
def State.withCheck (s : State) (r : SplitRef) (fp : Option Footprint) (res : ChkRes) (f : State → Checked → Res) : Res :=
  match res with
  | .trap e none => .trap e s
  | .trap e (some v) => .trap e ((s.insertCycle r).modGroup r.group (Group.withViol v))
  | .ok c => (s.codeStop r (s.checked r c)).getD (f (s.sample r fp) c)

/-! ## Loads -/

/-- Read the lanes of a checked load and open the instruction. -/
def loadRun (o : MemV) (a : BitVec 256) (act : Mask) (fp : Option Footprint) (c : Checked) (s : State) (r : SplitRef) (g : Group) :
    Res :=
  let n := NElem.count o.n
  let k := eszBits (arEsz a)
  let ls := c.elems a n
  match s.laneChecks r (g.split r.k) .read ⟨true, false⟩ (k / 8 * n) ls (s.checked r c) with
  | some x => x
  | none =>
    (((s.reserveSpan r o.fr fp).before r o.ord o.scope).loadLanes (s.cxOf r) (isGeneric o.ord o.fr) (accessHint o.rc a) ls [] []).toRes
      (s.checked r c) (fun vals s1 =>
        .next ((s1.checked r c).done r (fun x => x.issueLong r.k o.la .load
          (loadDests o.d.toNat act o.sx n k vals) [] 0)))

/-- LD and LDP (R355 to R359). -/
def ldRes (ptr : Bool) (o : MemV) (s : State) (r : SplitRef) (src g : Group) : Res :=
  let a := src.a o.arr.toNat
  let act := src.active r.k o.g
  let n := NElem.count o.n
  if arBad a || (o.sx && decide (2 ≤ arEsz a)) || (ptr && decide (5 ≤ arEsz a)) || blockBad g o.d (arEsz a) n then
    .trap (Exc.plain .format 0) s
  else if ptr then
    s.withCheck r none (pointerCheck a act false (offInt o.off) n (fun j => src.vPair o.x.toNat j)) (fun s1 c =>
      loadRun o a act none c s1 r g)
  else
    let view := src.view r.k o.x.toNat
    let fp := footprint a view (offInt o.off) n
    s.withCheck r fp (arrayCheck a view act false (offInt o.off) n (fun j => (src.v o.x.toNat j).toInt)) (fun s1 c =>
      loadRun o a act fp c s1 r g)

/-- The value LDU writes: extended to 64 bits. -/
def lduValue (sx : Bool) (k x : Nat) : DWord :=
  if sx && x.testBit (k - 1) then BitVec.ofInt 64 ((x : Int) - 2 ^ k) else BitVec.ofNat 64 x

/-- The single lane of a uniform access. -/
def uniLane : Mask := 1

/-- The check of LDU and STU: index sX[31:0], view [sX, sX]. -/
def uniCheck (a : BitVec 256) (writes : Bool) (off : Int) (x : Int) : ChkRes :=
  arrayCheck a (exactCal x) uniLane writes off 1 (fun _ => x)

/-- LDU (R355 to R357). -/
def lduRes (o : MemU) : State → SplitRef → Group → Group → Res :=
  underQCode o.g (fun s r src g =>
    let a := src.a o.arr.toNat
    let k := eszBits (arEsz a)
    let x := ((src.s o.x.toNat).extractLsb' 0 32).toInt
    if arBad a || (o.sx && decide (2 ≤ arEsz a)) || arEsz a == 4 then .trap (Exc.plain .format 0) s
    else
      let fp := footprint a (exactCal x) (offInt o.off) 1
      s.withCheck r fp (uniCheck a false (offInt o.off) x) (fun s1 c =>
        let ls := c.elems a 1
        match s1.laneChecks r (g.split r.k) .read ⟨true, false⟩ (k / 8) ls (s1.checked r c) with
        | some y => y
        | none =>
          (((s1.reserveSpan r o.fr fp).before r o.ord o.scope).loadLanes (s1.cxOf r) (isGeneric o.ord o.fr) (accessHint o.rc a) ls [] []).toRes
            (s1.checked r c) (fun vals s2 =>
              let v := match vals with
                | (_, y :: _) :: _ => y
                | _ => 0
              .next ((s2.checked r c).done r (fun y => y.issueLong r.k o.la .load [] [.s o.d.toNat (lduValue o.sx k v)] 0)))))

/-- Path-S address of a scratchpad offset, every bit kept (R424). -/
def pathS (off : Int) : DWord := 0x3000000000000000 + BitVec.ofInt 64 off

/-- Scratchpad accesses of LDS and STS: each lane's offset, ALIGN and then ACCESS (R357). -/
def spLanes (src : Group) (act : Mask) (x : VReg) (off : BitVec 8) : List (Nat × Int) :=
  act.lanes.map (fun j => (j, ((src.v x.toNat j).toNat : Int) + offInt off))

def spFault (w n : Nat) (ls : List (Nat × Int)) : Option Exc :=
  match ls.find? (fun l => decide (l.2 % ((min (w * n) 16 : Nat) : Int) ≠ 0)) with
  | some l => some (Exc.at .align (pathS l.2))
  | none =>
    (ls.find? (fun l => decide (l.2 < 0) || decide ((Config.scratchBytes : Int) < l.2 + w * n))).map (fun l =>
      Exc.at .access (pathS l.2))

def spElems (w n : Nat) (ls : List (Nat × Int)) : LaneElems :=
  ls.map (fun l => (l.1, (List.range n).map (fun e => Elem.plain (pathS (l.2 + ((e * w : Nat) : Int))) w)))

/-- LDS (R355 to R357). -/
def ldsRes (o : MemS) (s : State) (r : SplitRef) (src _g : Group) : Res :=
  let act := src.active r.k o.g
  let n := NElem.count o.n
  let w := o.size.bytes
  let ls := spLanes src act o.x o.off
  match spFault w n ls with
  | some e => .trap e s
  | none =>
    ((s.before r o.ord o.scope).loadLanes (s.cxOf r) false 0 (spElems w n ls) [] []).toRes s (fun vals s1 =>
      .next (s1.done r (fun x => x.issueLong r.k o.la .load (loadDests o.d.toNat act o.sx n (8 * w) vals) [] 0)))

/-! ## Stores -/

/-- The store queue of a group is full. -/
def State.storeFull (s : State) (r : GroupRef) : Bool :=
  match s.group? r with
  | some g => g.queueFull
  | none => false

/-- The writes enter the group's store queue; an SC store is performed before any later access (R229). -/
def State.storeDone (s : State) (r : SplitRef) (ord : Ord) (scope : Scope) (w : List ByteWr × List Nat) : State :=
  let s1 := s.done r (fun x => x.enqueue w.1 w.2)
  if ord = .sc then s1.releaseAt r.group scope else s1

/-- Store the elements with their values after every check, once the group's store queue has room (R82); `f` leaves behind what the check
does. -/
def storeRun (ord : Ord) (scope : Scope) (hint : Nat) (es : List (Elem × Nat)) (s : State) (r : SplitRef)
    (f : State → State) : Res :=
  if s.storeFull r.group then .stall s
  else (((s.before r ord scope .write).transElems (s.cxOf r) .write (es.map (fun e => e.1))).bind (fun _ s1 =>
    s1.storeElems (s1.cxOf r) hint es [] [])).toRes (f s) (fun w s2 => .next ((f s2).storeDone r ord scope w))

/-- Lanes of a checked store. -/
def storeLanes (o : MemV) (a : BitVec 256) (src : Group) (c : Checked) (s : State) (r : SplitRef) (g : Group) : Res :=
  let n := NElem.count o.n
  let k := eszBits (arEsz a)
  let ls := c.elems a n
  let sv := s.checked r c
  match s.laneChecks r (g.split r.k) .write ⟨false, true⟩ (k / 8 * n) ls sv with
  | some x => x
  | none =>
    let es := ls.flatMap (fun l => l.2.zipIdx.map (fun e => (e.1, storeValue src o.d.toNat l.1 e.2 k)))
    storeRun o.ord o.scope (accessHint o.rc a) es s r (fun y => y.checked r c)

/-- ST and STP (R396 to R398). -/
def stRes (ptr : Bool) (o : MemV) (s : State) (r : SplitRef) (src g : Group) : Res :=
  let a := src.a o.arr.toNat
  let act := src.active r.k o.g
  let n := NElem.count o.n
  if arBad a || (ptr && decide (5 ≤ arEsz a)) || blockBad g o.d (arEsz a) n then .trap (Exc.plain .format 0) s
  else if ptr then
    s.withCheck r none (pointerCheck a act true (offInt o.off) n (fun j => src.vPair o.x.toNat j)) (fun s1 c =>
      storeLanes o a src c s1 r g)
  else
    let view := src.view r.k o.x.toNat
    s.withCheck r (footprint a view (offInt o.off) n)
      (arrayCheck a view act true (offInt o.off) n (fun j => (src.v o.x.toNat j).toInt)) (fun s1 c =>
      storeLanes o a src c s1 r g)

/-- STU (R396 to R398). -/
def stuRes (o : MemU) : State → SplitRef → Group → Group → Res :=
  underQCode o.g (fun s r src g =>
    let a := src.a o.arr.toNat
    let k := eszBits (arEsz a)
    let x := ((src.s o.x.toNat).extractLsb' 0 32).toInt
    if arBad a || arEsz a == 4 then .trap (Exc.plain .format 0) s
    else
      s.withCheck r (footprint a (exactCal x) (offInt o.off) 1) (uniCheck a true (offInt o.off) x) (fun s1 c =>
        let ls := c.elems a 1
        let sv := s1.checked r c
        match s1.laneChecks r (g.split r.k) .write ⟨false, true⟩ (k / 8) ls sv with
        | some y => y
        | none =>
          storeRun o.ord o.scope (accessHint o.rc a)
            (ls.flatMap (fun l => l.2.map (fun e => (e, (src.s o.d.toNat).toNat)))) s1 r (fun y => y.checked r c)))

/-- STS (R396, R397). -/
def stsRes (o : MemS) (s : State) (r : SplitRef) (src _g : Group) : Res :=
  let act := src.active r.k o.g
  let n := NElem.count o.n
  let w := o.size.bytes
  let ls := spLanes src act o.x o.off
  match spFault w n ls with
  | some e => .trap e s
  | none =>
    storeRun o.ord o.scope 0
      ((spElems w n ls).flatMap (fun l => l.2.zipIdx.map (fun e => (e.1, storeValue src o.d.toNat l.1 e.2 (8 * w)))))
      s r (fun x => x)

/-! ## LDLINES, GSHUF, PREF -/

/-- The part of footprint line `i` that lies in [BASE, end of element EXTENT − 1]: first byte and count. -/
def lineSpan (a : BitVec 256) (fp : Footprint) (i : Nat) : Nat × Nat :=
  let lo := fp.line0 + 128 * i
  let first := max lo (arBase a).toNat
  let last := min (lo + 128) ((elemBit a (arExtent a) + 7) / 8)
  (first, last - first)

/-- The accesses of a line: whole, but byte by byte where the path is not global. -/
def lineElems (first n : Nat) : List Elem :=
  if first / 2 ^ 60 ≤ 2 then (if n = 0 then [] else [Elem.plain (BitVec.ofNat 64 first) n])
  else (List.range n).map (fun i => Elem.plain (BitVec.ofNat 64 (first + i)) 1)

/-- Some access to a publish buffer lies beyond the buffer's size or in one without a valid entry. -/
def State.pubRefused (s : State) (cx : Cx) (es : List Elem) : Bool :=
  let pub := es.filter (fun e => addrPath e.addr == 6)
  ((pub.map (fun e => bitsOf e.addr.toNat 52 8)).dedup).any (fun id =>
    let top := (pub.filter (fun e => bitsOf e.addr.toNat 52 8 == id)).foldl (fun m e => max m (bitsOf e.addr.toNat 0 32 + e.n)) 0
    match s.pubBuffer cx id with
    | .ok none _ => true
    | .ok (some (_, _, size)) _ => decide (size < top)
    | .fault e => e.cause == .access
    | .wait _ => false)

/-- The access of LDLINES would raise ACCESS. -/
def linesRefused (s : State) (r : SplitRef) (es : List Elem) : Bool :=
  match s.ctx r.slot with
  | none => true
  | some c => (findRefused s (s.cxOf r) c .read [(0, es)]).isSome || s.pubRefused (s.cxOf r) es

/-- The reads of LDLINES; none where a peer refuses one with ACCESS. -/
def MRes.orRefused {α : Type} (m : MRes α) (s : State) : MRes (Option α) :=
  match m with
  | .ok a s1 => .ok (some a) s1
  | .wait s1 => .wait s1
  | .fault e => if e.cause = .access then .ok none s else .fault e

/-- Put the bytes of a line into its 32 lane words. -/
def lineWords (pad : Nat) (bytes : List Byte) : Lanes :=
  let all := List.replicate pad (0 : Byte) ++ bytes
  perLane (fun j => BitVec.ofNat 32 (leNat ((all.drop (4 * j)).take 4)))

/-- Read the lines of a footprint, in order. -/
def State.readLines (s : State) (cx : Cx) (generic : Bool) (hint : Nat) (a : BitVec 256) (fp : Footprint) :
    List Nat → List Lanes → MRes (List Lanes)
  | [], acc => .ok acc s
  | i :: is, acc =>
    let sp := lineSpan a fp i
    match s.loadElems cx generic hint (lineElems sp.1 sp.2) [] [] with
    | .fault x => .fault x
    | .wait s1 => .wait ((s1.readLines cx generic hint a fp is []).waitOr s1)
    | .ok v s1 =>
      s1.readLines cx generic hint a fp is (acc ++ [lineWords (sp.1 - (fp.line0 + 128 * i)) (v.1.map (fun x => x.2))])

/-- LDLINES (R73, R360). Its destination calipers become unknown on success alone, as R360 has it, and stay as they were when it fails. DEDUCED
(log 18). -/
def ldlinesRes (o : LdlinesOp) : State → SplitRef → Group → Group → Res :=
  underQ o.g (fun s r src g =>
    let a := src.a o.arr.toNat
    let n := o.n1.toNat + 1
    let fp := footprint a (src.view r.k o.x.toNat) (offInt o.off) (NElem.count o.n)
    let fail : Res := .next (s.done r (fun x => (x.withViol 0).issueLong r.k o.la .load [] [.q 6 false] 0))
    if arBad a then .trap (Exc.plain .format 0) s
    else match fp with
      | none => fail
      | some f =>
        let is := List.range f.lines
        let es := is.flatMap (fun i => lineElems (lineSpan a f i).1 (lineSpan a f i).2)
        if n < f.lines ∨ linesRefused s r es then fail
        else match s.watchStop r (g.split r.k) ⟨true, false⟩ (watchList [(0, es)]) s with
        | some x => x
        | none =>
          (((((s.sample r fp).reserveSpan r o.fr fp).before r o.ord o.scope).readLines (s.cxOf r) (isGeneric o.ord o.fr) (accessHint o.rc a) a f is
              []).orRefused s).toRes s (fun ls s1 =>
            match ls with
            | none => fail
            | some ls =>
              .next (s1.done r (fun x => (x.withViol 0).issueLong r.k o.la .load
                ((List.range n).map (fun i => ⟨o.d.toNat + i, Mask.full, regGet zeroLanes ls i, none, true⟩)) [.q 6 true] 0))))

/-- Byte `x − L0` of the block of registers at `v` (R159). -/
def blockByte (src : Group) (v off : Nat) : Byte :=
  (src.v (v + off / 128) (off % 128 / 4)).extractLsb' (8 * (off % 4)) 8

/-- GSHUF (R348). -/
def gshufRes (o : GshufOp) (s : State) (r : SplitRef) (src g : Group) : Res :=
  let a := src.a o.arr.toNat
  let n := o.n1.toNat + 1
  let act := src.active r.k o.g
  let k := eszBits (arEsz a)
  let w := elemRegs k
  let view := src.view r.k o.x.toNat
  if arBad a || ((arEsz a == 3 || arEsz a == 4) && o.d.getLsbD 0) || decide (g.ctl.budget < o.d.toNat + w + n) then
    .trap (Exc.plain .format 0) s
  else
    let fp := footprint a view (offInt o.off) 1
    let wide := match fp with
      | none => false
      | some f => decide (n < f.lines)
    if view.isNone || wide then .trap (Exc.plain .caliper (act.setWidth 64)) s
    else
      s.withCheck r fp (arrayCheck a view act false (offInt o.off) 1 (fun j => (src.v o.x.toNat j).toInt)) (fun s1 c =>
        let line0 := match fp with
          | some f => f.line0
          | none => 0
        let vals := c.live.lanes.map (fun j =>
          let bit := elemBit a (c.idx j).toNat
          let first := bit / 8 - line0
          let bytes := (List.range ((bit % 8 + k + 7) / 8)).map (fun i => blockByte src (o.d.toNat + w) (first + i))
          (j, [leNat bytes / 2 ^ (bit % 8) % 2 ^ k]))
        .next ((s1.checked r c).done r (fun x => x.issueLong r.k o.la .alu
          (loadDests o.d.toNat act false 1 k vals) [] 0)))

/-- One line of PREF: fetched into the home slice, which pulls it first on a moving page (R174, R175), and with SUB 0 into the L1
(path F does not fill it), but for sectors that are uncorrectable. A line of a peer's memory is asked for, and its answer fills the L1. -/
def State.prefLine (s : State) (cx : Cx) (l1 : Bool) (hint line : Nat) : State :=
  let va := line * 128 % 2 ^ 57
  match s.peekTo cx.slot va .read with
  | .phys pa cls =>
    let s1 := (s.pullRange pa 128).l2Touch pa 128 cls hint false
    if !l1 then s1
    else (List.range 4).foldl (fun acc i =>
      if (acc.eccOf (pa + 32 * i) 32).isSome then acc
      else acc.l1Fill cx hint (va / 32 + i) (acc.homeBytes (acc.lc cx.slot cx.lcid).leaving (pa + 32 * i) 32)) s1
  | .remote rank pa =>
    (s.remoteDo { cx with who := .pref cx.slot cx.lcid (va / 128) (hint % 8) l1 } rank (pa / 128) 0xF .read (Exc.at .access 0)).waitOr s
  | .fault _ _ | .noX | .ecc _ | .wait => s

/-- PREF (R379). -/
def prefRes (o : PrefOp) (s : State) (r : SplitRef) (src g : Group) : Res :=
  let a := src.a o.arr.toNat
  let fp := footprint a (src.view r.k o.x.toNat) (offInt o.off) 1
  if arBad a then .trap (Exc.plain .format 0) s
  else match fp with
    | none => .next (s.setGroup r.group g)
    | some f =>
      if 64 < f.lines ∨ 2 < f.first / 2 ^ 60 ∨ bitsOf (arBase a).toNat 57 3 ≠ 0 then .next (s.setGroup r.group g)
      else
        let s1 := (List.range f.lines).foldl (fun acc i =>
          acc.prefLine (acc.cxOf r) (!o.l2 && f.first / 2 ^ 60 != 1) (accessHint o.rc a) (f.line0 / 128 + i))
          ((s.sample r fp).asking r .read .plain .group)
        .next (s1.setGroup r.group g)

/-! ## SPILL and FILL (Table 3.9) -/

def spillSlot (g : Group) (k : BitVec 8) : DWord := g.ctl.spillBase + BitVec.ofNat 64 (0x20000 + k.toNat * 0x100)

/-- Bytes 128 to 255 of a slot: LO, HI, K and zeros. -/
def spillTail (c : Caliper) : List Byte :=
  let iv := c.getD ⟨0, 0⟩
  natLe 4 (BitVec.ofInt 32 iv.lo).toNat ++ natLe 4 (BitVec.ofInt 32 iv.hi).toNat ++ natLe 1 (if c.isSome then 1 else 0)
    ++ List.replicate 119 0

/-- The accesses of SPILL and FILL as a comparator sees them: each active lane's word, then the caliper's bytes. -/
def spillWatch (addr : DWord) (act : Mask) : List (Nat × Nat × Nat) :=
  let at_ (off n : Nat) : Nat × Nat × Nat := (addrPath addr, bitsOf addr.toNat 0 57 + off, n)
  if act = 0 then [] else act.lanes.map (fun j => at_ (4 * j) 4) ++ [at_ 128 128]

/-- SPILL (R394): its store touches the lines of its slot, and pulls them on a moving page; a full store queue stalls it (R82). -/
def spillRes (o : SpillOp) (s : State) (r : SplitRef) (src g : Group) : Res :=
  let act := src.active r.k o.g
  if act = 0 then .next (s.setGroup r.group g)
  else
    let addr := spillSlot g o.k
    let data := laneIds.flatMap (fun j =>
      (natLe 4 (src.v o.d.toNat j).toNat).map (fun b => (b, if Mask.has act j then (0xFF : Byte) else 0)))
    let bytes := data ++ (spillTail (src.view r.k o.d.toNat)).map (fun b => (b, (0xFF : Byte)))
    match s.watchStop r (g.split r.k) ⟨false, true⟩ (spillWatch addr act) s with
    | some x => x
    | none =>
      if s.storeFull r.group then .stall s
      else ((s.asking r .write .plain .group).spillOp addr 256 .write (fun s q =>
        (s.transRange (s.cxOf r) q).bind (fun ps s1 =>
          match (if hasRemote ps then s1.drainAll r.group else s1).sendPieces (s1.cxOf r) q ps bytes with
          | .fault e => .fault e
          | .wait s2 => .wait (s2.farDrop (s1.cxOf r) q ps)
          | .ok _ s2 => .ok ((pieceWrites ps bytes).filter (fun w => w.bits != 0)) ((s2.touchPieces 0 ps).farDrop (s1.cxOf r) q ps)))).toRes s
        (fun wr s1 => .next (s1.done r (fun x => x.enqueue wr (linesOf (bitsOf addr.toNat 0 57) 256))))

/-- FILL (R74, R346). -/
def fillRes (o : SpillOp) (s : State) (r : SplitRef) (src g : Group) : Res :=
  let act := src.active r.k o.g
  match s.watchStop r (g.split r.k) ⟨true, false⟩ (spillWatch (spillSlot g o.k) act) s with
  | some x => x
  | none => ((s.asking r .read .plain .group).spillRead (s.cxOf r) (spillSlot g o.k) 256).toRes s (fun b s1 =>
    let lo := (BitVec.ofNat 32 (leNat ((b.drop 128).take 4))).toInt
    let hi := (BitVec.ofNat 32 (leNat ((b.drop 132).take 4))).toInt
    let tail := leNat (b.drop 136)
    let known := decide (tail % 2 = 1)
    let x (j : Nat) : Word := BitVec.ofNat 32 (leNat ((b.drop (4 * j)).take 4))
    let out := act &&& Mask.ofFn (fun j => decide ((x j).toInt < lo) || decide (hi < (x j).toInt))
    if 1 < tail ∨ (known ∧ hi < lo) then .trap (Exc.plain .format 0) s1
    else if known && out != 0 then .trap (Exc.plain .caliper (out.setWidth 64)) s1
    else .next (s1.done r (fun y => y.issueLong r.k o.la .load
      [⟨o.d.toNat, act, perLane x, if known then some ⟨lo, hi⟩ else none, false⟩] [] 0)))

end Sys2Proof.Machine
end

