-- ==== Sys2Proof/Machine/Matrix.lean ====
section
/-! DEFINITION. Matrix.lean: MMA, MLD and MST with their operands, format block and scale grids (05 R126 to R135, 18 R364,
R365, R368, R369). -/

namespace Sys2Proof.Machine

open Sys2Proof

/-! ## The format block (Table 5.8) and operand pairs (Table 5.7) -/

structure FmtBlock where
  a      : ElemFmt
  b      : ElemFmt
  geom   : Nat
  acc    : Bool
  rnd    : Rnd
  satf   : Bool
  tra    : Bool
  trb    : Bool
  aoff   : Nat
  boff   : Nat
  apitch : Nat
  bpitch : Nat

/-- The uniform pair sN, sN+1 as 128 bits. -/
def pairBits (src : Group) (r : SReg) : Nat := (src.s r.toNat).toNat + 2 ^ 64 * (src.s (r.toNat + 1)).toNat

def ElemFmt.isWide : ElemFmt → Bool
  | .wide _ => true
  | .narrow _ => false

/-- One width class (R127): the same wide type, K8 and K6 in any mix, or K4. -/
def sameClass : ElemFmt → ElemFmt → Bool
  | .wide f, .wide h => f == h
  | .narrow f, .narrow h => (f.k == 4) == (h.k == 4)
  | .wide _, .narrow _ => false
  | .narrow _, .wide _ => false

/-- The block that R131 accepts; the register-operand rule on TRA and TRB is the instruction's. -/
def fmtBlock (x : Nat) : Option FmtBlock :=
  match elemFmt (BitVec.ofNat 8 x), elemFmt (BitVec.ofNat 8 (x / 2 ^ 8)) with
  | some a, some b =>
    let geom := bitsOf x 16 2
    let grid := bitsOf x 32 24 != 0 || bitsOf x 64 40 != 0 || bitsOf x 104 16 != 0
    if bitsOf x 120 8 ≠ 0 ∨ bitsOf x 56 8 ≠ 0 ∨ bitsOf x 25 7 ≠ 0 ∨ 2 ≤ bitsOf x 20 2 ∨ 2 ≤ bitsOf x 18 2 ∨ geom = 3
        ∨ !sameClass a b ∨ (geom ≠ 0 ∧ (a.isWide || b.isWide)) ∨ (geom = 0 ∧ grid) then none
    else some
      { a := a, b := b, geom := geom, acc := bitsOf x 18 2 = 1, rnd := if bitsOf x 20 2 = 0 then .rn else .rz
        satf := x.testBit 22, trb := x.testBit 23, tra := x.testBit 24, aoff := bitsOf x 32 24, boff := bitsOf x 64 24
        apitch := bitsOf x 88 16, bpitch := bitsOf x 104 16 }
  | _, _ => none

/-- A scratchpad operand pair that R129 accepts. -/
structure SpPair where
  base   : Nat
  rpitch : Nat
  tpitch : Nat
  rot    : Nat
deriving DecidableEq, Repr

def spPair (x : Nat) : Option SpPair :=
  let p : SpPair := ⟨bitsOf x 0 24, bitsOf x 24 16, bitsOf x 64 24, bitsOf x 48 4⟩
  if bitsOf x 40 8 ≠ 0 ∨ bitsOf x 52 12 ≠ 0 ∨ bitsOf x 88 40 ≠ 0 ∨ p.base % 16 ≠ 0 ∨ p.rpitch % 16 ≠ 0 ∨ p.tpitch % 16 ≠ 0 then
    none
  else some p

/-- Displaced start of stored row `r` (R129). -/
def SpPair.row (p : SpPair) (r : Nat) : Nat := p.base + r / 16 * p.tpitch + r % 16 * p.rpitch

/-- R130: bits [9:4] become (x[9:4] + r c) mod 64. -/
def rotByte (c r x : Nat) : Nat := x / 1024 * 1024 + (bitsOf x 4 6 + r * c) % 64 * 16 + x % 16

/-- Bits of a register field of an element: 32 divided by the elements per register (Table 5.6). -/
def ElemFmt.field : ElemFmt → Nat
  | .wide f => f.width
  | .narrow f => if f.k = 4 then 4 else 8

/-- K of Table 5.6. -/
def ElemFmt.slice (f : ElemFmt) : Nat := if f.field = 32 then 8 else 32 / f.field * 16

/-- Registers of an operand block. -/
def ElemFmt.blockRegs (f : ElemFmt) : Nat := if f.field = 32 then 8 else 16

/-- Where operand element (row i, column k) is stored: A as (i, k), B as (k, j), exchanged when transposed (R129). -/
def storedAt (trans : Bool) (i k : Nat) : Nat × Nat := if trans then (k, i) else (i, k)

/-- Bytes of a stored row of `n` elements. -/
def rowBytes (f : ElemFmt) (n : Nat) : Nat := (n * f.width + 7) / 8

/-- The first byte at or beyond 1 MiB among `rows` rows of `n` bytes, rows ascending (R424). -/
def firstBeyond (p : SpPair) (rows n : Nat) : Option Nat :=
  (List.range rows).findSome? (fun r =>
    if Config.scratchBytes < p.row r + n then some (max (p.row r) Config.scratchBytes) else none)

/-- The code of the element at column `c` of stored row `r`. -/
def spCode (m : Cells) (p : SpPair) (f : ElemFmt) (r c : Nat) : Nat :=
  let bit := c * f.width
  let bytes := (List.range ((bit % 8 + f.width + 7) / 8)).map (fun i => Cells.get m (rotByte p.rot r (p.row r + bit / 8 + i)))
  leNat bytes / 2 ^ (bit % 8) % 2 ^ f.width

/-- The code of element `k` of lane `i` in a register block (R128). -/
def regCode (src : Group) (v : Nat) (f : ElemFmt) (i k : Nat) : Nat :=
  let e := 32 / f.field
  (src.v (v + k / e) i).toNat / 2 ^ (k % e * f.field) % 2 ^ f.width

/-! ## Checks -/

/-- CONVERGENCE (R133 step 2). -/
def diverged (g : Group) (k : Nat) : Bool := g.ctl.live != Mask.full || (g.split k).mask != Mask.full

/-- A parsed operand: registers from a base, or a scratchpad pair. -/
inductive MOp where
  | regs (v : Nat)
  | sp (p : SpPair)

/-- An operand, unless its pair is malformed or a register operand is transposed. -/
def MOperand.parse (src : Group) (trans : Bool) : MOperand → Option MOp
  | .regs v => if trans then none else some (.regs v.toNat)
  | .sp s => (spPair (pairBits src s)).map (fun p => .sp p)

def accessS (off : Nat) : Exc := Exc.at .access (pathS off)

/-- The rows and bytes per row of a stored operand: 32 rows of K, or K rows of 32 for A transposed and B straight. -/
def storedShape (f : ElemFmt) (wide : Bool) : Nat × Nat :=
  if wide then (f.slice, rowBytes f 32) else (32, rowBytes f f.slice)

def MOp.beyond (f : ElemFmt) (kRows : Bool) : MOp → Option Nat
  | .regs _ => none
  | .sp p => firstBeyond p (storedShape f kRows).1 (storedShape f kRows).2

/-- The first grid byte at or beyond 1 MiB, in the order of stored elements. -/
def gridBeyond (geom off pitch rows cols : Nat) : Option Nat :=
  if geom = 0 then none
  else
    let t := if geom = 1 then 16 else 32
    (List.range ((rows + t - 1) / t)).findSome? (fun r =>
      (List.range ((cols + t - 1) / t)).findSome? (fun c =>
        if Config.scratchBytes ≤ off + r * pitch + c then some (off + r * pitch + c) else none))

/-- The bytes of a stored operand, and those of a scale grid. -/
def MOp.bytes (f : ElemFmt) (kRows : Bool) : MOp → List Nat
  | .regs _ => []
  | .sp p =>
    let sh := storedShape f kRows
    (List.range sh.1).flatMap (fun r => (List.range sh.2).map (fun x => rotByte p.rot r (p.row r + x)))

def gridBytes (geom off pitch rows cols : Nat) : List Nat :=
  if geom = 0 then []
  else
    let t := if geom = 1 then 16 else 32
    (List.range ((rows + t - 1) / t)).flatMap (fun r => (List.range ((cols + t - 1) / t)).map (fun c => off + r * pitch + c))

/-- An uncorrectable error stands in a byte of the scratchpad that the instruction consumes (Table 12.6). -/
def State.softBytes (s : State) (r : SplitRef) (bytes : List Nat) : Bool :=
  s.soft.any (fun p => match p with
    | .scratch slot lcid chunk => slot == r.slot && lcid == r.lcid && bytes.any (fun b => b / 32 == chunk)
    | .stack _ | .l2 _ | .group _ => false)

/-! ## MMA -/

/-- One element's exact value with its scale (R124, R132): (i, k) in the operand, (r, c) as stored. -/
def scaledElem (m : Cells) (f : ElemFmt) (geom off pitch : Nat) (code r c : Nat) : Num :=
  if geom = 0 then f.decode code
  else
    let t := if geom = 1 then 16 else 32
    mulNum (f.decode code) (scaleNum (Cells.get m (off + r / t * pitch + c / t)).toNat)

/-- A(i, k) of a format block. -/
def mmaA (m : Cells) (src : Group) (fb : FmtBlock) (o : MOp) (i k : Nat) : Num :=
  let st := match o with
    | .regs _ => (i, k)
    | .sp _ => storedAt fb.tra i k
  let code := match o with
    | .regs v => regCode src v fb.a i k
    | .sp p => spCode m p fb.a st.1 st.2
  scaledElem m fb.a fb.geom fb.aoff fb.apitch code st.1 st.2

/-- B(k, j). -/
def mmaB (m : Cells) (src : Group) (fb : FmtBlock) (o : MOp) (k j : Nat) : Num :=
  let st := match o with
    | .regs _ => (k, j)
    | .sp _ => storedAt fb.trb k j
  let code := match o with
    | .regs v => regCode src v fb.b j k
    | .sp p => spCode m p fb.b st.1 st.2
  scaledElem m fb.b fb.geom fb.boff fb.bpitch code st.1 st.2

/-- The round of an exact sum: a NaN of any kind raises invalid, an exact zero is −0 only when every term is (R133). -/
def mmaRound (r : Rnd) (satf : Bool) (terms : List Num) : Nat × Flags :=
  match exactSum terms with
  | .nan _ => (fmtF32.qnan, flInvalid)
  | .inf n => (fmtF32.special (.inf n), 0)
  | .exact v q => roundSum fmtF32 r satf (allNegTerms terms) (.exact v q)

/-- One accumulator element: hi, lo (0 in plain mode) and flags. -/
def mmaCell (fb : FmtBlock) (terms : List Num) : Nat × Nat × Flags :=
  let hi := mmaRound fb.rnd fb.satf terms
  if !fb.acc then (hi.1, 0, hi.2)
  else match exactSum terms with
    | .nan _ => (hi.1, 0, hi.2)
    | .inf _ => (hi.1, 0, hi.2)
    | .exact _ _ =>
      if hi.2 &&& flOverflow != 0 then (hi.1, 0, hi.2)
      else
        let lo := roundSum fmtF32 fb.rnd fb.satf false (exactSum ((fmtF32.decode hi.1).neg :: terms))
        (hi.1, lo.1, hi.2 ||| lo.2)

/-- The terms of C[i][j]: what the accumulator holds, then the products. -/
def mmaTerms (m : Cells) (src : Group) (fb : FmtBlock) (z : Bool) (d : Nat) (a b : MOp) (i j : Nat) : List Num :=
  let c (r : Nat) : Num := if z then .fin false 0 0 else fmtF32.decode (src.v r j).toNat
  (if fb.acc then [c (d + i), c (d + 32 + i)] else [c (d + i)])
    ++ (List.range fb.a.slice).map (fun k => mulNum (mmaA m src fb a i k) (mmaB m src fb b k j))

/-- Destination registers from a table of rows. -/
def rowDests (d : Nat) (rows : List (List Nat)) : List VecDest :=
  rows.zipIdx.map (fun x => ⟨d + x.2, Mask.full, perLane (fun j => BitVec.ofNat 32 (regGet 0 x.1 j)), none, false⟩)

/-- The accumulator elements of an MMA: the rows of C. -/
def mmaCells (m : Cells) (src : Group) (fb : FmtBlock) (z : Bool) (d : Nat) (a b : MOp) : List (List (Nat × Nat × Flags)) :=
  (List.range 32).map (fun i => (List.range 32).map (fun j => mmaCell fb (mmaTerms m src fb z d a b i j)))

/-- The accumulator registers that they go to, and the flags they raise. -/
def mmaDests (fb : FmtBlock) (d : Nat) (cells : List (List (Nat × Nat × Flags))) : List VecDest :=
  rowDests d (cells.map (fun row => row.map (fun c => c.1)))
    ++ (if fb.acc then rowDests (d + 32) (cells.map (fun row => row.map (fun c => c.2.1))) else [])

def mmaFlags (cells : List (List (Nat × Nat × Flags))) : Flags :=
  cells.foldl (fun acc row => row.foldl (fun acc c => acc ||| c.2.2) acc) 0

/-- What an MMA that is still reading gives, from a scratchpad: its destinations and flags, where its operands parse. -/
def MmaJob.result (j : MmaJob) (g : Group) (m : Cells) : Option (List VecDest × Flags) :=
  let src : Group := { g with vregs := j.vregs, sregs := j.sregs }
  match fmtBlock (pairBits src j.op.f) with
  | none => none
  | some fb =>
    match MOperand.parse src fb.tra j.op.a, MOperand.parse src fb.trb j.op.b with
    | some a, some b =>
      let cells := mmaCells m src fb j.z j.op.d.toNat a b
      some (mmaDests fb j.op.d.toNat cells, mmaFlags cells)
    | _, _ => none

/-- An MMA has read its scratchpad bytes: its results are those of what it read. -/
def Pending.read (p : Pending) (g : Group) (n : Nat) (now : Cells) : Pending :=
  match p.job with
  | none => p
  | some j =>
    let m := j.fixed.getD (j.seen n now)
    match (if j.scratch = m then none else j.result g m) with
    | none => { p with job := none }
    | some x =>
      { p with
        job := none
        vecs := p.vecs.map (fun v => { v with vals := (match x.1.find? (fun y => y.reg == v.reg) with
          | some y => y.vals
          | none => v.vals) })
        flags := x.2 }

/-- Some MMAs of a group have read their operands. -/
def State.mmaRead (s : State) (r : GroupRef) (which : Pending → Bool) : State :=
  let (n, s1) := s.draw
  s1.modGroup r (fun g => { g with inflight := g.inflight.map (fun p =>
    if which p then p.read g n (s1.lc r.slot r.lcid).scratch else p) })

/-- MMA and MMA.Z (R133, R365): it opens with the results of the scratchpad as it stands, and reads until it completes. -/
def mmaRes (z : Bool) (o : MmaOp) (word : DWord) : State → SplitRef → Group → Group → Res :=
  underQ o.g (fun s r src g =>
    if diverged g r.k then .trap (Exc.plain .convergence word) s
    else match fmtBlock (pairBits src o.f) with
      | none => .trap (Exc.plain .format 0) s
      | some fb =>
        match MOperand.parse src fb.tra o.a, MOperand.parse src fb.trb o.b with
        | some a, some b =>
          let k := fb.a.slice
          let aShape := match a with
            | .regs _ => (32, k)
            | .sp _ => if fb.tra then (k, 32) else (32, k)
          let bShape := match b with
            | .regs _ => (k, 32)
            | .sp _ => if fb.trb then (32, k) else (k, 32)
          match (a.beyond fb.a fb.tra).or ((b.beyond fb.b (!fb.trb)).or
              ((gridBeyond fb.geom fb.aoff fb.apitch aShape.1 aShape.2).or
                (gridBeyond fb.geom fb.boff fb.bpitch bShape.1 bShape.2))) with
          | some x => .trap (accessS x) s
          | none =>
            if s.softBytes r (a.bytes fb.a fb.tra ++ b.bytes fb.b (!fb.trb) ++ gridBytes fb.geom fb.aoff fb.apitch aShape.1 aShape.2 ++
                gridBytes fb.geom fb.boff fb.bpitch bShape.1 bShape.2) then .trap Exc.sramEcc s
            else
            let s1 := s.drainAll r.group
            let m := (s1.lc r.slot r.lcid).scratch
            let cells := mmaCells m src fb z o.d.toNat a b
            .next (s1.done r (fun x => x.issueLong r.k o.la .matrix (mmaDests fb o.d.toNat cells) [] (mmaFlags cells)
              (some ⟨z, o, src.vregs, src.sregs, m, [], none⟩)))
        | _, _ => .trap (Exc.plain .format 0) s)

/-! ## MLD -/

/-- Register `q` of an operand block in lane `i`: the fields of elements qE to qE + E − 1. -/
def blockWord (f : ElemFmt) (code : Nat → Nat) (q : Nat) : Word :=
  let e := 32 / f.field
  BitVec.ofNat 32 ((List.range e).foldl (fun acc x => acc + code (q * e + x) * 2 ^ (x * f.field)) 0)

/-- MLD (R364). -/
def mldRes (o : MldOp) (word : DWord) : State → SplitRef → Group → Group → Res :=
  underQ o.g (fun s r src g =>
    if diverged g r.k then .trap (Exc.plain .convergence word) s
    else match spPair (pairBits src o.a), fmtBlock (pairBits src o.f) with
      | some p, some fb =>
        let f := if o.opB then fb.b else fb.a
        let kRows := if o.opB then !fb.trb else fb.tra
        match MOp.beyond f kRows (.sp p) with
        | some x => .trap (accessS x) s
        | none =>
          if s.softBytes r ((MOp.sp p).bytes f kRows) then .trap Exc.sramEcc s
          else
          let s1 := s.drainAll r.group
          let m := (s1.lc r.slot r.lcid).scratch
          let code (i k : Nat) : Nat := if kRows then spCode m p f k i else spCode m p f i k
          .next (s1.done r (fun x => x.issueLong r.k o.la .matrix
            ((List.range f.blockRegs).map (fun q =>
              ⟨o.d.toNat + q, Mask.full, perLane (fun i => blockWord f (code i) q), none, false⟩)) [] 0))
      | _, _ => .trap (Exc.plain .format 0) s)

/-! ## MST -/

/-- The number an exact sum is. -/
def sumNum : Sum → Num
  | .nan s => .nan s
  | .inf n => .inf n
  | .exact v q => .fin (decide (v < 0)) v.natAbs q

/-- One stored value: its code and flags (R369). -/
def mstCell (f : ElemFmt) (r : Rnd) (satf sum : Bool) (hi lo : Nat) : Nat × Flags :=
  let terms := if sum then [fmtF32.decode hi, fmtF32.decode lo] else [fmtF32.decode hi]
  match f with
  | .narrow nf => cvtnNum nf (r == .rn) satf (sumNum (exactSum terms))
  | .wide bf =>
    if bf = fmtF32 ∧ !sum then (hi, 0)
    else match exactSum terms with
      | .nan _ => (bf.qnan, flInvalid)
      | .inf n => (bf.special (.inf n), 0)
      | .exact v q => roundSum bf r (satf && bf != fmtF32) (allNegTerms terms) (.exact v q)

/-- The bytes of a stored row at their rotated places. -/
def rowWrites (p : SpPair) (f : ElemFmt) (r : Nat) (codes : List Nat) : List (Nat × Byte) :=
  (natLe (rowBytes f 32) (packStream f.width codes)).zipIdx.map (fun x => (rotByte p.rot r (p.row r + x.2), x.1))

/-- MST and MST.SUM (R368, R369): the rows are written in ascending order, so a higher row wins where rows overlap. DESIGN CHOICE
(log 44): the flags accrue and never raise FPEXC, as R369 says, although 05 R114 exempts only MMA. -/
def mstRes (sum : Bool) (o : MstOp) (word : DWord) : State → SplitRef → Group → Group → Res :=
  underQ o.g (fun s r src g =>
    if diverged g r.k then .trap (Exc.plain .convergence word) s
    else match spPair (pairBits src o.a), fmtBlock (pairBits src o.f) with
      | some p, some fb =>
        match firstBeyond p 32 (rowBytes fb.a 32) with
        | some x => .trap (accessS x) s
        | none =>
          let d := o.d.toNat
          let cell (i j : Nat) : Nat × Flags :=
            mstCell fb.a fb.rnd fb.satf sum (src.v (d + i) j).toNat (if sum then (src.v (d + 32 + i) j).toNat else 0)
          let rows := (List.range 32).map (fun q => (List.range 32).map (fun c => if fb.tra then cell c q else cell q c))
          let fl := rows.foldl (fun acc row => row.foldl (fun acc c => acc ||| c.2) acc) (0 : Flags)
          let wr := (rows.zipIdx.flatMap (fun x => rowWrites p fb.a x.2 (x.1.map (fun c => c.1)))).map (fun w =>
            (⟨.scratch r.lcid w.1, w.2, 0xFF⟩ : ByteWr))
          if s.storeFull r.group then .stall s
          else .next (s.done r (fun x => (x.enqueue wr [] (some x.nextId)).issueLong r.k o.la .matrix [] [] fl))
      | _, _ => .trap (Exc.plain .format 0) s)

end Sys2Proof.Machine
end

