-- ==== Sys2Proof/Decode.lean ====
section
/-! DEFINITION. Decode.lean: the instruction word (04 R84 to R94), the encoder written from the formats and the entries'
encoding tables, and the decoder. A word is accepted exactly when it is the encoding of a well-formed instruction: every
field an entry does not name is zero in the encoding (R312), so any other word is rejected by name. -/

namespace Sys2Proof

/-! ## Codes of the fields -/

def IntTy.code : IntTy → BitVec 4
  | .i32 => 0 | .ui32 => 1 | .i64 => 2 | .ui64 => 3

def IntTy.ofCode (c : BitVec 4) : Option IntTy :=
  if c = 0 then some .i32 else if c = 1 then some .ui32 else if c = 2 then some .i64
  else if c = 3 then some .ui64 else none

/-- TYPE codes 4 to 9 of Table 4.6. -/
def FTy.code : FTy → BitVec 4
  | .f32 => 4 | .f64 => 5 | .f16 => 6 | .bf16 => 7 | .f16x2 => 8 | .bf16x2 => 9

def FTy.ofCode (c : BitVec 4) : Option FTy :=
  if c = 4 then some .f32 else if c = 5 then some .f64 else if c = 6 then some .f16
  else if c = 7 then some .bf16 else if c = 8 then some .f16x2 else if c = 9 then some .bf16x2 else none

def RedTy.code : RedTy → BitVec 4
  | .int t => t.code
  | .f32 => 4

def RedTy.ofCode (c : BitVec 4) : Option RedTy :=
  if c = 4 then some .f32 else (IntTy.ofCode c).map RedTy.int

def CvtTy.code : CvtTy → BitVec 4
  | .int t => t.code
  | .f32 => 4 | .f64 => 5 | .f16 => 6 | .bf16 => 7

def CvtTy.ofCode (c : BitVec 4) : Option CvtTy :=
  if c = 4 then some .f32 else if c = 5 then some .f64 else if c = 6 then some .f16
  else if c = 7 then some .bf16 else (IntTy.ofCode c).map CvtTy.int

def Rnd.code : Rnd → BitVec 2
  | .rn => 0 | .rz => 1 | .ru => 2 | .rd => 3

def Rnd.ofCode (c : BitVec 2) : Rnd :=
  if c = 0 then .rn else if c = 1 then .rz else if c = 2 then .ru else .rd

/-- ORD of Table 4.8. -/
def Ord.code : Ord → BitVec 3
  | .plain => 0 | .acq => 1 | .rel => 2 | .acqrel => 3 | .sc => 4

def Ord.ofCode (c : BitVec 3) : Option Ord :=
  if c = 0 then some .plain else if c = 1 then some .acq else if c = 2 then some .rel
  else if c = 3 then some .acqrel else if c = 4 then some .sc else none

/-- SCOPE of Table 4.8. -/
def Scope.code : Scope → BitVec 3
  | .group => 0 | .core => 1 | .die => 2 | .device => 3 | .system => 4

def Scope.ofCode (c : BitVec 3) : Option Scope :=
  if c = 0 then some .group else if c = 1 then some .core else if c = 2 then some .die
  else if c = 3 then some .device else if c = 4 then some .system else none

/-- RC of Table 4.8. -/
def Reuse.code : Reuse → BitVec 3
  | .fromArray => 0 | .stream => 1 | .normal => 2 | .keep => 3 | .embed => 7

def Reuse.ofCode (c : BitVec 3) : Option Reuse :=
  if c = 0 then some .fromArray else if c = 1 then some .stream else if c = 2 then some .normal
  else if c = 3 then some .keep else if c = 7 then some .embed else none

def NElem.code : NElem → BitVec 2
  | .one => 0 | .two => 1 | .four => 2

def NElem.ofCode (c : BitVec 2) : Option NElem :=
  if c = 0 then some .one else if c = 1 then some .two else if c = 2 then some .four else none

/-- COND of Table 4.12. -/
def Cond.code : Cond → BitVec 4
  | .eq => 0 | .ne => 1 | .lt => 2 | .le => 3 | .gt => 4 | .ge => 5 | .ltu => 6 | .leu => 7 | .gtu => 8 | .geu => 9

def Cond.ofCode (c : BitVec 4) : Option Cond :=
  if c = 0 then some .eq else if c = 1 then some .ne else if c = 2 then some .lt else if c = 3 then some .le
  else if c = 4 then some .gt else if c = 5 then some .ge else if c = 6 then some .ltu else if c = 7 then some .leu
  else if c = 8 then some .gtu else if c = 9 then some .geu else none

/-- SUB[2:0] of FCMP (Table 17.3). -/
def FRel.code : FRel → BitVec 3
  | .eq => 0 | .ne => 1 | .lt => 2 | .le => 3 | .gt => 4 | .ge => 5 | .un => 6 | .ord => 7

def FRel.ofCode (c : BitVec 3) : FRel :=
  if c = 0 then .eq else if c = 1 then .ne else if c = 2 then .lt else if c = 3 then .le
  else if c = 4 then .gt else if c = 5 then .ge else if c = 6 then .un else .ord

/-- OP of Table 16.2. -/
def AtomOp.code : AtomOp → BitVec 4
  | .add => 0 | .min => 1 | .max => 2 | .and => 3 | .or => 4 | .xor => 5 | .exch => 6 | .inc => 7 | .dec => 8

def AtomOp.ofCode (c : BitVec 4) : Option AtomOp :=
  if c = 0 then some .add else if c = 1 then some .min else if c = 2 then some .max else if c = 3 then some .and
  else if c = 4 then some .or else if c = 5 then some .xor else if c = 6 then some .exch
  else if c = 7 then some .inc else if c = 8 then some .dec else none

/-- TYPE of format A (Table 4.9). -/
def AtomTy.code : AtomTy → BitVec 4
  | .i32 => 0 | .ui32 => 1 | .i64 => 2 | .ui64 => 3 | .f32 => 4 | .bf16x2 => 5 | .f16x2 => 6 | .f64 => 7

def AtomTy.ofCode (c : BitVec 4) : Option AtomTy :=
  if c = 0 then some .i32 else if c = 1 then some .ui32 else if c = 2 then some .i64 else if c = 3 then some .ui64
  else if c = 4 then some .f32 else if c = 5 then some .bf16x2 else if c = 6 then some .f16x2
  else if c = 7 then some .f64 else none

/-- Operation codes of Tables 18.9 and 19.1. -/
def RedOp.code : RedOp → BitVec 3
  | .add => 0 | .min => 1 | .max => 2 | .and => 3 | .or => 4 | .xor => 5

def RedOp.ofCode (c : BitVec 3) : Option RedOp :=
  if c = 0 then some .add else if c = 1 then some .min else if c = 2 then some .max else if c = 3 then some .and
  else if c = 4 then some .or else if c = 5 then some .xor else none

/-- Size codes of Tables 17.8 and 19.5. -/
def SpSize.code : SpSize → BitVec 3
  | .b1 => 0 | .b2 => 1 | .b4 => 2 | .b8 => 3 | .b16 => 4

def SpSize.ofCode (c : BitVec 3) : Option SpSize :=
  if c = 0 then some .b1 else if c = 1 then some .b2 else if c = 2 then some .b4 else if c = 3 then some .b8
  else if c = 4 then some .b16 else none

/-- SHFL modes (Table 19.2). -/
def ShflMode.code : ShflMode → BitVec 5
  | .idx => 0 | .up => 1 | .down => 2 | .xor => 3

def ShflMode.ofCode (c : BitVec 5) : Option ShflMode :=
  if c = 0 then some .idx else if c = 1 then some .up else if c = 2 then some .down else if c = 3 then some .xor
  else none

/-! ## Formats -/

/-- Formats V and S, bits [47:0] (Table 4.6). -/
structure FieldsV where
  d   : BitVec 8 := 0
  a   : BitVec 8 := 0
  b   : BitVec 8 := 0
  c   : BitVec 8 := 0
  ka  : Bool := false
  kb  : Bool := false
  kc  : Bool := false
  imm : Bool := false
  ty  : BitVec 4 := 0
  rnd : BitVec 2 := 0
  sat : Bool := false
  sub : BitVec 5 := 0
deriving DecidableEq, Repr

def FieldsV.bits (f : FieldsV) : BitVec 48 :=
  f.d ++ f.a ++ f.b ++ f.c ++ BitVec.ofBool f.ka ++ BitVec.ofBool f.kb ++ BitVec.ofBool f.kc
    ++ BitVec.ofBool f.imm ++ f.ty ++ f.rnd ++ BitVec.ofBool f.sat ++ f.sub

def FieldsV.of (p : BitVec 48) : FieldsV where
  d := p.extractLsb' 40 8
  a := p.extractLsb' 32 8
  b := p.extractLsb' 24 8
  c := p.extractLsb' 16 8
  ka := p.getLsbD 15
  kb := p.getLsbD 14
  kc := p.getLsbD 13
  imm := p.getLsbD 12
  ty := p.extractLsb' 8 4
  rnd := p.extractLsb' 6 2
  sat := p.getLsbD 5
  sub := p.extractLsb' 0 5

/-- Formats I and C1, bits [47:0] (Tables 4.7 and 4.10): `imm` is IMM32 or DISP. -/
structure FieldsI where
  d   : BitVec 8 := 0
  a   : BitVec 8 := 0
  imm : BitVec 32 := 0
deriving DecidableEq, Repr

def FieldsI.bits (f : FieldsI) : BitVec 48 := f.d ++ f.a ++ f.imm

def FieldsI.of (p : BitVec 48) : FieldsI where
  d := p.extractLsb' 40 8
  a := p.extractLsb' 32 8
  imm := p.extractLsb' 0 32

/-- Format M, bits [47:0] (Table 4.8). -/
structure FieldsM where
  d     : BitVec 8 := 0
  x     : BitVec 8 := 0
  arr   : BitVec 4 := 0
  off   : BitVec 8 := 0
  ord   : BitVec 3 := 0
  scope : BitVec 3 := 0
  fr    : Bool := false
  rc    : BitVec 3 := 0
  n     : BitVec 2 := 0
  sub   : BitVec 4 := 0
deriving DecidableEq, Repr

def FieldsM.bits (f : FieldsM) : BitVec 48 :=
  f.d ++ f.x ++ f.arr ++ f.off ++ (0 : BitVec 4) ++ f.ord ++ f.scope ++ BitVec.ofBool f.fr ++ f.rc ++ f.n ++ f.sub

def FieldsM.of (p : BitVec 48) : FieldsM where
  d := p.extractLsb' 40 8
  x := p.extractLsb' 32 8
  arr := p.extractLsb' 28 4
  off := p.extractLsb' 20 8
  ord := p.extractLsb' 13 3
  scope := p.extractLsb' 10 3
  fr := p.getLsbD 9
  rc := p.extractLsb' 6 3
  n := p.extractLsb' 4 2
  sub := p.extractLsb' 0 4

/-- Format A, bits [47:0] (Table 4.9). -/
structure FieldsA where
  d     : BitVec 8 := 0
  x     : BitVec 8 := 0
  arr   : BitVec 4 := 0
  v     : BitVec 8 := 0
  ty    : BitVec 4 := 0
  ord   : BitVec 3 := 0
  scope : BitVec 3 := 0
  op    : BitVec 4 := 0
deriving DecidableEq, Repr

def FieldsA.bits (f : FieldsA) : BitVec 48 :=
  f.d ++ f.x ++ f.arr ++ f.v ++ f.ty ++ f.ord ++ f.scope ++ (0 : BitVec 6) ++ f.op

def FieldsA.of (p : BitVec 48) : FieldsA where
  d := p.extractLsb' 40 8
  x := p.extractLsb' 32 8
  arr := p.extractLsb' 28 4
  v := p.extractLsb' 20 8
  ty := p.extractLsb' 16 4
  ord := p.extractLsb' 13 3
  scope := p.extractLsb' 10 3
  op := p.extractLsb' 0 4

/-- Format C2, bits [47:0] (Table 4.11). -/
structure FieldsC2 where
  cond : BitVec 4 := 0
  kb   : Bool := false
  imm  : Bool := false
  a    : BitVec 8 := 0
  b    : BitVec 8 := 0
  disp : BitVec 24 := 0
deriving DecidableEq, Repr

def FieldsC2.bits (f : FieldsC2) : BitVec 48 :=
  f.cond ++ BitVec.ofBool f.kb ++ BitVec.ofBool f.imm ++ (0 : BitVec 2) ++ f.a ++ f.b ++ f.disp

def FieldsC2.of (p : BitVec 48) : FieldsC2 where
  cond := p.extractLsb' 44 4
  kb := p.getLsbD 43
  imm := p.getLsbD 42
  a := p.extractLsb' 32 8
  b := p.extractLsb' 24 8
  disp := p.extractLsb' 0 24

/-- Format X, bits [47:0] (Table 4.13); SHAPE is zero. -/
structure FieldsX where
  d   : BitVec 8 := 0
  a   : BitVec 8 := 0
  b   : BitVec 8 := 0
  f   : BitVec 8 := 0
  ka  : Bool := false
  kb  : Bool := false
  sub : BitVec 12 := 0
deriving DecidableEq, Repr

def FieldsX.bits (f : FieldsX) : BitVec 48 :=
  f.d ++ f.a ++ f.b ++ f.f ++ BitVec.ofBool f.ka ++ BitVec.ofBool f.kb ++ (0 : BitVec 2) ++ f.sub

def FieldsX.of (p : BitVec 48) : FieldsX where
  d := p.extractLsb' 40 8
  a := p.extractLsb' 32 8
  b := p.extractLsb' 24 8
  f := p.extractLsb' 16 8
  ka := p.getLsbD 15
  kb := p.getLsbD 14
  sub := p.extractLsb' 0 12

/-- The common fields of a word (Table 4.4) before its format. -/
def word (maj : BitVec 8) (la : LA) (g : Guard) (p : BitVec 48) : DWord :=
  maj ++ la ++ BitVec.ofBool g.neg ++ g.pred ++ p

def wordMaj (w : DWord) : BitVec 8 := w.extractLsb' 56 8
def wordLA (w : DWord) : LA := w.extractLsb' 52 4
def wordGuard (w : DWord) : Guard := ⟨w.getLsbD 51, w.extractLsb' 48 3⟩
def wordBits (w : DWord) : BitVec 48 := w.extractLsb' 0 48

/-! ## Operand fields -/

def sField (r : SReg) : BitVec 8 := r.setWidth 8
def pField (r : PReg) : BitVec 8 := r.setWidth 8
def nField (r : BitVec 4) : BitVec 8 := r.setWidth 8
def kField (r : BitVec 2) : BitVec 8 := r.setWidth 8
def sOf (f : BitVec 8) : SReg := f.setWidth 7
def pOf (f : BitVec 8) : PReg := f.setWidth 3
def nOf (f : BitVec 8) : BitVec 4 := f.setWidth 4
def kOf (f : BitVec 8) : BitVec 2 := f.setWidth 2

def Dst.field : Dst → BitVec 8
  | .v r => r
  | .s r => sField r

def Dst.of (uni : Bool) (f : BitVec 8) : Dst := if uni then .s (sOf f) else .v f

def Src.field : Src → BitVec 8
  | .v r => r
  | .s r => sField r
  | .imm i => i

/-- The K bit of a source: set for a uniform source of a vector form (R86). -/
def Src.k (uni : Bool) : Src → Bool
  | .v _ => false
  | .s _ => !uni
  | .imm _ => false

/-- A source read back from its field and its K bit. -/
def Src.of (uni k : Bool) (f : BitVec 8) : Src := if uni || k then .s (sOf f) else .v f

/-- A last source read back: an immediate when IMM is set. -/
def Src.lastOf (uni imm k : Bool) (f : BitVec 8) : Src := if imm then .imm f else Src.of uni k f

def PSrc.field (p : PSrc) : BitVec 8 := pField p.p
def PSrc.k (uni : Bool) (p : PSrc) : Bool := !uni && p.uni
def PSrc.of (uni k : Bool) (f : BitVec 8) : PSrc := ⟨uni || k, pOf f⟩

/-- The uniform major of a vector major is 0x20 above it (R93, R103). -/
def uniMaj (maj : BitVec 8) (uni : Bool) : BitVec 8 := if uni then maj + 0x20 else maj

/-! ## The encoder -/

def encBin (maj : BitVec 8) (sub : BitVec 5) (o : Bin) : DWord :=
  let u := o.d.isS
  word (uniMaj maj u) 0 o.g (FieldsV.bits
    { d := o.d.field, a := o.a.field, b := o.b.field, ka := o.a.k u, kb := o.b.k u, imm := o.b.isImm,
      ty := o.ty.code, sat := o.sat, sub := sub })

def encUn (maj : BitVec 8) (sub : BitVec 5) (o : Un) : DWord :=
  let u := o.d.isS
  word (uniMaj maj u) 0 o.g (FieldsV.bits
    { d := o.d.field, a := o.a.field, ka := o.a.k u, ty := o.ty.code, sat := o.sat, sub := sub })

def encTern (maj : BitVec 8) (o : Tern) : DWord :=
  let u := o.d.isS
  word (uniMaj maj u) 0 o.g (FieldsV.bits
    { d := o.d.field, a := o.a.field, b := o.b.field, c := o.c.field, ka := o.a.k u, kb := o.b.k u, kc := o.c.k u,
      imm := o.c.isImm, ty := o.ty.code, sat := o.sat })

def encFBin (maj : BitVec 8) (o : FBin) : DWord :=
  word maj 0 o.g (FieldsV.bits
    { d := o.d, a := o.a.field, b := o.b.field, ka := o.a.k false, kb := o.b.k false, ty := o.ty.code,
      rnd := o.rnd.code })

def encFMinMax (maj : BitVec 8) (o : FMinMax) : DWord :=
  word maj 0 o.g (FieldsV.bits
    { d := o.d, a := o.a.field, b := o.b.field, ka := o.a.k false, kb := o.b.k false, ty := o.ty.code,
      sub := if o.num then 1 else 0 })

def encSfu (sub : BitVec 5) (o : SfuOp) : DWord :=
  word 0x58 o.la o.g (FieldsV.bits
    { d := o.d, a := o.a.field, ka := o.a.k false, ty := 4, rnd := o.rnd.code, sub := sub })

def encConflict (sub : BitVec 5) (o : ConflictOp) : DWord :=
  word 0x76 o.la o.g (FieldsV.bits { d := o.d, a := o.a, ty := o.ty.code, sub := sub })

def encPack (maj : BitVec 8) (o : PackOp) : DWord :=
  word maj 0 o.g (FieldsV.bits { d := o.d, a := o.a, b := o.fmt })

def encPlop (uni : Bool) : PlopOp → FieldsV
  | .and a b => { a := a.field, b := b.field, ka := a.k uni, kb := b.k uni, sub := 0 }
  | .or a b => { a := a.field, b := b.field, ka := a.k uni, kb := b.k uni, sub := 1 }
  | .xor a b => { a := a.field, b := b.field, ka := a.k uni, kb := b.k uni, sub := 2 }
  | .andn a b => { a := a.field, b := b.field, ka := a.k uni, kb := b.k uni, sub := 3 }
  | .not a => { a := a.field, ka := a.k uni, sub := 4 }
  | .mov a => { a := a.field, ka := a.k uni, sub := 5 }
  | .sel a b c =>
    { a := a.field, b := b.field, c := c.field, ka := a.k uni, kb := b.k uni, kc := c.k uni, sub := 6 }
  | .setm a => { a := sField a, sub := 7 }

def encMemV (maj : BitVec 8) (o : MemV) : DWord :=
  word maj o.la o.g (FieldsM.bits
    { d := o.d, x := o.x, arr := o.arr, off := o.off, ord := o.ord.code, scope := o.scope.code, fr := o.fr,
      rc := o.rc.code, n := o.n.code, sub := if o.sx then 1 else 0 })

def encMemU (maj : BitVec 8) (o : MemU) : DWord :=
  word maj o.la o.g (FieldsM.bits
    { d := sField o.d, x := sField o.x, arr := o.arr, off := o.off, ord := o.ord.code, scope := o.scope.code,
      fr := o.fr, rc := o.rc.code, sub := if o.sx then 1 else 0 })

/-- SUB of LDS and STS: [2:0] the size, [3] .SX. -/
def encMemS (maj : BitVec 8) (o : MemS) : DWord :=
  word maj o.la o.g (FieldsM.bits
    { d := o.d, x := o.x, off := o.off, ord := o.ord.code, scope := o.scope.code, fr := o.fr, rc := o.rc.code,
      n := o.n.code, sub := BitVec.ofBool o.sx ++ o.size.code })

def encAtom (maj : BitVec 8) (o : AtomInstr) : DWord :=
  word maj o.la o.g (FieldsA.bits
    { d := o.d, x := o.x, arr := o.arr, v := o.v, ty := o.ty.code, ord := o.ord.code, scope := o.scope.code,
      op := o.op.code })

def MOperand.field : MOperand → BitVec 8
  | .regs r => r
  | .sp r => sField r

def MOperand.k : MOperand → Bool
  | .regs _ => false
  | .sp _ => true

def MOperand.of (k : Bool) (f : BitVec 8) : MOperand := if k then .sp (sOf f) else .regs f

def encMma (sub : BitVec 12) (o : MmaOp) : DWord :=
  word 0xC0 o.la o.g (FieldsX.bits
    { d := o.d, a := o.a.field, b := o.b.field, f := sField o.f, ka := o.a.k, kb := o.b.k, sub := sub })

def encMst (sub : BitVec 12) (o : MstOp) : DWord :=
  word 0xC2 o.la o.g (FieldsX.bits { d := o.d, a := sField o.a, f := sField o.f, ka := true, sub := sub })

/-- A word of format S with a uniform or lane guard. -/
def encS (maj : BitVec 8) (g : Guard) (f : FieldsV) : DWord := word maj 0 g f.bits

/-- SUB of FENCE (Table 17.4). -/
def fenceSub : Ord → BitVec 5
  | .plain => 0 | .acq => 1 | .rel => 2 | .acqrel => 3 | .sc => 4

def encSOrN (g : Guard) (maj : BitVec 8) : SOrN → FieldsV → DWord
  | .s r, f => encS maj g { f with a := sField r, sub := 0 }
  | .n k, f => encS maj g { f with b := k, sub := 1 }

def encPost (g : Guard) (maj : BitVec 8) (d : BitVec 8) (a : SReg) : SOrH → DWord
  | .s r => encS maj g { d := d, a := sField a, b := sField r, sub := 0 }
  | .h r => encS maj g { d := d, a := sField a, b := nField r, sub := 1 }

/-- The word of an instruction; an event has none. -/
def encode : Instr → Option DWord
  | .bra g disp => some (word 0x02 0 g (FieldsI.bits { imm := disp }))
  | .brc g cond a b disp => some (word 0x03 0 g (FieldsC2.bits
      { cond := cond.code, kb := b.k false, imm := b.isImm, a := a, b := b.field, disp := disp }))
  | .brx g (.vec a disp) => some (word 0x04 0 g (FieldsI.bits { d := 0, a := a, imm := disp }))
  | .brx g (.uni a disp) => some (word 0x04 0 g (FieldsI.bits { d := 1, a := sField a, imm := disp }))
  | .brx g (.full a) => some (word 0x04 0 g (FieldsI.bits { d := 2, a := sField a }))
  | .call g (.direct disp) => some (word 0x05 0 g (FieldsI.bits { imm := disp }))
  | .call g (.reg a) => some (word 0x05 0 g (FieldsI.bits { d := 2, a := sField a }))
  | .ret g => some (encS 0x06 g {})
  | .loop a disp => some (word 0x07 0 .always (FieldsI.bits { a := sField a, imm := disp }))
  | .loopEnd => some (word 0x07 0 .always (FieldsI.bits { d := 2 }))
  | .breakl g => some (encS 0x08 g {})
  | .reconv => some (encS 0x09 .always {})
  | .exit g => some (encS 0x0A g {})
  | .yield => some (encS 0x0B .always {})
  | .nop g => some (encS 0x0C g {})
  | .iadd o => some (encBin 0x10 0 o)
  | .isub o => some (encBin 0x11 0 o)
  | .imul o => some (encBin 0x12 0 o)
  | .imulh o => some (encBin 0x13 0 o)
  | .imad o => some (encTern 0x14 o)
  | .imin o => some (encBin 0x15 0 o)
  | .imax o => some (encBin 0x16 0 o)
  | .iabs o => some (encUn 0x17 0 o)
  | .ineg o => some (encUn 0x17 1 o)
  | .shl o => some (encBin 0x18 0 o)
  | .shr o => some (encBin 0x19 0 o)
  | .shra o => some (encBin 0x1A 0 o)
  | .and o => some (encBin 0x1B 0 o)
  | .or o => some (encBin 0x1B 1 o)
  | .xor o => some (encBin 0x1B 2 o)
  | .andn o => some (encBin 0x1B 3 o)
  | .not o => some (encUn 0x1B 4 o)
  | .popc o => some (encUn 0x1C 0 o)
  | .clz o => some (encUn 0x1C 1 o)
  | .brev o => some (encUn 0x1C 2 o)
  | .bfx o => some (encTern 0x1D o)
  | .bfi o => some (encTern 0x1E o)
  | .lea o =>
    let u := o.d.isS
    some (word (uniMaj 0x1F u) 0 o.g (FieldsV.bits
      { d := o.d.field, a := o.a.field, b := o.b.field, c := o.k.setWidth 8, ka := o.a.k u, kb := o.b.k u,
        imm := o.b.isImm, ty := o.ty.code, sat := o.sat }))
  | .icmp o => some (word (uniMaj 0x20 o.uni) 0 o.g (FieldsV.bits
      { d := pField o.d, a := o.a.field, b := o.b.field, ka := o.a.k o.uni, kb := o.b.k o.uni, imm := o.b.isImm,
        ty := o.ty.code, sub := o.cond.code.setWidth 5 }))
  | .sel o =>
    let u := o.d.isS
    some (word (uniMaj 0x21 u) 0 o.g (FieldsV.bits
      { d := o.d.field, a := o.a.field, b := o.b.field, c := o.c.field, ka := o.a.k u, kb := o.b.k u, kc := o.c.k u,
        imm := o.b.isImm, ty := o.ty.code }))
  | .mov g (.reg d a ty) => some (word (uniMaj 0x22 d.isS) 0 g (FieldsV.bits
      { d := d.field, a := a.field, ka := a.k d.isS, ty := ty.code }))
  | .mov g (.toHandle d a) => some (word 0x42 0 g (FieldsV.bits { d := nField d, a := sField a, ty := 2, sub := 1 }))
  | .mov g (.fromHandle d a) => some (word 0x42 0 g (FieldsV.bits { d := sField d, a := nField a, ty := 2, sub := 2 }))
  | .movi g d imm => some (word (uniMaj 0x23 d.isS) 0 g (FieldsI.bits { d := d.field, imm := imm }))
  | .moviHi g d imm => some (word 0x43 0 g (FieldsI.bits { d := sField d, a := 1, imm := imm }))
  | .plop g uni d o => some (word (uniMaj 0x24 uni) 0 g (FieldsV.bits { encPlop uni o with d := pField d }))
  | .fadd o => some (encFBin 0x50 o)
  | .fsub o => some (encFBin 0x51 o)
  | .fmul o => some (encFBin 0x52 o)
  | .ffma o => some (word 0x53 0 o.g (FieldsV.bits
      { d := o.d, a := o.a.field, b := o.b.field, c := o.c.field, ka := o.a.k false, kb := o.b.k false,
        kc := o.c.k false, ty := o.ty.code, rnd := o.rnd.code }))
  | .fmin o => some (encFMinMax 0x54 o)
  | .fmax o => some (encFMinMax 0x55 o)
  | .fcmp o => some (word 0x56 0 o.g (FieldsV.bits
      { d := pField o.d, a := o.a.field, b := o.b.field, ka := o.a.k false, kb := o.b.k false, ty := o.ty.code,
        sub := (0 : BitVec 1) ++ BitVec.ofBool o.sig ++ o.rel.code }))
  | .fclass o => some (word 0x57 0 o.g (FieldsV.bits { d := o.d, a := o.a.field, ka := o.a.k false, ty := o.ty.code }))
  | .frcp o => some (encSfu 0 o)
  | .frsq o => some (encSfu 1 o)
  | .fsqrt o => some (encSfu 2 o)
  | .fexp2 o => some (encSfu 3 o)
  | .flog2 o => some (encSfu 4 o)
  | .fsin o => some (encSfu 5 o)
  | .fcos o => some (encSfu 6 o)
  | .ftanh o => some (encSfu 7 o)
  | .cvt o => some (word 0x60 0 o.g (FieldsV.bits
      { d := o.d, a := o.a.field, b := nField o.dst.code, ka := o.a.k false, ty := o.src.code, rnd := o.rnd.code,
        sat := o.sat }))
  | .cvtn o => some (word 0x61 0 o.g (FieldsV.bits
      { d := o.d, a := o.a.field, b := o.fmt, ka := o.a.k false, ty := o.ty.code, rnd := o.rnd.code, sat := o.satf }))
  | .cvtw o => some (word 0x62 0 o.g (FieldsV.bits
      { d := o.d, a := o.a.field, b := o.fmt, c := kField o.k, ka := o.a.k false, ty := o.ty.code }))
  | .pack o => some (encPack 0x63 o)
  | .unpack o => some (encPack 0x64 o)
  | .qscale o => some (word 0x65 0 o.g (FieldsV.bits
      { d := sField o.d, a := o.a, b := o.fmt, c := o.n, ty := o.ty.code }))
  | .shfl o => some (word 0x70 o.la o.g (FieldsV.bits
      { d := o.d, a := o.a, b := o.b.field, c := o.w, kb := o.b.k false, imm := o.b.isImm, ty := o.ty.code,
        sub := o.mode.code }))
  | .gshuf o => some (word 0x71 o.la o.g (FieldsM.bits { d := o.d, x := o.x, arr := o.arr, off := o.off, sub := o.n1 }))
  | .bcast o => some (word 0x72 o.la o.g (FieldsV.bits
      { d := o.d, a := o.a, b := o.b.field, kb := o.b.k false, imm := o.b.isImm, ty := o.ty.code }))
  | .vote g la (.any d a) => some (word 0x73 la g (FieldsV.bits { d := pField d, a := pField a, sub := 0 }))
  | .vote g la (.all d a) => some (word 0x73 la g (FieldsV.bits { d := pField d, a := pField a, sub := 1 }))
  | .vote g la (.uni d a) => some (word 0x73 la g (FieldsV.bits { d := pField d, a := pField a, sub := 2 }))
  | .vote g la (.ballot d a) => some (word 0x73 la g (FieldsV.bits { d := sField d, a := pField a, sub := 3 }))
  | .redux o => some (word 0x74 o.la o.g (FieldsV.bits
      { d := sField o.d, a := o.a, ty := o.ty.code, rnd := o.rnd.code, sat := o.sat, sub := o.op.code.setWidth 5 }))
  | .scan o => some (word 0x75 o.la o.g (FieldsV.bits
      { d := o.d, a := o.a, ty := o.ty.code, rnd := o.rnd.code, sat := o.sat,
        sub := (0 : BitVec 1) ++ BitVec.ofBool o.excl ++ o.op.code }))
  | .conflict o => some (encConflict 0 o)
  | .conflictAll o => some (encConflict 1 o)
  | .segred o => some (word 0x77 o.la o.g (FieldsV.bits
      { d := o.d, a := o.a, b := o.b, ty := o.ty.code, rnd := o.rnd.code, sat := o.sat, sub := o.op.code.setWidth 5 }))
  | .regroup la k p => some (word 0x78 la .always (FieldsV.bits { a := kField k, b := pField p }))
  | .widenTrap g d a b => some (encS 0x80 g { d := d, a := sField a, b := sField b, sub := 0 })
  | .widenClamp g d a b => some (encS 0x80 g { d := d, a := sField a, b := sField b, sub := 1 })
  | .calget g d a => some (encS 0x81 g { d := sField d, a := a })
  | .calset g d a => some (encS 0x82 g { d := d, a := sField a })
  | .caltop g d => some (encS 0x83 g { d := d })
  | .aset g d a => some (encS 0x84 g { d := nField d, a := sField a })
  | .aget g d a => some (encS 0x85 g { d := sField d, a := nField a })
  | .aoff g d a b => some (encS 0x86 g { d := nField d, a := nField a, b := sField b })
  | .ld o => some (encMemV 0x90 o)
  | .st o => some (encMemV 0x91 o)
  | .ldu o => some (encMemU 0x92 o)
  | .stu o => some (encMemU 0x93 o)
  | .lds o => some (encMemS 0x94 o)
  | .sts o => some (encMemS 0x95 o)
  | .ldlines o => some (word 0x96 o.la o.g (FieldsM.bits
      { d := o.d, x := o.x, arr := o.arr, off := o.off, ord := o.ord.code, scope := o.scope.code, fr := o.fr,
        rc := o.rc.code, n := o.n.code, sub := o.n1 }))
  | .pref o => some (word 0x97 o.la o.g (FieldsM.bits
      { x := o.x, arr := o.arr, off := o.off, rc := o.rc.code, sub := if o.l2 then 1 else 0 }))
  | .ldp o => some (encMemV 0x98 o)
  | .stp o => some (encMemV 0x99 o)
  | .spill o => some (word 0x9A o.la o.g (FieldsM.bits { d := o.d, x := o.k }))
  | .fill o => some (word 0x9B o.la o.g (FieldsM.bits { d := o.d, x := o.k }))
  | .atom o => some (encAtom 0xA0 o)
  | .cas o => some (word 0xA1 o.la o.g (FieldsA.bits
      { d := o.d, x := o.x, arr := o.arr, v := o.v, ty := nOf (nField o.ty.code), ord := o.ord.code,
        scope := o.scope.code }))
  | .red o => some (encAtom 0xA2 o)
  | .fence g ord scope => some (encS 0xA3 g { a := scope.code.setWidth 8, sub := fenceSub ord })
  | .fenceEngRel g scope => some (encS 0xA3 g { a := scope.code.setWidth 8, sub := 10 })
  | .cpa o => some (word 0xB0 o.la o.g (FieldsM.bits
      { d := o.d, x := o.x, arr := o.arr, off := o.off, fr := o.fr, rc := o.rc.code, sub := o.size.setWidth 4 }))
  | .cpseal g => some (encS 0xB1 g {})
  | .cpwait g n => some (encS 0xB2 g { a := n.setWidth 8 })
  | .kick g d a n => some (encS 0xB3 g { d := nField d, a := sField a, b := n })
  | .tagwaitAny g a => some (encS 0xB4 g { a := sField a, sub := 0 })
  | .tagwaitAll g a => some (encS 0xB4 g { a := sField a, sub := 1 })
  | .tagfind g d a => some (encS 0xB5 g { d := sField d, a := sField a })
  | .hwait g a => some (encS 0xB6 g { a := nField a })
  | .htest g d a => some (encS 0xB7 g { d := sField d, a := nField a })
  | .hcancel g a => some (encS 0xB8 g { a := nField a })
  | .tbinit g a b => some (encS 0xB9 g { a := sField a, b := sField b })
  | .tbarrive g a => some (encS 0xBA g { a := sField a, sub := 0 })
  | .tbarriveTx g a b => some (encS 0xBA g { a := sField a, b := sField b, sub := 1 })
  | .tbexpect g a b => some (encS 0xBB g { a := sField a, b := sField b })
  | .tbwait g a b => some (encS 0xBC g { a := sField a, b := sField b })
  | .publish g a scope => some (encSOrN g 0xBD a { c := scope.code.setWidth 8 })
  | .mma o => some (encMma 0 o)
  | .mmaZ o => some (encMma 1 o)
  | .mld o => some (word 0xC1 o.la o.g (FieldsX.bits
      { d := o.d, a := sField o.a, f := sField o.f, ka := true, sub := if o.opB then 1 else 0 }))
  | .mst o => some (encMst 0 o)
  | .mstSum o => some (encMst 1 o)
  | .post g a b => some (encPost g 0xD0 0 a b)
  | .postq g d a b => some (encPost g 0xD1 (pField d) a b)
  | .patload g a bank => some (encS 0xD2 g { a := sField a, b := nField bank })
  | .launch g a b n => some (encS 0xD3 g { a := sField a, b := sField b, c := n })
  | .fsopen g a => some (encS 0xD4 g { a := sField a })
  | .fsclose g a => some (encSOrN g 0xD5 a {})
  | .fswait g a => some (encSOrN g 0xD6 a {})
  | .bar g k => some (encS 0xD7 g { a := kField k, sub := 0 })
  | .bararr g d k => some (encS 0xD7 g { d := sField d, a := kField k, sub := 1 })
  | .barwait g k b => some (encS 0xD7 g { a := kField k, b := sField b, sub := 2 })
  | .srd g (.uni d r) => some (encS 0xE0 g { d := sField d, a := r, sub := 0 })
  | .srd g (.vec d r) => some (encS 0xE0 g { d := d, a := r, sub := 1 })
  | .swr g r a => some (encS 0xE1 g { d := r, a := sField a })
  | .merid g d => some (encS 0xE2 g { d := sField d, sub := 0 })
  | .meridDev g d => some (encS 0xE2 g { d := sField d, sub := 1 })
  | .gtimer g a => some (encS 0xE3 g { a := sField a, sub := 0 })
  | .gtimerGet g d => some (encS 0xE3 g { d := sField d, sub := 1 })
  | .trap g code => some (word 0xE4 0 g (FieldsI.bits { imm := code }))
  | .rte => some (encS 0xE5 .always { sub := 0 })
  | .rteNext => some (encS 0xE5 .always { sub := 1 })
  | .bkpt g code => some (encS 0xE6 g { b := code.extractLsb' 8 8, c := code.extractLsb' 0 8 })
  | .park g => some (encS 0xE7 g {})
  | .tracemark g a => some (encS 0xE8 g { a := sField a })
  | .clauseStart _ | .longLatencyCompletion _ _ | .loadCompletion _ _ | .matrixCompletion _ _ | .storeQueueDrain _
  | .messageArrival _ _ | .bankCycle _ _ | .gangRecordTake _ _ | .instancePlacement _ _ | .queueHeadStarvation _ _
  | .bindRecordDispatch _ | .issueAgeBoost _ | .instanceRetirement _ _ _ | .cpaCopyCompletion _ _ _
  | .recordStart _ _ _ _ | .recordCompletion _ _ _ _ | .recordFailure _ | .publishFlip _ _ | .timerExpiry _
  | .haltPropagation _ | .haltrel _ _ _ | .sliceEnd _ | .switchOut _ _ | .switchIn _ _ | .preemption _ _
  | .fqrespReplay _ _ | .fqrespFail _ _ | .xlinvCommand _ _ _ | .xlinvCompletion _ | .compressFrame _ _ _
  | .freeRecord _ _ _ | .tierCommandCompletion _ _ | .framePush _ _ _ | .tierRegionWrite _ _ _
  | .backgroundPull _ _ _ | .pageMoveStart _ _ _ | .pageMoveCompletion _ _ | .placementPolicyPass _
  | .pinCountHalving _ | .l2cfgWrite _ _ | .unpin _ | .mailboxWrite _ _ | .hostBar4Access _ _ _
  | .ringusFlitArrival _ _ _ | .drainRequestArrival _ _ | .drainMarkerArrival _ _ | .drainTimeout _ _
  | .resumeMarkerArrival _ _ | .meridianSync _ | .parkRequest _ _ | .parkCapture _ | .resumeRequest _ _
  | .contextCreate | .contextDestroy _ | .deviceReset | .functionReady _ | .attestationRequest | .clockStep _
  | .thermalLimit | .thermalShutdown | .freezeArm | .freeze | .debugStop _ _ | .debugResume _ _
  | .contextHalt _ _ | .traceSync _ _ | .elogClear _ | .eventCountRead _ _ _ | .topdownTotalRead _ _ _ _
  | .faultRingConfigWrite _ _ _ | .registerWrite _ _ | .linkPortDown _ | .resumeEnd _ _ | .contextCommandEnd
  | .attestationReportEnd | .debugStopPropagation _ | .flitRetry _ _ | .scrub _ => none

/-! ## The decoder -/

/-- Integer and logic majors with two sources. -/
def decBin (uni : Bool) (g : Guard) (f : FieldsV) : Option Bin := do
  let ty ← IntTy.ofCode f.ty
  some { g := g, d := Dst.of uni f.d, a := Src.of uni f.ka f.a, b := Src.lastOf uni f.imm f.kb f.b, ty := ty,
         sat := f.sat }

def decUn (uni : Bool) (g : Guard) (f : FieldsV) : Option Un := do
  let ty ← IntTy.ofCode f.ty
  some { g := g, d := Dst.of uni f.d, a := Src.of uni f.ka f.a, ty := ty, sat := f.sat }

def decTern (uni : Bool) (g : Guard) (f : FieldsV) : Option Tern := do
  let ty ← IntTy.ofCode f.ty
  some { g := g, d := Dst.of uni f.d, a := Src.of uni f.ka f.a, b := Src.of uni f.kb f.b,
         c := Src.lastOf uni f.imm f.kc f.c, ty := ty, sat := f.sat }

/-- One of several mnemonics told apart by SUB. -/
def pick3 {α : Type} (sub : BitVec 5) (x y z : α) : Option α :=
  if sub = 0 then some x else if sub = 1 then some y else if sub = 2 then some z else none

def decPlop (uni : Bool) (f : FieldsV) : Option PlopOp :=
  let a := PSrc.of uni f.ka f.a
  let b := PSrc.of uni f.kb f.b
  let c := PSrc.of uni f.kc f.c
  if f.sub = 0 then some (.and a b) else if f.sub = 1 then some (.or a b) else if f.sub = 2 then some (.xor a b)
  else if f.sub = 3 then some (.andn a b) else if f.sub = 4 then some (.not a) else if f.sub = 5 then some (.mov a)
  else if f.sub = 6 then some (.sel a b c) else if f.sub = 7 then some (.setm (sOf f.a)) else none

/-- Majors 0x10 to 0x24, and 0x30 to 0x44 with `uni`; `m` is the vector major. -/
def decInt (m : Nat) (uni : Bool) (g : Guard) (p : BitVec 48) : Option Instr :=
  let f := FieldsV.of p
  if m = 0x10 then (decBin uni g f).map .iadd
  else if m = 0x11 then (decBin uni g f).map .isub
  else if m = 0x12 then (decBin uni g f).map .imul
  else if m = 0x13 then (decBin uni g f).map .imulh
  else if m = 0x14 then (decTern uni g f).map .imad
  else if m = 0x15 then (decBin uni g f).map .imin
  else if m = 0x16 then (decBin uni g f).map .imax
  else if m = 0x17 then (decUn uni g f).bind (fun o =>
    if f.sub = 0 then some (.iabs o) else if f.sub = 1 then some (.ineg o) else none)
  else if m = 0x18 then (decBin uni g f).map .shl
  else if m = 0x19 then (decBin uni g f).map .shr
  else if m = 0x1A then (decBin uni g f).map .shra
  else if m = 0x1B then
    (if f.sub = 4 then (decUn uni g f).map .not
     else (decBin uni g f).bind (fun o =>
       if f.sub = 3 then some (.andn o) else pick3 f.sub (.and o) (.or o) (.xor o)))
  else if m = 0x1C then (decUn uni g f).bind (fun o => pick3 f.sub (.popc o) (.clz o) (.brev o))
  else if m = 0x1D then (decTern uni g f).map .bfx
  else if m = 0x1E then (decTern uni g f).map .bfi
  else if m = 0x1F then (decBin uni g f).map (fun o =>
    .lea { g := g, d := o.d, a := o.a, b := o.b, k := f.c.setWidth 5, ty := o.ty, sat := o.sat })
  else if m = 0x20 then do
    let o ← decBin uni g f
    let c ← Cond.ofCode (f.sub.setWidth 4)
    some (.icmp { g := g, uni := uni, d := pOf f.d, a := o.a, b := o.b, ty := o.ty, cond := c })
  else if m = 0x21 then (decBin uni g f).map (fun o =>
    .sel { g := g, d := o.d, a := o.a, b := o.b, c := PSrc.of uni f.kc f.c, ty := o.ty })
  else if m = 0x22 then
    (if f.sub = 0 then (decUn uni g f).map (fun o => .mov g (.reg o.d o.a o.ty))
     else if f.sub = 1 then some (.mov g (.toHandle (nOf f.d) (sOf f.a)))
     else if f.sub = 2 then some (.mov g (.fromHandle (sOf f.d) (nOf f.a)))
     else none)
  else if m = 0x23 then
    (let i := FieldsI.of p
     if i.a = 1 then some (.moviHi g (sOf i.d) i.imm) else some (.movi g (Dst.of uni i.d) i.imm))
  else if m = 0x24 then (decPlop uni f).map (fun o => .plop g uni (pOf f.d) o)
  else none

def decFBin (g : Guard) (f : FieldsV) : Option FBin := do
  let ty ← FTy.ofCode f.ty
  some { g := g, d := f.d, a := Src.of false f.ka f.a, b := Src.of false f.kb f.b, ty := ty, rnd := Rnd.ofCode f.rnd }

def decFMinMax (g : Guard) (f : FieldsV) : Option FMinMax := do
  let ty ← FTy.ofCode f.ty
  some { g := g, d := f.d, a := Src.of false f.ka f.a, b := Src.of false f.kb f.b, ty := ty, num := f.sub = 1 }

/-- Major 0x58: the special function of each SUB (R344). -/
def decSfu (la : LA) (g : Guard) (f : FieldsV) : Option Instr :=
  let o : SfuOp := { g := g, la := la, d := f.d, a := Src.of false f.ka f.a, rnd := Rnd.ofCode f.rnd }
  if f.sub = 0 then some (.frcp o) else if f.sub = 1 then some (.frsq o) else if f.sub = 2 then some (.fsqrt o)
  else if f.sub = 3 then some (.fexp2 o) else if f.sub = 4 then some (.flog2 o) else if f.sub = 5 then some (.fsin o)
  else if f.sub = 6 then some (.fcos o) else if f.sub = 7 then some (.ftanh o) else none

/-- Majors 0x50 to 0x65. -/
def decFloat (m : Nat) (la : LA) (g : Guard) (p : BitVec 48) : Option Instr :=
  let f := FieldsV.of p
  if m = 0x50 then (decFBin g f).map .fadd
  else if m = 0x51 then (decFBin g f).map .fsub
  else if m = 0x52 then (decFBin g f).map .fmul
  else if m = 0x53 then (decFBin g f).map (fun o =>
    .ffma { g := g, d := o.d, a := o.a, b := o.b, c := Src.of false f.kc f.c, ty := o.ty, rnd := o.rnd })
  else if m = 0x54 then (decFMinMax g f).map .fmin
  else if m = 0x55 then (decFMinMax g f).map .fmax
  else if m = 0x56 then (decFBin g f).map (fun o =>
    .fcmp { g := g, d := pOf f.d, a := o.a, b := o.b, ty := o.ty, rel := FRel.ofCode (f.sub.extractLsb' 0 3),
            sig := f.sub.getLsbD 3 })
  else if m = 0x57 then (decFBin g f).map (fun o => .fclass { g := g, d := o.d, a := o.a, ty := o.ty })
  else if m = 0x58 then decSfu la g f
  else if m = 0x60 then do
    let s ← CvtTy.ofCode f.ty
    let d ← CvtTy.ofCode (nOf f.b)
    some (.cvt { g := g, d := f.d, a := Src.of false f.ka f.a, src := s, dst := d, rnd := Rnd.ofCode f.rnd, sat := f.sat })
  else if m = 0x61 then do
    let ty ← FTy.ofCode f.ty
    some (.cvtn { g := g, d := f.d, a := Src.of false f.ka f.a, ty := ty, fmt := f.b, rnd := Rnd.ofCode f.rnd,
                  satf := f.sat })
  else if m = 0x62 then do
    let ty ← FTy.ofCode f.ty
    some (.cvtw { g := g, d := f.d, a := Src.of false f.ka f.a, ty := ty, fmt := f.b, k := kOf f.c })
  else if m = 0x63 then some (.pack { g := g, d := f.d, a := f.a, fmt := f.b })
  else if m = 0x64 then some (.unpack { g := g, d := f.d, a := f.a, fmt := f.b })
  else if m = 0x65 then do
    let ty ← FTy.ofCode f.ty
    some (.qscale { g := g, d := sOf f.d, a := f.a, fmt := f.b, n := f.c, ty := ty })
  else none

/-- VOTE (Table 19.8). -/
def decVote (f : FieldsV) : Option VoteOp :=
  if f.sub = 0 then some (.any (pOf f.d) (pOf f.a)) else if f.sub = 1 then some (.all (pOf f.d) (pOf f.a))
  else if f.sub = 2 then some (.uni (pOf f.d) (pOf f.a)) else if f.sub = 3 then some (.ballot (sOf f.d) (pOf f.a))
  else none

/-- Majors 0x70 to 0x78. -/
def decCross (m : Nat) (la : LA) (g : Guard) (p : BitVec 48) : Option Instr :=
  let f := FieldsV.of p
  if m = 0x70 then do
    let ty ← IntTy.ofCode f.ty
    let mode ← ShflMode.ofCode f.sub
    some (.shfl { g := g, la := la, d := f.d, a := f.a, b := Src.lastOf false f.imm f.kb f.b, w := f.c, ty := ty,
                  mode := mode })
  else if m = 0x71 then
    (let i := FieldsM.of p
     some (.gshuf { g := g, la := la, d := i.d, x := i.x, arr := i.arr, off := i.off, n1 := i.sub }))
  else if m = 0x72 then do
    let ty ← IntTy.ofCode f.ty
    some (.bcast { g := g, la := la, d := f.d, a := f.a, b := Src.lastOf false f.imm f.kb f.b, ty := ty })
  else if m = 0x73 then (decVote f).map (fun o => .vote g la o)
  else if m = 0x74 then do
    let ty ← RedTy.ofCode f.ty
    let op ← RedOp.ofCode (f.sub.extractLsb' 0 3)
    some (.redux { g := g, la := la, d := sOf f.d, a := f.a, ty := ty, op := op, rnd := Rnd.ofCode f.rnd, sat := f.sat })
  else if m = 0x75 then do
    let ty ← RedTy.ofCode f.ty
    let op ← RedOp.ofCode (f.sub.extractLsb' 0 3)
    some (.scan { g := g, la := la, d := f.d, a := f.a, ty := ty, op := op, excl := f.sub.getLsbD 3,
                  rnd := Rnd.ofCode f.rnd, sat := f.sat })
  else if m = 0x76 then do
    let ty ← IntTy.ofCode f.ty
    let o : ConflictOp := { g := g, la := la, d := f.d, a := f.a, ty := ty }
    if f.sub = 1 then some (.conflictAll o) else some (.conflict o)
  else if m = 0x77 then do
    let ty ← RedTy.ofCode f.ty
    let op ← RedOp.ofCode (f.sub.extractLsb' 0 3)
    some (.segred { g := g, la := la, d := f.d, a := f.a, b := f.b, ty := ty, op := op, rnd := Rnd.ofCode f.rnd,
                    sat := f.sat })
  else if m = 0x78 then some (.regroup la (kOf f.a) (pOf f.b))
  else none

def decMemV (la : LA) (g : Guard) (f : FieldsM) : Option MemV := do
  let ord ← Ord.ofCode f.ord
  let scope ← Scope.ofCode f.scope
  let rc ← Reuse.ofCode f.rc
  let n ← NElem.ofCode f.n
  some { g := g, la := la, d := f.d, x := f.x, arr := f.arr, off := f.off, ord := ord, scope := scope, fr := f.fr,
         rc := rc, n := n, sx := f.sub.getLsbD 0 }

def decMemU (la : LA) (g : Guard) (f : FieldsM) : Option MemU :=
  (decMemV la g f).map (fun o =>
    { g := g, la := la, d := sOf f.d, x := sOf f.x, arr := o.arr, off := o.off, ord := o.ord, scope := o.scope,
      fr := o.fr, rc := o.rc, sx := o.sx })

def decMemS (la : LA) (g : Guard) (f : FieldsM) : Option MemS := do
  let o ← decMemV la g f
  let size ← SpSize.ofCode (f.sub.extractLsb' 0 3)
  some { g := g, la := la, d := f.d, x := f.x, off := f.off, ord := o.ord, scope := o.scope, fr := o.fr, rc := o.rc,
         n := o.n, size := size, sx := f.sub.getLsbD 3 }

def decAtom (la : LA) (g : Guard) (f : FieldsA) : Option AtomInstr := do
  let ty ← AtomTy.ofCode f.ty
  let ord ← Ord.ofCode f.ord
  let scope ← Scope.ofCode f.scope
  let op ← AtomOp.ofCode f.op
  some { g := g, la := la, d := f.d, x := f.x, arr := f.arr, v := f.v, ty := ty, ord := ord, scope := scope, op := op }

def decSOrN (f : FieldsV) : SOrN := if f.sub = 1 then .n f.b else .s (sOf f.a)
def decSOrH (f : FieldsV) : SOrH := if f.sub = 1 then .h (nOf f.b) else .s (sOf f.b)

/-- Majors 0x80 to 0xBD: calipers, arrays, memory, atomics, engines. -/
def decMem (m : Nat) (la : LA) (g : Guard) (p : BitVec 48) : Option Instr :=
  let f := FieldsV.of p
  let i := FieldsM.of p
  if m = 0x80 then
    (if f.sub = 1 then some (.widenClamp g f.d (sOf f.a) (sOf f.b)) else some (.widenTrap g f.d (sOf f.a) (sOf f.b)))
  else if m = 0x81 then some (.calget g (sOf f.d) f.a)
  else if m = 0x82 then some (.calset g f.d (sOf f.a))
  else if m = 0x83 then some (.caltop g f.d)
  else if m = 0x84 then some (.aset g (nOf f.d) (sOf f.a))
  else if m = 0x85 then some (.aget g (sOf f.d) (nOf f.a))
  else if m = 0x86 then some (.aoff g (nOf f.d) (nOf f.a) (sOf f.b))
  else if m = 0x90 then (decMemV la g i).map .ld
  else if m = 0x91 then (decMemV la g i).map .st
  else if m = 0x92 then (decMemU la g i).map .ldu
  else if m = 0x93 then (decMemU la g i).map .stu
  else if m = 0x94 then (decMemS la g i).map .lds
  else if m = 0x95 then (decMemS la g i).map .sts
  else if m = 0x96 then (decMemV la g i).map (fun o =>
    .ldlines { g := g, la := la, d := o.d, x := o.x, arr := o.arr, off := o.off, ord := o.ord, scope := o.scope,
               fr := o.fr, rc := o.rc, n := o.n, n1 := i.sub })
  else if m = 0x97 then (decMemV la g i).map (fun o =>
    .pref { g := g, la := la, x := o.x, arr := o.arr, off := o.off, rc := o.rc, l2 := o.sx })
  else if m = 0x98 then (decMemV la g i).map .ldp
  else if m = 0x99 then (decMemV la g i).map .stp
  else if m = 0x9A then some (.spill { g := g, la := la, d := i.d, k := i.x })
  else if m = 0x9B then some (.fill { g := g, la := la, d := i.d, k := i.x })
  else if m = 0xA0 then (decAtom la g (FieldsA.of p)).map .atom
  else if m = 0xA1 then do
    let a := FieldsA.of p
    let ty ← IntTy.ofCode a.ty
    let ord ← Ord.ofCode a.ord
    let scope ← Scope.ofCode a.scope
    some (.cas { g := g, la := la, d := a.d, x := a.x, arr := a.arr, v := a.v, ty := ty, ord := ord, scope := scope })
  else if m = 0xA2 then (decAtom la g (FieldsA.of p)).map .red
  else if m = 0xA3 then do
    let scope ← Scope.ofCode (f.a.extractLsb' 0 3)
    if f.sub = 10 then some (.fenceEngRel g scope)
    else (Ord.ofCode (f.sub.extractLsb' 0 3)).map (fun o => .fence g o scope)
  else if m = 0xB0 then (decMemV la g i).map (fun o =>
    .cpa { g := g, la := la, d := o.d, x := o.x, arr := o.arr, off := o.off, fr := o.fr, rc := o.rc,
           size := i.sub.extractLsb' 0 2 })
  else if m = 0xB1 then some (.cpseal g)
  else if m = 0xB2 then some (.cpwait g (f.a.extractLsb' 0 3))
  else if m = 0xB3 then some (.kick g (nOf f.d) (sOf f.a) f.b)
  else if m = 0xB4 then (if f.sub = 1 then some (.tagwaitAll g (sOf f.a)) else some (.tagwaitAny g (sOf f.a)))
  else if m = 0xB5 then some (.tagfind g (sOf f.d) (sOf f.a))
  else if m = 0xB6 then some (.hwait g (nOf f.a))
  else if m = 0xB7 then some (.htest g (sOf f.d) (nOf f.a))
  else if m = 0xB8 then some (.hcancel g (nOf f.a))
  else if m = 0xB9 then some (.tbinit g (sOf f.a) (sOf f.b))
  else if m = 0xBA then
    (if f.sub = 1 then some (.tbarriveTx g (sOf f.a) (sOf f.b)) else some (.tbarrive g (sOf f.a)))
  else if m = 0xBB then some (.tbexpect g (sOf f.a) (sOf f.b))
  else if m = 0xBC then some (.tbwait g (sOf f.a) (sOf f.b))
  else if m = 0xBD then (Scope.ofCode (f.c.extractLsb' 0 3)).map (fun scope => .publish g (decSOrN f) scope)
  else none

/-- Majors 0xC0 to 0xE8: matrix, join, system. -/
def decSys (m : Nat) (la : LA) (g : Guard) (p : BitVec 48) : Option Instr :=
  let f := FieldsV.of p
  let x := FieldsX.of p
  if m = 0xC0 then
    (let o : MmaOp := { g := g, la := la, d := x.d, a := MOperand.of x.ka x.a, b := MOperand.of x.kb x.b, f := sOf x.f }
     if x.sub = 1 then some (.mmaZ o) else some (.mma o))
  else if m = 0xC1 then some (.mld { g := g, la := la, d := x.d, a := sOf x.a, f := sOf x.f, opB := x.sub = 1 })
  else if m = 0xC2 then
    (let o : MstOp := { g := g, la := la, d := x.d, a := sOf x.a, f := sOf x.f }
     if x.sub = 1 then some (.mstSum o) else some (.mst o))
  else if m = 0xD0 then some (.post g (sOf f.a) (decSOrH f))
  else if m = 0xD1 then some (.postq g (pOf f.d) (sOf f.a) (decSOrH f))
  else if m = 0xD2 then some (.patload g (sOf f.a) (nOf f.b))
  else if m = 0xD3 then some (.launch g (sOf f.a) (sOf f.b) f.c)
  else if m = 0xD4 then some (.fsopen g (sOf f.a))
  else if m = 0xD5 then some (.fsclose g (decSOrN f))
  else if m = 0xD6 then some (.fswait g (decSOrN f))
  else if m = 0xD7 then pick3 f.sub (.bar g (kOf f.a)) (.bararr g (sOf f.d) (kOf f.a)) (.barwait g (kOf f.a) (sOf f.b))
  else if m = 0xE0 then (if f.sub = 1 then some (.srd g (.vec f.d f.a)) else some (.srd g (.uni (sOf f.d) f.a)))
  else if m = 0xE1 then some (.swr g f.d (sOf f.a))
  else if m = 0xE2 then (if f.sub = 1 then some (.meridDev g (sOf f.d)) else some (.merid g (sOf f.d)))
  else if m = 0xE3 then (if f.sub = 1 then some (.gtimerGet g (sOf f.d)) else some (.gtimer g (sOf f.a)))
  else if m = 0xE4 then some (.trap g (FieldsI.of p).imm)
  else if m = 0xE5 then (if f.sub = 1 then some .rteNext else some .rte)
  else if m = 0xE6 then some (.bkpt g (f.b ++ f.c))
  else if m = 0xE7 then some (.park g)
  else if m = 0xE8 then some (.tracemark g (sOf f.a))
  else none

/-- Majors 0x02 to 0x0C: control. -/
def decControl (m : Nat) (g : Guard) (p : BitVec 48) : Option Instr :=
  let i := FieldsI.of p
  if m = 0x02 then some (.bra g i.imm)
  else if m = 0x03 then do
    let f := FieldsC2.of p
    let c ← Cond.ofCode f.cond
    some (.brc g c f.a (Src.lastOf false f.imm f.kb f.b) f.disp)
  else if m = 0x04 then
    (if i.d = 0 then some (.brx g (.vec i.a i.imm)) else if i.d = 1 then some (.brx g (.uni (sOf i.a) i.imm))
     else if i.d = 2 then some (.brx g (.full (sOf i.a))) else none)
  else if m = 0x05 then
    (if i.d = 0 then some (.call g (.direct i.imm)) else if i.d = 2 then some (.call g (.reg (sOf i.a))) else none)
  else if m = 0x06 then some (.ret g)
  else if m = 0x07 then
    (if i.d = 0 then some (.loop (sOf i.a) i.imm) else if i.d = 2 then some .loopEnd else none)
  else if m = 0x08 then some (.breakl g)
  else if m = 0x09 then some .reconv
  else if m = 0x0A then some (.exit g)
  else if m = 0x0B then some .yield
  else if m = 0x0C then some (.nop g)
  else none

/-- The instruction that the fields of a word name, before the checks of R85. -/
def decodeFields (w : DWord) : Option Instr :=
  let m := (wordMaj w).toNat
  let la := wordLA w
  let g := wordGuard w
  let p := wordBits w
  if m < 0x10 then decControl m g p
  else if m < 0x30 then decInt m false g p
  else if m < 0x50 then decInt (m - 0x20) true g p
  else if m < 0x70 then decFloat m la g p
  else if m < 0x80 then decCross m la g p
  else if m < 0xC0 then decMem m la g p
  else decSys m la g p

/-- Why a word is not an instruction; each raises ILLEGAL with TVAL the word (R85). -/
inductive Reject where
  /-- MAJ 0x00, 0x01 or a reserved major, or a code that names no instruction (steps 1 and 5). -/
  | reservedCode
  /-- GN 1 with GP 7 (step 4). -/
  | guard
  /-- A non-zero LA on a major that is not long-latency (step 4), or a non-zero reserved or unused field (step 5). -/
  | reservedField
  /-- A TYPE, RND, SAT, ordering or register rule of the entry is broken (steps 5 and 6). -/
  | operandRule
deriving DecidableEq, Repr

/-- The decoder: total, rejecting by name. -/
def decode (w : DWord) : Except Reject Instr :=
  if !(wordGuard w).ok then .error .guard
  else match decodeFields w with
    | none => .error .reservedCode
    | some i =>
      if encode i ≠ some w then .error .reservedField
      else if !i.wf then .error .operandRule
      else .ok i

/-- The instruction of a table word (host interface): an instruction has 64 bits, one word. -/
def decodeTableWord (nbits w : Nat) : Option Instr :=
  if nbits ≤ 64 ∧ w < 2 ^ 64 then (decode (BitVec.ofNat 64 w)).toOption else none

end Sys2Proof
end

