-- ==== Sys2Proof/Machine/Async.lean ====
section
/-! DEFINITION. Async.lean: CPA and its batches (08 R179 to R182, 16 R333, R334), KICK, tags and handles (08 R189 to R194, 17
R350, R353, 19 R400), transaction barriers (08 R195, R196, 19 R401) and PUBLISH (08 R198 to R200, 18 R380). -/

namespace Sys2Proof.Machine

open Sys2Proof

/-- The split enters a wait at its instruction. -/
def waitRes (s : State) (r : SplitRef) (w : Wait) : Res :=
  .jump (s.done r (fun x => x.modSplit r.k (Split.await w)))

/-- The instruction's effect on its group. -/
def doneRes (s : State) (r : SplitRef) (f : Group → Group) : Res := .next (s.done r f)

/-! ## CPA -/

/-- N of the per-lane check: ⌈valid ÷ element size⌉ (R179). -/
def cpaCount (valid w : Nat) : Nat := (valid + w - 1) / w

/-- The check of R179 step 1. -/
def cpaCheck (a : BitVec 256) (view : Caliper) (act : Mask) (off : Int) (n : Nat) (x : Nat → Int) (valid : Nat → Nat)
    (w : Nat) : ChkRes :=
  if checkFast a view off n then .ok ⟨0, act, fun j => x j + off, false⟩
  else
    let idx (j : Nat) : Int := x j + off
    let isNull (j : Nat) : Bool := valid j != 0 && arSen a && decide (idx j = (arSentinel a : Int))
    let isViol (j : Nat) : Bool := valid j != 0 && !isNull j
      && (decide (idx j < 0) || decide ((arExtent a : Int) ≤ idx j + cpaCount (valid j) w - 1))
    let viol := act &&& Mask.ofFn isViol
    if viol != 0 && arMode a == 1 then .trap (Exc.plain .bound (BitVec.ofInt 64 (idx (Mask.lowest viol)))) (some viol)
    else .ok ⟨viol, act &&& ~~~(Mask.ofFn isNull) &&& ~~~viol, idx, true⟩

/-- CPA's checks of valid counts, destinations and sources, in their order. -/
def cpaFault (s : State) (r : SplitRef) (act : Mask) (size : Nat) (valid dst : Nat → Nat) (srcs : List (Nat × DWord)) :
    Option Exc :=
  let tooBig := act &&& Mask.ofFn (fun j => decide (size < valid j))
  if tooBig != 0 then some (Exc.plain .format (tooBig.setWidth 64))
  else match act.lanes.find? (fun j => decide (dst j % size ≠ 0)) with
    | some j => some (Exc.at .align (pathS (dst j)))
    | none =>
      match act.lanes.find? (fun j => decide (Config.scratchBytes < dst j + size)) with
      | some j => some (Exc.at .access (pathS (dst j)))
      | none =>
        match s.ctx r.slot with
        | none => some (Exc.plain .access 0)
        | some c => (findRefused s (s.cxOf r) c .eread (srcs.map (fun x => (x.1, [Elem.plain x.2 (max 1 (valid x.1))])))).map
            (fun x => Exc.at .access x)

/-- The copies of a CPA join the engine's list and their lanes' current batches. -/
def State.addCopies (s : State) (r : SplitRef) (cs : List CpaCopy) : State :=
  let s1 := s.modLc r.slot r.lcid (fun l => { l with cpas := l.cpas ++ cs, nextCpa := l.nextCpa + cs.length })
  s1.modGroup r.group (fun g => { g with batches := cs.foldl (fun bs c =>
    regMod bs c.lane (fun b => { b with current := b.current ++ [c.num] })) g.batches })

/-- CPA (R179, R180, R333). -/
def cpaRes (o : CpaOp) (s : State) (r : SplitRef) (src g : Group) : Res :=
  let a := src.a o.arr.toNat
  let act := src.active r.k o.g
  let size := 4 * 2 ^ o.size.toNat
  let w := eszBits (arEsz a) / 8
  let valid (j : Nat) : Nat := (src.v (o.d.toNat + 1) j).toNat
  let dst (j : Nat) : Nat := (src.v o.d.toNat j).toNat
  if arBad a || decide (4 < arEsz a) || decide (size < w) then .trap (Exc.plain .format 0) s
  else
    let view := src.view r.k o.x.toNat
    s.withCheck r (footprint a view (offInt o.off) (size / w))
      (cpaCheck a view act (offInt o.off) (size / w) (fun j => (src.v o.x.toNat j).toInt) valid w) (fun s1 c =>
        let srcs := (c.live.lanes.filter (fun j => valid j != 0)).map (fun j => (j, (arrayElem a (c.idx j).toNat).addr))
        match cpaFault s1 r act size valid dst srcs with
        | some e => .trap e (s1.checked r c)
        | none =>
          let first := (s1.lc r.slot r.lcid).nextCpa
          let copies := act.lanes.zipIdx.map (fun x =>
            let from_ := srcs.find? (fun y => y.1 == x.1)
            (⟨first + x.2, r.gh, x.1, size, valid x.1, (match from_ with | some y => y.2 | none => 0), dst x.1,
              from_.isNone, r.k, g.ctl.recNum, g.ctl.ganginst, g.ctl.role, accessHint o.rc a, [], false, none, false⟩ : CpaCopy))
          .next (((s1.checked r c).addCopies r copies).done r (fun x => x)))

/-! ## Batches -/

/-- Finished batches leave, oldest first. -/
def Batch.settle (b : Batch) : Batch := { b with sealed := b.sealed.dropWhile (fun x => x.isEmpty) }

/-- A copy has been performed. -/
def Batch.perform (n : Nat) (b : Batch) : Batch :=
  ({ b with current := b.current.filter (fun x => x != n), sealed := b.sealed.map (fun (l : List Nat) => l.filter (fun x => x != n)) }).settle

def Batch.close (b : Batch) : Batch :=
  ({ num := b.num + 1, current := [], sealed := b.sealed ++ [b.current] } : Batch).settle

def Batch.none : Batch := ⟨0, [], []⟩
def Group.batch (g : Group) (j : Nat) : Batch := regGet Batch.none g.batches j

/-- Seal the batches of the lanes of a mask. -/
def Group.sealLanes (g : Group) (m : Mask) : Group :=
  { g with batches := g.batches.zipIdx.map (fun x => if Mask.has m x.2 then x.1.close else x.1) }

/-- Room for another sealed batch in every lane. -/
def Group.sealRoom (g : Group) (m : Mask) : Bool := m.lanes.all (fun j => decide ((g.batch j).sealed.length < 8))

/-- Every lane has at most `n` sealed, unfinished batches. -/
def Group.batchesAtMost (g : Group) (m : Mask) (n : Nat) : Bool := m.lanes.all (fun j => decide ((g.batch j).sealed.length ≤ n))

/-- CPSEAL (R181). -/
def cpsealRes (gd : Guard) (s : State) (r : SplitRef) (src g : Group) : Res :=
  let act := src.active r.k gd
  if g.sealRoom act then doneRes s r (fun x => x.sealLanes act) else waitRes s r (.batch act 8 true)

/-- CPWAIT n (R182). -/
def cpwaitRes (gd : Guard) (n : BitVec 3) (s : State) (r : SplitRef) (src g : Group) : Res :=
  let act := src.active r.k gd
  if g.batchesAtMost act n.toNat then doneRes s r (fun x => x) else waitRes s r (.batch act n.toNat false)

/-! ## Kick entries and handles -/

/-- DESIGN CHOICE (log 3). -/
def Kick.empty : Kick := ⟨0, .done, 0, 0, 0, 0, 0, 0, 0⟩
def LogicalCore.kick (l : LogicalCore) (e : Nat) : Kick := regGet Kick.empty l.kicks e

def mkHandle (lcid entry : Nat) (gen : BitVec 32) : DWord :=
  BitVec.ofNat 64 (2 ^ 63 + lcid * 2 ^ 40 + entry * 2 ^ 32 + gen.toNat)
def handleLcid (h : DWord) : Nat := bitsOf h.toNat 40 10
def handleEntry (h : DWord) : Nat := bitsOf h.toNat 32 8

/-- The entry a handle names, unless the handle reads as DONE by R193. -/
def State.handleKick (s : State) (slot : Nat) (h : DWord) : Option Kick :=
  match s.ctx slot with
  | none => none
  | some c =>
    let k := (c.lc (handleLcid h)).kick (handleEntry h)
    if !h.getLsbD 63 || bitsOf h.toNat 50 13 != 0 || decide (c.lcs.length ≤ handleLcid h) || k.gen != h.extractLsb' 0 32 then none
    else some k

def State.handleSt (s : State) (slot : Nat) (h : DWord) : KickSt :=
  match s.handleKick slot h with
  | some k => k.st
  | none => .done

/-- Records of an entry that the engine still holds. -/
def LogicalCore.recordsOf (l : LogicalCore) (e : Nat) : List EngRec := l.engine.filter (fun x => x.entry == e)

/-- A kick entry is free (R189). -/
def Context.kickFree (c : Context) (lcid e : Nat) : Bool :=
  let l := c.lc lcid
  let k := l.kick e
  match k.st with
  | .pending => false
  | .done | .cancelled => (l.recordsOf e).isEmpty
  | .failed => (l.recordsOf e).isEmpty && (c.inst? k.recNum k.ganginst).isNone

def Context.freeKick (c : Context) (lcid : Nat) : Option Nat := (List.range 256).find? (fun e => c.kickFree lcid e)

/-! ## Copy request records (Table 8.1) -/

structure CopyRec where
  op      : Nat
  slay    : Bool
  dlay    : Bool
  shadow  : Bool
  auto    : Bool
  tag     : Nat
  tben    : Bool
  pen     : Bool
  port    : Nat
  tb      : Nat
  src     : DWord
  dst     : DWord
  len     : Nat
  fill    : Nat
  coord   : List Int
  payload : DWord
  raw     : Nat

def copyRec (b : List Byte) : CopyRec :=
  let x := leNat b
  { op := bitsOf x 0 4, slay := x.testBit 4, dlay := x.testBit 5, shadow := x.testBit 6, auto := x.testBit 7
    tag := bitsOf x 8 6, tben := x.testBit 14, pen := x.testBit 15, port := bitsOf x 16 12, tb := bitsOf x 32 20
    src := BitVec.ofNat 64 (bitsOf x 64 64), dst := BitVec.ofNat 64 (bitsOf x 128 64), len := bitsOf x 192 32
    fill := bitsOf x 224 32, coord := (List.range 5).map (fun k => (BitVec.ofNat 32 (bitsOf x (256 + 32 * k) 32)).toInt)
    payload := BitVec.ofNat 64 (bitsOf x 448 64), raw := x }

def CopyRec.laid (c : CopyRec) : Bool := c.slay || c.dlay

/-- The scratchpad offset of the layout record that a record names (R183). -/
def layoutAt (c : CopyRec) : Nat := bitsOf (if c.slay then c.src else c.dst).toNat 0 20

/-- A record of a KICK with its layout record as they stand at the KICK (R280). -/
def kickRec (scratch : Cells) (entry idx off : Nat) : EngRec :=
  let b := Cells.read scratch off 64
  ⟨entry, idx, off, b, if (copyRec b).laid then Cells.read scratch (layoutAt (copyRec b)) 64 else [], false, false, 64, 0, 0, false, none⟩

/-- KICK hD, [sA], n (R189, R353). Without a free entry it is suspended as at a replayable fault: no window stays open (R82, R98). -/
def kickRes (gd : Guard) (d : HReg) (a : SReg) (nb : BitVec 8) : State → SplitRef → Group → Group → Res :=
  underQ gd (fun s r src g =>
    let off := (src.s a.toNat).toNat
    let n := nb.toNat
    if off % 64 ≠ 0 then .trap (Exc.plain .align (src.s a.toNat)) s
    else if Config.scratchBytes < off + 64 * n then .trap (Exc.at .access (pathS off)) s
    else match s.ctx r.slot with
      | none => .stall s
      | some c =>
        match c.freeKick r.lcid with
        | none => .jump (s.modGroup r.group (fun x => (x.closeWindows r.k).modSplit r.k (fun sp => { sp with st := .wait .kick })))
        | some e =>
          let gen := ((c.lc r.lcid).kick e).gen + 1
          let k : Kick := ⟨gen, .pending, n, off, 0, g.ctl.ganginst, g.ctl.recNum, r.gh, g.ctl.role⟩
          let recs := (List.range n).map (fun i => kickRec (c.lc r.lcid).scratch e i (off + 64 * i))
          .next ((s.modLc r.slot r.lcid (fun l => { l with kicks := regSet l.kicks e k, engine := l.engine ++ recs })).done r
            (fun x => x.setH d.toNat (mkHandle r.lcid e gen))))

/-- ACCESS with TVAL zero (R193). -/
def failedHandle : Exc := Exc.plain .access 0

/-- HWAIT hA (R350). -/
def hwaitRes (gd : Guard) (a : HReg) : State → SplitRef → Group → Group → Res :=
  underQ gd (fun s r src _ =>
    match s.handleSt r.slot (src.h a.toNat) with
    | .pending => waitRes s r (.handle (src.h a.toNat) 0)
    | .failed => .trap failedHandle s
    | .done | .cancelled => doneRes s r (fun x => x))

def kickCode : KickSt → Nat
  | .done => 0 | .pending => 1 | .cancelled => 2 | .failed => 3

/-- HTEST sD, hA (R350). -/
def htestRes (gd : Guard) (d : SReg) (a : HReg) : State → SplitRef → Group → Group → Res :=
  underQ gd (fun s r src _ =>
    doneRes s r (fun x => x.setS d.toNat (BitVec.ofNat 64 (kickCode (s.handleSt r.slot (src.h a.toNat))))))

/-- A tag is outstanding in some started record. -/
def LogicalCore.tagBusy (l : LogicalCore) (t : Nat) : Bool := l.engine.any (fun x => x.started && x.tag == t)

/-- A record leaves the engine: its tag bit is set when no other record of the tag is outstanding (R189). -/
def LogicalCore.dropRec (l : LogicalCore) (entry idx : Nat) : LogicalCore :=
  match l.engine.find? (fun x => x.entry == entry && x.idx == idx) with
  | none => l
  | some x =>
    let l1 := { l with engine := l.engine.filter (fun y => !(y.entry == entry && y.idx == idx)) }
    if x.started && !l1.tagBusy x.tag then { l1 with tags := l1.tags ||| BitVec.ofNat 64 (2 ^ x.tag) } else l1

/-! ## Tags -/

def tagsMet (all : Bool) (tags mask : DWord) : Bool :=
  if all then mask &&& ~~~tags == 0 else mask == 0 || tags &&& mask != 0

/-- TAGWAIT.ANY and TAGWAIT.ALL (R400). -/
def tagwaitRes (all : Bool) (gd : Guard) (a : SReg) : State → SplitRef → Group → Group → Res :=
  underQ gd (fun s r src _ =>
    if tagsMet all (s.lc r.slot r.lcid).tags (src.s a.toNat) then doneRes s r (fun x => x)
    else waitRes s r (.tag (src.s a.toNat) all))

/-- TAGFIND sD, sA (R400). -/
def tagfindRes (gd : Guard) (d a : SReg) : State → SplitRef → Group → Group → Res :=
  underQ gd (fun s r src _ =>
    let m := (s.lc r.slot r.lcid).tags &&& src.s a.toNat
    doneRes s r (fun x => x.setS d.toNat (BitVec.ofNat 64 (((List.range 64).find? (fun t => m.getLsbD t)).getD 64))))

/-! ## Transaction barriers (Table 8.4) -/

structure TBar where
  gen   : BitVec 32
  arr   : BitVec 32
  bytes : BitVec 32
  again : BitVec 32
deriving DecidableEq, Repr

def LogicalCore.tbar (l : LogicalCore) (off : Nat) : TBar :=
  let w (i : Nat) : BitVec 32 := BitVec.ofNat 32 (leNat (Cells.read l.scratch (off + 4 * i) 4))
  ⟨w 0, w 1, w 2, w 3⟩

def LogicalCore.setTbar (l : LogicalCore) (off : Nat) (b : TBar) : LogicalCore :=
  let w := natLe 4 b.gen.toNat ++ natLe 4 b.arr.toNat ++ natLe 4 b.bytes.toNat ++ natLe 4 b.again.toNat
  { l with scratch := Cells.write l.scratch off w }

/-- An update that leaves ARR and BYTES zero completes the phase (R196). -/
def TBar.settle (b : TBar) : TBar :=
  if b.arr = 0 ∧ b.bytes = 0 then { b with gen := b.gen + 1, arr := b.again } else b

/-- Phase g is complete. -/
def TBar.phaseDone (b : TBar) (g : BitVec 32) : Bool := decide ((b.gen - g - 1).toNat < 2 ^ 31)

/-- A barrier instruction: ACCESS, ALIGN, ECC (Table 12.6), then its effect; the group's own stores to the scratchpad come first. -/
def tbRes (gd : Guard) (a : SReg) (f : State → SplitRef → Group → Nat → Res) : State → SplitRef → Group → Group → Res :=
  underQ gd (fun s r src _ =>
    let off := (src.s a.toNat).toNat
    if Config.scratchBytes ≤ off then .trap (Exc.at .access (src.s a.toNat)) s
    else if off % 16 ≠ 0 then .trap (Exc.at .align (src.s a.toNat)) s
    else if (s.drainAll r.group).softScratch r.slot r.lcid off 16 then .trap Exc.sramEcc s
    else f (s.drainAll r.group) r src off)

/-- An update of a barrier in one indivisible step. -/
def tbUpdate (f : Group → TBar → TBar) (s : State) (r : SplitRef) (src : Group) (off : Nat) : Res :=
  doneRes (s.modLc r.slot r.lcid (fun l => l.setTbar off (f src (l.tbar off)).settle)) r (fun x => x.wrote [off])

def low32 (x : DWord) : BitVec 32 := x.extractLsb' 0 32

def tbinitRes (gd : Guard) (a b : SReg) : State → SplitRef → Group → Group → Res :=
  tbRes gd a (fun s r src off =>
    let n := low32 (src.s b.toNat)
    if n = 0 then .trap (Exc.plain .format 0) s
    else tbUpdate (fun _ _ => ⟨0, n, 0, n⟩) s r src off)

/-- An arrival is a release: whoever then acquires the phase, at whatever scope, sees the group's earlier stores (R196, R234). -/
def tbArrive (f : Group → TBar → TBar) (s : State) (r : SplitRef) (src : Group) (off : Nat) : Res :=
  tbUpdate f (s.releaseAt r.group .device) r src off

def tbarriveRes (gd : Guard) (a : SReg) : State → SplitRef → Group → Group → Res :=
  tbRes gd a (tbArrive (fun _ x => { x with arr := x.arr - 1 }))

def tbarriveTxRes (gd : Guard) (a b : SReg) : State → SplitRef → Group → Group → Res :=
  tbRes gd a (tbArrive (fun src x => { x with bytes := x.bytes + low32 (src.s b.toNat), arr := x.arr - 1 }))

def tbexpectRes (gd : Guard) (a b : SReg) : State → SplitRef → Group → Group → Res :=
  tbRes gd a (tbUpdate (fun src x => { x with bytes := x.bytes + low32 (src.s b.toNat) }))

def tbwaitRes (gd : Guard) (a b : SReg) : State → SplitRef → Group → Group → Res :=
  tbRes gd a (fun s r src off =>
    let p := low32 (src.s b.toNat)
    if ((s.lc r.slot r.lcid).tbar off).phaseDone p then doneRes s r (fun x => x) else waitRes s r (.barrier off p))

/-! ## PUBLISH -/

/-- The buffer a publish operand names: sA[7:0] or the plain number. -/
def pubBuf (src : Group) : SOrN → Nat
  | .s r => bitsOf (src.s r.toNat).toNat 0 8
  | .n k => k.toNat

/-- The control word of a copy request record (Table 8.1). -/
def recCtl (bytes : List Byte) : Nat := leNat (bytes.take 8)
def recShadow (bytes : List Byte) : Bool := (recCtl bytes).testBit 6
/-- The destination address, or the base of the destination's layout record. -/
def recDst (bytes layout : List Byte) : DWord :=
  if (recCtl bytes).testBit 5 then BitVec.ofNat 64 (leNat ((layout.drop 8).take 8))
  else BitVec.ofNat 64 (leNat ((bytes.drop 16).take 8))

/-- Shadow records to a buffer that an engine of the context has started and not completed. -/
def Context.shadowsOf (c : Context) (buf : Nat) : List (Nat × Nat × Nat × Nat) :=
  c.lcs.zipIdx.flatMap (fun l =>
    (l.1.engine.filter (fun x => x.started && recShadow x.bytes && addrPath (recDst x.bytes x.layout) == 6
      && bitsOf (recDst x.bytes x.layout).toNat 52 8 == buf)).map (fun x => (l.2, x.entry, x.idx, (l.1.kick x.entry).gen.toNat)))

/-- PUBLISH (R200, R380): the group's earlier accesses are performed at the scope; the flip follows. -/
def publishRes (gd : Guard) (a : SOrN) (scope : Scope) : State → SplitRef → Group → Group → Res :=
  underQ gd (fun s r src _ =>
    let buf := pubBuf src a
    (s.pubBuffer (s.cxOf r) buf).toRes s (fun e s1 =>
      match e with
      | none => .trap (Exc.plain .access (BitVec.ofNat 64 buf)) s1
      | some _ =>
        doneRes ((s1.releaseAt r.group scope).modCtx r.slot (fun c =>
          { c with flips := c.flips ++ [⟨buf, r.group, scope, c.shadowsOf buf⟩] })) r (fun x => x)))

end Sys2Proof.Machine
end

