-- ==== Sys2Proof/Machine/Post.lean ====
section
/-! DEFINITION. Post.lean: ports, banks and messages (09 R204 to R208), finish scopes (R220 to R224), gang records as a firing or
a LAUNCH emits them (R211, R219, R222, R425, 11 R247), and the overflow and requested halts of a context (12 R269, R273). -/

namespace Sys2Proof.Machine

open Sys2Proof

/-! ## Banks and ports -/

def Bank.empty : Bank where
  ports := List.replicate 256 0
  queues := List.replicate 256 []
  overflow := []
  patterns := List.replicate 64 0
  rrptr := 0
  owed := List.replicate 64 0
  failed := 0
  left := 0

def Context.bank (c : Context) (n : Nat) : Bank := regGet Bank.empty c.banks n
def Context.modBank (c : Context) (n : Nat) (f : Bank → Bank) : Context := { c with banks := regMod c.banks n f }

def Bank.word (b : Bank) (p : Nat) : DWord := regGet 0 b.ports p
def Bank.queue (b : Bank) (p : Nat) : List Msg := regGet [] b.queues p
/-- Messages a port holds (Table 9.1). -/
def wordDepth (w : DWord) : Nat := bitsOf w.toNat 0 6 + 1
def wordPolicy (w : DWord) : Nat := bitsOf w.toNat 8 2
def wordHost (w : DWord) : Bool := w.getLsbD 16
def wordPeer (w : DWord) : Bool := w.getLsbD 17

/-- Room in the port's own queue. -/
def Bank.room (b : Bank) (p : Nat) : Bool := decide ((b.queue p).length < wordDepth (b.word p))

/-- A port is full (R206); `p` is its number within the bank. -/
def Bank.full (b : Bank) (p : Nat) : Bool := !b.room p || b.overflow.any (fun x => x.1 == p)

def Bank.put (b : Bank) (p : Nat) (m : Msg) : Bank := { b with queues := regMod b.queues p (fun q => q ++ [m]) }

/-- The oldest overflow message of a port, where the port has room for it (R208). -/
def Bank.oldest (b : Bank) (p : Nat) : Option (Nat × Msg) :=
  if b.room p then b.overflow.find? (fun x => x.1 == p) else none

/-! ## Finish scopes -/

def FScope.free : FScope := ⟨0, 0, 0, 0, false, false, 0, 0, .free⟩
def Context.scope (c : Context) (n : Nat) : FScope := regGet FScope.free c.scopes n
def Context.modScope (c : Context) (n : Nat) (f : FScope → FScope) : Context := { c with scopes := regMod c.scopes n f }

/-- A member joins, or a message that holds a scope is posted (R222). -/
def Context.hold (c : Context) (h : Option Nat) : Context :=
  match h with
  | some n => c.modScope n (fun x => { x with live := x.live + 1 })
  | none => c

/-- Table 9.8. -/
def completionMsg (n : Nat) (x : FScope) : DWord :=
  BitVec.ofNat 64 (x.tag.toNat * 2 ^ 32 + x.nerr * 2 ^ 16 + (if x.nerr = 0 then 0 else 2 ^ 8) + n)

/-- Release the splits of a context whose wait satisfies a condition. -/
def Context.releaseWhere (c : Context) (now : Nat) (f : Wait → Bool) : Context :=
  { c with groups := c.groups.map (fun x =>
      (x.1, { x.2 with splits := x.2.splits.map (fun sp => if sp.waiting f then sp.release now else sp) })) }

/-- A CLOSED scope with LIVE 0 completes, and with it perhaps its parents (R224). -/
def Context.settleScope (now : Nat) : Nat → Nat → Context → Context
  | 0, _, c => c
  | fuel + 1, n, c =>
    let x := c.scope n
    if x.st = .closed ∧ x.live = 0 then
      let err := x.nerr != 0
      let parent := if x.hasPar then some x.parent else none
      let c1 := (c.modScope n (fun y => { y with st := if err then .error else .done })).releaseWhere now (fun w => c.park == .none && w == .scope n)
      let c2 := if x.pen then
          { c1.hold parent with transit := c1.transit ++ [.ext (.scopeEnd n) x.port ⟨completionMsg n x, parent⟩] }
        else c1
      match parent with
      | none => c2
      | some p =>
        Context.settleScope now fuel p (c2.modScope p (fun y =>
          { y with live := y.live - 1, nerr := if err then min 65535 (y.nerr + 1) else y.nerr }))
    else c

/-- A member of a scope leaves it, with an error or not. -/
def Context.unhold (c : Context) (now : Nat) (h : Option Nat) (err : Bool) : Context :=
  match h with
  | some n => Context.settleScope now 10 n (c.modScope n (fun x =>
      { x with live := x.live - 1, nerr := if err then min 65535 (x.nerr + 1) else x.nerr }))
  | none => c

/-- The scope of a group's instance, which is the hold tag of its posts (R222). -/
def Context.scopeOf (c : Context) (g : Group) : Option Nat :=
  match c.instOf g with
  | some i => i.scope
  | none => none

/-! ## Enqueueing -/

/-- A message has reached port `p` in this cycle: the bank takes one for each port in a cycle (R19). -/
def Context.reached (c : Context) (p : Nat) : Context := { c with enqd := c.enqd ++ [p] }

/-- Put a message into port `p` of the context: the port's one message of this cycle (R19). -/
def Context.enqueue (c : Context) (p : Nat) (m : Msg) : Context :=
  (c.reached p).modBank (p / 256) (fun b => b.put (p % 256) m)

def Context.split? (c : Context) (r : SplitRef) : Option Split := (c.group? r.group).map (fun g => g.split r.k)

/-- The first waiting post of a port is admitted where it is not full (R206); a halted split's wait has ended. -/
def Context.offer (now p : Nat) : Nat → Context → Context
  | 0, c => c
  | fuel + 1, c =>
    match c.waiting.find? (fun x => x.1 == p) with
    | none => c
    | some x =>
      let c1 := { c with waiting := c.waiting.erase x }
      let still := match c.split? x.2.1 with
        | some sp => sp.waiting (fun w => w == .port x.2.2.payload p)
        | none => false
      if !still then Context.offer now p fuel c1
      else if (c.bank (p / 256)).full (p % 256) then c
      else
        ((c1.enqueue p x.2.2).hold x.2.2.hold).modGroup x.2.1.group (fun g =>
          g.modSplit x.2.1.k (fun sp => sp.release now))

/-- A port with room takes its message of this cycle: the oldest of the overflow area first, then a waiting post (R19, R206, R208). -/
def Context.gainRoom (c : Context) (now p : Nat) : Context :=
  if c.enqd.contains p then c
  else match (c.bank (p / 256)).oldest (p % 256) with
    | some x => (c.modBank (p / 256) (fun b => { b with overflow := b.overflow.erase x })).enqueue p x.2
    | none => Context.offer now p c.waiting.length c

/-- A new cycle: every port may take a message, and those with messages waiting for room take theirs (R19). -/
def Context.portCycle (c : Context) (now : Nat) : Context :=
  let waits := (c.banks.zipIdx.flatMap (fun x => x.1.overflow.map (fun y => 256 * x.2 + y.1)) ++ c.waiting.map (fun x => x.1)).dedup
  waits.foldl (fun acc p => acc.gainRoom now p) { c with enqd := [] }

/-! ## Halts of a whole context (R269) -/

/-- The splits of a context that a debug stop has stopped halt where they stand, with SKIDINS 0 (R306), by ascending channel: their records come
before the FAULT records of the context's halt, whose channels are higher (R274). -/
def State.haltStopped (s : State) (slot : Nat) : State :=
  match s.ctx slot with
  | none => s
  | some c =>
    (sortBy (fun r => s.lcChan r.slot r.lcid) (c.splitRefs slot)).foldl (fun acc r =>
      match acc.split? r with
      | none => acc
      | some sp =>
        if !sp.dstopped then acc
        else (acc.modSplit r (fun x => if x.skid.isSome then x else { x with skidCyc := 0, skidIns := 0 })).haltSplit r) s

/-- Every gang instance of a context begins to halt, each with a FAULT record. -/
def State.haltContext (s : State) (slot : Nat) (die : Nat) (f : GangInst → RecordArgs) : State :=
  match s.ctx slot with
  | none => s
  | some c =>
    c.insts.foldl (fun acc i =>
      let x := acc.record slot (f i)
      x.2.spreadHalt slot i.recNum i.inst none (some die) x.1) s

/-- The overflow halt (R208, R273): its FAULT records, as event 0x07, under the channel of the bank. DESIGN CHOICE (log 36). -/
def State.overflowHalt (s : State) (slot port : Nat) (m : Msg) : State :=
  let jd := s.joinDie slot
  let s1 := (s.haltStopped slot).logEvent jd (90 + port / 256) 7 (causeCode .portfull) port slot (m.payload.extractLsb' 0 32)
  (s1.modCtx slot (fun c => { c with halting := true })).haltContext slot jd (fun i =>
    { die := jd, chan := 90 + port / 256, aux0 := BitVec.ofNat 64 port, aux1 := m.payload, ganginst := i.inst, cause := causeCode .portfull, port := port })

/-! ## Arrivals (R206, R208) -/

/-- PORTFULL (R206). -/
def portFull (port : Nat) (tryonly : Bool) : Exc :=
  { Exc.plain .portfull (BitVec.ofNat 64 (port + (if tryonly then 4096 else 0))) with port := port }

/-- A POST of a split reaches its bank (Table 9.2). A split that has halted meanwhile waits for nothing. -/
def State.deliverPost (s : State) (r : SplitRef) (port : Nat) (m : Msg) : State :=
  match s.ctx r.slot, s.split? r with
  | some c, some sp =>
    let b := c.bank (port / 256)
    let policy := wordPolicy (b.word (port % 256))
    let full := b.full (port % 256)
    let live := sp.st == .wait .answer
    if policy = 2 ∨ (policy = 1 ∧ full) then
      if live then s.raiseWaiting r sp.mask (portFull port (policy == 2)) else s
    else if full then
      if live then
        (s.modCtx r.slot (fun c => { c.reached port with waiting := c.waiting ++ [(port, r, m)] })).modSplit r (fun x =>
          { x with st := .wait (.port m.payload port) })
      else s
    else
      let s1 := s.modCtx r.slot (fun c => (c.enqueue port m).hold m.hold)
      if live then s1.modSplit r (fun x => x.release s.cycles) else s1
  | _, _ => s

/-- A post of another source reaches its bank (R208). Its hold has been counted when it was posted. -/
def State.deliverExt (s : State) (slot port : Nat) (m : Msg) : State :=
  match s.ctx slot with
  | none => s
  | some c =>
    let b := c.bank (port / 256)
    if !b.full (port % 256) then s.modCtx slot (fun c => c.enqueue port m)
    else if b.overflow.length < 32 then
      (s.modCtx slot (fun c => (c.reached port).modBank (port / 256) (fun b =>
        { b with overflow := b.overflow ++ [(port % 256, m)] }))).logEvent
        (s.joinDie slot) (90 + port / 256) 5 (causeCode .portfull) port slot (m.payload.extractLsb' 0 32)
    else s.overflowHalt slot port m

/-- The source of a message on its way: those of one source reach the join die in order (R14). -/
def Transit.source : Transit → Option GroupRef × Option PostSrc
  | .post r _ _ => (some r.group, none)
  | .ext src _ _ | .held src _ _ => (none, some src)

def Transit.port : Transit → Nat
  | .post _ p _ => p
  | .ext _ p _ | .held _ p _ => p

def Transit.isHeld : Transit → Bool
  | .held _ _ _ => true
  | .post _ _ _ | .ext _ _ _ => false

/-- Message `i` may arrive next: none of its source is ahead of it, its port has been reached by none in this cycle (R14, R19), and none for
its port that a debug stop held is ahead of it (R304). Sources reach a bank in any order, since the time on the fabric is free. DEDUCED
(log 22). -/
def Context.mayArrive (c : Context) (i : Nat) : Bool :=
  match c.transit[i]? with
  | none => false
  | some t => !(c.transit.take i).any (fun x => x.source == t.source || (x.isHeld && x.port == t.port)) && !c.enqd.contains t.port

/-- A message for a port that a debug stop held is still on its way: nothing posted later goes ahead of it (R304). -/
def Context.heldFor (c : Context) (p : Nat) : Bool := c.transit.any (fun x => x.isHeld && x.port == p)

/-- A message reaches its bank. -/
def State.deliver (s : State) (slot : Nat) : Transit → State
  | .post r p m => s.deliverPost r p m
  | .ext _ p m | .held _ p m => s.deliverExt slot p m

/-- MESSAGE_ARRIVAL. -/
def State.arrive (s : State) (slot i : Nat) : State :=
  match s.ctx slot with
  | none => s
  | some c =>
    if !s.clocked || !c.mayArrive i then s
    else match c.transit[i]? with
      | none => s
      | some t =>
        (s.setCtx slot { c with transit := c.transit.take i ++ c.transit.drop (i + 1) }).deliver slot t

/-- Post as a source outside the groups: the hold counts from now (R222). -/
def State.extPost (s : State) (slot : Nat) (src : PostSrc) (port : Nat) (m : Msg) : State :=
  s.modCtx slot (fun c => { c.hold m.hold with transit := c.transit ++ [.ext src port m] })

/-! ## Gang records -/

/-- What a firing or a LAUNCH emits. -/
structure Emit where
  desc     : DWord
  payloads : List DWord
  scope    : Option Nat
  prio     : Nat
  launched : Bool
  pattern  : Nat
  failed   : Bool

/-- The lowest number that none of `used` is, found within as many steps as there are of them. -/
def lowestFree (used : List Nat) : Nat :=
  ((List.range (used.length + 1)).find? (fun n => !used.contains n)).getD used.length

/-- The number of a new gang record: the lowest that no record of the context has (R285, R421). DEDUCED (log 50). -/
def Context.freshNum (c : Context) : Nat := lowestFree (c.records.map (fun x => x.num))

/-- PRIO, FSMODE and FSCOPE of doubleword 0 (Table 9.5). -/
def dwPrio (w : DWord) : Nat := bitsOf w.toNat 0 3
/-- The reserved FSMODE 3, for which FORMAT comes only as the record is taken (R425), joins no scope before: DESIGN CHOICE (log 53). -/
def dwScope (w : DWord) (inherited : Option Nat) : Option Nat :=
  match bitsOf w.toNat 11 2 with
  | 1 => some (bitsOf w.toNat 3 8)
  | 2 => inherited
  | _ => none

/-- A gang record joins its scope and takes its place in its ready queue; with a dead scope it is only recorded (R222, R247). -/
def State.emitRecord (s : State) (slot : Nat) (e : Emit) : State :=
  match s.ctx slot with
  | none => s
  | some c =>
    let dead := match e.scope with
      | some n => !((c.scope n).st == ScopeSt.open || (c.scope n).st == ScopeSt.closed)
      | none => false
    if dead then
      let jd := c.joinDie
      let a : RecordArgs :=
        { die := jd, aux0 := BitVec.ofNat 64 e.pattern, aux1 := BitVec.ofNat 64 (e.scope.getD 0), cause := causeCode .gang
          kind := 2, pattern := e.pattern, launched := e.launched }
      let x := s.record slot a
      x.2.payloadRecords slot a x.1 e.payloads
    else
      let r : GangRec := ⟨c.freshNum, e.desc, e.payloads, e.scope, e.prio, e.launched, e.pattern, none, 0, 0, 0, false, true, none, false,
        e.failed, false⟩
      s.setCtx slot { c.hold e.scope with records := c.records ++ [r] }

end Sys2Proof.Machine
end

