-- ==== Sys2Proof/Machine/Join.lean ====
section
/-! DEFINITION. Join.lean: POST and POSTQ (18 R376 to R378), PATLOAD (09 R212, R213, 18 R373), LAUNCH (09 R219, 17 R354), the
finish-scope instructions (09 R221, R223, R225, 17 R347), cohort barriers (02 R46, 16 R318, R319) and REGROUP (02 R47 to R49,
18 R385). -/

namespace Sys2Proof.Machine

open Sys2Proof

/-! ## Posts -/

def portWordBad (w : DWord) : Bool :=
  w.extractLsb' 29 35 != 0 || w.extractLsb' 12 4 != 0 || (!w.getLsbD 28 && w.extractLsb' 16 12 != 0)
def portRemote (w : DWord) : Bool := w.getLsbD 28
def portRank (w : DWord) : Nat := bitsOf w.toNat 16 12
def portNum (w : DWord) : Nat := bitsOf w.toNat 0 12

def payloadOf (g : Group) : SOrH → DWord
  | .s r => g.s r.toNat
  | .h r => g.h r.toNat

/-- A POST of the group has not been answered: the join die takes a group's requests in order (R347). -/
def Context.joinBusy (c : Context) (r : GroupRef) : Bool :=
  c.transit.any (fun t => match t with
    | .post x _ _ => x.group == r
    | .ext _ _ _ | .held _ _ _ => false)

/-- A non-zero RSVD field of a peer-table entry (Table 11.5): FORMAT (R10, R260). -/
def peerEntryRsvd (e : Nat) : Bool := bitsOf e 122 6 != 0 || bitsOf e 0 28 != 0

/-- The lowest up port of a rank's peer-table entry (R296, Table 11.5). -/
def upPort (s : State) (entry : Nat) : Option Nat :=
  (List.range 16).find? (fun n => entry.testBit (100 + n) && s.portUp n)

/-- The checks of R377; `near` runs a local post, `far` what follows a remote one. -/
def postRun (a : SReg) (payload : DWord) (near : State → Res) (far : State → Res) (s : State) (r : SplitRef) (src : Group) : Res :=
  let w := src.s a.toNat
  if portWordBad w then .trap (Exc.plain .format w) s
  else if portRemote w ∧ src.ctl.nranks ≤ portRank w then .trap (Exc.plain .access w) s
  else if portRemote w && portRank w != src.ctl.rank then
    (s.readRecord (s.cxOf r) (src.ctl.peers + BitVec.ofNat 64 (16 + 16 * portRank w)) 16).toRes s (fun b s1 =>
      if peerEntryRsvd (leNat b) then .trap (Exc.plain .format 0) s1
      else match upPort s1 (leNat b) with
      | none => .trap (Exc.plain .access w) s1
      | some p =>
        far ((s1.releaseAt r.group .system).sendFlit p (portRank w) (.post src.ctl.rank (portNum w) payload)))
  else near (s.releaseAt r.group .device)

/-- POST: the split waits for the bank's answer. -/
def postRes (gd : Guard) (a : SReg) (b : SOrH) : State → SplitRef → Group → Group → Res :=
  underQ gd (fun s r src g =>
    postRun a (payloadOf src b) (fun s1 =>
      let m : Msg := ⟨payloadOf src b, match s1.ctx r.slot with | some c => c.scopeOf g | none => none⟩
      waitRes (s1.modCtx r.slot (fun c => { c with transit := c.transit ++ [.post r (portNum (src.s a.toNat)) m] })) r .answer)
      (fun s1 => doneRes s1 r (fun x => x)) s r src)

/-- POSTQ: the answer of Table 9.2 is written to qD. -/
def postqRes (gd : Guard) (d : PReg) (a : SReg) (b : SOrH) : State → SplitRef → Group → Group → Res :=
  underQ gd (fun s r src g =>
    match s.ctx r.slot with
    | none => .stall s
    | some c =>
      if c.joinBusy r.group then .stall s
      else
        postRun a (payloadOf src b) (fun s1 =>
          let p := portNum (src.s a.toNat)
          if (c.bank (p / 256)).full (p % 256) then doneRes s1 r (fun x => x.setQ d.toNat false)
          else if c.enqd.contains p || c.heldFor p then .stall s1
          else
            let m : Msg := ⟨payloadOf src b, c.scopeOf g⟩
            doneRes (s1.modCtx r.slot (fun c => (c.enqueue p m).hold m.hold)) r (fun x => x.setQ d.toNat true))
          (fun s1 => doneRes s1 r (fun x => x.setQ d.toNat true)) s r src)

/-! ## PATLOAD -/

def portWordMalformed (w : Nat) : Bool :=
  w / 2 ^ 18 != 0 || bitsOf w 10 6 != 0 || bitsOf w 6 2 != 0 || bitsOf w 8 2 == 3

def patTerms (e : Nat) : Nat := bitsOf e 128 3 + 1
def patTerm (e k : Nat) : Nat := bitsOf e (16 * k) 16
def termPort (t : Nat) : Nat := bitsOf t 0 8
def termCount (t : Nat) : Nat := bitsOf t 8 2 + 1
def patOn (e : Nat) : Bool := e.testBit 140
def patPrio (e : Nat) : Nat := bitsOf e 136 4
def patGang (e : Nat) : Nat := bitsOf e 192 64

/-- A malformed pattern entry (R209). GANG's alignment, like its path, is asked of an entry with EN set alone, though R209's words could ask the
alignment of every entry: DESIGN CHOICE (log 53). -/
def patMalformed (e : Nat) : Bool :=
  let used := (List.range (patTerms e)).map (patTerm e)
  bitsOf e 141 51 != 0 || bitsOf e 131 5 != 0 || used.any (fun t => t / 2 ^ 10 != 0)
    || (List.range 8).any (fun k => decide (patTerms e ≤ k) && patTerm e k != 0)
    || !(used.map termPort).Nodup
    || (patOn e && (patGang e % 256 != 0 || !(patGang e / 2 ^ 60 == 0 || patGang e / 2 ^ 60 == 2)))

/-- Byte offset of the first malformed word or entry of a bank image (R212, R373). -/
def imageFault (b : List Byte) : Option Nat :=
  let word (i : Nat) : Nat := leNat ((b.drop (8 * i)).take 8)
  let entry (i : Nat) : Nat := leNat ((b.drop (2048 + 32 * i)).take 32)
  match (List.range 256).find? (fun i => portWordMalformed (word i)) with
  | some i => some (8 * i)
  | none => ((List.range 64).find? (fun i => patMalformed (entry i))).map (fun i => 2048 + 32 * i)

/-- The bank takes an image between two of its cycles; what it frees in its ports is filled (R213). -/
def Context.loadBank (c : Context) (now n : Nat) (b : List Byte) : Context :=
  let c1 := c.modBank n (fun x =>
    { x with
      ports := (List.range 256).map (fun i => BitVec.ofNat 64 (leNat ((b.drop (8 * i)).take 8)))
      patterns := (List.range 64).map (fun i => BitVec.ofNat 256 (leNat ((b.drop (2048 + 32 * i)).take 32)))
      owed := List.replicate 64 0
      failed := 0
      left := 0 })
  (List.range 256).foldl (fun acc p => acc.gainRoom now (256 * n + p)) c1

/-- PATLOAD: a descriptor read of an old pattern that waits in the fault queue waits there no longer. DESIGN CHOICE (log 50). -/
def patloadRes (gd : Guard) (a : SReg) (bank : BitVec 4) : State → SplitRef → Group → Group → Res :=
  underQ gd (fun s r src _ =>
    match s.ctx r.slot with
    | none => .stall s
    | some c =>
      let addr := src.s a.toNat
      if c.joinBusy r.group then .stall s
      else if addr.extractLsb' 0 6 ≠ 0 ∨ 2 < addrPath addr ∨ addr.extractLsb' 57 3 ≠ 0 then .trap (Exc.at .access addr) s
      else
        ((s.releaseAt r.group .device).readRecord (s.cxOf r) addr 4096).toRes s (fun b s1 =>
          match imageFault b with
          | some off => .trap (Exc.plain .format (BitVec.ofNat 64 off)) s1
          | none =>
            doneRes ((s1.withdraw (fun w => match w with
              | .fire slot n _ => slot == r.slot && n == bank.toNat
              | .split _ | .cpa _ _ _ | .record _ _ _ _ | .start _ _ | .pref _ _ _ _ _ => false)).modCtx r.slot (fun c =>
                c.loadBank s.cycles bank.toNat b)) r (fun x => x)))

/-! ## LAUNCH -/

/-- A replayable fault of the read for a start: the join die's queue takes it, with LCID zero (R425). -/
def State.suspendStart (s0 : State) (r : SplitRef) (act : Mask) (e : Exc) : State :=
  match s0.faultEnter (s0.joinDie r.slot) chanSidereal r.slot 0 e (.split r) with
  | none => s0
  | some s1 => (s1.modGroup r.group (fun g => g.closeWindows r.k)).modSplit r (fun sp =>
    { sp with st := .wait (.fault e.addr act e.straddle), exempt := false })

def launchRes (gd : Guard) (a b : SReg) (n : BitVec 8) : State → SplitRef → Group → Group → Res :=
  underQ gd (fun s r src g =>
    let addr := src.s a.toNat
    if addr.extractLsb' 0 8 ≠ 0 ∨ !(addrPath addr == 0 || addrPath addr == 2) ∨ addr.extractLsb' 57 3 ≠ 0 then
      .trap (Exc.at .access addr) s
    else
      match (s.releaseAt r.group .device).readRecord (s.cxOf r) addr 8 with
      | .wait s1 => .stall s1
      | .fault e => if e.cause = .xlate then .jump (s.suspendStart r (g.split r.k).mask e) else .trap e s
      | .ok bytes s1 =>
        let w : DWord := BitVec.ofNat 64 (leNat bytes)
        let own := match s1.ctx r.slot with
          | some c => c.scopeOf g
          | none => none
        let e : Emit := ⟨addr, (List.range n.toNat).map (fun i => src.s (b.toNat + i)), dwScope w own, dwPrio w, true, 0, false⟩
        doneRes (s1.emitRecord r.slot e) r (fun x => x))

/-! ## Finish scopes -/

/-- A request of the group to the join die: after its posts have been answered (R347). -/
def scopeRes (gd : Guard) (f : Context → State → SplitRef → Group → Res) : State → SplitRef → Group → Group → Res :=
  underQ gd (fun s r src _ =>
    match s.ctx r.slot with
    | none => .stall s
    | some c => if c.joinBusy r.group then .stall s else f c s r src)

def gangExc (tval : Nat) : Exc := Exc.plain .gang (BitVec.ofNat 64 tval)

/-- FSOPEN (R221). -/
def fsopenRes (gd : Guard) (a : SReg) : State → SplitRef → Group → Group → Res :=
  scopeRes gd (fun c s r src =>
    let w := src.s a.toNat
    let n := bitsOf w.toNat 0 8
    let p := bitsOf w.toNat 8 8
    let hasPar := w.getLsbD 16
    let isLive (k : Nat) : Bool := (c.scope k).st == ScopeSt.open || (c.scope k).st == ScopeSt.closed
    let depth := if hasPar then (c.scope p).depth + 1 else 1
    if w.extractLsb' 30 2 ≠ 0 then .trap (Exc.plain .format w) s
    else if isLive n || (hasPar && (p == n || !isLive p)) || decide (8 < depth) then .trap (gangExc n) s
    else
      let x : FScope := ⟨w.extractLsb' 32 32, 0, 0, bitsOf w.toNat 18 12, w.getLsbD 17, hasPar, p, depth, .open⟩
      doneRes (s.modCtx r.slot (fun c => (c.modScope n (fun _ => x)).hold (if hasPar then some p else none))) r (fun y => y))

/-- FSCLOSE (R223). -/
def fscloseRes (gd : Guard) (a : SOrN) : State → SplitRef → Group → Group → Res :=
  scopeRes gd (fun c s r src =>
    let n := pubBuf src a
    match (c.scope n).st with
    | .free => .trap (gangExc n) s
    | .open =>
      doneRes (s.modCtx r.slot (fun c => (c.modScope n (fun x => { x with st := .closed })).settleScope s.cycles 10 n)) r (fun x => x)
    | .closed | .done | .error => doneRes s r (fun x => x))

/-- FSWAIT (R225). -/
def fswaitRes (gd : Guard) (a : SOrN) : State → SplitRef → Group → Group → Res :=
  scopeRes gd (fun c s r src =>
    let n := pubBuf src a
    match (c.scope n).st with
    | .free => .trap (gangExc n) s
    | .done | .error => doneRes s r (fun x => x)
    | .open | .closed => waitRes s r (.scope n))

/-! ## Cohort barriers -/

def Context.cohort (c : Context) (recNum inst k : Nat) : Cohort :=
  match c.inst? recNum inst with
  | some i => regGet ⟨0, 0, 0⟩ i.cohorts k
  | none => ⟨0, 0, 0⟩

/-- Phase g is complete (R318). -/
def phaseComplete (phase g : BitVec 32) : Bool := decide ((phase - g - 1).toNat < 2 ^ 31)

/-- Groups of an instance that are members of a cohort and have not retired, by gang-wide number. DEDUCED (log 19). -/
def Context.members (c : Context) (recNum inst k : Nat) : List (GroupRef × Group) :=
  sortBy (fun x => x.2.ctl.number) (c.groups.filter (fun x =>
    x.2.ctl.recNum == recNum && x.2.ctl.ganginst == inst && x.2.ctl.cohorts.contains (some k) && !x.2.ctl.retired))

/-- The scope of a cohort barrier: CORE when every member is on one logical core, else DIE (R319). -/
def Context.cohortScope (c : Context) (g : Group) (k lcid : Nat) : Scope :=
  if (c.members g.ctl.recNum g.ctl.ganginst k).all (fun x => x.1.lcid == lcid) then .core else .die

/-- Arrive with the active lanes: GANG for an invalid slot or a second arrival; else the phase arrived at. -/
def arriveRes (gd : Guard) (k : BitVec 2) (f : State → SplitRef → Nat → BitVec 32 → Mask → Res) (s : State) (r : SplitRef)
    (src g : Group) : Res :=
  let act := src.active r.k gd
  match g.cohortOf k.toNat, s.ctx r.slot with
  | some c, some ctx =>
    let again := act &&& g.arrivedIn k.toNat
    let phase := (ctx.cohort g.ctl.recNum g.ctl.ganginst c).phase
    if again ≠ 0 then .trap (Exc.plain .gang (again.setWidth 64)) s
    else
      let s1 := (s.releaseAt r.group (ctx.cohortScope g c r.lcid)).modCtx r.slot (fun x =>
        (x.modGroup r.group (fun y => { y with ctl := { y.ctl with
          arrived := regMod y.ctl.arrived k.toNat (fun m => m ||| act) } })).modCohort g.ctl.recNum g.ctl.ganginst c
            (fun y => ({ y with arrived := y.arrived + maskCount act }).settle))
      f s1 r c phase act
  | _, _ => .trap (gangExc 0) s

/-- Wait for a phase of a cohort, or go on. -/
def phaseRes (s : State) (r : SplitRef) (g : Group) (c : Nat) (phase : BitVec 32) : Res :=
  match s.ctx r.slot with
  | none => .stall s
  | some ctx =>
    if phaseComplete (ctx.cohort g.ctl.recNum g.ctl.ganginst c).phase phase then doneRes s r (fun x => x)
    else waitRes s r (.cohort c phase)

def barRes (gd : Guard) (k : BitVec 2) (s : State) (r : SplitRef) (src g : Group) : Res :=
  arriveRes gd k (fun s1 r c phase act => if act = 0 then doneRes s1 r (fun x => x) else phaseRes s1 r g c phase) s r src g

def bararrRes (gd : Guard) (d : SReg) (k : BitVec 2) (s : State) (r : SplitRef) (src g : Group) : Res :=
  arriveRes gd k (fun s1 r _ phase _ => doneRes s1 r (fun x => x.setS d.toNat (phase.setWidth 64))) s r src g

def barwaitRes (gd : Guard) (k : BitVec 2) (b : SReg) : State → SplitRef → Group → Group → Res :=
  underQ gd (fun s r src g =>
    match g.cohortOf k.toNat with
    | none => .trap (gangExc 0) s
    | some c => phaseRes s r g c (low32 (src.s b.toNat)))

/-! ## REGROUP -/

/-- The split of a group that waits at a rendezvous, with its predicate. -/
def Group.atRegroup (g : Group) : Option (Nat × PReg) :=
  g.usedSplits.findSome? (fun k => match (g.split k).st with
    | .wait (.regroup _ p) => some (k, p)
    | _ => none)

/-- A position of a rendezvous: its member and lane, whether the lane is live and whether its predicate is true. -/
structure RegroupLane where
  g    : Group
  lane : Nat
  live : Bool
  yes  : Bool

/-- The positions in list order and the order in which lanes fill them (R49). DEDUCED (log 19). -/
def regroupPlaces (ms : List (GroupRef × Group)) : List RegroupLane :=
  ms.flatMap (fun x => laneIds.map (fun j =>
    ⟨x.2, j, Mask.has x.2.ctl.live j, match x.2.atRegroup with | some y => Mask.has (x.2.p y.2.toNat) j | none => false⟩))

def regroupSeq (ps : List RegroupLane) : List RegroupLane :=
  ps.filter (fun p => p.live && p.yes) ++ ps.filter (fun p => p.live && !p.yes) ++ ps.filter (fun p => !p.live)

/-- A lane's outstanding results and unfinished CPA copies (R49). -/
def Group.laneBusy (g : Group) (j : Nat) : Bool :=
  g.inflight.any (fun p => p.vecs.any (fun d => Mask.has d.mask j)) ||
    !((g.batch j).current.isEmpty && (g.batch j).sealed.isEmpty)

/-- The lanes that a rendezvous moves have no outstanding result or copy, and no LDLINES is to write the position they move to. -/
def regroupIdle (ps seq : List RegroupLane) : Bool :=
  (ps.zip seq).all (fun x => !x.2.live || (x.1.lane == x.2.lane && x.1.g.ctl.number == x.2.g.ctl.number) ||
    (!x.2.g.laneBusy x.2.lane && !x.1.g.inflight.any (fun p => p.vecs.any (fun d => d.all))))

/-- The lanes `seq` taken up by a member group: their registers, predicates, LORIGIN, batches and arrival marks. -/
def Group.takeLanes (g : Group) (seq : List RegroupLane) (cals : List Caliper) : Group :=
  let at_ (j : Nat) : RegroupLane := (seq[j]?).getD ⟨g, j, false, false⟩
  let live := Mask.ofFn (fun j => (at_ j).live)
  { g with
    vregs := (List.range g.vregs.length).map (fun r => perLane (fun j => (at_ j).g.v r (at_ j).lane))
    cals := cals
    pregs := (List.range g.pregs.length).map (fun r => Mask.ofFn (fun j => Mask.has (regGet 0 (at_ j).g.pregs r) (at_ j).lane))
    batches := laneIds.map (fun j => (at_ j).g.batch (at_ j).lane)
    ctl := { g.ctl with
      live := live
      lorigin := perLane (fun j => regGet 0 (at_ j).g.ctl.lorigin (at_ j).lane)
      arrived := (List.range 4).map (fun k => Mask.ofFn (fun j => Mask.has ((at_ j).g.arrivedIn k) (at_ j).lane)) } }

/-- The member's split goes on with its live positions, or the member retires. -/
def State.regroupResume (s : State) (r : GroupRef) (k : Nat) (pc : DWord) (old : Mask) : State :=
  match s.group? r with
  | none => s
  | some g =>
    let sr : SplitRef := ⟨r.slot, r.lcid, r.gh, k⟩
    let s1 := s.traceAt sr pc { type := 4, kind := 3, w := old ++ g.ctl.live }
    if g.ctl.live = 0 then
      (s1.modGroup r (fun x => (x.modSplit k (fun sp => { sp with mask := 0 })).maskEmpty k s.cycles)).retireGroup r
    else s1.modGroup r (fun x => x.modSplit k (fun sp => { sp with mask := g.ctl.live, ovr := [] }.release s.cycles))

/-- The rendezvous of a cohort completes when every member with a live lane has reached it and its moving lanes are idle. -/
def State.regroupTry (s : State) (slot recNum inst c : Nat) : State :=
  match s.ctx slot with
  | none => s
  | some ctx =>
    let ms := ctx.members recNum inst c
    let ps := regroupPlaces ms
    let seq := regroupSeq ps
    let here (x : GroupRef × Group) : Bool :=
      match x.2.atRegroup with
      | some (k, _) => x.2.ctl.cohorts.contains (some c) && match (x.2.split k).st with
        | .wait (.regroup slot _) => x.2.cohortOf slot == some c
        | _ => false
      | none => false
    if ms.isEmpty || !ms.all here || !regroupIdle ps seq then s
    else
      let budget := ms.foldl (fun n x => max n x.2.cals.length) 0
      let cals := (List.range budget).map (fun r =>
        match ms with
        | [] => none
        | x :: xs => xs.foldl (fun acc y => hull acc (y.2.cal r)) (x.2.cal r))
      let s1 := ms.zipIdx.foldl (fun acc x =>
        acc.modGroup x.1.1 (fun g => g.takeLanes ((seq.drop (32 * x.2)).take 32) cals)) s
      ms.foldl (fun acc x =>
        match x.2.atRegroup with
        | some (k, _) => acc.regroupResume x.1 k (x.2.split k).pc (x.2.split k).mask
        | none => acc) s1

/-- REGROUP k, pN: the causes of R48 in order, then the rendezvous. -/
def regroupRes (k : BitVec 2) (p : PReg) (word : DWord) (s : State) (r : SplitRef) (_src g : Group) : Res :=
  if (g.split r.k).mask ≠ g.ctl.live ∨ (g.split r.k).div.depth ≠ 0 then .trap (Exc.plain .convergence word) s
  else match g.cohortOf k.toNat, s.ctx r.slot with
    | some c, some ctx =>
      let ms := ctx.members g.ctl.recNum g.ctl.ganginst c
      if ms.any (fun x => x.1.lcid != r.lcid || x.2.ctl.budget != g.ctl.budget || x.2.ctl.cohorts != g.ctl.cohorts) then
        .trap (gangExc 0) s
      else
        .jump ((s.done r (fun x => x.modSplit r.k (Split.await (.regroup k.toNat p)))).regroupTry r.slot g.ctl.recNum
          g.ctl.ganginst c)
    | _, _ => .trap (gangExc 0) s

end Sys2Proof.Machine
end

