-- ==== Sys2Proof/Machine/Hazards.lean ====
section
/-! DEFINITION. Hazards.lean: which registers an instruction names for the lookahead wait and the interlocks (04 R95, R96, 19
R388): uniform registers and predicates read and written, vector registers written, and vector registers read across lanes. -/

namespace Sys2Proof.Machine

open Sys2Proof

/-- Uniform registers and predicates by number; vector blocks as first register and count. -/
structure RegUse where
  sR : List Nat := []
  qR : List Nat := []
  sW : List Nat := []
  qW : List Nat := []
  vW : List (Nat × Nat) := []
  xR : List (Nat × Nat) := []

def RegUse.join (a b : RegUse) : RegUse :=
  ⟨a.sR ++ b.sR, a.qR ++ b.qR, a.sW ++ b.sW, a.qW ++ b.qW, a.vW ++ b.vW, a.xR ++ b.xR⟩

def useS (r : SReg) : RegUse := { sR := [r.toNat] }
/-- A uniform guard. -/
def useQ (g : Guard) : RegUse := { qR := [g.pred.toNat] }
def useSrc : Src → RegUse
  | .s r => useS r
  | .v _ => {}
  | .imm _ => {}
/-- A destination with the guard its place selects (R84). -/
def useDst (g : Guard) (wide : Bool) : Dst → RegUse
  | .v r => { vW := [(r.toNat, if wide then 2 else 1)] }
  | .s r => { sW := [r.toNat], qR := [g.pred.toNat] }
def useV (r : VReg) (n : Nat) : RegUse := { vW := [(r.toNat, n)] }
def useX (r : VReg) (n : Nat) : RegUse := { xR := [(r.toNat, n)] }
/-- A vector source that the cross-lane rule holds for (R388); a uniform one is read as usual. -/
def useSrcX : Src → RegUse
  | .s r => useS r
  | .v r => useX r 1
  | .imm _ => {}
def usePSrc (p : PSrc) : RegUse := if p.uni then { qR := [p.p.toNat] } else {}
def useSOrN : SOrN → RegUse
  | .s r => useS r
  | .n _ => {}
def useMOp : MOperand → RegUse
  | .regs _ => {}
  | .sp r => { sR := [r.toNat, r.toNat + 1] }
def usePair (r : SReg) : RegUse := { sR := [r.toNat, r.toNat + 1] }
def pairLen (wide : Bool) : Nat := if wide then 2 else 1

def useBin (o : Bin) : RegUse := ((useDst o.g o.ty.wide o.d).join (useSrc o.a)).join (useSrc o.b)
def useUn (o : Un) : RegUse := (useDst o.g o.ty.wide o.d).join (useSrc o.a)
def useTern (o : Tern) : RegUse := (((useDst o.g o.ty.wide o.d).join (useSrc o.a)).join (useSrc o.b)).join (useSrc o.c)
def useFBin (d : VReg) (ty : FTy) (a b : Src) : RegUse := ((useV d (pairLen ty.wide)).join (useSrc a)).join (useSrc b)
def useSfu (o : SfuOp) : RegUse := (useV o.d 1).join (useSrc o.a)
/-- S-format instructions with a uniform guard that read some uniform registers. -/
def useUni (g : Guard) (rs : List SReg) : RegUse := { sR := rs.map (fun r => r.toNat), qR := [g.pred.toNat] }

/-- Registers of a data block at `d` of a memory instruction whose array register is `arr`. -/
def blockLen (g : Group) (arr : AReg) (n : NElem) : Nat := NElem.count n * elemRegs (eszBits (arEsz (g.a arr.toNat)))

def usePlop : PlopOp → RegUse
  | .and a b | .or a b | .xor a b | .andn a b => (usePSrc a).join (usePSrc b)
  | .not a | .mov a => usePSrc a
  | .sel a b c => ((usePSrc a).join (usePSrc b)).join (usePSrc c)
  | .setm a => useS a

/-- The registers an instruction names. -/
def usesOf (g : Group) : Instr → RegUse
  | .aget gd d _ => (useUni gd []).join { sW := (List.range 4).map (fun i => d.toNat + i) }
  | .aoff gd _ _ b => useUni gd [b]
  | .aset gd _ a => (useUni gd []).join { sR := (List.range 4).map (fun i => a.toNat + i) }
  | .and o | .or o | .xor o | .andn o | .iadd o | .isub o | .imul o | .imulh o | .imin o | .imax o | .shl o | .shr o
  | .shra o => useBin o
  | .not o | .brev o | .clz o | .popc o | .iabs o | .ineg o => useUn o
  | .bfi o | .bfx o | .imad o => useTern o
  | .atom o => useV o.d (pairLen o.ty.wide)
  | .cas o => useV o.d (pairLen o.ty.wide)
  | .red _ => {}
  | .bar _ _ => {}
  | .bararr _ d _ => { sW := [d.toNat] }
  | .barwait gd _ b => useUni gd [b]
  | .bcast o => ((useV o.d (pairLen o.ty.wide)).join (useX o.a (pairLen o.ty.wide))).join (useSrc o.b)
  | .bkpt gd _ => useUni gd []
  | .bra _ _ => {}
  | .brc _ _ _ b _ => useSrc b
  | .breakl _ => {}
  | .brx _ o => (match o with
    | .vec _ _ => {}
    | .uni a _ => useS a
    | .full a => useS a)
  | .calget gd d _ => (useUni gd []).join { sW := [d.toNat] }
  | .calset gd _ a => useUni gd [a]
  | .caltop gd _ => useUni gd []
  | .call _ o => (match o with
    | .direct _ => {}
    | .reg a => useS a)
  | .conflict o | .conflictAll o => useV o.d 1
  | .cpa _ => {}
  | .cpseal _ => {}
  | .cpwait _ _ => {}
  | .cvt o => (useV o.d (pairLen o.dst.wide)).join (useSrc o.a)
  | .cvtn o => (useV o.d 1).join (useSrc o.a)
  | .cvtw o => (useV o.d 1).join (useSrc o.a)
  | .exit _ => {}
  | .fadd o | .fsub o | .fmul o => useFBin o.d o.ty o.a o.b
  | .ffma o => (useFBin o.d o.ty o.a o.b).join (useSrc o.c)
  | .fmin o | .fmax o => useFBin o.d o.ty o.a o.b
  | .fclass o => (useV o.d 1).join (useSrc o.a)
  | .fcmp o => (useSrc o.a).join (useSrc o.b)
  | .frcp o | .frsq o | .fsqrt o | .fexp2 o | .flog2 o | .fsin o | .fcos o | .ftanh o => useSfu o
  | .fence gd _ _ | .fenceEngRel gd _ => useUni gd []
  | .fill o => useV o.d 1
  | .spill _ => {}
  | .fsopen gd a => useUni gd [a]
  | .fsclose gd a | .fswait gd a => (useUni gd []).join (useSOrN a)
  | .gshuf o =>
    let w := elemRegs (eszBits (arEsz (g.a o.arr.toNat)))
    (useV o.d w).join { xR := [(o.d.toNat + w, o.n1.toNat + 1)] }
  | .gtimer gd a => useUni gd [a]
  | .gtimerGet gd d => (useUni gd []).join { sW := [d.toNat] }
  | .hwait gd _ => useUni gd []
  | .htest gd d _ => (useUni gd []).join { sW := [d.toNat] }
  | .hcancel gd _ => useUni gd []
  | .icmp o =>
    ((if o.uni then { qW := [o.d.toNat], qR := [o.g.pred.toNat] } else {} : RegUse).join (useSrc o.a)).join (useSrc o.b)
  | .kick gd _ a _ => useUni gd [a]
  | .launch gd a b n => (useUni gd [a]).join { sR := (List.range n.toNat).map (fun i => b.toNat + i) }
  | .ld o | .ldp o => useV o.d (blockLen g o.arr o.n)
  | .ldu o => (useUni o.g [o.x]).join { sW := [o.d.toNat] }
  | .lds o => useV o.d (spRegs o.size * NElem.count o.n)
  | .ldlines o => ((useUni o.g []).join (useV o.d (o.n1.toNat + 1))).join { qW := [6] }
  | .lea o => ((useDst o.g o.ty.wide o.d).join (useSrc o.a)).join (useSrc o.b)
  | .loop a _ => useS a
  | .loopEnd => {}
  | .merid gd d | .meridDev gd d => (useUni gd []).join { sW := [d.toNat] }
  | .mld o =>
    let f0 := g.s o.f.toNat
    (((useUni o.g []).join (usePair o.a)).join (usePair o.f)).join
      (useV o.d (operandRegs (if o.opB then f0.extractLsb' 8 8 else f0.extractLsb' 0 8)))
  | .mma o | .mmaZ o =>
    ((((useUni o.g []).join (useMOp o.a)).join (useMOp o.b)).join (usePair o.f)).join (useV o.d (accRegs (g.s o.f.toNat)))
  | .mst o | .mstSum o => ((useUni o.g []).join (usePair o.a)).join (usePair o.f)
  | .mov gd o => (match o with
    | .reg d a ty => (useDst gd ty.wide d).join (useSrc a)
    | .toHandle _ a => useUni gd [a]
    | .fromHandle d _ => (useUni gd []).join { sW := [d.toNat] })
  | .movi gd d _ => useDst gd false d
  | .moviHi gd d _ => (useUni gd [d]).join { sW := [d.toNat] }
  | .nop _ => {}
  | .pack o => useV o.d (packRegs o.fmt).2
  | .unpack o => useV o.d (packRegs o.fmt).1
  | .park gd => useUni gd []
  | .patload gd a _ => useUni gd [a]
  | .plop gd uni d o => (if uni then { qW := [d.toNat], qR := [gd.pred.toNat] } else {} : RegUse).join (usePlop o)
  | .post gd a b => (useUni gd [a]).join (match b with
    | .s r => useS r
    | .h _ => {})
  | .postq gd d a b => ((useUni gd [a]).join { qW := [d.toNat] }).join (match b with
    | .s r => useS r
    | .h _ => {})
  | .pref _ => {}
  | .publish gd a _ => (useUni gd []).join (useSOrN a)
  | .qscale o => { sW := [o.d.toNat] }
  | .reconv => {}
  | .redux o => { sW := [o.d.toNat] }
  | .regroup _ _ _ => {}
  | .ret _ => {}
  | .rte | .rteNext => {}
  | .scan o => (useV o.d (pairLen o.ty.wide)).join (useX o.a (pairLen o.ty.wide))
  | .segred o => ((useV o.d (pairLen o.ty.wide)).join (useX o.a (pairLen o.ty.wide))).join (useX o.b 1)
  | .sel o => (((useDst o.g o.ty.wide o.d).join (useSrc o.a)).join (useSrc o.b)).join (usePSrc o.c)
  | .shfl o => ((useV o.d (pairLen o.ty.wide)).join (useX o.a (pairLen o.ty.wide))).join (useSrcX o.b)
  | .srd gd o => (match o with
    | .uni d _ => (useUni gd []).join { sW := [d.toNat] }
    | .vec d _ => useV d 1)
  | .st _ | .stp _ | .sts _ => {}
  | .stu o => useUni o.g [o.d, o.x]
  | .swr gd _ a => useUni gd [a]
  | .tagfind gd d a => (useUni gd [a]).join { sW := [d.toNat] }
  | .tagwaitAny gd a | .tagwaitAll gd a => useUni gd [a]
  | .tbinit gd a b | .tbarriveTx gd a b | .tbexpect gd a b | .tbwait gd a b => useUni gd [a, b]
  | .tbarrive gd a => useUni gd [a]
  | .tracemark gd a => useUni gd [a]
  | .trap gd _ => useUni gd []
  | .vote _ _ o => (match o with
    | .any d _ | .all d _ | .uni d _ => { qW := [d.toNat] }
    | .ballot d _ => { sW := [d.toNat] })
  | .widenTrap _ d a b | .widenClamp _ d a b => ((useV d 1).join (useS a)).join (useS b)
  | .yield => {}
  | .clauseStart _ | .longLatencyCompletion _ _ | .loadCompletion _ _ | .matrixCompletion _ _ | .storeQueueDrain _
  | .messageArrival _ _ | .bankCycle _ _ | .gangRecordTake _ _ | .instancePlacement _ _ | .queueHeadStarvation _ _
  | .bindRecordDispatch _ | .issueAgeBoost _ | .instanceRetirement _ _ _ | .cpaCopyCompletion _ _ _
  | .recordStart _ _ _ _ | .recordCompletion _ _ _ _ | .recordFailure _ | .publishFlip _ _ | .timerExpiry _
  | .haltPropagation _ | .haltrel _ _ _ | .sliceEnd _ | .switchOut _ _ | .switchIn _ _ | .preemption _ _
  | .fqrespReplay _ _ | .fqrespFail _ _ | .xlinvCommand _ _ _ | .xlinvCompletion _ | .compressFrame _ _ _
  | .freeRecord _ _ _ | .tierCommandCompletion _ _ | .framePush _ _ _ | .tierRegionWrite _ _ _
  | .backgroundPull _ _ _ | .pageMoveStart _ _ _ | .pageMoveCompletion _ _ | .placementPolicyPass _
  | .pinCountHalving _ | .l2cfgWrite _ _ | .unpin _ | .mailboxWrite _ _ | .hostBar4Access _ _ _
  | .ringusFlitArrival _ _ _ | .drainRequestArrival _ _ | .drainMarkerArrival _ _ | .drainTimeout _ _
  | .resumeMarkerArrival _ _ | .meridianSync _ | .parkRequest _ _ | .parkCapture _ | .resumeRequest _ _
  | .contextCreate | .contextDestroy _ | .deviceReset | .functionReady _ | .attestationRequest | .clockStep _
  | .thermalLimit | .thermalShutdown | .freezeArm | .freeze | .debugStop _ _ | .debugResume _ _
  | .contextHalt _ _ | .traceSync _ _ | .elogClear _ | .eventCountRead _ _ _ | .topdownTotalRead _ _ _ _
  | .faultRingConfigWrite _ _ _ | .registerWrite _ _ | .linkPortDown _ | .resumeEnd _ _ | .contextCommandEnd
  | .attestationReportEnd | .debugStopPropagation _ | .flitRetry _ _ | .scrub _ => {}

/-- The vector registers that an instruction names: with the data blocks of LD, ST and their kin. -/
def namedBlocks (g : Group) (i : Instr) : List (Nat × Nat) :=
  i.vecBlocks g ++ (usesOf g i).vW ++ (match i with
    | .st o | .stp o => [(o.d.toNat, blockLen g o.arr o.n)]
    | _ => [])

/-! ## The waits -/

/-- A vector result of an open instruction lies in one of some blocks. -/
def inBlocks (bs : List (Nat × Nat)) (d : VecDest) : Bool := bs.any (fun b => decide (b.1 ≤ d.reg) && decide (d.reg < b.1 + b.2))

/-- A uniform result is among some registers and predicates. -/
def inUnis (s q : List Nat) : UniDest → Bool
  | .s r _ => s.contains r
  | .q r _ => q.contains r

/-- The lookahead wait: a closed window of the split (R95), or results due in its lanes from an instruction that it took over
from another entry. -/
def Group.lookWait (g : Group) (k : Nat) (p : Pending) : Bool :=
  let isOpen := match p.window with
    | some n => decide (0 < n)
    | none => false
  if p.split = k then !(p.vecs.isEmpty && p.unis.isEmpty) && !isOpen
  else p.vecs.any (fun d => d.mask &&& (g.split k).mask != 0)

/-- The interlocks of R96 and R388. -/
def Group.interlock (_g : Group) (k : Nat) (u : RegUse) (p : Pending) : Bool :=
  p.vecs.any (inBlocks u.xR) ||
    (if p.split = k then p.vecs.any (inBlocks u.vW) || p.unis.any (inUnis u.sW u.qW)
     else p.unis.any (inUnis (u.sW ++ u.sR) (u.qW ++ u.qR)))

/-- SRD and SWR of FFLAGS wait for every long-latency instruction of the group (R96, R399). -/
def namesFlags : Instr → Bool
  | .srd _ (.uni _ n) => n == 0x11
  | .swr _ n _ => n == 0x11
  | _ => false

/-- What the instruction waits for: the lookahead wait (leaf 7) or an interlock (leaf 8), if any (Table 15.6a). -/
def Group.hazard (g : Group) (k : Nat) (i : Instr) : Option Nat :=
  if g.inflight.any (g.lookWait k) then some 7
  else if (namesFlags i && !g.inflight.isEmpty) || g.inflight.any (g.interlock k (usesOf g i)) then some 8
  else none

end Sys2Proof.Machine
end

