-- ==== Sys2Proof/Machine/Issue.lean ====
section
/-! DEFINITION. Issue.lean: when a clause starts (04 R76 to R80, 11 R254), merging at a header (02 R33), and what the device does
between choosing a split and running its instruction: refill (02 R40), TIMER (12 R268), fetch (04 R75), comparators (15 R302),
the checks of 04 R85, the waits of 04 R95 and R96. -/

namespace Sys2Proof.Machine

open Sys2Proof

/-! ## Words -/

/-- The CLASSES bit an instruction word needs (Table 4.5, R80); none for control, sync and system instructions. -/
def wordClass (w : DWord) : Option Nat :=
  let m := (wordMaj w).toNat
  if m < 0x10 ∨ 0xD0 ≤ m then none
  else if m = 0x58 ∨ m = 0x65 ∨ (0x70 ≤ m ∧ m ≤ 0x78) then some 1
  else if 0x90 ≤ m ∧ m < 0xC0 then some 2
  else if 0xC0 ≤ m then some 3
  else some 0

/-- A clause-ending instruction by its encoding (Table 4.3, R81). -/
def endsClause (w : DWord) : Bool :=
  let m := (wordMaj w).toNat
  (decide (2 ≤ m) && decide (m ≤ 9)) || m == 0x0B || m == 0x78 || m == 0xB1 || m == 0xB2 || m == 0xB4 || m == 0xB6 || m == 0xBC
    || m == 0xD0 || m == 0xD6 || (m == 0xD7 && bitsOf w.toNat 0 5 != 1) || m == 0xE5 || m == 0xE7

/-- The instruction of a word at a place of its clause: the checks of R80, R81 and R85 but for the block sizes; none raises ILLEGAL. -/
def wordForm (c : Clause) (pos : Nat) (w : DWord) : Option Instr :=
  let classOk := match wordClass w with
    | some b => c.classes.getLsbD b
    | none => true
  if !classOk || (endsClause w && pos != c.count) then none
  else match decode w with
    | .ok i => some i
    | .error _ => none

/-- The instruction of a word at a place of its clause, for a group: R80, R81 and R85; none raises ILLEGAL. -/
def wordInstr (g : Group) (c : Clause) (pos : Nat) (w : DWord) : Option Instr := (wordForm c pos w).filter (fun i => i.fitsBudget g)

/-- An instruction that makes the check of R70: a code comparator meets it after the check (R302). -/
def checksArray : Instr → Bool
  | .ld _ | .ldp _ | .ldu _ | .st _ | .stp _ | .stu _ | .atom _ | .red _ | .cas _ | .cpa _ | .gshuf _ => true
  | _ => false

/-! ## Clause-start conditions (R79) -/

def hwaitRegs (h : DWord) : List Nat := (List.range 8).filter (fun k => (hdrHwait h).getLsbD k)

/-- WAITCLS for split `k`. -/
def State.classesDone (s : State) (r : SplitRef) (g : Group) (h : DWord) : Bool :=
  let w := hdrWaitcls h
  let mine (u : Unit3) : Bool := g.inflight.any (fun p => p.split == r.k && p.kind == u && (u == .matrix || !(p.vecs.isEmpty && p.unis.isEmpty)))
  let copies : Bool := (s.lc r.slot r.lcid).cpas.any (fun c =>
    c.gh == r.gh && c.recNum == g.ctl.recNum && c.ganginst == g.ctl.ganginst && Mask.has (g.split r.k).mask c.lane)
  !(w.getLsbD 0 && mine .load) && !(w.getLsbD 1 && !g.storeQ.isEmpty) && !(w.getLsbD 2 && mine .matrix) && !(w.getLsbD 3 && copies)

/-- The handles that HWAIT selects are not pending. -/
def State.handlesDone (s : State) (slot : Nat) (g : Group) (h : DWord) : Bool :=
  (hwaitRegs h).all (fun k => s.handleSt slot (g.h k) != .pending)
def State.handleFailed (s : State) (slot : Nat) (g : Group) (h : DWord) : Bool :=
  (hwaitRegs h).any (fun k => s.handleSt slot (g.h k) == .failed)

def hdrGood (h : DWord) : Bool := hdrMaj h == 1 && !hdrRsvd h

/-- The conditions of a header hold for a split at POS 0; a malformed header, or a FAILED handle, lets the start raise its
cause. -/
def State.hdrMet (s : State) (r : SplitRef) (g : Group) (h : DWord) : Bool :=
  !hdrGood h || s.handleFailed r.slot g h || (s.handlesDone r.slot g h && s.classesDone r g h)

/-- A header as the quadrant sees it while it chooses; none while it cannot be read. -/
def State.hdrPeek (s : State) (slot : Nat) (pc : DWord) : Option DWord :=
  if !pcOk pc then none
  else match s.peek slot (bitsOf (pcHdr pc).toNat 0 57) .fetch with
    | some pa => if s.poisoned pa 8 then none else some (BitVec.ofNat 64 (leNat (s.homeRead pa 8)))
    | none => none

/-- R79: a READY split's conditions, as far as its header can be seen. A split at POS 1 to 15 goes on without them (R82). -/
def State.conditionsMet (s : State) (r : SplitRef) (g : Group) : Bool :=
  let pc := (g.split r.k).pc
  if pcPos pc ≠ 0 then true
  else match s.hdrPeek r.slot pc with
    | some h => s.hdrMet r g h
    | none => true

/-! ## Residency -/

/-- Every logical core of a group's instance is on a working core (R41, R256). -/
def Context.instPlaced (c : Context) (g : Group) : Bool :=
  match c.instOf g with
  | some i => i.lcids.all (fun l => (c.lc l).placed.isSome)
  | none => false

/-- A group can issue: its instance has started whole, its context is neither parking nor ending, its logical core and those of
its instance are on working cores, and the core clock runs. -/
def State.groupRuns (s : State) (r : GroupRef) (g : Group) : Bool :=
  g.ctl.eligible && !g.ctl.retired && s.clocked && (s.lc r.slot r.lcid).placed.isSome &&
    (match s.ctx r.slot with
     | some c => c.park == .none && !c.destroying && c.instPlaced g
     | none => false)

/-- A skid that is used up: cycles or instructions. -/
def skidOver (x : Option (Nat × Nat)) : Bool := match x with
  | some y => y.1 == 0 || y.2 == 0
  | none => false

/-- The cycles of a skid are used up: its split stops before the next one. -/
def skidLate (x : Option (Nat × Nat)) : Bool := match x with
  | some y => y.1 == 0
  | none => false

/-- A split that no halt and no debug stop keeps from issuing. -/
def Split.unstopped (sp : Split) : Bool := !sp.dstopped && !skidOver sp.skid && !skidOver sp.dskid

def State.quadOf (s : State) (r : GroupRef) (g : Group) : Quad :=
  match (s.lc r.slot r.lcid).placed with
  | some p => regGet ⟨none, 0⟩ ((s.die p.1).core p.2).quads g.ctl.quad
  | none => ⟨none, 0⟩

/-- The quadrant has a slot left in this core cycle. -/
def State.slotFree (s : State) (r : GroupRef) (g : Group) : Bool := (s.quadOf r g).taken.isNone && (s.quadOf r g).insert == 0

/-! ## Choosing a split (R254) -/

/-- The groups of a quadrant that run. -/
def State.quadGroups (s : State) (slot lcid quad : Nat) : List (GroupRef × Group) :=
  match s.ctx slot with
  | some c => c.groups.filter (fun x => x.1.lcid == lcid && x.2.ctl.quad == quad && s.groupRuns x.1 x.2)
  | none => []

/-- A READY split that the quadrant may choose, with its order: lists of numbers compared in turn, the least first. -/
structure Candidate where
  r   : SplitRef
  key : List Nat
deriving DecidableEq, Repr

def candidateKey (g : Group) (r : SplitRef) : List Nat :=
  let sp := g.split r.k
  [if sp.boosted then 0 else 1, if sp.boosted then 0 else 7 - g.ctl.cls, sp.age.getD 0, if sp.yielded then 1 else 0, r.gh, r.k]

def State.candidates (s : State) (slot lcid quad : Nat) : List Candidate :=
  (s.quadGroups slot lcid quad).flatMap (fun x =>
    ((x.2.usedSplits.map (fun k => (⟨slot, lcid, x.1.gh, k⟩ : SplitRef))).filter (fun r =>
      (x.2.split r.k).st == .ready && (x.2.split r.k).unstopped && s.conditionsMet r x.2)).map (fun r => ⟨r, candidateKey x.2 r⟩))

def keyLess : List Nat → List Nat → Bool
  | [], _ => false
  | _ :: _, [] => false
  | a :: as, b :: bs => decide (a < b) || (a == b && keyLess as bs)

def firstCandidate : List Candidate → Option Candidate
  | [] => none
  | c :: cs =>
    match firstCandidate cs with
    | none => some c
    | some d => if keyLess d.key c.key then some d else some c

/-- A split of the quadrant is inside a clause, or on its way into its handler. -/
def State.quadHeld (s : State) (slot lcid quad : Nat) : Bool :=
  (s.quadGroups slot lcid quad).any (fun x => x.2.usedSplits.any (fun k => (x.2.split k).st == .issuing))

/-- The split that a quadrant chooses next. -/
def State.chosen (s : State) (slot lcid quad : Nat) : Option SplitRef :=
  if s.quadHeld slot lcid quad then none else (firstCandidate (s.candidates slot lcid quad)).map (fun c => c.r)

/-! ## Starting a clause -/

/-- A replayable cause met by the refill, the header or the word that comes before an instruction: the exemption of that instruction's first
issue is still to come (R302). -/
def State.raiseBefore (s0 s : State) (r : SplitRef) (sp : Split) (e : Exc) : State :=
  (s0.raise s r sp.mask e).modSplit r (fun y => if y.waiting (fun w => match w with
    | .fault _ _ _ => true
    | _ => false) then { y with exempt := sp.exempt } else y)

/-- The split's PC names the start of a clause that it could not enter; TPC holds it, and TVAL the target or the header (R78). -/
def State.badTarget (s : State) (r : SplitRef) (g : Group) (e : DWord → Exc) : State :=
  let pc := atPosZero (g.split r.k).pc
  let s1 := s.modGroup r.group (fun x =>
    { x with trap := { x.trap with tpc := pc, tval := (e pc).tval } }.modSplit r.k (fun sp => { sp with pc := pc }))
  s1.raise s1 r (g.split r.k).mask (e pc)

/-- Enter the clause at the split's PC: R76, R78 and the conditions of R79, which leave it READY while unmet. Where falling through at the end
of a clause, RECONV or the end of a wait comes to an address whose bits [59:56] are not zero, which R75 forbids a header, the split enters the
clause of the wrapped header at that position: DESIGN CHOICE (log 43). -/
def State.startClause (s : State) (r : SplitRef) : State :=
  match s.group? r.group with
  | none => s
  | some g =>
    let sp := g.split r.k
    if !pcOk sp.pc then s.badTarget r g (fun pc => Exc.at .target pc)
    else match s.fetch (s.cxOf r) (pcHdr sp.pc) with
      | .wait s1 => s1
      | .fault e => s.raiseBefore s r sp e
      | .ok h s1 =>
        if hdrMaj h ≠ 1 then s1.badTarget r g (fun pc => Exc.at .target pc)
        else if hdrRsvd h then s1.badTarget r g (fun _ => Exc.plain .illegal h)
        else if hdrCount h < pcPos sp.pc then s1.badTarget r g (fun pc => Exc.at .target pc)
        else if pcPos sp.pc = 0 ∧ s1.handleFailed r.slot g h then s1.raise s1 r sp.mask failedHandle
        else if pcPos sp.pc = 0 ∧ !s1.hdrMet r g h then s1.modSplit r (fun x => { x with st := .ready, age := none })
        else s1.modSplit r (fun x =>
          { x with st := .issuing, clause := some ⟨h, hdrClasses h, hdrCount h, hdrYield h⟩, age := none, boosted := false, yielded := false })

/-- READY splits of the group at the same header with equal stack state (R33). -/
def Group.meeting (g : Group) (k : Nat) : List Nat :=
  g.usedSplits.filter (fun j => j != k && (g.split j).st == .ready && (g.split j).pc == (g.split k).pc
    && pcPos (g.split k).pc == 0 && g.mayMerge j k && (g.split j).unstopped)

/-- Merge them with `k`; the lowest entry survives, and each merge writes its packet (R309). -/
def State.mergeMeeting (s : State) (r : SplitRef) : List Nat → SplitRef × State
  | [] => (r, s)
  | j :: js =>
    match s.group? r.group with
    | none => (r, s)
    | some g =>
      let a := min r.k j
      let b := max r.k j
      let g1 := g.merge a b
      let ra := { r with k := a }
      let s1 := (s.setGroup r.group g1).traceMask ra (g.split a).pc 0 b (g.split a).mask (g1.split a).mask
      s1.mergeMeeting ra js

/-- CLAUSE_START: the split that its quadrant chooses merges with those that meet it, and starts its clause (R79). -/
def State.clauseStart (s : State) (r : SplitRef) : State :=
  match s.group? r.group with
  | none => s
  | some g =>
    if s.chosen r.slot r.lcid g.ctl.quad ≠ some r then s
    else
      let x := s.mergeMeeting r (g.meeting r.k)
      x.2.startClause x.1

/-! ## Between choosing and running -/

/-- What comes before an instruction: the turn ends in a state, or the instruction runs. -/
inductive Prep where
  | done (s : State)
  | run (i : Instr) (s : State)

/-- ILLEGAL with TVAL the word (R85). -/
def State.illegal (s : State) (r : SplitRef) (m : Mask) (w : DWord) : State := s.raise s r m (Exc.plain .illegal w)

/-- A TIMER is pending: since the deadline's count has reached zero (R268). -/
def Group.timerPends (g : Group) : Bool := g.trap.tpend || g.trap.tdue

/-- A pending TIMER is taken by this split (R268): none has taken it and waits for the handler, or it is this one. -/
def Group.takesTimer (g : Group) (k : Nat) : Bool :=
  g.timerPends && (match g.trap.tsplit with
    | none => true
    | some j => j == k || !(g.split j).waiting (fun w => w == .handler))

/-- TIMER before the instruction (R268): taken, or its split waits for the handler and keeps it, with the exemption of the instruction that it
has not issued (R302). -/
def State.takeTimer (s : State) (r : SplitRef) (g : Group) : State :=
  let s0 := s.modGroup r.group (fun x => { x with trap := { x.trap with tpend := false, tdue := false, tsplit := none } })
  let s1 := s0.raise s0 r (g.split r.k).mask (Exc.plain .timer 0)
  match s1.split? r with
  | some sp =>
    if sp.waiting (fun w => w == .handler) then
      (s1.modGroup r.group (fun x => { x with trap := { x.trap with tpend := true, tsplit := some r.k } })).modSplit r (fun y =>
        { y with exempt := (g.split r.k).exempt })
    else s1
  | none => s1

/-- The refill owed after an EXIT (R40). -/
def State.owedRefill (s : State) (r : SplitRef) (g : Group) : State :=
  match s.refill (s.cxOf r) g r.k true with
  | .ok g1 s1 => (s1.remoteDone (.split r)).setGroup r.group (g1.modSplit r.k (fun sp => { sp with refill := false }))
  | .fault e => s.raiseBefore s r (g.split r.k) e
  | .wait s1 => s1

/-- A code comparator stops an instruction that has not run. -/
def State.codeBreak (s : State) (r : SplitRef) (sp : Split) (n : Nat) : State :=
  match s.compHit r n sp.pc with
  | .next s1 | .jump s1 | .stall s1 => s1
  | .trap e s1 => s1.raise s1 r sp.mask e

/-- An instruction inside the open window of an MMA that still reads the scratchpad names one of its results: what the MMA has read of the
scratchpad, and so the value it writes, is then settled, and the instruction sees that value or the old one (R97, R134). -/
def State.readOpen (s : State) (r : SplitRef) (g : Group) (i : Instr) : State :=
  let mine (p : Pending) : Bool := p.split == r.k && p.window.isSome && p.job.isSome && p.vecs.any (inBlocks (namedBlocks g i))
  if g.inflight.any mine then s.mmaRead r.group mine else s

/-- The instruction at the split's PC once its word has been read: ILLEGAL (R85), after the waits of R95 and R96, so that the block sizes of
R92 are those of sF and sF+1 as they stand at issue; then the code comparators, for an instruction with an array check after that check
(R302). Where an open window covers sF or sF+1 its old value counts: DESIGN CHOICE (log 43). -/
def State.issueWord (s : State) (r : SplitRef) (g : Group) (c : Clause) (w : DWord) : Prep :=
  let sp := g.split r.k
  match wordForm c (pcPos sp.pc) w with
  | none => .done (s.illegal r sp.mask w)
  | some i =>
    if (g.hazard r.k i).isSome then .done s
    else if !i.fitsBudget g then .done (s.illegal r sp.mask w)
    else match (if checksArray i then none else s.codeAt r.slot sp) with
      | some n => .done (s.codeBreak r sp n)
      | none => .run i { s.readOpen r g i with cur := some ⟨r⟩ }

/-- The split waits inside an instruction for a peer's answer: the instruction ends even in a context that is stopping (R278). -/
def State.inRemote (s : State) (r : SplitRef) : Bool := s.clocked && s.pkg.remote.any (fun x => x.who == .split r)

/-- The group consumes a soft error in its registers or its slot-table entry: ECC with TVAL zero (Table 12.6). -/
def State.softGroup (s : State) (r : SplitRef) (m : Mask) : State :=
  let s1 : State := { s with soft := s.soft.filter (fun p => p != .group r.group) }
  s1.raise s1 r m Exc.sramEcc

/-- The issue slot of a split: nothing while it may not issue; else a refill, the clause it diverted to, TIMER, the fetch, and
the instruction. An instruction that waits for a peer has issued: TIMER waits for the next boundary (R267, R268). DEDUCED (log 23). -/
def State.issuePrep (s : State) (r : SplitRef) : Prep :=
  match s.group? r.group with
  | none => .done s
  | some g =>
    let sp := g.split r.k
    if !(sp.st == .issuing && (s.groupRuns r.group g || s.inRemote r) && sp.unstopped && s.slotFree r.group g) then .done s
    else if sp.refill then .done (s.owedRefill r g)
    else match sp.clause with
      | none => .done (s.startClause r)
      | some c =>
        if g.takesTimer r.k && !s.inRemote r then .done (s.takeTimer r g)
        else if s.soft.contains (.group r.group) then .done (s.softGroup r sp.mask)
        else match s.fetch (s.cxOf r) (pcWord sp.pc) with
          | .wait s1 => .done s1
          | .fault e => .done (s.raiseBefore s r sp e)
          | .ok w s1 => s1.issueWord r g c w

end Sys2Proof.Machine
end

