-- ==== Sys2Proof/Machine/Wake.lean ====
section
/-! DEFINITION. Wake.lean: what follows every turn: waits whose condition has come to hold end (02 R32, Table 2.3), and READY
splits are eligible from when their header's conditions hold (04 R79, 11 R254). -/

namespace Sys2Proof.Machine

open Sys2Proof

/-- The wait's condition holds, for the waits that end in going on after their instruction. -/
def State.waitOver (s : State) (r : SplitRef) (g : Group) (w : Wait) : Bool :=
  match w with
  | .handle h _ => s.handleSt r.slot h != .pending
  | .barrier off p => ((s.lc r.slot r.lcid).tbar off).phaseDone p
  | .tag m all => tagsMet all (s.lc r.slot r.lcid).tags m
  | .batch m n isSeal => if isSeal then g.sealRoom m else g.batchesAtMost m n
  | .reconv _ _ => g.reconvDone r.k
  | .cohort c p => (match s.ctx r.slot with
    | some ctx => phaseComplete (ctx.cohort g.ctl.recNum g.ctl.ganginst c).phase p
    | none => false)
  | .scope n => (match s.ctx r.slot with
    | some ctx => (ctx.scope n).st == .done || (ctx.scope n).st == .error
    | none => false)
  | .port _ _ | .regroup _ _ | .fault _ _ _ | .handler | .answer | .kick | .park => false

/-- A wait that is over: a FAILED handle raises ACCESS (R193), a CPSEAL seals, and the split goes on. -/
def State.endWait (s : State) (r : SplitRef) (g : Group) (w : Wait) : State :=
  let go (s : State) : State := s.modSplit r (fun sp => sp.release s.cycles)
  match w with
  | .handle h _ => if s.handleSt r.slot h = .failed then s.raiseWaiting r (g.split r.k).mask failedHandle else go s
  | .batch m _ true => go (s.setGroup r.group (g.sealLanes m))
  | .batch _ _ false | .barrier _ _ | .tag _ _ | .port _ _ | .reconv _ _ | .cohort _ _ | .scope _ | .regroup _ _ | .fault _ _ _
  | .handler | .answer | .kick | .park => go s

/-- A split that its context's park finds in a WAIT that the image holds (kinds 1 to 9) keeps it (R279, R286). -/
def Context.keepsWait (c : Context) (w : Wait) : Bool :=
  c.park != .none && (match w with
    | .handle _ _ | .barrier _ _ | .tag _ _ | .port _ _ | .batch _ _ _ | .reconv _ _ | .cohort _ _ | .scope _ | .regroup _ _ => true
    | .fault _ _ _ | .handler | .answer | .kick | .park => false)

/-- One split in WAIT: a KICK executes again when an entry is free (R189); a rendezvous completes when it can (R49). -/
def State.wakeWait (s : State) (r : SplitRef) (g : Group) (w : Wait) : State :=
  match w with
  | .kick => (match s.ctx r.slot with
    | some c => if (c.freeKick r.lcid).isSome then s.modSplit r (fun sp => sp.toReady s.cycles) else s
    | none => s)
  | .regroup k _ => (match g.cohortOf k with
    | some c => s.regroupTry r.slot g.ctl.recNum g.ctl.ganginst c
    | none => s)
  | w => if s.waitOver r g w then s.endWait r g w else s

/-- A READY split of an eligible group is eligible since its conditions have held (R252, R254). -/
def State.wakeReady (s : State) (r : SplitRef) (g : Group) : State :=
  let met := g.ctl.eligible && s.conditionsMet r g
  match (g.split r.k).age with
  | some _ => if met then s else s.modSplit r (fun sp => { sp with age := none })
  | none => if met then s.modSplit r (fun sp => { sp with age := some s.cycles }) else s

/-- The split stands in WAIT, or READY with unmet header conditions: from when (R310). -/
def Split.stands (now : Nat) (sp : Split) : Split :=
  let stands := match sp.st with
    | .wait _ => true
    | .ready => sp.age.isNone
    | .free | .issuing | .halted => false
  { sp with since := if stands then some (sp.since.getD now) else none }

/-- One split after a turn; a split at a debug stop stays as it is (R303), and so does one whose wait a park keeps (R279). -/
def State.wakeSplit (s : State) (r : SplitRef) : State :=
  match s.group? r.group with
  | none => s
  | some g =>
    if (g.split r.k).dstopped then s
    else match (g.split r.k).st with
      | .wait w => if (s.ctx r.slot).any (fun c => c.keepsWait w) then s else s.wakeWait r g w
      | .ready => s.wakeReady r g
      | .free | .issuing | .halted => s

/-- The splits of the device in use. -/
def State.splitRefs (s : State) : List SplitRef :=
  (List.range 8).flatMap (fun slot => match s.ctx slot with
    | some c => c.splitRefs slot
    | none => [])

/-- Every split of a context after a turn. -/
def Context.standing (now : Nat) (c : Context) : Context :=
  { c with groups := c.groups.map (fun x => (x.1, { x.2 with splits := x.2.splits.map (Split.stands now) })) }

/-- The waits and the header conditions after a turn, by ascending channel of their cores (R274). -/
def State.wakeAll (s : State) : State := (sortBy (fun r => s.lcChan r.slot r.lcid) s.splitRefs).foldl (fun acc r => acc.wakeSplit r) s

end Sys2Proof.Machine
end

