-- ==== Sys2Proof/Machine/Bank.lean ====
section
/-! DEFINITION. Bank.lean: the bank cycle (09 R210, R211, R222, R425): ready and eligible patterns, the firing, the owed sets. -/

namespace Sys2Proof.Machine

open Sys2Proof

/-- The join space of a context works: it is neither stopped for debug, nor parking, nor ending. -/
def State.joinRuns (s : State) (c : Context) : Bool :=
  s.clocked && !c.debugging && c.park == .none && !c.destroying

/-- Waiters of the fault queues of the device. -/
def State.faultWaits (s : State) (w : Waiter) : Bool :=
  s.dies.any (fun d => d.faults.any (fun f => match f with
    | some x => x.waiters.contains w
    | none => false))

def Bank.pattern (b : Bank) (i : Nat) : Nat := (regGet 0 b.patterns i).toNat
def Bank.owedOf (b : Bank) (i : Nat) : DWord := regGet 0 b.owed i

/-- The terms of a pattern: port within the bank and count. -/
def patNeeds (e : Nat) : List (Nat × Nat) := (List.range (patTerms e)).map (fun k => (termPort (patTerm e k), termCount (patTerm e k)))

/-- Each term's port holds its count. -/
def Bank.ready (b : Bank) (i : Nat) : Bool :=
  patOn (b.pattern i) && (patNeeds (b.pattern i)).all (fun t => decide (t.2 ≤ (b.queue t.1).length))

/-- The set of some patterns, as bits. -/
def patSet (l : List Nat) : DWord := l.foldl (fun acc i => acc ||| BitVec.ofNat 64 (2 ^ i)) 0

/-- Eligible patterns in the order of choice: highest PRIO, then from RRPTR upward (R210). -/
def Bank.choose (b : Bank) (ready : List Nat) : Option Nat :=
  let e := ready.filter (fun i => b.owedOf i == 0)
  let best := e.foldl (fun n i => max n (patPrio (b.pattern i))) 0
  ((List.range 64).map (fun i => (b.rrptr + i) % 64)).find? (fun i => e.contains i && patPrio (b.pattern i) == best)

/-- The messages a pattern consumes, in term order. -/
def Bank.consumed (b : Bank) (i : Nat) : List Msg := (patNeeds (b.pattern i)).flatMap (fun t => (b.queue t.1).take t.2)

/-- The bank after pattern `f` fires among the ready ones. -/
def Bank.fired (b : Bank) (ready : List Nat) (f : Nat) : Bank :=
  let q := (patNeeds (b.pattern f)).foldl (fun acc t => regMod acc t.1 (fun m => m.drop t.2)) b.queues
  let o := ready.foldl (fun acc x => if x = f then acc else regMod acc x (fun w => w &&& ~~~(patSet [f]))) b.owed
  { b with
    queues := q
    owed := regSet o f (patSet (ready.filter (fun x => x != f)))
    rrptr := (f + 1) % 64
    failed := b.failed &&& ~~~(patSet [f]) }

/-- The end of a cycle: patterns that are not ready leave every owed set. -/
def Bank.endCycle (b : Bank) (ready : List Nat) : Bank := { b with owed := b.owed.map (fun w => w &&& patSet ready), left := 0 }

/-- Core cycles of a bank cycle (R210). -/
def bankCycles : Nat := 4

/-- A port with room still waits for messages of the overflow area: they move into it, one in a core cycle, before the bank evaluates any
pattern (R19, R208). -/
def Bank.refills (b : Bank) : Bool := b.overflow.any (fun x => b.room x.1)

/-- Patterns of a bank that are ready, apart from those whose descriptor read waits for service (R425). -/
def State.readyPatterns (s : State) (slot n : Nat) (b : Bank) : List Nat :=
  (List.range 64).filter (fun i => b.ready i && !s.faultWaits (.fire slot n i))

/-- The reads made for a start are those of the join die. -/
def State.joinCx (s : State) (slot : Nat) (who : Waiter) : Cx := ⟨who, slot, 0, 0, ⟨s.joinDie slot, none⟩⟩

/-- The firing of pattern `f`: it consumes, the record joins its scope, the consumed holds end, the freed ports fill. -/
def State.firing (s : State) (slot n : Nat) (ready : List Nat) (f : Nat) (prio : Nat) (scope : Option Nat → Option Nat)
    (failed : Bool) : State :=
  match s.ctx slot with
  | none => s
  | some c =>
    let b := c.bank n
    let ms := b.consumed f
    let inherited := match ms with
      | m :: _ => m.hold
      | [] => none
    let s1 := s.setCtx slot (c.modBank n (fun x => x.fired ready f))
    let s2 := s1.emitRecord slot
      ⟨BitVec.ofNat 64 (patGang (b.pattern f)), ms.map (fun m => m.payload), scope inherited, prio, false, 64 * n + f, failed⟩
    s2.modCtx slot (fun c =>
      (patNeeds (b.pattern f)).foldl (fun acc t => acc.gainRoom s.cycles (256 * n + t.1))
        (ms.foldl (fun acc m => acc.unhold s.cycles m.hold false) c))

/-- Choose and fire; a pattern whose descriptor cannot be read yet counts as not ready. -/
def State.fireLoop (slot n : Nat) : Nat → List Nat → State → State
  | 0, _, s => s
  | fuel + 1, ready, s =>
    match s.ctx slot with
    | none => s
    | some c =>
      let b := c.bank n
      match b.choose ready with
      | none => s
      | some f =>
        if b.failed.getLsbD f then s.firing slot n ready f 0 (fun _ => none) true
        else
          let addr : DWord := BitVec.ofNat 64 (patGang (b.pattern f))
          match s.readRecord (s.joinCx slot (.fire slot n f)) addr 8 with
          | .ok bytes s1 =>
            let w : DWord := BitVec.ofNat 64 (leNat bytes)
            (s1.remoteDone (.fire slot n f)).firing slot n ready f (dwPrio w) (dwScope w) false
          | .wait s1 => State.fireLoop slot n fuel (ready.filter (fun x => x != f)) s1
          | .fault e =>
            if e.cause = .xlate then
              match s.faultEnter (s.joinDie slot) chanSidereal slot 0 e (.fire slot n f) with
              | some s1 => State.fireLoop slot n fuel (ready.filter (fun x => x != f)) s1
              | none => State.fireLoop slot n fuel (ready.filter (fun x => x != f)) s
            else ((s.remoteDone (.fire slot n f)).logEcc slot (s.joinDie slot) none e).firing slot n ready f 0 (fun _ => none) false

/-- A core cycle of a bank: the bank cycle in progress ends with its last one, judged on what the ports then hold (R210), not before the room
that it has freed is filled (R208). -/
def State.bankTick (s : State) (slot n : Nat) (b : Bank) : Bank :=
  if b.left = 0 then b
  else if b.left = 1 ∧ b.refills = false then b.endCycle (s.readyPatterns slot n b)
  else { b with left := max 1 (b.left - 1) }

/-- A core cycle of a context's banks. -/
def State.bankTicks (s : State) (slot : Nat) : State :=
  s.modCtx slot (fun c => { c with banks := c.banks.zipIdx.map (fun x => s.bankTick slot x.2 x.1) })

/-- A bank may begin a cycle: none is in progress, and no freed room waits to be filled (R208, R210). -/
def Bank.idle (b : Bank) : Bool := b.left == 0 && !b.refills

/-- BANK_CYCLE: the readiness of the end of the cycle is judged when its core cycles are over. -/
def State.bankCycle (s : State) (slot n : Nat) : State :=
  match s.ctx slot with
  | none => s
  | some c =>
    if !s.joinRuns c || decide (c.banks.length ≤ n) || !(c.bank n).idle then s
    else
      (State.fireLoop slot n 64 (s.readyPatterns slot n (c.bank n)) s).modCtx slot (fun c1 => c1.modBank n (fun b => { b with left := bankCycles }))

end Sys2Proof.Machine
end

