-- ==== Sys2Proof/Machine/Gang.lean ====
section
/-! DEFINITION. Gang.lean: the Sidereal core's service of the ready queues: taking a gang record (09 R215 to R218, R425, 11 R247,
R250, R261), the peer and cohort tables (R260, 02 R43 to R45), placement (R248 to R251), and the failure of a start. -/

namespace Sys2Proof.Machine

open Sys2Proof

/-! ## Descriptor fields (Table 9.5) -/

def descNum (d : List Byte) : Nat := leNat d
def dgDw (d : Nat) (i : Nat) : Nat := bitsOf d (64 * i) 64
def dgInstances (d : Nat) : Nat := bitsOf d 40 24
def dgPlace (d : Nat) : Nat := bitsOf d 26 2
def dgSpmd (d : Nat) : Bool := d.testBit 25
def dgScratch (d : Nat) : Nat := bitsOf d 128 21
def dgDieGrp (d : Nat) : Nat := bitsOf d 224 10
def dgLcFirst (d : Nat) : Nat := bitsOf d 208 10
def dgLcCount (d : Nat) : Nat := bitsOf d 192 5
def dgCohorts (d : Nat) : DWord := BitVec.ofNat 64 (dgDw d 4)
def dgSpill (d : Nat) : DWord := BitVec.ofNat 64 (dgDw d 5)
def dgPeers (d : Nat) : DWord := BitVec.ofNat 64 (dgDw d 6)
def dgPc (d k : Nat) : DWord := BitVec.ofNat 64 (dgDw d (8 + 2 * k))
def dgCount (d k : Nat) : Nat := bitsOf d (576 + 128 * k) 13
def dgBudget (d k : Nat) : Nat := 8 * (bitsOf d (592 + 128 * k) 5 + 1)
def dgTotal (d : Nat) : Nat := dgCount d 0 + dgCount d 1 + dgCount d 2
/-- The gang-wide number of a role's first group (R26). -/
def dgFirst (d k : Nat) : Nat := ((List.range k).map (dgCount d)).foldl (fun a b => a + b) 0

/-- RSVD fields, reserved codes and counts out of range of a descriptor (Table 9.5). -/
def descReserved (d : Nat) : Bool :=
  d / 2 ^ 896 != 0
    || (List.range 3).any (fun k => bitsOf d (597 + 128 * k) 43 != 0 || bitsOf d (589 + 128 * k) 3 != 0 || decide (4096 < dgCount d k))
    || bitsOf d 448 64 != 0 || bitsOf d 234 22 != 0 || bitsOf d 218 6 != 0 || bitsOf d 197 11 != 0 || bitsOf d 149 43 != 0
    || bitsOf d 64 64 != 0 || bitsOf d 28 12 != 0 || bitsOf d 13 12 != 0
    || dgPlace d == 3 || bitsOf d 11 2 == 3 || (bitsOf d 11 2 != 1 && bitsOf d 3 8 != 0)
    || (dgPlace d != 2 && (dgDieGrp d != 0 || dgLcFirst d != 0 || dgLcCount d != 0))
    || (dgPlace d == 2 && (dgLcCount d == 0 || decide (16 < dgLcCount d)))
    || decide (2 ^ 20 < dgScratch d)

/-- FORMAT failures of R216. -/
def descMalformed (d : Nat) : Bool :=
  descReserved d
    || (List.range 3).any (fun k => dgCount d k != 0 && (!pcOk (dgPc d k) || pcPos (dgPc d k) != 0))
    || dgScratch d % 64 != 0 || bitsOf (dgSpill d).toNat 0 16 != 0
    || (dgSpmd d && dgPeers d == 0)

/-- GANG failures of R216. -/
def Context.descUnnamed (c : Context) (d : Nat) : Bool :=
  dgPlace d == 2 && (decide (c.lcs.length < dgLcFirst d + dgLcCount d) || !c.lcs.any (fun l => l.dieGrp == dgDieGrp d))

/-! ## Room (R248, R249) -/

/-- A piece of a role for one quadrant: role, first GROUPIDX, groups. -/
structure Run where
  role  : Nat
  first : Nat
  count : Nat
deriving DecidableEq, Repr

/-- Run `i` of `n` groups split into `k` runs, the longer first: its first group and its length. -/
def splitRun (n k i : Nat) : Nat × Nat := (i * (n / k) + min i (n % k), n / k + (if i < n % k then 1 else 0))

/-- The runs of quadrant `q` of logical core `i` of `k`. -/
def quadRuns (d k i q : Nat) : List Run :=
  (List.range 3).map (fun role =>
    let a := splitRun (dgCount d role) k i
    let b := splitRun a.2 4 q
    ⟨role, a.1 + b.1, b.2⟩)

/-- What the groups of a quadrant hold: slots, and register ranges in KiB. -/
structure QuadUse where
  slots : List Nat
  regs  : List (Nat × Nat)
deriving DecidableEq, Repr

/-- Slots and registers held by resident groups and by binds to come. -/
def Context.quadUse (c : Context) (lcid quad : Nat) : QuadUse :=
  let gs := c.groups.filter (fun x => x.1.lcid == lcid && x.2.ctl.quad == quad && !x.2.ctl.retired)
  let bs := c.binds.filter (fun b => b.lcid == lcid && b.quad == quad)
  ⟨gs.map (fun x => x.2.ctl.slotInQ) ++ bs.flatMap (fun b => (List.range b.gcount).map (fun i => b.slot + i)),
   gs.map (fun x => (x.2.ctl.regBase, x.2.ctl.budget / 8)) ++
     bs.flatMap (fun b => (List.range b.gcount).map (fun i => (b.regBase + i * (b.budget / 8), b.budget / 8)))⟩

/-- The free slots of a quadrant, and its free register ranges: first KiB and length. -/
def QuadUse.freeSlots (u : QuadUse) : List Nat := (List.range 256).filter (fun i => !u.slots.contains i)

def QuadUse.gaps (u : QuadUse) : List (Nat × Nat) :=
  ((List.range 1024).filter (fun b => !u.regs.any (fun r => decide (r.1 ≤ b) && decide (b < r.1 + r.2)))).foldr (fun b l => match l with
    | (f, n) :: rest => if f = b + 1 then (b, n + 1) :: rest else (b, 1) :: l
    | [] => [(b, 1)]) []

/-- Ranges laid one after another from `base` on. -/
def layRanges (base n k : Nat) : List Nat := (List.range k).map (fun i => base + i * n)

/-- Ranges in the gaps for `c` groups of each of three sizes, whenever they can be given (R248): of the gaps that follow one another, each
takes some groups of the first two sizes and as many of the third as then fit. -/
def fitGaps (n0 n1 n2 : Nat) : List (Nat × Nat) → Nat → Nat → Nat → Option (List Nat × List Nat × List Nat)
  | [], c0, c1, c2 => if c0 + c1 + c2 = 0 then some ([], [], []) else none
  | (b, len) :: rest, c0, c1, c2 =>
    ((List.range (min c0 (len / n0) + 1)).reverse).findSome? (fun x =>
      ((List.range (min c1 ((len - x * n0) / n1) + 1)).reverse).findSome? (fun y =>
        let z := min c2 ((len - x * n0 - y * n1) / n2)
        (fitGaps n0 n1 n2 rest (c0 - x) (c1 - y) (c2 - z)).map (fun l =>
          (layRanges b n0 x ++ l.1, layRanges (b + x * n0) n1 y ++ l.2.1, layRanges (b + x * n0 + y * n1) n2 z ++ l.2.2))))

/-- A quadrant has room for some groups: their places, as role, GROUPIDX, slot and register base (R248). Which of the free slots and
ranges they take is the firmware's: DESIGN CHOICE (log 15). -/
def QuadUse.fill (d : Nat) (rs : List Run) (u : QuadUse) : Option (List (Nat × Nat × Nat × Nat)) :=
  let run (k : Nat) : Run := regGet ⟨k, 0, 0⟩ rs k
  let size (k : Nat) : Nat := dgBudget d k / 8
  if u.freeSlots.length < (run 0).count + (run 1).count + (run 2).count then none
  else (fitGaps (size 0) (size 1) (size 2) u.gaps (run 0).count (run 1).count (run 2).count).map (fun l =>
    let all (k : Nat) (bases : List Nat) : List (Nat × Nat × Nat) := bases.zipIdx.map (fun x => (k, (run k).first + x.2, x.1))
    ((all 0 l.1 ++ all 1 l.2.1 ++ all 2 l.2.2).zip u.freeSlots).map (fun x => (x.1.1, x.1.2.1, x.2, x.1.2.2)))

/-- No resident instance with non-zero SCRATCH is on the logical core (R249). -/
def Context.scratchFree (c : Context) (lcid : Nat) : Bool :=
  c.insts.all (fun i => !i.lcids.contains lcid || dgScratch (descNum i.desc) == 0)

/-- Places for share `i` of `k` on a logical core: quadrant by quadrant; none without room. -/
def Context.lcPlaces (c : Context) (d k i lcid : Nat) : Option (List (Nat × Nat × Nat × Nat × Nat)) :=
  if dgScratch d != 0 && !c.scratchFree lcid then none
  else (List.range 4).foldl (fun acc q =>
    match acc, QuadUse.fill d (quadRuns d k i q) (c.quadUse lcid q) with
    | some l, some m => some (l ++ m.map (fun x => (q, x)))
    | _, _ => none) (some [])

/-- A placement: for each chosen logical core, its places (quadrant, role, GROUPIDX, slot, register base). -/
abbrev Places := List (Nat × List (Nat × Nat × Nat × Nat × Nat))

/-- The `k` lowest-numbered logical cores with room, from share `i` on. -/
def Context.choose (c : Context) (d k : Nat) : Nat → List Nat → Option Places
  | i, [] => if i = k then some [] else none
  | i, l :: ls =>
    if i = k then some []
    else match c.lcPlaces d k i l with
      | none => c.choose d k i ls
      | some p => (c.choose d k (i + 1) ls).map (fun m => (l, p) :: m)

def Context.lcsOf (c : Context) (dg : Nat) : List Nat := (List.range c.lcs.length).filter (fun i => (c.lc i).dieGrp == dg)

/-- Placement on one die group by Table 11.1. -/
def Context.placeOn (c : Context) (d dg : Nat) : Option Places :=
  let ls := c.lcsOf dg
  match dgPlace d with
  | 0 => c.choose d (min 16 (min ls.length (dgTotal d))) 0 ls
  | 1 => (List.range 16).findSome? (fun k => c.choose d (k + 1) 0 ls)
  | _ =>
    let r := (List.range (dgLcCount d)).map (fun i => dgLcFirst d + i)
    if r.all (fun i => ls.contains i) then c.choose d (dgLcCount d) 0 r else none

/-- Free register space of a die group, in KiB. -/
def Context.freeRegs (c : Context) (dg : Nat) : Nat :=
  (c.lcsOf dg).foldl (fun n l => n + (List.range 4).foldl (fun m q =>
    m + (1024 - ((c.quadUse l q).regs.map (fun r => r.2)).foldl (fun a b => a + b) 0)) 0) 0

/-- Die groups in the order the firmware tries them. -/
def Context.dieGroups (c : Context) (d : Nat) : List Nat :=
  if dgPlace d = 2 then [dgDieGrp d]
  else
    let all := (List.range 1024).filter (fun g => c.lcs.any (fun l => l.dieGrp == g))
    sortBy (fun g => 2 ^ 40 - c.freeRegs g) all

/-- The context with every logical core empty. -/
def Context.emptied (c : Context) : Context := { c with groups := [], binds := [], insts := [] }

/-- Die groups on which an instance could ever be placed (R250). -/
def Context.usable (c : Context) (d : Nat) : List Nat := (c.dieGroups d).filter (fun g => (c.emptied.placeOn d g).isSome)

/-! ## Ready queues (R247) -/

/-- Records in their queues, in the order of service: PRIO, then arrival. -/
def Context.served (c : Context) : List GangRec :=
  ((List.range 8).reverse).flatMap (fun p => c.records.filter (fun r => r.queued && r.prio == p))

/-- The head of a queue. -/
def Context.isHead (c : Context) (r : GangRec) : Bool :=
  match c.records.find? (fun x => x.queued && x.prio == r.prio) with
  | some x => x.num == r.num
  | none => false

/-- The die groups a record can use: all of them while its descriptor has not been read. -/
def Context.canUse (c : Context) (r : GangRec) : List Nat :=
  match r.desc with
  | some d => c.usable (descNum d)
  | none => c.lcs.map (fun l => l.dieGrp)

/-- Die groups kept for starving heads: from a record that does not starve all of them, from a starving one those of the heads
served before it. -/
def Context.keptFrom (c : Context) (r : GangRec) : List Nat :=
  let before := if r.starving then c.served.takeWhile (fun x => x.num != r.num) else c.served
  (before.filter (fun x => x.starving)).flatMap c.canUse

/-- Where the next instance of a record can be placed now. -/
def Context.placeNow (c : Context) (r : GangRec) : Option Places :=
  match r.desc with
  | none => none
  | some d => ((c.dieGroups (descNum d)).filter (fun g => !(c.keptFrom r).contains g)).findSome? (fun g => c.placeOn (descNum d) g)

/-- The record can be served now: read, or its next instance placed. -/
def State.canServe (s : State) (slot : Nat) (c : Context) (r : GangRec) : Bool :=
  !s.faultWaits (.start slot r.num) && (match r.desc with
    | none => true
    | some _ => (c.placeNow r).isSome)

/-- The record the firmware serves next. -/
def State.serves (s : State) (slot : Nat) (c : Context) : Option GangRec :=
  if s.joinRuns c then c.served.find? (fun r => s.canServe slot c r) else none

/-- The records whose descriptors are read now: the head of every queue, and what the firmware serves next. -/
def State.recordReads (s : State) (slot : Nat) (c : Context) : List GangRec :=
  if s.joinRuns c then
    c.served.filter (fun r => r.desc.isNone && !s.faultWaits (.start slot r.num)
      && (c.isHead r || (s.serves slot c).any (fun x => x.num == r.num)))
  else []

/-! ## Retirement and failure of a record (R217) -/

/-- A record none of whose instances is left retires. -/
def Context.recordDone (c : Context) (now : Nat) (n : Nat) : Context :=
  match c.record? n with
  | none => c
  | some r =>
    if r.queued || r.running != 0 then c
    else ({ c with records := c.records.filter (fun x => x.num != n) }).unhold now r.scope r.error

/-- The START record of a failed start. -/
def State.startRecord (s : State) (slot : Nat) (r : GangRec) (e : Exc) : State :=
  (s.record slot { die := s.joinDie slot, aux0 := e.tval, addr := e.addr, ganginst := r.next, cause := causeCode e.cause, kind := 2
                   straddle := e.straddle, launched := r.launched, pattern := r.pattern }).2

/-- A failed start: every instance not started retires with ERROR. -/
def State.startFails (s : State) (slot : Nat) (r : GangRec) (e : Exc) : State :=
  (s.startRecord slot r e).modCtx slot (fun c =>
    (c.modRecord r.num (fun x => { x with queued := false, next := x.last, error := true, starving := false })).recordDone s.cycles
      r.num)

/-! ## Tables read for a start -/

/-- An answer of a read made for a start: a value, a wait, or a cause. -/
inductive StartRes (α : Type) where
  | ok (a : α)
  | wait
  | fail (e : Exc)

/-- One read for a start: its address must lie on path G, F or K; XLATE waits in the join die's fault queue (R425), and ECC is logged (Table
12.6). -/
def State.startRead (s : State) (slot : Nat) (n : Nat) (addr : DWord) (len : Nat) : StartRes (List Byte) × State :=
  if 2 < addrPath addr ∨ addr.extractLsb' 57 3 ≠ 0 then (.fail (Exc.at .access addr), s)
  else
    match s.readRecord (s.joinCx slot (.start slot n)) addr len with
    | .ok b s1 => (.ok b, s1)
    | .wait s1 => (.wait, s1)
    | .fault e =>
      if e.cause = .xlate then
        (match s.faultEnter (s.joinDie slot) chanSidereal slot 0 e (.start slot n) with
         | some s1 => (.wait, s1)
         | none => (.wait, s))
      else (.fail e, s.logEcc slot (s.joinDie slot) none e)

/-- RANK and NRANKS of a descriptor's peer table (R260). -/
def State.readPeers (s : State) (slot : Nat) (r : GangRec) (d : Nat) : StartRes (Nat × Nat) × State :=
  if dgPeers d = 0 then (.ok (0, 1), s)
  else
    match s.startRead slot r.num (dgPeers d) 16 with
    | (.wait, s1) => (.wait, s1)
    | (.fail e, s1) => (.fail e, s1)
    | (.ok b, s1) =>
      let h := leNat b
      let self := bitsOf h 0 12
      let n := bitsOf h 12 13
      if h / 2 ^ 25 ≠ 0 ∨ n = 0 ∨ 4096 < n ∨ n ≤ self then (.fail (Exc.plain .format 0), s1)
      else
        match s1.startRead slot r.num (dgPeers d + BitVec.ofNat 64 (16 + 16 * self)) 16 with
        | (.wait, s2) => (.wait, s2)
        | (.fail e, s2) => (.fail e, s2)
        | (.ok e, s2) =>
          if peerEntryRsvd (leNat e) then (.fail (Exc.plain .format 0), s2) else (.ok (self, n), s2)

/-! ## GANG_RECORD_TAKE -/

/-- The instances of this device (R261). -/
def share (spmd : Bool) (n rank nranks : Nat) : Nat × Nat :=
  if spmd then (rank * n / nranks, (rank + 1) * n / nranks) else (0, n)

/-- The record takes its descriptor and its share, or retires at once when it has no instance (R218). -/
def State.takeDesc (s : State) (slot : Nat) (r : GangRec) (b : List Byte) (first last : Nat) : State :=
  s.modCtx slot (fun c =>
    (c.modRecord r.num (fun x =>
      { x with desc := some b, next := first, last := last, queued := decide (first < last) })).recordDone s.cycles r.num)

/-- The LAUNCH of a created context reads doubleword 0, whose PRIO names the queue of its record (R293, R425). -/
def State.launchRead (s : State) (slot : Nat) (r : GangRec) : State :=
  match s.startRead slot r.num r.descAddr 8 with
  | (.wait, s1) => s1
  | (.fail e, s1) => (s1.remoteDone (.start slot r.num)).startFails slot r e
  | (.ok b, s1) =>
    (s1.remoteDone (.start slot r.num)).modCtx slot (fun c => c.modRecord r.num (fun x =>
      { x with prio := bitsOf (leNat b) 0 3, launching := false, headAt := none }))

/-- The record takes its share of instances, of which each must have a place it could take (R218, R250). A share whose descriptor names
no die group or logical core of the context fails (R216); the START record names the share's first instance. -/
def State.takeShare (s : State) (slot : Nat) (c : Context) (r : GangRec) (b : List Byte) (sh : Nat × Nat) : State :=
  if c.descUnnamed (descNum b) || (decide (sh.1 < sh.2) && (c.usable (descNum b)).isEmpty) then
    (s.remoteDone (.start slot r.num)).startFails slot { r with next := sh.1 } (Exc.plain .gang 0)
  else (s.remoteDone (.start slot r.num)).takeDesc slot r b sh.1 sh.2

/-- GANG_RECORD_TAKE (R216, R218, R250, R261). -/
def State.takeRecord (s : State) (slot n : Nat) : State :=
  match s.ctx slot with
  | none => s
  | some c =>
    match (s.recordReads slot c).find? (fun r => r.num == n) with
    | none => s
    | some r =>
      if r.failed then s.startFails slot r (Exc.at .access r.descAddr)
      else if r.launching then s.launchRead slot r
      else
        match s.startRead slot n r.descAddr 256 with
        | (.wait, s1) => s1
        | (.fail e, s1) => (s1.remoteDone (.start slot n)).startFails slot r e
        | (.ok b, s1) =>
          let d := descNum b
          if descMalformed d then (s1.remoteDone (.start slot n)).startFails slot r (Exc.plain .format 0)
          else if dgInstances d = 0 ∨ dgTotal d = 0 then s1.takeShare slot c r b (0, 0)
          else if !dgSpmd d then s1.takeShare slot c r b (0, dgInstances d)
          else
            match s1.readPeers slot r d with
            | (.wait, s2) => s2
            | (.fail e, s2) => (s2.remoteDone (.start slot n)).startFails slot r e
            | (.ok p, s2) => s2.takeShare slot c r b (share true (dgInstances d) p.1 p.2)

/-! ## Cohort tables (R43 to R45) -/

/-- Fields of a cohort entry (Table 2.5). -/
def ceForm (e : Nat) : Nat := bitsOf e 0 2
def ceRole (e : Nat) : Nat := bitsOf e 2 2
def ceFirst (e : Nat) : Nat := bitsOf e 16 16
def ceCount (e : Nat) : Nat := bitsOf e 32 16
def ceStride (e : Nat) : Nat := bitsOf e 48 16
def ceBitmap (e : Nat) : Nat := bitsOf e 64 64

/-- FORMAT of one entry (R44). Of STRIDE, R44 names only zero: one above the 4,096 of Table 2.5 makes no entry malformed, and matters only with
a COUNT above 1. DESIGN CHOICE (log 53). -/
def cohortMalformed (e : Nat) : Bool :=
  ceForm e == 3 || bitsOf e 4 12 != 0
    || (ceForm e == 1 && (ceRole e == 3 || ceStride e == 0 || ceCount e == 0 || ceBitmap e != 0))
    || (ceForm e != 1 && (ceRole e != 0 || ceFirst e != 0 || ceCount e != 0 || ceStride e != 0))
    || (ceForm e == 2 && ceBitmap e % 8 != 0)

/-- Members of a strided cohort by gang-wide number; none when the set runs past the role. -/
def stridedMembers (d e : Nat) : Option (List Nat) :=
  let idx := (List.range (ceCount e)).map (fun i => ceFirst e + i * ceStride e)
  if idx.any (fun i => decide (dgCount d (ceRole e) ≤ i)) then none else some (idx.map (fun i => dgFirst d (ceRole e) + i))

/-- Members of a bitmap; none when a bit at or beyond G is set. -/
def bitmapMembers (g : Nat) (b : List Byte) : Option (List Nat) :=
  let m := leNat b
  if m / 2 ^ g ≠ 0 then none else some ((List.range g).filter (fun i => m.testBit i))

/-- The members of every cohort of a table. -/
def State.readCohorts (s : State) (slot : Nat) (r : GangRec) (d : Nat) : List Nat → StartRes (List (List Nat)) × State
  | [] => (.ok [], s)
  | e :: es =>
    match s.readCohorts slot r d es with
    | (.wait, s1) => (.wait, s1)
    | (.fail x, s1) => (.fail x, s1)
    | (.ok rest, s1) =>
      match ceForm e with
      | 1 => (match stridedMembers d e with
        | some m => (.ok (m :: rest), s1)
        | none => (.fail (Exc.plain .gang 0), s1))
      | 2 =>
        (match s1.startRead slot r.num (BitVec.ofNat 64 (ceBitmap e)) ((dgTotal d + 63) / 64 * 8) with
         | (.wait, s2) => (.wait, s2)
         | (.fail x, s2) => (.fail x, s2)
         | (.ok b, s2) => (match bitmapMembers (dgTotal d) b with
           | some m => (.ok (m :: rest), s2)
           | none => (.fail (Exc.plain .gang 0), s2)))
      | _ => (.ok ([] :: rest), s1)

/-- The cohort table of an instance: members of each of the 256 cohorts. -/
def State.cohortTable (s : State) (slot : Nat) (r : GangRec) (d : Nat) : StartRes (List (List Nat)) × State :=
  let g := dgTotal d
  if dgCohorts d = 0 then (.ok (List.range g :: List.replicate 255 []), s)
  else if (dgCohorts d).toNat % 16 ≠ 0 then (.fail (Exc.plain .format 0), s)
  else
    match s.startRead slot r.num (dgCohorts d) 4096 with
    | (.wait, s1) => (.wait, s1)
    | (.fail e, s1) => (.fail e, s1)
    | (.ok b, s1) =>
      let es := (List.range 256).map (fun i => leNat ((b.drop (16 * i)).take 16))
      if es.any cohortMalformed then (.fail (Exc.plain .format 0), s1)
      else
        match s1.readCohorts slot r d es with
        | (.ok t, s2) =>
          if (List.range g).any (fun i => decide (4 < (t.filter (fun m => m.contains i)).length)) then
            (.fail (Exc.plain .gang 0), s2)
          else (.ok t, s2)
        | x => x

/-- A cause of R44: it concerns one instance. -/
def oneInstance (e : Exc) : Bool := e.cause == .format || e.cause == .gang

/-! ## INSTANCE_PLACEMENT -/

/-- Cohorts of a group, in ascending number, as slots (R45). -/
def cohortSlots (t : List (List Nat)) (g : Nat) : List Nat := (List.range 256).filter (fun c => (regGet [] t c).contains g)

/-- Join places of consecutive groups into bind records: role, GROUPIDX, slot and base in steps (R251). -/
def joinPlaces (step : Nat → Nat) : List (Nat × Nat × Nat × Nat) → List (Nat × Nat × Nat × Nat × Nat)
  | [] => []
  | x :: xs =>
    match joinPlaces step xs with
    | [] => [(x.1, x.2.1, 1, x.2.2.1, x.2.2.2)]
    | y :: ys =>
      if y.1 = x.1 ∧ y.2.1 = x.2.1 + 1 ∧ y.2.2.2.1 = x.2.2.1 + 1 ∧ y.2.2.2.2 = x.2.2.2 + step x.1 then
        (x.1, x.2.1, y.2.2.1 + 1, x.2.2.1, x.2.2.2) :: ys
      else (x.1, x.2.1, 1, x.2.2.1, x.2.2.2) :: y :: ys

/-- The bind records of an instance, role by role, logical core by logical core, quadrant by quadrant, numbered from `ord`. -/
def mkBinds (ord : Nat) (r : GangRec) (d : Nat) (p : Places) (t : List (List Nat)) (rank nranks : Nat) : List Bind :=
  let l := (List.range 3).flatMap (fun role => p.flatMap (fun lc => (List.range 4).flatMap (fun q =>
    (joinPlaces (fun k => dgBudget d k / 8) ((lc.2.filter (fun x => x.1 == q && x.2.1 == role)).map (fun x => x.2))).map (fun x =>
      ({ ord := 0, recNum := r.num, inst := r.next, role := role, gfirst := x.2.1, gcount := x.2.2.1, lcid := lc.1, quad := q
         slot := x.2.2.2.1, regBase := x.2.2.2.2, cls := r.prio, last := false, budget := dgBudget d role, pc := dgPc d role
         spill := dgSpill d, payloads := r.payloads, total := dgTotal d, firstNum := dgFirst d role + x.2.1
         cohorts := (List.range x.2.2.1).map (fun i => cohortSlots t (dgFirst d role + x.2.1 + i))
         rank := rank, nranks := nranks, peers := dgPeers d } : Bind)))))
  l.zipIdx.map (fun x => { x.1 with ord := ord + x.2, last := x.2 + 1 == l.length })

/-- The number of the next bind record that the firmware writes. -/
def State.nextBind (s : State) : Nat :=
  s.ctxs.foldl (fun n c => match c with
    | some x => x.binds.foldl (fun m b => max m (b.ord + 1)) n
    | none => n) 0

/-- The record goes on to its next instance. -/
def GangRec.nextInst (x : GangRec) (err : Bool) : GangRec :=
  { x with next := x.next + 1, queued := decide (x.next + 1 < x.last), error := x.error || err, headAt := none, starving := false }

/-- The instance takes its place: its state, its cohorts and its bind records. -/
def Context.placeInst (c : Context) (ord : Nat) (r : GangRec) (b : List Byte) (p : Places) (t : List (List Nat)) (rank nranks : Nat) :
    Context :=
  let cohorts := t.map (fun m => (⟨32 * m.length, 0, 0⟩ : Cohort))
  let i : GangInst := ⟨r.num, r.next, r.scope, p.map (fun x => x.1), cohorts, b, r.descAddr, .none, 0, false, true⟩
  let bs := mkBinds ord r (descNum b) p t rank nranks
  ({ c with insts := c.insts ++ [i], binds := c.binds ++ bs, tables := (c.tables ++ [dgPeers (descNum b)]).dedup }).modRecord r.num (fun x =>
    { x.nextInst false with running := x.running + 1 })

/-- INSTANCE_PLACEMENT (R44, R248 to R251, R260). A malformed peer table found here fails the record, with every instance of it that has not
started, not the one instance alone: R217 and R260 leave that open. DESIGN CHOICE (log 50). -/
def State.placeInstance (s : State) (slot n : Nat) : State :=
  match s.ctx slot with
  | none => s
  | some c =>
    match s.serves slot c with
    | none => s
    | some r =>
      match r.desc, c.placeNow r with
      | some b, some p =>
        if r.num ≠ n then s
        else
          let d := descNum b
          match s.readPeers slot r d with
          | (.wait, s1) => s1
          | (.fail e, s1) => (s1.remoteDone (.start slot n)).startFails slot r e
          | (.ok pr, s1) =>
            match s1.cohortTable slot r d with
            | (.wait, s2) => s2
            | (.fail e, s2) =>
              let s3 := s2.remoteDone (.start slot n)
              if oneInstance e then
                (s3.startRecord slot r e).modCtx slot (fun c =>
                  (c.modRecord n (fun x => x.nextInst true)).recordDone s.cycles n)
              else s3.startFails slot r e
            | (.ok t, s2) => (s2.remoteDone (.start slot n)).modCtx slot (fun c => c.placeInst s.nextBind r b p t pr.1 pr.2)
      | _, _ => s

/-! ## QUEUE_HEAD_STARVATION -/

/-- 2 ms in meridian ticks. -/
def starveTicks : Nat := 5000000

/-- QUEUE_HEAD_STARVATION (R247). -/
def State.starve (s : State) (slot n : Nat) : State :=
  if !s.clocked then s else s.modCtx slot (fun c => c.modRecord n (fun r =>
    match r.headAt with
    | some t => if r.queued && c.isHead r && decide (t + starveTicks ≤ s.tickNow) then { r with starving := true } else r
    | none => r))

/-- A record that has become head of its queue waits from now. -/
def Context.markHeads (c : Context) (now : Nat) : Context :=
  { c with records := c.records.map (fun r => if r.queued && c.isHead r && r.headAt.isNone then { r with headAt := some now } else r) }

end Sys2Proof.Machine
end

