-- ==== Sys2Proof/Machine/Start.lean ====
section
/-! DEFINITION. Start.lean: dispatch of bind records (11 R252, 02 R25), retirement of instances (09 R217, 12 R270, R271), HALTREL,
halts and timers reaching their splits (12 R268 to R271), and the completion of long-latency instructions (03 R60, 06 R157, 05
R134). -/

namespace Sys2Proof.Machine

open Sys2Proof

/-! ## Dispatch -/

/-- Group `i` of a bind record, in the state of Table 2.2, not yet able to issue. -/
def Bind.group (b : Bind) (i : Nat) : Group where
  ctl :=
    { role := b.role, groupIdx := b.gfirst + i, ganginst := b.inst, recNum := b.recNum, number := b.firstNum + i
      budget := b.budget, rank := b.rank, nranks := b.nranks, peers := b.peers, quad := b.quad, slotInQ := b.slot + i
      regBase := b.regBase + i * (b.budget / 8), bind := ⟨b.gfirst, b.gcount, b.slot, b.regBase, b.last⟩, cls := b.cls, eligible := false, retired := false
      spillBase := b.spill + BitVec.ofNat 64 ((b.inst * b.total + b.firstNum + i) * 0x30000)
      cohorts := (List.range 4).map (fun k => (regGet [] b.cohorts i)[k]?)
      arrived := List.replicate 4 0
      live := Mask.full
      lorigin := perLane (fun j => BitVec.ofNat 32 ((b.firstNum + i) * 32 + j))
      spillCnt := 0 }
  trap :=
    { inHandler := false, hsplit := 0, hmask := 0, family := 0, tvec := 0, tpc := 0, tmask := 0, tcause := 0, tval := 0
      gtimer := 0, tpend := false, tdue := false, tsplit := none }
  vregs := List.replicate b.budget zeroLanes
  cals := List.replicate b.budget (some ⟨0, 0⟩)
  sregs := (List.range 128).map (fun k => if k < 32 then regGet 0 b.payloads k else 0)
  pregs := List.replicate 7 0
  qregs := List.replicate 7 false
  aregs := List.replicate 16 0
  hregs := List.replicate 16 0
  viol := 0
  fflags := 0
  storeQ := []
  inflight := []
  nextId := 0
  batches := List.replicate 32 Batch.none
  splits := { Split.freeEntry with st := .ready, pc := b.pc, mask := Mask.full } :: List.replicate 3 Split.freeEntry

/-- The handle of group `i` of a bind record (R143). -/
def Bind.ref (b : Bind) (slot i : Nat) : GroupRef := ⟨slot, b.lcid, b.quad * 256 + b.slot + i⟩

/-- Put a new group into its slot; a retired group that held it is forgotten. -/
def Context.putGroup (c : Context) (r : GroupRef) (g : Group) : Context :=
  { c with groups := c.groups.filter (fun x => x.1 != r) ++ [(r, g)] }

/-- The groups of an instance. -/
def Context.groupsOf (c : Context) (recNum inst : Nat) : List (GroupRef × Group) :=
  c.groups.filter (fun x => x.2.ctl.recNum == recNum && x.2.ctl.ganginst == inst)

/-- The whole L1 of the working core of a logical core is invalidated (R149): no read that it has in progress fills it. -/
def State.clearL1 (s : State) (slot lcid : Nat) : State :=
  match (s.lc slot lcid).placed with
  | some p => (s.modCore p.1 p.2 (fun c => { c with l1 := [] })).passReads (fun x => s.coreOf x.who == some p)
  | none => s

/-- Every group of an instance becomes eligible; under a halt its splits have no skid. -/
def Context.openGroups (c : Context) (recNum inst : Nat) (halted : Bool) : Context :=
  let enter (g : Group) : Group :=
    { g with
      ctl := { g.ctl with eligible := true }
      splits := g.splits.map (fun sp => if sp.inUse && halted && sp.skid.isNone then { sp with skid := some (0, 0) } else sp) }
  Context.modInst
    { c with groups := c.groups.map (fun x =>
        if x.2.ctl.recNum = recNum ∧ x.2.ctl.ganginst = inst then (x.1, enter x.2) else x) }
    recNum inst (fun x => { x with binding := false })

/-- The last record of an instance: L1s are invalidated, every group becomes eligible at once; in an instance that a halt has
reached, no split issues any more (R269). -/
def State.openInst (s : State) (slot recNum inst : Nat) : State :=
  match s.ctx slot with
  | none => s
  | some c =>
    match c.inst? recNum inst with
    | none => s
    | some i =>
      let halted := decide (i.halt ≠ .none)
      let s1 := i.lcids.foldl (fun acc l => acc.clearL1 slot l) s
      s1.modCtx slot (fun c => c.openGroups recNum inst halted)

/-- The record is the first of the dispatch queue of its die: no earlier one stands for a logical core of that die, in any context, and
the join space of its context is not stopped for debug (R252, R303). A record of a context in a debug stop stays at the head of its die's
queue, and later records for that die wait behind it until RESUME. DESIGN CHOICE (log 50). -/
def State.bindFirst (s : State) (c : Context) (b : Bind) : Bool :=
  !c.debugging && s.ctxs.all (fun x => match x with
    | some y => y.binds.all (fun z => decide (b.ord ≤ z.ord) || (y.lc z.lcid).die != (c.lc b.lcid).die)
    | none => true)

/-- BIND_RECORD_DISPATCH (R252). -/
def State.dispatchBind (s : State) (slot : Nat) : State :=
  match s.ctx slot with
  | none => s
  | some c =>
    if !s.clocked || c.destroying then s
    else match c.binds with
    | [] => s
    | b :: bs =>
      if !s.bindFirst c b then s
      else
      let c1 := (List.range b.gcount).foldl (fun acc i => acc.putGroup (b.ref slot i) (b.group i)) { c with binds := bs }
      let s1 := s.setCtx slot c1
      if b.last then s1.openInst slot b.recNum b.inst else s1

/-! ## Retirement -/

def Group.ended (g : Group) : Bool := g.ctl.retired || (g.ctl.eligible && g.usedSplits.all (fun k => (g.split k).st == .halted))

/-- Every store, copy, record and post of an instance's groups has been performed, and its groups have retired or halted. -/
def Context.instQuiet (c : Context) (i : GangInst) : Bool :=
  let mine := c.groupsOf i.recNum i.inst
  !i.binding
    && mine.all (fun x => x.2.ended && x.2.storeQ.isEmpty && x.2.inflight.isEmpty && !c.joinBusy x.1)
    && i.lcids.all (fun l => (c.lc l).outbound.isEmpty
        && !(c.lc l).cpas.any (fun x => x.recNum == i.recNum && x.ganginst == i.inst && !x.failed)
        && !(c.lc l).engine.any (fun e => ((c.lc l).kick e.entry).recNum == i.recNum && ((c.lc l).kick e.entry).ganginst == i.inst))

/-- The instance retires: its groups leave, its record counts it, its scope is told (R217). -/
def State.retireInst (s : State) (slot recNum inst : Nat) : State :=
  s.modCtx slot (fun c =>
    match c.inst? recNum inst with
    | none => c
    | some i =>
      let c1 : Context := { c with
        groups := c.groups.filter (fun x => !(x.2.ctl.recNum == recNum && x.2.ctl.ganginst == inst))
        insts := c.insts.filter (fun x => !(x.recNum == recNum && x.inst == inst))
        lcs := c.lcs.map (fun l => { l with cpas := l.cpas.filter (fun x => !(x.recNum == recNum && x.ganginst == inst)) }) }
      (c1.modRecord recNum (fun r => { r with running := r.running - 1, error := r.error || i.error })).recordDone s.cycles recNum)

/-- The working core whose engine a completion is of: its die and its number in it. R19 orders posts of one cycle by ascending core number, and
core numbers begin again in each die: the model orders them by the die first, then by the core. DESIGN CHOICE (log 22). -/
def State.engineCore (s : State) : Instr → List Nat
  | .cpaCopyCompletion slot lcid _ | .recordCompletion slot lcid _ _ => (((s.lc slot lcid).placed).map (fun p => [p.1, p.2])).getD []
  | _ => []

/-- Hold a completion unseen during a debug stop, or let it take effect (R303). -/
def State.heldOr (s : State) (slot : Nat) (i : Instr) (f : State → State) : State :=
  match s.ctx slot with
  | none => s
  | some c =>
    if c.debugging then
      (if c.dbg.has i then s
       else s.setCtx slot { c with dbg := { c.dbg with held := c.dbg.held ++ [(s.cycles, s.engineCore i, i)] } })
    else f s

/-- HOLD of the context's fault ring (R271). -/
def State.holds (s : State) (slot : Nat) : Bool := ((s.die (s.joinDie slot)).slot slot).fring.base.getLsbD 4

/-- What INSTANCE_RETIREMENT does outside a debug stop: a halted instance under HOLD is held. -/
def State.retireOrHold (s : State) (slot recNum inst : Nat) : State :=
  match s.ctx slot with
  | none => s
  | some c =>
    match c.inst? recNum inst with
    | none => s
    | some i =>
      if i.halt = .spreading ∧ s.holds slot then s.setCtx slot (c.modInst recNum inst (fun x => { x with halt := .held x.seq }))
      else s.retireInst slot recNum inst

/-- INSTANCE_RETIREMENT. -/
def State.instRetirement (s : State) (slot recNum inst : Nat) : State :=
  match s.ctx slot with
  | none => s
  | some c =>
    match c.inst? recNum inst with
    | none => s
    | some i =>
      let isHeld : Bool := match i.halt with
        | .held _ => true
        | .none | .spreading => false
      if isHeld || !c.instQuiet i || !s.clocked then s
      else s.heldOr slot (.instanceRetirement slot recNum inst) (fun x => x.retireOrHold slot recNum inst)

/-- HALTREL (R271): a number that names no held instance is ignored. -/
def State.haltrel (s : State) (die slot : Nat) (seq : BitVec 32) : State :=
  match s.ctx slot with
  | none => s
  | some c =>
    if c.joinDie ≠ die then s
    else match c.insts.find? (fun i => i.halt == .held seq) with
      | none => s
      | some i => s.retireInst slot i.recNum i.inst

/-! ## Halts and timers reach their splits -/

/-- HALT_PROPAGATION: within its skid a sibling stops where it stands (R270, R271). -/
def State.haltPropagates (s : State) (r : SplitRef) : State :=
  match s.split? r with
  | some sp => if sp.skid.isSome && s.clocked then s.haltSplit r else s
  | none => s

/-- Records of the KICKs of a halted instance that have not started are not started; their entries are CANCELLED (R270). -/
def LogicalCore.cancelUnstarted (l : LogicalCore) (recNum inst : Nat) : LogicalCore :=
  let mine (e : Nat) : Bool := (l.kick e).recNum == recNum && (l.kick e).ganginst == inst
  let hit := (l.engine.filter (fun x => !x.started && mine x.entry)).map (fun x => x.entry)
  if hit.isEmpty then l
  else
    { l with
      engine := l.engine.filter (fun x => x.started || !mine x.entry)
      kicks := hit.foldl (fun ks e => regMod ks e (fun k => if k.st = .pending then { k with st := .cancelled } else k)) l.kicks }

/-- Once every split of a halting instance has stopped. -/
def Context.haltKicks (c : Context) : Context :=
  c.insts.foldl (fun acc i =>
    if i.halt = .none ∨ i.binding ∨ !(acc.groupsOf i.recNum i.inst).all (fun x => x.2.ended) then acc
    else { acc with lcs := acc.lcs.map (fun l => l.cancelUnstarted i.recNum i.inst) }) c

/-- TIMER_EXPIRY (R268). -/
def State.timerExpires (s : State) (r : GroupRef) : State :=
  if !s.clocked then s
  else s.modGroup r (fun g => if g.trap.tdue then { g with trap := { g.trap with tdue := false, tpend := true } } else g)

/-- Core cycles after which an eligible split is boosted (R254). -/
def boostCycles : Nat := 16384

/-- ISSUE_AGE_BOOST. -/
def State.boost (s : State) (r : SplitRef) : State :=
  if !s.clocked then s
  else s.modSplit r (fun sp => match sp.age with
    | some a => if sp.st = .ready ∧ a + boostCycles ≤ s.cycles then { sp with boosted := true } else sp
    | none => sp)

/-! ## Completions -/

/-- A long-latency instruction of a kind completes (R60, R157, R134); the rows of an MST have then left (R369). -/
def State.complete (s : State) (r : GroupRef) (n : Nat) (kind : Unit3) : State :=
  if !s.clocked then s
  else
    let s1 := if kind = .matrix then (s.mmaRead r (fun p => p.id == n)).drainMst r n else s
    s1.modGroup r (fun g => match g.inflight.find? (fun p => p.id == n && p.kind == kind) with
      | some p => g.finish p
      | none => g)

/-- STORE_QUEUE_DRAIN (R147). -/
def State.drains (s : State) (r : GroupRef) : State := if s.clocked then s.drainOne r else s

end Sys2Proof.Machine
end

