-- ==== Sys2Proof/Machine/Engine.lean ====
section
/-! DEFINITION. Engine.lean: the copy engine: copy request and layout records (08 R183 to R188), the start, progress, completion and
failure of records (R189 to R191, R203), cancellation (R194, 17 R350), CPA copies (R180), publish flips (R200). -/

namespace Sys2Proof.Machine

open Sys2Proof

/-! ## Layout records (Table 8.2) -/

structure Layout where
  rank   : Nat
  fmt    : Option ElemFmt
  code   : BitVec 8
  oob    : Nat
  rot    : Nat
  base   : DWord
  box    : List Nat
  dim    : List Nat
  stride : List Nat
  raw    : Nat

/-- A layout record; strides of dimensions 0 to 4, that of dimension 0 unused. -/
def layoutOf (b : List Byte) : Layout :=
  let x := leNat b
  { rank := bitsOf x 0 3, fmt := elemFmt (BitVec.ofNat 8 (bitsOf x 8 8)), code := BitVec.ofNat 8 (bitsOf x 8 8)
    oob := bitsOf x 16 2, rot := bitsOf x 18 4, base := BitVec.ofNat 64 (bitsOf x 64 64)
    box := (List.range 5).map (fun k => bitsOf x (24 + 8 * k) 8), dim := (List.range 5).map (fun k => bitsOf x (160 + 32 * k) 32)
    stride := 0 :: (List.range 4).map (fun k => bitsOf x (320 + 48 * k) 48), raw := x }

def Layout.width (l : Layout) : Nat := match l.fmt with
  | some f => f.width
  | none => 8
def at0 (l : List Nat) (k : Nat) : Nat := regGet 0 l k
/-- Rows of a box and bytes of one. -/
def Layout.rows (l : Layout) : Nat := (at0 l.box 1 + 1) * (at0 l.box 2 + 1) * (at0 l.box 3 + 1) * (at0 l.box 4 + 1)
def Layout.rowBytes (l : Layout) : Nat := (at0 l.box 0 + 1) * l.width / 8
/-- Bytes a record counts (R188). -/
def recCount (c : CopyRec) (l : Layout) : Nat := if c.laid then l.rows * l.rowBytes else c.len

/-- Source and destination addresses, that of a laid-out side being its BASE. -/
def CopyRec.from_ (c : CopyRec) (l : Layout) : DWord := if c.slay then l.base else c.src
def CopyRec.to_ (c : CopyRec) (l : Layout) : DWord := if c.dlay then l.base else c.dst

/-- The add-reduce element of OP 1 and OP 2. -/
def reduceFmt (op : Nat) : Option BinFmt := if op = 1 then some fmtF32 else if op = 2 then some fmtBF16 else none

/-- RSVD fields and reserved codes of a layout record (Table 8.2). -/
def layoutRsvd (l : Layout) : Bool :=
  let x := l.raw
  bitsOf x 128 32 != 0 || bitsOf x 22 2 != 0 || bitsOf x 3 5 != 0 || l.rank == 0 || decide (5 < l.rank) || decide (2 ≤ l.oob)
    || l.fmt.isNone

/-- R187. -/
def layoutBad (c : CopyRec) (l : Layout) : Bool :=
  let beyond := (List.range 5).filter (fun k => decide (l.rank ≤ k))
  let flatPath := addrPath (if c.slay then c.dst else c.src)
  layoutRsvd l || ((List.range 5).filter (fun k => decide (k < l.rank))).any (fun k => at0 l.dim k == 0)
    || beyond.any (fun k => at0 l.dim k != 0 || at0 l.stride k != 0 || at0 l.box k != 0 || regGet 0 c.coord k != 0)
    || (decide (l.width < 8) && ((at0 l.box 0 + 1) * l.width % 8 != 0 || decide (regGet 0 c.coord 0 * l.width % 8 ≠ 0)))
    || decide (2 ^ 32 ≤ l.rows * l.rowBytes)
    || (c.op == 1 && l.code != 0xD0) || (c.op == 2 && l.code != 0xC0)
    || (l.rot != 0 && !(flatPath == 3 || flatPath == 4))

/-- RSVD fields and reserved codes of a copy request record (Table 8.1): a field that a bit of the record makes RSVD is zero, a layout offset is
RSVD above bit 19. -/
def recordRsvd (c : CopyRec) : Bool :=
  decide (3 < c.op) || bitsOf c.raw 416 32 != 0 || bitsOf c.raw 52 12 != 0 || bitsOf c.raw 28 4 != 0
    || (c.auto && c.tag != 0) || (!c.tben && c.tb != 0) || (!c.pen && c.port != 0)
    || (c.op != 3 && c.fill != 0) || (c.op == 3 && c.src != 0)
    || (if c.laid then c.len != 0 else c.coord.any (fun x => x != 0))
    || (c.slay && c.src.extractLsb' 20 44 != 0) || (c.dlay && c.dst.extractLsb' 20 44 != 0)

/-- R184: ill-formed, with cause FORMAT. A layout offset, like the record, is 64-byte aligned. -/
def recordBad (c : CopyRec) (l : Layout) : Bool :=
  let w := if c.op = 1 then 4 else if c.op = 2 then 2 else 1
  recordRsvd c || (c.slay && c.dlay) || (c.op == 3 && c.slay) || c.tb % 16 != 0 || (!c.laid && c.len == 0)
    || (c.slay && c.src.extractLsb' 0 6 != 0) || (c.dlay && c.dst.extractLsb' 0 6 != 0)
    || (c.laid && layoutBad c l)
    || (c.shadow && addrPath (c.to_ l) != 6)
    || (c.to_ l).toNat % w != 0 || (c.op != 3 && (c.from_ l).toNat % w != 0) || c.len % w != 0

/-- Paths that Table 6.2 forbids (R184). -/
def recordForbidden (c : CopyRec) (l : Layout) : Option DWord :=
  let d := c.to_ l
  if c.op ≠ 3 ∧ !pathPermits (addrPath (c.from_ l)) .eread then some (c.from_ l)
  else if !(c.shadow && addrPath d == 6) && !pathPermits (addrPath d) .ewrite then some d
  else none

/-! ## Engine accesses -/

/-- The answer of a step of the engine; a failure keeps what had been written. -/
inductive EngRes where
  | ok (s : State)
  | wait (s : State)
  | fail (e : Exc) (s : State)

/-- The access context of an engine request. -/
def State.engCx (s : State) (who : Waiter) (slot lcid : Nat) : Cx := ⟨who, slot, lcid, 1024, s.portOf slot lcid⟩

/-- Read a range as an engine does; `acc` is the permission it needs, `hint` its reuse and L2 class. -/
def State.engRead (s : State) (cx : Cx) (acc : Acc) (hint : Nat) (addr : DWord) (n : Nat) : MRes (List Byte) :=
  match s.ctx cx.slot with
  | none => .fault (Exc.at .access addr)
  | some c =>
    match placeOf c cx.lcid addr with
    | some (.global _ va) => s.readV cx [] ⟨addr, va, n, acc, false, false⟩ hint
    | some (.scratch l off) =>
      if s.softScratch cx.slot l off n then .fault Exc.sramEcc
      else if Config.scratchBytes < off + n then .fault (Exc.at .access addr) else .ok (Cells.read (s.lc cx.slot l).scratch off n) s
    | some (.window l gh cls idx) =>
      (match s.group? ⟨cx.slot, l, gh⟩ with
       | some g => .ok ((List.range n).map (fun i => windowByte g cls (idx + i))) s
       | none => .fault (Exc.at .access addr))
    | some (.pub _ _) | none => .fault (Exc.at .access addr)

/-- Bytes of a register window that a write from `idx` may reach (R144, R203). -/
def windowReach (s : State) (slot l gh cls idx : Nat) : Nat :=
  match s.group? ⟨slot, l, gh⟩ with
  | some g => if g.ctl.retired then 0 else windowSize g cls - idx
  | none => 0

/-- Write bytes with the bits they change, as an engine does. -/
def State.engWrite (s : State) (cx : Cx) (addr : DWord) (bytes : List (Byte × Byte)) : EngRes :=
  match s.ctx cx.slot with
  | none => .fail (Exc.at .access addr) s
  | some c =>
    match placeOf c cx.lcid addr with
    | some (.global _ va) =>
      let q : VReq := ⟨addr, va, bytes.length, .ewrite, false, false⟩
      (match s.transRange cx q with
       | .fault e => .fail e s
       | .wait s1 => .wait s1
       | .ok ps s1 =>
         match s1.sendPieces cx q ps bytes with
         | .fault e => .fail e s1
         | .wait s2 => .wait s2
         | .ok _ s2 => .ok ((s2.touchPieces 0 ps).putAll cx.slot (pieceWrites ps bytes)))
    | some (.scratch l off) =>
      if Config.scratchBytes < off + bytes.length then .fail (Exc.at .access addr) s
      else .ok (s.putAll cx.slot (bytes.zipIdx.map (fun x => ⟨.scratch l (off + x.2), x.1.1, x.1.2⟩)))
    | some (.window l gh cls idx) =>
      let n := windowReach s cx.slot l gh cls idx
      let s1 := s.putAll cx.slot ((bytes.take n).zipIdx.map (fun x => ⟨.window l gh cls (idx + x.2), x.1.1, x.1.2⟩))
      if n < bytes.length then .fail (Exc.at .access (addr + BitVec.ofNat 64 n)) s1 else .ok s1
    | some (.pub _ _) | none => .fail (Exc.at .access addr) s

/-- Where a write to a publish buffer lands: its back backing, within SIZE (R200), once every load that selected that backing as front has been
performed (R199). -/
def State.shadowAddr (s : State) (cx : Cx) (addr : DWord) (n : Nat) : MRes DWord :=
  let id := bitsOf addr.toNat 52 8
  let off := bitsOf addr.toNat 0 32
  match s.pubBuffer cx id with
  | .fault e => .fault e
  | .wait s1 => .wait s1
  | .ok none _ => .fault (Exc.at .access addr)
  | .ok (some (a, b, size)) s1 =>
    let isB := !s1.frontB cx.slot id
    if bitsOf addr.toNat 32 20 ≠ 0 ∨ size < off + n then .fault (Exc.at .access addr)
    else if s1.pkg.remote.any (fun x => x.who.slot == cx.slot && x.front.contains (id, isB)) then .wait s1
    else .ok ((if isB then b else a) + BitVec.ofNat 64 off) s1

/-! ## Reduction -/

/-- round_RN(destination + source) per element (R185). -/
def reduceBytes (op : Nat) (old new : List Byte) : List Byte :=
  match reduceFmt op with
  | none => new
  | some f =>
    let w := f.width / 8
    (List.range (new.length / w)).flatMap (fun i =>
      natLe w (faddNum f .rn (f.decode (leNat ((old.drop (w * i)).take w))) (f.decode (leNat ((new.drop (w * i)).take w)))).1)

/-- FILLV repeated. -/
def fillBytes (v n : Nat) : List Byte := (List.range n).map (fun i => BitVec.ofNat 8 (v / 2 ^ (8 * (i % 4))))

/-- The type of an add-reduce's element as a flit names it. -/
def reduceTy (op : Nat) : AtomTy := if op = 1 then .f32 else .bf16x2

/-- An element of an add-reduce with a byte in the memory of a peer: its pieces. None for one that this device updates, and for an address that
R136 refuses, which the update refuses. -/
def State.farPieces (s : State) (cx : Cx) (addr : DWord) (w : Nat) : MRes (Option (VReq × List (TRes × Nat))) :=
  match (s.ctx cx.slot).bind (fun c => placeOf c cx.lcid addr) with
  | some (.global _ va) =>
    let q : VReq := ⟨addr, va, w, .ewrite, false, false⟩
    (s.transRange cx q).bind (fun ps s1 => .ok (if hasRemote ps then some (q, ps) else none) s1)
  | some (.scratch _ _) | some (.window _ _ _ _) | some (.pub _ _) | none => .ok none s

/-- The elements of a range with a byte in the memory of a peer, by number, each with its pieces. -/
def State.farElems (s : State) (cx : Cx) (addr : DWord) (w : Nat) :
    List Nat → List (Nat × VReq × List (TRes × Nat)) → MRes (List (Nat × VReq × List (TRes × Nat)))
  | [], acc => .ok acc s
  | i :: is, acc =>
    (s.farPieces cx (addr + BitVec.ofNat 64 (w * i)) w).bind (fun x s1 =>
      s1.farElems cx addr w is (match x with | some y => acc ++ [(i, y)] | none => acc))

/-- One element of an add-reduce with a byte in the memory of a peer. One within a page of the peer is one indivisible operation at its home
slice (R185, R142). One that a page boundary cuts, as an odd stride can place it, has two homes, and no one operation of a link reaches both: it
is read and written back in its parts, the remote parts before the local ones, which are written once every answer is there (`last`). DESIGN
CHOICE (log 46). -/
def State.farAdd (s : State) (cx : Cx) (op w : Nat) (i : Nat) (q : VReq) (ps : List (TRes × Nat)) (new : List Byte) (last : Bool) :
    MRes Unit :=
  let cut (s : State) : MRes Unit :=
    (s.readPieces cx [] q 0 ps).bind (fun old s1 =>
      let sum := (reduceBytes op old new).map (fun b => (b, (0xFF : Byte)))
      (s1.sendPieces cx q ps sum).bind (fun _ s2 =>
        .ok () (if last then (s2.touchPieces 0 ps).putAll cx.slot (pieceWrites ps sum) else s2)))
  match ps with
  | [(.remote rank pa, _)] =>
    (s.remoteDo cx rank (pa / 128) (secMask (pa % 128) w)
      (.rmw [(i, pa % 128, .atomic w .add (reduceTy op) (BitVec.ofNat 64 (leNat new)))]) (Exc.at .access q.addr)).bind (fun _ s1 => .ok () s1)
  | _ => cut s

/-- Those elements in order, with the bytes each adds; a wait leaves none unasked. -/
def State.farAdds (s : State) (cx : Cx) (op w : Nat) (bytes : List Byte) (last : Bool) :
    List (Nat × VReq × List (TRes × Nat)) → MRes Unit
  | [] => .ok () s
  | x :: xs =>
    match s.farAdd cx op w x.1 x.2.1 x.2.2 ((bytes.drop (w * x.1)).take w) last with
    | .ok _ s1 => s1.farAdds cx op w bytes last xs
    | .wait s1 => .wait ((s1.farAdds cx op w bytes last xs).waitOr s1)
    | .fault e => .fault e

/-- The elements of an add-reduce that this device updates: each is one read-modify-write within the engine's step. It asks its page for W, as an
engine write does; that it needs R too, as an atomic does, R164 does not say: DESIGN CHOICE (log 53). -/
def State.nearAdds (s : State) (cx : Cx) (op w : Nat) (addr : DWord) (bytes : List (Byte × Byte)) : List Nat → EngRes
  | [] => .ok s
  | i :: is =>
    let a := addr + BitVec.ofNat 64 (w * i)
    let mine := (bytes.drop (w * i)).take w
    match s.engRead cx .ewrite 0 a w with
    | .wait s1 => .wait s1
    | .fault e => .fail e s
    | .ok old s1 =>
      match s1.engWrite cx a (((reduceBytes op old (mine.map (fun x => x.1))).zip mine).map (fun x => (x.1, x.2.2))) with
      | .ok s2 => s2.nearAdds cx op w addr bytes is
      | .wait s2 => .wait s2
      | .fail e s2 => .fail e s2

/-- An add-reduce of a range (R185): the elements that `keep` names, those of peers first, which wait for their answers. -/
def State.reduceInto (s : State) (cx : Cx) (op w : Nat) (addr : DWord) (bytes : List (Byte × Byte)) (keep : Nat → Bool) : EngRes :=
  let elems := (List.range (bytes.length / w)).filter (fun i => keep (w * i))
  let new := bytes.map (fun x => x.1)
  match (s.farElems cx addr w elems []).bind (fun far s1 =>
    (s1.farAdds cx op w new false far).bind (fun _ s2 => (s2.farAdds cx op w new true far).bind (fun _ s3 => .ok far s3))) with
  | .wait s1 => .wait s1
  | .fault e => .fail e s
  | .ok far s1 => s1.nearAdds cx op w addr bytes (elems.filter (fun i => !far.any (fun x => x.1 == i)))

/-- Write bytes, keeping those that `keep` leaves out as they were, with the add-reduce of the record. -/
def State.unitWrite (s : State) (cx : Cx) (c : CopyRec) (addr : DWord) (bytes : List (Byte × Byte)) (keep : Nat → Bool) : EngRes :=
  let put (s : State) (a : DWord) (data : List (Byte × Byte)) : EngRes :=
    s.engWrite cx a (data.zipIdx.map (fun x => if keep x.2 then x.1 else (x.1.1, 0)))
  let go (s : State) (a : DWord) : EngRes :=
    match reduceFmt c.op with
    | some f => s.reduceInto cx c.op (f.width / 8) a bytes keep
    | none => put s a bytes
  if c.shadow then
    match s.shadowAddr cx addr bytes.length with
    | .ok a s1 => go s1 a
    | .wait s1 => .wait s1
    | .fault e => .fail e s
  else go s addr

def whole (b : List Byte) : List (Byte × Byte) := b.map (fun x => (x, 0xFF))

/-! ## Rows of a box (R188) -/

/-- The coordinate of row `r` in dimension `k` (1 to 4). -/
def rowCoord (c : CopyRec) (l : Layout) (r k : Nat) : Int :=
  let below := ((List.range (k - 1)).map (fun j => at0 l.box (j + 1) + 1)).foldl (fun a b => a * b) 1
  regGet 0 c.coord k + ((r / below % (at0 l.box k + 1) : Nat) : Int)

/-- Row `r` lies within the tensor in its outer dimensions. -/
def rowInside (c : CopyRec) (l : Layout) (r : Nat) : Bool :=
  (List.range 4).all (fun j => decide (l.rank ≤ j + 1) ||
    (decide (0 ≤ rowCoord c l r (j + 1)) && decide (rowCoord c l r (j + 1) < (at0 l.dim (j + 1) : Int))))

/-- The elements of a row within the tensor: the first and how many. -/
def rowSpan (c : CopyRec) (l : Layout) (r : Nat) : Nat × Nat :=
  let c0 := regGet 0 c.coord 0
  let lo := (min (max (-c0) 0) ((at0 l.box 0 : Int) + 1)).toNat
  let hi := (min (max ((at0 l.dim 0 : Int) - c0) 0) ((at0 l.box 0 : Int) + 1)).toNat
  if rowInside c l r && decide (lo < hi) then (lo, hi - lo) else (0, 0)

/-- The address of the first byte of a row. -/
def rowAddr (c : CopyRec) (l : Layout) (r : Nat) : DWord :=
  let outer := (List.range 4).foldl (fun acc j => acc + rowCoord c l r (j + 1) * (at0 l.stride (j + 1) : Int)) 0
  l.base + BitVec.ofInt 64 (outer + regGet 0 c.coord 0 * l.width / 8)

/-- The code that fills an element out of bounds. -/
def oobCode (l : Layout) : Nat :=
  if l.oob = 0 then 0
  else match l.fmt with
    | some (.narrow f) => f.nanCode
    | some (.wide f) => f.qnan
    | none => 0

/-- The bits of a run of elements that lie in a row's bytes. -/
def spanBits (l : Layout) (sp : Nat × Nat) : Nat := (2 ^ (sp.2 * l.width) - 1) * 2 ^ (sp.1 * l.width)

/-- A row as the flat side receives it: the bits read for its inside, the fill elsewhere. -/
def flatRow (l : Layout) (sp : Nat × Nat) (bits : Nat) : List Byte :=
  let n := at0 l.box 0 + 1
  let fills := (List.range n).foldl (fun acc i =>
    if sp.1 ≤ i ∧ i < sp.1 + sp.2 then acc else acc + oobCode l * 2 ^ (i * l.width)) 0
  natLe l.rowBytes (bits &&& spanBits l sp ||| fills)

/-- The rotated place of byte `i` of flat row `r` (R130, R188). -/
def flatPlace (l : Layout) (addr : DWord) (r i : Nat) : DWord :=
  let off := addr.toNat + r * l.rowBytes + i
  if l.rot = 0 then BitVec.ofNat 64 off
  else BitVec.ofNat 64 (addr.toNat / 2 ^ 20 * 2 ^ 20 + rotByte l.rot r (addr.toNat % 2 ^ 20 + r * l.rowBytes + i))

/-- The flat side's row `r` receives bytes: each is placed by R130 with the record's rotation. What the engine reads of a flat source is not
rotated: R141 applies the rotation to engine writes alone (log 24). -/
def State.writeFlat (s : State) (cx : Cx) (c : CopyRec) (l : Layout) (addr : DWord) (r : Nat) (b : List Byte) (keep : Nat → Bool) :
    EngRes :=
  if l.rot = 0 then s.unitWrite cx c (flatPlace l addr r 0) (whole b) keep
  else match reduceFmt c.op with
    | none => b.zipIdx.foldl (fun acc x => match acc with
        | .ok s1 => s1.unitWrite cx c (flatPlace l addr r x.2) (whole [x.1]) (fun _ => keep x.2)
        | .wait s1 => .wait s1
        | .fail e s1 => .fail e s1) (.ok s)
    | some f =>
      let w := f.width / 8
      (List.range (b.length / w)).foldl (fun acc i => match acc with
        | .ok s1 => s1.unitWrite cx c (flatPlace l addr r (w * i)) (whole ((b.drop (w * i)).take w)) (fun _ => keep (w * i))
        | .wait s1 => .wait s1
        | .fail e s1 => .fail e s1) (.ok s)

/-- The bytes of row `r` that lie inside the tensor: the first, by its number in the row, and how many. -/
def rowInner (c : CopyRec) (l : Layout) (r : Nat) : Nat × Nat :=
  let sp := rowSpan c l r
  let first := sp.1 * l.width / 8
  (first, if sp.2 = 0 then 0 else ((sp.1 + sp.2) * l.width + 7) / 8 - first)

/-- Row `r` of a record whose source is laid out; `keep` names the bytes of the row that are performed. -/
def State.gatherStep (s : State) (cx : Cx) (c : CopyRec) (l : Layout) (r : Nat) (keep : Nat → Bool) : EngRes :=
  let sp := rowSpan c l r
  let (first, n) := rowInner c l r
  if sp.2 = 0 then s.writeFlat cx c l c.dst r (flatRow l sp 0) keep
  else match s.engRead cx .eread 0 (rowAddr c l r + BitVec.ofNat 64 first) n with
    | .ok b s1 => s1.writeFlat cx c l c.dst r (flatRow l sp (leNat b * 2 ^ (8 * first))) keep
    | .wait s1 => .wait s1
    | .fault e => .fail e s

/-- The bits of a row that a fill gives each of its elements. -/
def fillRow (c : CopyRec) (l : Layout) : Nat :=
  (List.range (at0 l.box 0 + 1)).foldl (fun acc i => acc + c.fill % 2 ^ l.width * 2 ^ (i * l.width)) 0

/-- Row `r` of a record whose destination is laid out: only elements inside are written, of them the bytes of the row that `keep` names. -/
def State.scatterStep (s : State) (cx : Cx) (c : CopyRec) (l : Layout) (r : Nat) (keep : Nat → Bool) : EngRes :=
  let sp := rowSpan c l r
  let (first, n) := rowInner c l r
  let mask := natLe n (spanBits l sp / 2 ^ (8 * first))
  let put (s : State) (bits : Nat) : EngRes :=
    s.unitWrite cx c (rowAddr c l r + BitVec.ofNat 64 first) ((natLe n (bits / 2 ^ (8 * first))).zip mask) (fun i => keep (first + i))
  if sp.2 = 0 then .ok s
  else if c.op = 3 then put s (fillRow c l)
  else match s.engRead cx .eread 0 (c.src + BitVec.ofNat 64 (r * l.rowBytes)) l.rowBytes with
    | .ok b s1 => put s1 (leNat b)
    | .wait s1 => .wait s1
    | .fault e => .fail e s

/-! ## Units of progress

R185 lets an agent that is not ordered with a record see each aligned 16-byte unit of its destination old or new, and nothing else: what one
turn performs is made of whole such units. The model performs the bytes of 512-byte blocks of a flat destination, one row of a box whose rows
share no unit, or else the whole box, in one turn, and these in ascending order. DESIGN CHOICE (log 52). -/

def flatUnit : Nat := 512

/-- Where turn `u` of a flat record begins: a multiple of 16 of its destination, but for the first. -/
def flatStart (c : CopyRec) (u : Nat) : Nat := flatUnit * u - c.dst.toNat % 16

/-- The 16-byte units of its destination that a row writes. -/
def rowChunks (c : CopyRec) (l : Layout) (r : Nat) : List Nat :=
  if c.slay then
    let at_ := c.dst.toNat + r * l.rowBytes
    (List.range ((at_ + l.rowBytes - 1) / 16 + 1 - at_ / 16)).map (fun k =>
      (flatPlace l c.dst r (max at_ (16 * (at_ / 16 + k)) - at_)).toNat / 16)
  else
    let (first, n) := rowInner c l r
    let at_ := (rowAddr c l r).toNat + first
    if n = 0 then [] else (List.range ((at_ + n - 1) / 16 + 1 - at_ / 16)).map (fun k => at_ / 16 + k)

/-- No two rows of a box write into one unit. -/
def rowsApart (c : CopyRec) (l : Layout) : Bool :=
  (List.range l.rows).all (fun r => (List.range r).all (fun q => !(rowChunks c l r).any (fun u => (rowChunks c l q).contains u)))

/-- The rows of a box that one turn performs. -/
def turnRows (c : CopyRec) (l : Layout) : Nat := if rowsApart c l then 1 else max 1 l.rows

/-- The turns of a record, and the bytes of it, in flat-side order, that come before turn `u`. -/
def recUnits (c : CopyRec) (l : Layout) : Nat :=
  if c.laid then (l.rows + turnRows c l - 1) / turnRows c l else (c.len + c.dst.toNat % 16 + flatUnit - 1) / flatUnit
def unitStart (c : CopyRec) (l : Layout) (u : Nat) : Nat := if c.laid then u * turnRows c l * l.rowBytes else flatStart c u

/-- The turn in which byte `n` of a record is performed, and the bytes of that turn before it. -/
def unitAt (c : CopyRec) (l : Layout) (n : Nat) : Nat × Nat :=
  let u := if c.laid then n / (turnRows c l * l.rowBytes) else (n + c.dst.toNat % 16) / flatUnit
  (u, n - unitStart c l u)

/-- Turn `u` of a flat record. -/
def State.flatStep (s : State) (cx : Cx) (c : CopyRec) (u : Nat) (keep : Nat → Bool) : EngRes :=
  let n := min (flatStart c (u + 1)) c.len - flatStart c u
  let off := BitVec.ofNat 64 (flatStart c u)
  if c.op = 3 then s.unitWrite cx c (c.dst + off) ((whole (fillBytes c.fill (flatStart c u % 4 + n))).drop (flatStart c u % 4)) keep
  else match s.engRead cx .eread 0 (c.src + off) n with
    | .ok b s1 => s1.unitWrite cx c (c.dst + off) (whole b) keep
    | .wait s1 => .wait s1
    | .fault e => .fail e s

/-- Rows of a record, the first of them row `r0`, whose bytes `keep` numbers. -/
def State.rowSteps (s : State) (cx : Cx) (c : CopyRec) (l : Layout) (r0 : Nat) (keep : Nat → Bool) : List Nat → EngRes
  | [] => .ok s
  | j :: js =>
    let mine (i : Nat) : Bool := keep (j * l.rowBytes + i)
    match (if c.slay then s.gatherStep cx c l (r0 + j) mine else s.scatterStep cx c l (r0 + j) mine) with
    | .ok s1 => s1.rowSteps cx c l r0 keep js
    | .wait s1 => .wait s1
    | .fail e s1 => .fail e s1

/-- One turn of a record: its bytes, numbered from the first of the turn, that `keep` names. While a row waits for a peer or a promotion, the
turn has only made its requests. DEDUCED (log 24). -/
def State.unitStep (s : State) (cx : Cx) (c : CopyRec) (l : Layout) (u : Nat) (keep : Nat → Bool) : EngRes :=
  if c.laid then
    let r0 := u * turnRows c l
    match s.rowSteps cx c l r0 keep (List.range (min (turnRows c l) (l.rows - r0))) with
    | .wait s1 => .wait { s with req := s1.req, pkg := s1.pkg, freeCtr := s1.freeCtr }
    | x => x
  else s.flatStep cx c u keep

/-! ## Records in the engine -/

def LogicalCore.engRec? (l : LogicalCore) (entry idx : Nat) : Option EngRec := l.engine.find? (fun x => x.entry == entry && x.idx == idx)
def LogicalCore.modRec (l : LogicalCore) (entry idx : Nat) (f : EngRec → EngRec) : LogicalCore :=
  { l with engine := l.engine.map (fun x => if x.entry = entry ∧ x.idx = idx then f x else x) }

/-- Each aligned 8-byte field of a record: as it was at the KICK, or as it stands now, by free draws (R190). -/
def mixFields (d base : Nat) (old new : List Byte) : List Byte :=
  (List.range 8).flatMap (fun i => ((if Config.mixNew d (base + i) then new else old).drop (8 * i)).take 8)

/-- A record as the engine comes to read it: with its layout record where it names one. -/
def EngRec.read (x : EngRec) (d : Nat) (scratch : Cells) : EngRec :=
  let b := mixFields d (16 * x.idx) x.bytes (Cells.read scratch x.off 64)
  let c := copyRec b
  let at_ := layoutAt c
  let now := Cells.read scratch at_ 64
  { x with
    bytes := b, loaded := true
    layout := if !c.laid then [] else if x.layout.length = 64 ∧ layoutAt (copyRec x.bytes) = at_ then
        mixFields d (16 * x.idx + 8) x.layout now else now }

/-- Read every record of a KICK with its layout record, before the first of them starts (R190). -/
def LogicalCore.loadKick (l : LogicalCore) (d entry : Nat) : LogicalCore :=
  { l with engine := l.engine.map (fun x => if x.entry = entry ∧ !x.loaded then x.read d l.scratch else x) }

/-- An uncorrectable error stands in what the engine reads for a record: the record, or its layout record (R203). -/
def State.recordEcc (s : State) (slot lcid : Nat) (x : EngRec) : Bool :=
  let c := copyRec x.bytes
  s.softScratch slot lcid x.off 64 || (c.laid && s.softScratch slot lcid (layoutAt c) 64)

/-- The records of a KICK, just read, that meet ECC fail (R203). -/
def LogicalCore.failReads (l : LogicalCore) (entry : Nat) (bad : EngRec → Bool) : LogicalCore :=
  { l with engine := l.engine.map (fun x => if x.entry = entry ∧ bad x then { x with fail := some (.ecc, 0) } else x) }

/-- A record of a KICK has failed: those of it that have not started are not started (R203). -/
def LogicalCore.kickFails (l : LogicalCore) (entry : Nat) : Bool := l.engine.any (fun x => x.entry == entry && x.fail.isSome)

/-- The record to start next: KICKs in their order, records of one KICK in order (R189). -/
def LogicalCore.nextStart (l : LogicalCore) : Option EngRec := l.engine.find? (fun x => !x.started && !l.kickFails x.entry)

/-- The tag a record takes; none while AUTOTAG finds no free one. -/
def LogicalCore.takeTag (l : LogicalCore) (c : CopyRec) : Option Nat :=
  if c.auto then (List.range 64).find? (fun t => l.tags.getLsbD t && !l.tagBusy t) else some c.tag

/-- The engine of a logical core may start records. -/
def State.engineStarts (s : State) (slot lcid : Nat) : Bool :=
  s.clocked && (s.lc slot lcid).placed.isSome && (match s.ctx slot with
    | some c => c.park == .none && !c.destroying
    | none => false)

/-- An ECC that an engine's access meets is logged (Table 12.6). -/
def State.engineEcc (s : State) (slot lcid : Nat) (e : Exc) : State :=
  s.logEcc slot (s.dieOf slot lcid) (s.portOf slot lcid).core e

/-- RECORD_START (R183, R184, R189, R190): an ill-formed record, one on a forbidden path, or one whose read meets ECC fails (R203). -/
def State.recordStart (s : State) (slot lcid entry idx : Nat) : State :=
  let l := s.lc slot lcid
  match l.nextStart with
  | none => s
  | some x =>
    if !s.engineStarts slot lcid || x.entry ≠ entry || x.idx ≠ idx then s
    else
      let (d, s) := s.draw
      let l1 := l.loadKick d entry
      if !x.loaded && l1.engine.any (fun y => y.entry == entry && s.recordEcc slot lcid y) then
        (s.engineEcc slot lcid Exc.sramEcc).modLc slot lcid (fun _ => l1.failReads entry (s.recordEcc slot lcid))
      else match l1.engRec? entry idx with
      | none => s
      | some y =>
        let c := copyRec y.bytes
        let lay := layoutOf y.layout
        let failing (e : Cause × DWord) : State := s.modLc slot lcid (fun _ => l1.modRec entry idx (fun z => { z with fail := some e }))
        if recordBad c lay then failing (.format, 0)
        else match recordForbidden c lay with
          | some a => failing (.access, a)
          | none =>
            match l1.takeTag c with
            | none => s.modLc slot lcid (fun _ => l1)
            | some t =>
              s.modLc slot lcid (fun _ =>
                { (l1.modRec entry idx (fun z => { z with started := true, tag := t })) with
                  tags := l1.tags &&& ~~~(BitVec.ofNat 64 (2 ^ t)) })

/-- A waiting engine request enters the fault queue (R170); with no free entry it tries again. -/
def State.engineFault (s : State) (slot lcid : Nat) (e : Exc) (w : Waiter) (mark : LogicalCore → LogicalCore) : State :=
  match s.faultEnter (s.dieOf slot lcid) (s.lcChan slot lcid) slot lcid e w with
  | some s1 => s1.modLc slot lcid mark
  | none => s

/-- The bytes of its current turn that a remainder has not performed. -/
def EngRec.rest (x : EngRec) (i : Nat) : Bool := decide (x.skip ≤ i)

/-- The engine performs the next unit of a started record. Stores that have left their groups' queues come first. -/
def State.chunk (s0 : State) (slot lcid entry idx : Nat) : State :=
  match (s0.lc slot lcid).engRec? entry idx with
  | none => s0
  | some x =>
    let c := copyRec x.bytes
    let lay := layoutOf x.layout
    if !s0.clocked || !x.started || x.faulted || x.fail.isSome || decide (recUnits c lay ≤ x.done) then s0
    else
      let s := s0.performAll slot lcid
      let who : Waiter := .record slot lcid entry idx
      match s.unitStep (s.engCx who slot lcid) c lay x.done x.rest with
      | .ok s1 => (s1.remoteDone who).modLc slot lcid (fun l => l.modRec entry idx (fun y => { y with done := y.done + 1, skip := 0 }))
      | .wait s1 => s1
      | .fail e s1 =>
        if e.cause = .xlate then
          s.engineFault slot lcid e who (fun l => l.modRec entry idx (fun y => { y with faulted := true }))
        else ((s1.remoteDone who).engineEcc slot lcid e).modLc slot lcid (fun l =>
          l.modRec entry idx (fun y => { y with fail := some (e.cause, e.addr) }))

/-- The rest of a stopped record's destination: any mixture of old and new bytes (R194, R203), by free draws. -/
def State.mixTail (s : State) (slot lcid : Nat) (x : EngRec) : State :=
  let c := copyRec x.bytes
  let lay := layoutOf x.layout
  if !x.started then s
  else
    let who : Waiter := .record slot lcid x.entry x.idx
    ((List.range (recUnits c lay - x.done)).foldl (fun acc u =>
      let (d, s1) := acc.draw
      match s1.unitStep (s1.engCx who slot lcid) c lay (x.done + u) (fun i => Config.mixNew d i && (u != 0 || x.rest i)) with
      | .ok s2 => s2
      | .wait _ => s1
      | .fail _ _ => s1) (s.performAll slot lcid)).remoteDone who

/-! ## Completion (R191) -/

def EngRec.ready (x : EngRec) : Bool :=
  x.started && !x.faulted && x.fail.isNone && decide (recUnits (copyRec x.bytes) (layoutOf x.layout) ≤ x.done)

/-- The completion as one event: tag, barrier, post, kick entry. An ECC of the barrier's update fails the record (R203). -/
def State.finishRecord (s : State) (slot lcid entry idx : Nat) : State :=
  match s.ctx slot, (s.lc slot lcid).engRec? entry idx with
  | some c, some x =>
    let rec_ := copyRec x.bytes
    let k := (s.lc slot lcid).kick entry
    let scope := match c.inst? k.recNum k.ganginst with
      | some i => i.scope
      | none => none
    if rec_.tben && s.softScratch slot lcid rec_.tb 16 then
      (s.engineEcc slot lcid Exc.sramEcc).modLc slot lcid (fun l => l.modRec entry idx (fun y => { y with fail := some (.ecc, 0) }))
    else
    let s1 := s.modLc slot lcid (fun l =>
      let l1 := l.dropRec entry idx
      let l2 := if rec_.tben then
          (let b := l1.tbar rec_.tb
           l1.setTbar rec_.tb ({ b with bytes := b.bytes - BitVec.ofNat 32 (recCount rec_ (layoutOf x.layout)) }).settle)
        else l1
      { l2 with kicks := regMod l2.kicks entry (fun k =>
          let m := k.doneMask ||| BitVec.ofNat 16 (2 ^ idx)
          { k with doneMask := m, st := if k.st = .pending ∧ m.toNat = 2 ^ k.count - 1 then .done else k.st }) })
    if rec_.pen then s1.extPost slot (.engine lcid) rec_.port ⟨rec_.payload, scope⟩ else s1
  | _, _ => s

/-- RECORD_COMPLETION. -/
def State.recordCompletion (s : State) (slot lcid entry idx : Nat) : State :=
  match (s.lc slot lcid).engRec? entry idx with
  | some x =>
    if x.ready && s.clocked then s.heldOr slot (.recordCompletion slot lcid entry idx) (fun y => y.finishRecord slot lcid entry idx) else s
  | none => s

/-! ## Failure (R203) -/

/-- The FAULT record of an engine's failure, whose SEQ names the halt. -/
def State.failRecord (s : State) (slot recNum inst : Nat) (a : RecordArgs) : State :=
  let x := s.record slot a
  x.2.modCtx slot (fun c => c.modInst recNum inst (fun i => { i with seq := if i.halt = .none then x.1 else i.seq }))

/-- The halt of the failure's instance. -/
def State.failHalt (s : State) (slot lcid recNum inst : Nat) : State :=
  match s.ctx slot with
  | none => s
  | some c =>
    match c.inst? recNum inst with
    | some i => s.spreadHalt slot recNum inst (some lcid) (some (s.dieOf slot lcid)) i.seq
    | none => s

/-- The entry becomes FAILED; its records that have not started are not started; the tag is released. -/
def LogicalCore.failKick (l : LogicalCore) (entry idx : Nat) : LogicalCore :=
  let l1 := l.dropRec entry idx
  { l1 with
    engine := l1.engine.filter (fun x => x.started || x.entry != entry)
    kicks := regMod l1.kicks entry (fun k => { k with st := .failed }) }

/-- What a failure does once it takes effect. -/
def State.finishFailure (s : State) (e : EngRef) : State :=
  match e with
  | .record slot lcid entry idx =>
    let k := (s.lc slot lcid).kick entry
    (s.modLc slot lcid (fun l => l.failKick entry idx)).failHalt slot lcid k.recNum k.ganginst
  | .cpa slot lcid n =>
    match (s.lc slot lcid).cpas.find? (fun x => x.num == n) with
    | some x =>
      (s.modLc slot lcid (fun l => { l with cpas := l.cpas.map (fun y =>
        if y.num = n then { y with failed := true, fail := none } else y) })).failHalt slot lcid x.recNum x.ganginst
    | none => s

/-- A failure is taken once: its record is written at its own tick, its effect waits for the end of a debug stop (R305). -/
def State.takeFailure (s : State) (slot recNum inst : Nat) (e : EngRef) (a : RecordArgs) (mix : State → State) : State :=
  match s.ctx slot with
  | none => s
  | some c =>
    if !s.clocked || c.dbg.has (.recordFailure e) then s
    else ((mix s).failRecord slot recNum inst a).heldOr slot (.recordFailure e) (fun x => x.finishFailure e)

/-- RECORD_FAILURE. -/
def State.recordFailure (s : State) (e : EngRef) : State :=
  match e with
  | .record slot lcid entry idx =>
    (match (s.lc slot lcid).engRec? entry idx with
     | some x =>
       (match x.fail with
        | some (cause, addr) =>
          let k := (s.lc slot lcid).kick entry
          s.takeFailure slot k.recNum k.ganginst e
            { die := s.dieOf slot lcid, chan := s.lcChan slot lcid, aux0 := BitVec.ofNat 64 x.off, aux1 := mkHandle lcid entry k.gen, addr := addr
              ganginst := k.ganginst, lcid := lcid, gh := k.gh, role := k.role, cause := causeCode cause, engine := true }
            (fun s => s.mixTail slot lcid x)
        | none => s)
     | none => s)
  | .cpa slot lcid n =>
    match (s.lc slot lcid).cpas.find? (fun x => x.num == n) with
    | some x =>
      (match x.fail with
       | some (cause, addr) =>
         s.takeFailure slot x.recNum x.ganginst e
           { die := s.dieOf slot lcid, chan := s.lcChan slot lcid, aux0 := BitVec.ofNat 64 x.dst, addr := addr, tmask := Mask.ofFn (fun j => j == x.lane)
             ganginst := x.ganginst, lcid := lcid, gh := x.gh, role := x.role, cause := causeCode cause, engine := true }
           (fun s => s)
       | none => s)
    | none => s

/-! ## CPA copies (R180, R181) -/

/-- The copy leaves its batch and the engine. -/
def State.finishCopy (s : State) (slot lcid n : Nat) : State :=
  s.modCtx slot (fun c =>
    { (c.modLc lcid (fun l => { l with cpas := l.cpas.filter (fun x => x.num != n) })) with
      groups := c.groups.map (fun x => if x.1.lcid = lcid then (x.1, { x.2 with batches := x.2.batches.map (Batch.perform n) }) else x) })

/-- The bytes that a copy writes: what it reads, with zeros beyond its valid bytes. -/
def State.copyRead (s : State) (slot lcid : Nat) (x : CpaCopy) : MRes (List Byte) :=
  if x.zero then .ok (List.replicate x.size 0) s
  else
    let s1 := s.performAll slot lcid
    (s1.engRead (s1.engCx (.cpa slot lcid x.num) slot lcid) .eread x.hint x.src x.valid).bind (fun b s2 =>
      .ok (b ++ List.replicate (x.size - b.length) 0) s2)

/-- The 16-byte units of a copy (R185). -/
def CpaCopy.allUnits (x : CpaCopy) : List Nat := List.range ((x.size + 15) / 16)

/-- Units of a copy are performed at the scratchpad. -/
def State.copyPut (s : State) (slot lcid : Nat) (x : CpaCopy) (b : List Byte) (us : List Nat) : State :=
  us.foldl (fun acc u => acc.putAll slot (((b.drop (16 * u)).take 16).zipIdx.map (fun y =>
    ⟨.scratch lcid (x.dst + 16 * u + y.2), y.1, 0xFF⟩))) s

/-- A copy's access fails: it waits in the fault queue, or its lane fails. -/
def State.copyFault (s : State) (slot lcid : Nat) (x : CpaCopy) (e : Exc) : State :=
  let mod (f : CpaCopy → CpaCopy) (l : LogicalCore) : LogicalCore :=
    { l with cpas := l.cpas.map (fun y => if y.num = x.num then f y else y) }
  if e.cause = .xlate then s.engineFault slot lcid e (.cpa slot lcid x.num) (mod (fun y => { y with faulted := true }))
  else ((s.remoteDone (.cpa slot lcid x.num)).engineEcc slot lcid e).modLc slot lcid (mod (fun y => { y with fail := some (e.cause, e.addr) }))

/-- The copy that a turn may perform something of. -/
def State.openCopy (s : State) (slot lcid n : Nat) : Option CpaCopy :=
  match (s.lc slot lcid).cpas.find? (fun x => x.num == n), s.ctx slot with
  | some x, some c =>
    if !s.clocked || x.faulted || x.fail.isSome || x.failed || c.dbg.has (.cpaCopyCompletion slot lcid n) then none else some x
  | _, _ => none

/-- One unit of a copy ahead of the rest: each 16-byte unit is old or new on its own until the copy completes (R185, R415). -/
def State.copyUnit (s : State) (slot lcid n u : Nat) : State :=
  match s.openCopy slot lcid n with
  | none => s
  | some x =>
    if x.units.contains u || !x.allUnits.contains u then s
    else match s.copyRead slot lcid x with
      | .ok b s1 => (s1.copyPut slot lcid x b [u]).modLc slot lcid (fun l =>
          { l with cpas := l.cpas.map (fun y => if y.num = n then { y with units := y.units ++ [u] } else y) })
      | .wait s1 => s1
      | .fault e => s.copyFault slot lcid x e

/-- CPA_COPY_COMPLETION: the units of the copy not yet performed are performed, and the copy is complete. -/
def State.copyCompletion (s : State) (slot lcid n : Nat) : State :=
  match s.openCopy slot lcid n with
  | none => s
  | some x =>
    match s.copyRead slot lcid x with
    | .ok b s1 =>
      ((s1.remoteDone (.cpa slot lcid n)).copyPut slot lcid x b (x.allUnits.filter (fun u => !x.units.contains u))).heldOr slot
        (.cpaCopyCompletion slot lcid n) (fun y => y.finishCopy slot lcid n)
    | .wait s1 => s1
    | .fault e => s.copyFault slot lcid x e

/-! ## HCANCEL -/

/-- Every record of the entry that has not completed is stopped, and the entry becomes CANCELLED unless every record had
completed (R194). A stopped record that waits in the fault queue waits there no longer. DESIGN CHOICE (log 50). -/
def State.cancelKick (s : State) (slot lcid e : Nat) : State :=
  let s1 := ((s.lc slot lcid).recordsOf e).foldl (fun acc x => acc.mixTail slot lcid x) s
  let s2 := s1.withdraw (fun w => match w with
    | .record k l n _ => k == slot && l == lcid && n == e
    | .split _ | .cpa _ _ _ | .start _ _ | .fire _ _ _ | .pref _ _ _ _ _ => false)
  s2.modLc slot lcid (fun l =>
    let l1 := (l.recordsOf e).foldl (fun acc x => acc.dropRec e x.idx) l
    { l1 with kicks := regMod l1.kicks e (fun k => if k.st = .done then k else { k with st := .cancelled }) })

/-- HCANCEL hA (R350). -/
def hcancelRes (gd : Guard) (a : HReg) : State → SplitRef → Group → Group → Res :=
  underQ gd (fun s r src _ =>
    let h := src.h a.toNat
    match s.handleKick r.slot h with
    | none => doneRes s r (fun x => x)
    | some k =>
      if k.st = .done then doneRes s r (fun x => x)
      else doneRes (s.cancelKick r.slot (handleLcid h) (handleEntry h)) r (fun x => x))

/-! ## PUBLISH_FLIP -/

/-- A shadow record of a flip has ended: its entry was taken again, or the engine no longer holds it. -/
def Context.shadowEnded (c : Context) (x : Nat × Nat × Nat × Nat) : Bool :=
  let l := c.lc x.1
  (l.kick x.2.1).gen.toNat != x.2.2.2 || (l.engRec? x.2.1 x.2.2.1).isNone

/-- PUBLISH_FLIP (R200): flips of one buffer in their order. -/
def State.publishFlip (s : State) (slot idx : Nat) : State :=
  match s.ctx slot with
  | none => s
  | some c =>
    match c.flips[idx]? with
    | none => s
    | some f =>
      if !s.clocked || (c.flips.take idx).any (fun y => y.buf == f.buf) || !f.records.all c.shadowEnded then s
      else s.setCtx slot { c with
        flips := c.flips.take idx ++ c.flips.drop (idx + 1), fronts := c.fronts ^^^ BitVec.ofNat 256 (2 ^ f.buf) }

end Sys2Proof.Machine
end

