-- ==== Sys2Proof/Machine/Manage.lean ====
section
/-! DEFINITION. Manage.lean: the supervisor's and firmware's work on memory: answers to fault queue entries (07 R171),
invalidations (R168), the compressed tier (R172, R173), page moves (R174 to R178), the L2 registers (06 R152, R155). -/

namespace Sys2Proof.Machine

open Sys2Proof

/-! ## FQRESP -/

/-- A split suspended at this address, if it has not halted meanwhile (R267). -/
def State.suspendedAt (s : State) (r : SplitRef) : Option (DWord × Mask × Bool) :=
  match s.split? r with
  | some sp => (match sp.st with
    | .wait (.fault a m x) => some (a, m, x)
    | .wait _ | .free | .ready | .issuing | .halted => none)
  | none => none

def State.modCpa (s : State) (slot lcid n : Nat) (f : CpaCopy → CpaCopy) : State :=
  s.modLc slot lcid (fun l => { l with cpas := l.cpas.map (fun x => if x.num = n then f x else x) })

/-- REPLAY for one waiter: it walks again. -/
def State.replayWaiter (s : State) : Waiter → State
  | .split r => (match s.suspendedAt r with
    | some _ => s.modSplit r (fun sp => { sp.toReady s.cycles with replay := true })
    | none => s)
  | .cpa slot lcid n => s.modCpa slot lcid n (fun x => { x with faulted := false })
  | .record slot lcid e i => s.modLc slot lcid (fun l => l.modRec e i (fun x => { x with faulted := false }))
  | .start _ _ | .fire _ _ _ | .pref _ _ _ _ _ => s

/-- The faulting address of a waiter of an entry, and its STRADDLE. -/
def FaultEnt.ownOf (e : FaultEnt) (w : Waiter) : DWord × Bool :=
  match e.own.find? (fun x => x.1 == w) with
  | some x => x.2
  | none => (e.addr, e.straddle)

/-- FAIL for one waiter: ACCESS, a failed request, a failed start, or a firing without a scope; `addr` is the waiter's own address (R273). -/
def State.failWaiter (s : State) (addr : DWord) (straddle : Bool) : Waiter → State
  | .split r => (match s.suspendedAt r with
    | some (a, m, x) => s.raiseWaiting r m { Exc.at .access a with straddle := x }
    | none => s)
  | .cpa slot lcid n => s.modCpa slot lcid n (fun x => { x with faulted := false, fail := some (.access, addr) })
  | .record slot lcid e i => s.modLc slot lcid (fun l => l.modRec e i (fun x => { x with faulted := false, fail := some (.access, addr) }))
  | .start slot n => (match s.ctx slot with
    | some c => (match c.record? n with
      | some r => s.startFails slot r { Exc.at .access addr with straddle := straddle }
      | none => s)
    | none => s)
  | .fire slot b p => s.modCtx slot (fun c => c.modBank b (fun x => { x with failed := x.failed ||| BitVec.ofNat 64 (2 ^ p) }))
  | .pref _ _ _ _ _ => s

/-- The channel of the record that a waiter's failure writes. -/
def State.waiterChan (s : State) : Waiter → Nat
  | .split r => s.lcChan r.slot r.lcid
  | .cpa slot lcid _ | .record slot lcid _ _ => s.lcChan slot lcid
  | .start _ _ | .fire _ _ _ | .pref _ _ _ _ _ => chanSidereal

/-- Free a fault queue entry and answer its waiters, by ascending channel (R274). -/
def State.answerFault (s : State) (d index : Nat) (f : FaultEnt → Waiter → State → State) : State :=
  match regGet none (s.die d).faults index with
  | none => s
  | some e =>
    (sortBy s.waiterChan e.waiters).foldl (fun acc w => f e w acc) (s.modDie d (fun x => { x with faults := regSet x.faults index none }.advanceHead))

/-- FQRESP_REPLAY. -/
def State.fqReplay (s : State) (d index : Nat) : State := s.answerFault d index (fun _ w s => s.replayWaiter w)
/-- FQRESP_FAIL. -/
def State.fqFail (s : State) (d index : Nat) : State := s.answerFault d index (fun e w s =>
  let x := e.ownOf w
  s.failWaiter x.1 x.2 w)

/-! ## Invalidation (R168, R149, R155) -/

/-- Everything a context has stored is performed at its home slice. -/
def State.flushCtx (s : State) (slot : Nat) : State :=
  match s.ctx slot with
  | none => s
  | some c =>
    let s1 := c.groups.foldl (fun acc x => acc.drainAll x.1) s
    (List.range c.lcs.length).foldl (fun acc l => acc.performAll slot l) s1

/-- Pages of a command: from `first`, `n` of them, all when 0. -/
def inPages (first n vp : Nat) : Bool := n == 0 || (decide (first ≤ vp) && decide (vp < first + n))

/-- A TLB entry that translates some page of the range. -/
def TlbEnt.inRange (slot first n : Nat) (e : TlbEnt) : Bool :=
  e.slot == slot &&
    (if pteContig e.pte then n == 0 || (decide (first / 32 ≤ e.vpage / 32) && decide (e.vpage / 32 ≤ (first + n - 1) / 32))
     else inPages first n e.vpage)

/-- Unpin the lines of some frames on a die. -/
def Die.unpinFrames (d : Die) (fs : List Nat) : Die :=
  { d with l2 := d.l2.map (fun x => if fs.contains (x.line * 128 / 65536) then { x with pinned := false } else x) }

/-- Frames of dropped translations. -/
def State.droppedFrames (s : State) (slot first n : Nat) : List Nat :=
  s.dies.flatMap (fun d => ((d.tlb ++ d.cores.flatMap (fun c => c.tlb)).filter (TlbEnt.inRange slot first n)).flatMap (fun e =>
    if pteContig e.pte then
      ((List.range 32).map (fun i => e.shift (e.vpage / 32 * 32 + i))).filter (fun x => inPages first n x.vpage) |>.map (fun x => pteFrame x.pte)
    else [pteFrame e.pte]))

/-- Frames that a table maps: `level` 0 lists its own PTEs. -/
def State.tableFrames (s : State) : Nat → Nat → List Nat
  | 0, table => (List.range 1024).filterMap (fun i =>
    let e := (s.pullRange (table + 8 * i) 8).read64 (table + 8 * i)
    if pteV e && !pteRmt e && pteTier e != 1 then some (pteFrame e) else none)
  | level + 1, table => (List.range (if level = 2 then 2048 else 1024)).flatMap (fun i =>
    let e := (s.pullRange (table + 8 * i) 8).read64 (table + 8 * i)
    if pteV e && !ptrBad e then s.tableFrames level (ptrNext e) else [])

/-- Frames that the table of a context maps for a range of pages now. -/
def State.mappedFrames (s : State) (slot first n : Nat) : List Nat :=
  if n = 0 then s.tableFrames 3 (s.rootOf slot)
  else (List.range n).filterMap (fun i => match walk s (s.rootOf slot) ((first + i) * 65536) with
    | .pte _ e => if pteRmt e || pteTier e == 1 then none else some (pteFrame e)
    | .fault _ _ | .ecc _ => none)

def Core.dropPages (slot first n : Nat) (c : Core) : Core :=
  { c with
    tlb := c.tlb.filter (fun e => !e.inRange slot first n)
    l1 := c.l1.filter (fun x => !(x.slot == slot && inPages first n (x.line / 512))) }

def Die.dropPages (d : Die) (slot first n : Nat) : Die :=
  { d with tlb := d.tlb.filter (fun e => !e.inRange slot first n), cores := d.cores.map (Core.dropPages slot first n) }

/-- Every TLB and L1 drops a range of pages; the pinned lines of the frames that held translations or the table give them are
unpinned (R155). -/
def State.dropPages (s : State) (slot first n : Nat) : State :=
  let fs := s.droppedFrames slot first n ++ (if s.dies.any (fun d => d.l2.any (fun x => x.pinned)) then s.mappedFrames slot first n else [])
  { s with dies := s.dies.map (fun d => (d.dropPages slot first n).unpinFrames fs) }

/-- Stores performed, then the range dropped. -/
def State.invalidate (s : State) (slot first n : Nat) : State := (s.flushCtx slot).dropPages slot first n

/-- XLINV_COMMAND: ignored while a command is in progress. -/
def State.xlinvStart (s : State) (d npages ctx : Nat) : State :=
  s.modDie d (fun x =>
    if x.xlRun.isSome then x
    else { x with
      xlPages := npages % 65536, xlCtx := ctx % 8
      xlRun := some (bitsOf x.xlinva.toNat 16 41, npages % 65536, ctx % 8) })

/-- A remote access of the context has not been answered, or an instruction of it goes on with translations that it has made. -/
def State.remotePending (s : State) (slot : Nat) : Bool :=
  s.pkg.remote.any (fun x => x.reply.isNone && x.who.slot == slot) ||
    (match s.ctx slot with
     | some c => c.groups.any (fun x => x.2.splits.any (fun sp => sp.held.any (fun h => !h.trans.isEmpty)))
     | none => false)

/-- XLINV_COMPLETION. -/
def State.xlinvEnd (s : State) (d : Nat) : State :=
  match (s.die d).xlRun with
  | none => s
  | some (first, n, slot) =>
    if !s.clocked || s.remotePending slot then s
    else (s.invalidate slot first n).modDie d (fun x => { x with xlRun := none })

/-! ## The compressed tier (R172, R173) -/

/-- The stack of a die's tier `j`. -/
def tierStack (d j : Nat) : Option Nat := (List.range 12).find? (fun hs => stackDie hs == (d, j))

/-- 64 MiB units of a stack. -/
def stackUnits : Nat := 576
def framesPerStack : Nat := Config.stackBytes / 65536

/-- GO: OP and ARG are written and their command starts; ignored while one is in progress, and where the die has no such stack (R172, R291). -/
def State.tierCommand (s : State) (d j op arg : Nat) : State :=
  if (tierStack d j).isNone then s
  else s.modDie d (fun x => { x with tiers := regMod x.tiers j (fun t =>
    if t.run.isSome then t else { t with op := op, arg := arg % 2 ^ 23, run := some (op, arg % 2 ^ 23) }) })

/-- Granules a frame takes: 1 to 8 for each of its 64 blocks. -/
def frameGranules (b : List Byte) : Nat :=
  (List.range 64).foldl (fun n i => n + min 8 (max 1 (Config.granules ((b.drop (1024 * i)).take 1024)))) 0

/-- A frame that can be compressed: of this stack, outside the region, neither in the pool nor in motion (DEDUCED, log 21). -/
def State.compressible (s : State) (hs frame : Nat) : Bool :=
  frame / framesPerStack == hs && !s.inRegion (frame * 65536) && !(s.tier hs).frames.contains frame
    && !s.dies.any (fun d => d.moves.any (fun m => m.dst == frame || m.src == some frame))

/-- OP 1: the record takes the lowest free index (log 51). -/
def State.compress (s : State) (hs arg : Nat) : State :=
  let t := s.tier hs
  let b := s.read (arg * 65536) 65536
  let n := frameGranules b
  let done (status : Nat) : State := s.modTier hs (fun t => { t with run := none, status := status })
  if !s.compressible hs arg then done 1
  else if t.granules < n then done 2
  else match (List.range (t.records.length + 1)).find? (fun i => decide (i < 2 ^ 19) && !t.records.any (fun r => r.idx == i)) with
    | none => done 3
    | some i => s.modTier hs (fun t =>
        { t with
          run := none, status := 0, result := hs * 2 ^ 19 + i, granules := t.granules - n
          records := t.records ++ [⟨i, b, n, (s.lostSectors.filter (fun k => k / 2048 == arg)).map (fun k => k % 2048)⟩] })

/-- The record is the source of a promotion in progress. -/
def State.recordMoving (s : State) (v : Nat) : Bool := s.dies.any (fun d => d.moves.any (fun m => m.src.isNone && m.record == v))

/-- A record leaves its stack; its granules return. -/
def Tier.drop (t : Tier) (i : Nat) : Tier :=
  match t.records.find? (fun r => r.idx == i) with
  | some r => { t with records := t.records.filter (fun x => x.idx != i), granules := t.granules + r.gran }
  | none => t

/-- OP 2. -/
def State.freeZ (s : State) (hs arg : Nat) : State :=
  if arg / 2 ^ 19 = hs ∧ (s.zrecord hs (arg % 2 ^ 19)).isSome ∧ !s.recordMoving arg then
    s.modTier hs (fun t => { t.drop (arg % 2 ^ 19) with run := none, status := 0 })
  else s.modTier hs (fun t => { t with run := none, status := 4 })

/-- TIER_COMMAND_COMPLETION. -/
def State.tierEnd (s : State) (d j : Nat) : State :=
  match tierStack d j with
  | none => s
  | some hs =>
    match (s.tier hs).run with
    | none => s
    | some (op, arg) => if !s.clocked then s else if op = 1 then s.compress hs arg else s.freeZ hs arg

/-- A frame joins a pool, unless it lies outside the stack or inside its region, or the pool is full (R172). -/
def State.pushFrame (s : State) (hs frame : Nat) : State :=
  if frame / framesPerStack ≠ hs ∨ s.inRegion (frame * 65536) ∨ 65536 ≤ (s.tier hs).frames.length then s
  else s.modTier hs (fun t => { t with frames := t.frames ++ [frame] })

/-- FRAME_PUSH. -/
def State.framePush (s : State) (d j frame : Nat) : State :=
  match tierStack d j with
  | some hs => s.pushFrame hs (frame % 2 ^ 23)
  | none => s

/-- TIER_REGION_WRITE. -/
def State.regionWrite (s : State) (d j : Nat) (v : DWord) : State :=
  match tierStack d j with
  | none => s
  | some hs =>
    let t := s.tier hs
    let size := bitsOf v.toNat 32 16
    let start := bitsOf v.toNat 0 10
    let covers (f : Nat) : Bool :=
      let u := f % framesPerStack * 65536 / 2 ^ 26
      decide (start ≤ u ∧ u < start + size)
    if !t.records.isEmpty || decide (stackUnits < start + size) || t.frames.any covers then s
    else s.modTier hs (fun t => { t with size := size, start := start, granules := size * 2 ^ 26 / 128 })

/-! ## Pages in motion (R174 to R177) -/

/-- Units of a page in motion. -/
def MovePage.units (m : MovePage) : Nat := 65536 / m.unit

/-- BACKGROUND_PULL. -/
def State.background (s : State) (d idx unit : Nat) : State :=
  match (s.die d).moves[idx]? with
  | some m => if unit < m.units ∧ s.clocked then s.pullUnit m unit false else s
  | none => s

/-- PHINT allows a move to a stack (R178). -/
def hintAllows (e : DWord) (stack : Nat) : Bool :=
  let h := ptePhint e
  h == 0 || (decide (1 ≤ h ∧ h ≤ 12) && h - 1 == stack)

/-- The doublewords of memory that can hold a table entry: listed bytes, and frames in motion. -/
def State.entryWords (s : State) : List Nat :=
  (s.mem.map (fun c => c.1 / 8)).dedup ++ s.dies.flatMap (fun d => d.moves.flatMap (fun m => (List.range 8192).map (fun i => 8192 * m.dst + i)))

/-- The tables of the next level down that the entries of tables of `bytes` bytes name. -/
def State.nextTables (s : State) (bytes : Nat) (tables : List Nat) : List Nat :=
  (s.entryWords.filterMap (fun w =>
    let e := (s.pullRange (8 * w) 8).read64 (8 * w)
    if tables.any (fun t => decide (t ≤ 8 * w) && decide (8 * w < t + bytes)) && pteV e && !ptrBad e then some (ptrNext e) else none)).dedup

/-- A frame holds a page table of a context: its root, or one that a table pointer names. -/
def State.tableFrame (s : State) (frame : Nat) : Bool :=
  let roots := (List.range 8).filterMap (fun k => (s.ctx k).map (fun c => c.root))
  let l2 := s.nextTables 0x4000 roots
  let l1 := s.nextTables 0x2000 l2
  let l0 := s.nextTables 0x2000 l1
  (roots ++ l2 ++ l1 ++ l0).any (fun t => t / 65536 == frame)

/-- An instruction of the context goes on with a translation of the page. -/
def State.pageHeld (s : State) (slot vpage : Nat) : Bool :=
  match s.ctx slot with
  | some c => c.groups.any (fun x => x.2.splits.any (fun sp => sp.held.any (fun h => h.trans.any (fun t => t.va / 65536 == vpage))))
  | none => false

/-- PAGE_MOVE_START (R175, R177): what the context has stored is performed, the PTE names the destination with TIER 2, and the page is
invalidated. A page of a CONTIG run is not moved, since its run would then break R166: DESIGN CHOICE (log 21). It takes the frame pushed first;
a frame that holds a page table is not moved, since the pointers to it would go on naming the source: DESIGN CHOICE (log 51). -/
def State.moveStart (s : State) (slot vpage stack : Nat) : State :=
  if !s.clocked || (s.ctx slot).isNone || decide (12 ≤ stack) || s.pageHeld slot vpage then s
  else
    let s0 := s.flushCtx slot
    match walk s0 (s0.rootOf slot) (vpage * 65536) with
    | .fault _ _ | .ecc _ => s
    | .pte pa e =>
      let src := pteFrame e
      let d := (stackDie stack).1
      if (frameFault s0 e).isSome || pteRmt e || pteTier e != 0 || pteContig e || src / framesPerStack == stack || !hintAllows e stack
          || decide (64 ≤ (s0.die d).moves.length) || s0.tableFrame src then s
      else match (s0.tier stack).frames with
        | [] => s
        | f :: fs =>
          let s1 := (s0.homeWrite64 pa (pteSetTier (pteSetFrame e f) 2)).modTier stack (fun t => { t with frames := fs })
          let s2 := (s1.dropPages slot vpage 1).modDie (homeDie (src * 65536)) (fun x => x.unpinFrames [src])
          s2.modDie d (fun x => { x with moves := x.moves ++ [⟨slot, vpage, pa, some src, 0, f, []⟩] })

/-- PAGE_MOVE_COMPLETION (R177). -/
def State.moveEnd (s : State) (d idx : Nat) : State :=
  match (s.die d).moves[idx]? with
  | none => s
  | some m =>
    if !s.clocked || !(List.range m.units).all (fun u => m.pulled.contains u) then s
    else
      let s0 := s.pullRange m.pte 8
      let e := s0.read64 m.pte
      let s1 := if pteV e && pteTier e == 2 && pteFrame e == m.dst then s0.homeWrite64 m.pte (pteSetTier e 0) else s0
      let s2 := match m.src with
        | some f => s1.pushFrame (f / framesPerStack) f
        | none => s1.modTier (m.record / 2 ^ 19) (fun t => t.drop (m.record % 2 ^ 19))
      (s2.modTier (paStack (m.dst * 65536)) (fun t => { t with moves := t.moves + 1 })).modDie d (fun x =>
        { x with moves := x.moves.take idx ++ x.moves.drop (idx + 1) })

/-! ## The placement policy (R178) -/

/-- Ticks between passes, and between halvings of pin counts. -/
def passTicks : Nat := 2 ^ 24

/-- A multiple of a period has been reached since something was last carried out: a meridian that a correction moves
forward over it does not skip it (R297). -/
def State.dueEvery (s : State) (period last : Nat) : Bool := s.tickNow / period != last / period
def State.dueAt (s : State) (last : Nat) : Bool := s.dueEvery passTicks last

/-- The die of a die group of a context. -/
def Context.dieOfGrp (c : Context) (dg : Nat) : Option Nat := (c.lcs.find? (fun l => l.dieGrp == dg)).map (fun l => l.die)

/-- The die group that issued 75 % of a page's sampled spans. -/
def mainGroup (gs : List Nat) : Option Nat := gs.find? (fun g => decide (3 * gs.length ≤ 4 * (gs.filter (fun x => x == g)).length))

/-- One page of a pass. -/
def State.passPage (s : State) (d : Nat) (samples : List (Nat × Nat × Nat)) (vpage slot : Nat) : State :=
  match s.ctx slot, walk s (s.rootOf slot) (vpage * 65536) with
  | some c, .pte _ e =>
    let gs := (samples.filter (fun x => x.1 == vpage && x.2.1 == slot)).map (fun x => x.2.2)
    if ptePhint e ≠ 0 ∨ homeDie (pteFrame e * 65536) ≠ d then s
    else match (mainGroup gs).bind c.dieOfGrp with
      | none => s
      | some t =>
        if t = d then s
        else match (List.range 12).find? (fun hs => (stackDie hs).1 == t && decide (1024 < (s.tier hs).frames.length)) with
          | some hs => s.moveStart slot vpage hs
          | none => s
  | _, _ => s

/-- PLACEMENT_POLICY_PASS. -/
def State.policyPass (s : State) (d : Nat) : State :=
  if !s.dueAt (s.die d).passTick || !s.clocked || decide (s.dies.length ≤ d) then s
  else
    let l := (s.die d).samples
    let pages := (l.map (fun x => (x.1, x.2.1))).dedup
    (pages.foldl (fun acc p => acc.passPage d l p.1 p.2) s).modDie d (fun x => { x with samples := [], passTick := s.tickNow })

/-! ## L2 registers (R152, R155) -/

/-- PIN_COUNT_HALVING. -/
def State.halvePins (s : State) (d : Nat) : State :=
  if !s.dueAt (s.die d).halveTick || !s.clocked || decide (s.dies.length ≤ d) then s
  else s.modDie d (fun x =>
    { x with
      halveTick := s.tickNow
      l2 := x.l2.map (fun y => { y with
        count := y.count / 2, pinned := y.pinned && decide (l2PinThr x.l2cfg / 2 ≤ y.count / 2) }) })

/-- Pinned lines of a set that stay under a limit: those of highest count. -/
def pinsKept (limit : Nat) (pins : List L2Line) : List Nat :=
  ((sortBy (fun x => 255 - x.count) pins).take limit).map (fun x => x.line)

/-- Unpin the lines of lowest count in each set down to a limit. -/
def limitPins (limit : Nat) (l2 : List L2Line) : List L2Line :=
  l2.map (fun x =>
    if x.pinned then
      { x with pinned := (pinsKept limit (l2.filter (fun y => y.pinned && Config.l2Set y.line == Config.l2Set x.line))).contains x.line }
    else x)

/-- A value that L2CFG refuses. -/
def l2cfgBad (v : DWord) : Bool :=
  (List.range 4).any (fun c => l2Quota v c == 0 || decide (16 < l2Quota v c)) || decide (4 < l2PinWays v)

/-- L2CFG_WRITE. With PINTHR 0 the new limit is 0 lines, and among lines of equal count those used least recently are unpinned
first: DESIGN CHOICE (log 45). -/
def State.l2cfgWrite (s : State) (d : Nat) (v : DWord) : State :=
  if l2cfgBad v then s
  else s.modDie d (fun x =>
    let limit := if l2PinThr v = 0 then 0 else l2PinWays v
    let less := l2PinThr v == 0 || decide (l2PinWays v < l2PinWays x.l2cfg)
    { x with l2cfg := v &&& 0x0000FF071F1F1F1F, l2 := if less then limitPins limit x.l2 else x.l2 })

/-- UNPIN. -/
def State.unpinDie (s : State) (d : Nat) : State :=
  s.modDie d (fun x => { x with l2 := x.l2.map (fun y => { y with pinned := false }) })

end Sys2Proof.Machine
end

