-- ==== Sys2Proof/Machine/Sched.lean ====
section
/-! DEFINITION. Sched.lean: working cores and time (11 R255 to R259): switch sets, the switch out and in, the end of a slice,
pre-emption. -/

namespace Sys2Proof.Machine

open Sys2Proof

/-! ## Working cores -/

/-- Working cores of a compute die by ordering code: 24 of 26, or 22 for the 176-core parts (R1). DESIGN CHOICE (log 1). -/
def State.coreCount (s : State) : Nat := if s.pkg.ordering % 2 = 0 then 24 else 22

/-- Free working cores of a die. -/
def State.freeCores (s : State) (d : Nat) : List Nat :=
  (List.range s.coreCount).filter (fun i => ((s.die d).core i).holds.isNone)

/-! ## Switch sets (R256) -/

/-- Logical cores that share an instance with one of the list. -/
def Context.grow (c : Context) (l : List Nat) : List Nat :=
  (List.range c.lcs.length).filter (fun i => l.contains i || c.insts.any (fun x => x.lcids.contains i && x.lcids.any (fun j => l.contains j)))

/-- The switch set of a logical core, in ascending LCID. -/
def Context.switchSet (c : Context) (lcid : Nat) : List Nat := iterate c.grow (c.insts.length + 1) [lcid]

/-- The first LCIDs of the switch sets. -/
def Context.setFirsts (c : Context) : List Nat := (List.range c.lcs.length).filter (fun i => (c.switchSet i).head? == some i)

/-- A set that holds a group, or on which an instance is being placed; else it is idle. -/
def Context.setHolds (c : Context) (l : List Nat) : Bool :=
  c.groups.any (fun x => l.contains x.1.lcid && !x.2.ctl.retired) || c.binds.any (fun b => l.contains b.lcid)

def Context.setIn (c : Context) (l : List Nat) : Bool := l.all (fun i => (c.lc i).placed.isSome)
def Context.setOut (c : Context) (l : List Nat) : Bool := l.all (fun i => (c.lc i).placed.isNone)
/-- Logical cores of a set on working cores now. -/
def Context.placedOf (c : Context) (l : List Nat) : List Nat := l.filter (fun i => (c.lc i).placed.isSome)

/-- The die of a set: that of its first logical core. -/
def Context.setDie (c : Context) (l : List Nat) : Nat := (c.lc (l.headD 0)).die

/-- A halt spreads among the groups of a set (R270). -/
def Context.setHalting (c : Context) (l : List Nat) : Bool :=
  c.groups.any (fun x => l.contains x.1.lcid && x.2.splits.any (fun sp => sp.inUse && sp.skid.isSome && sp.st != .halted))

/-- The context takes part in scheduling. -/
def Context.scheduled (c : Context) : Bool := c.park == .none && !c.destroying

/-! ## Switch out (R257) -/

/-- Every instruction of a group in flight completes (R98). -/
def Group.finishAll (g : Group) : Group := g.inflight.foldl (fun acc p => acc.finish p) g

/-- A TIMER due at the boundary of a split that is about to issue is taken before the split stops (R267). -/
def State.timersFirst (s : State) (slot : Nat) (l : List Nat) : State :=
  match s.ctx slot with
  | none => s
  | some c =>
    (sortBy (fun r => s.lcChan r.slot r.lcid) ((c.splitRefs slot).filter (fun r => l.contains r.lcid))).foldl (fun acc r => match acc.group? r.group with
      | some g =>
        if (g.split r.k).st == .issuing && (g.split r.k).unstopped && g.takesTimer r.k && !acc.inRemote r then acc.takeTimer r g else acc
      | none => acc) s

/-- The accesses that suspend splits of some logical cores are withdrawn from the fault queues, as at a capture (R257, R279): they
are made again. -/
def State.withdrawSplits (s : State) (slot : Nat) (l : List Nat) : State :=
  let mine (w : Waiter) : Bool := match w with
    | .split r => r.slot == slot && l.contains r.lcid
    | .cpa _ _ _ | .record _ _ _ _ | .start _ _ | .fire _ _ _ | .pref _ _ _ _ _ => false
  (s.withdraw mine).modCtx slot (fun c => { c with groups := c.groups.map (fun x =>
    if l.contains x.1.lcid then (x.1, { x.2 with splits := x.2.splits.map (fun sp =>
      if sp.waiting (fun w => match w with
        | .fault _ _ _ => true
        | _ => false) then { sp with st := .ready, age := none, replay := true } else sp) })
    else x) })

/-- The groups of some logical cores stop at an instruction boundary: loads, matrix work and long-latency instructions complete
and the store queues drain; a split on its way to a debug stop has stopped. -/
def State.quiesce (s : State) (slot : Nat) (l : List Nat) : State :=
  match s.ctx slot with
  | none => s
  | some c =>
    let rs := (c.groups.filter (fun x => l.contains x.1.lcid)).map (fun x => x.1)
    let s0 := (s.timersFirst slot l).withdrawSplits slot l
    let s1 := rs.foldl (fun acc r => ((acc.mmaRead r (fun _ => true)).modGroup r Group.finishAll).drainAll r) s0
    let s2 := (c.splitRefs slot).foldl (fun acc r => match acc.split? r with
      | some sp => if l.contains r.lcid && sp.dskid.isSome then acc.stopSplit r else acc
      | none => acc) s1
    s2

/-- One logical core leaves its working core; its state stays in the save area. -/
def State.unplace (s : State) (slot lcid : Nat) : State :=
  match (s.lc slot lcid).placed with
  | none => s
  | some p => (s.modLc slot lcid (fun l => { l with placed := none })).modCore p.1 p.2 (fun x => { x with holds := none })

def State.setSwitchOut (s : State) (slot : Nat) (l : List Nat) : State :=
  l.foldl (fun acc i => acc.unplace slot i) (s.quiesce slot l)

/-- SWITCH_OUT: the set of a logical core, unless a halt is spreading in it. -/
def State.switchOut (s : State) (slot lcid : Nat) : State :=
  match s.ctx slot with
  | none => s
  | some c =>
    let l := c.switchSet lcid
    if !s.clocked || !c.scheduled || c.setOut l || c.setHalting l then s else s.setSwitchOut slot l

/-! ## Switch in -/

/-- One logical core takes a working core, whose L1 is invalidated (R149). -/
def State.placeOn (s : State) (slot lcid d core : Nat) : State :=
  ((s.modLc slot lcid (fun l => { l with placed := some (d, core), sinceIn := s.tickNow })).modCore d core (fun x =>
    { x with holds := some (slot, lcid), l1 := [], quads := List.replicate 4 ⟨none, 0⟩ })).clearL1 slot lcid

/-- Eligibility ages restart when splits are restored (R254). -/
def Group.restartAges (now : Nat) (g : Group) : Group :=
  { g with splits := g.splits.map (fun sp => { sp with age := sp.age.map (fun _ => now), yielded := false, boosted := false }) }

/-- A list begun at another place. -/
def rotateList {α : Type} (n : Nat) (l : List α) : List α := l.drop (n % l.length) ++ l.take (n % l.length)

def State.setSwitchIn (s : State) (slot : Nat) (l : List Nat) (d : Nat) : State :=
  let (n, s1) := s.draw
  let cores := rotateList (Config.place n) (s1.freeCores d)
  let s2 := (l.zip cores).foldl (fun acc x => acc.placeOn slot x.1 d x.2) s1
  s2.modCtx slot (fun c => { c with groups := c.groups.map (fun x =>
    if l.contains x.1.lcid then (x.1, x.2.restartAges s.cycles) else x) })

/-- Working cores a set still needs: a set of which a part is resident is switched in whole, in place of that part. -/
def State.setShort (s : State) (c : Context) (l : List Nat) : Nat :=
  l.length - (c.placedOf l).length - (s.freeCores (c.setDie l)).length

/-- A set that waits for working cores. -/
def Context.setWaits (c : Context) (l : List Nat) : Bool := c.scheduled && c.setHolds l && !c.setIn l

/-- SWITCH_IN: a waiting set that holds groups, as soon as enough working cores of its die are free (R256). DEDUCED (log 15). -/
def State.switchIn (s : State) (slot lcid : Nat) : State :=
  match s.ctx slot with
  | none => s
  | some c =>
    let l := c.switchSet lcid
    if !s.clocked || !c.setWaits l || c.setHalting l || s.setShort c l != 0 then s
    else (s.setSwitchOut slot (c.placedOf l)).setSwitchIn slot l (c.setDie l)

/-! ## Making room -/

/-- A resident set that may give up its cores, and how many it holds. -/
structure Cand where
  slot : Nat
  set  : List Nat
  key  : List Nat
  room : Nat
deriving DecidableEq, Repr

/-- The sets of a die that hold working cores of it, in whole or in part, and can be switched out now, with their contexts. -/
def State.residentSets (s : State) (d : Nat) : List (Nat × Context × List Nat) :=
  (List.range 8).flatMap (fun slot => match s.ctx slot with
    | none => []
    | some c =>
      if !c.scheduled then []
      else (c.setFirsts.map c.switchSet).filterMap (fun l =>
        if !c.setOut l && c.setDie l == d && !c.setHalting l then some (slot, c, l) else none))

/-- Candidates in order of a key: sets that the key leaves out are none. -/
def orderCands (key : Nat → Context → List Nat → Option (List Nat)) (l : List (Nat × Context × List Nat)) : List Cand :=
  let cs := l.filterMap (fun x => (key x.1 x.2.1 x.2.2).map (fun k => (⟨x.1, x.2.2, k, (x.2.1.placedOf x.2.2).length⟩ : Cand)))
  let rec sort : List Cand → List Cand
    | [] => []
    | c :: rest => (fun done => (done.takeWhile (fun x => keyLess x.key c.key)) ++ c :: done.dropWhile (fun x => keyLess x.key c.key))
        (sort rest)
  sort cs

/-- When a set was last switched in: the latest of its resident logical cores. -/
def Context.setSince (c : Context) (l : List Nat) : Nat := (c.placedOf l).foldl (fun n i => max n (c.lc i).sinceIn) 0

/-- Idle sets, in ascending first LCID (R256). -/
def idleKey (slot : Nat) (c : Context) (l : List Nat) : Option (List Nat) :=
  if c.setHolds l then none else some [l.headD 0, slot]

/-- Sets of lower class: the lowest class first, then the set switched in longest ago (R258). -/
def lowerKey (cls : Nat) (slot : Nat) (c : Context) (l : List Nat) : Option (List Nat) :=
  if c.setHolds l && decide (c.cls < cls) then some [c.cls, c.setSince l, slot, l.headD 0] else none

/-- Candidates taken in order until they give `need` cores. -/
def takeRoom : Nat → List Cand → List Cand
  | 0, _ => []
  | _ + 1, [] => []
  | need + 1, c :: cs => c :: takeRoom (need + 1 - c.room) cs

def roomOf (l : List Cand) : Nat := l.foldl (fun n c => n + c.room) 0

/-- The most cores that `n` of some candidates give. -/
def bestRoom (n : Nat) (l : List Cand) : Nat := roomOf ((sortBy (fun c => 2000 - c.room) l).take n)

/-- The fewest candidates that give `need` cores, preferring those that come first. -/
def fewest : Nat → Nat → List Cand → List Cand
  | _, _, [] => []
  | n, need, c :: cs =>
    if n = 0 ∨ need = 0 then []
    else if need ≤ c.room + bestRoom (n - 1) cs then c :: fewest (n - 1) (need - c.room) cs
    else fewest n need cs

def fewestRoom (need : Nat) (l : List Cand) : List Cand :=
  match (List.range (l.length + 1)).find? (fun n => decide (need ≤ bestRoom n l)) with
  | some n => fewest n need l
  | none => []

def State.outAll (s : State) (l : List Cand) : State := l.foldl (fun acc c => acc.setSwitchOut c.slot c.set) s

/-! ## Pre-emption (R258) -/

/-- The idle sets and the fewest lower-class sets that give a set room; none when they cannot. -/
def State.preemptFor (s : State) (c : Context) (l : List Nat) : Option (List Cand) :=
  let rs := s.residentSets (c.setDie l)
  let need := s.setShort c l
  let idle := orderCands idleKey rs
  let lower := orderCands (lowerKey c.cls) rs
  if need = 0 then none
  else if need ≤ roomOf idle then some (takeRoom need idle)
  else if need ≤ roomOf idle + roomOf lower then some (idle ++ fewestRoom (need - roomOf idle) lower)
  else none

/-- The waiting sets on which instances of a record have been placed. -/
def Context.recordSets (c : Context) (recNum : Nat) : List (List Nat) :=
  ((c.insts.filter (fun i => i.recNum == recNum)).map (fun i => c.switchSet (i.lcids.headD 0))).dedup.filter c.setWaits

/-- PREEMPTION: room for a record whose instance has no working cores. -/
def State.preempt (s : State) (slot recNum : Nat) : State :=
  match s.ctx slot with
  | none => s
  | some c =>
    if !s.clocked then s
    else match (c.recordSets recNum).findSome? (fun l => s.preemptFor c l) with
      | some v => s.outAll v
      | none => s

/-- The sets of a record that a pre-emption can serve now. -/
def State.preemptible (s : State) (slot recNum : Nat) : Bool :=
  match s.ctx slot with
  | some c => (c.recordSets recNum).any (fun l => (s.preemptFor c l).isSome)
  | none => false

/-! ## The end of a slice (R255, R256) -/

/-- 2 ms in meridian ticks. -/
def sliceTicks : Nat := 5000000

def Die.used (d : Die) (slot : Nat) : Nat := regGet 0 d.sliceUse slot

/-- The context has used the slices of its turn. -/
def Die.turnOver (d : Die) (slot : Nat) (c : Context) : Bool := decide (c.weight ≤ d.used slot)

/-- At a slice's end, of which `d` is the die before a new round: idle sets, lower classes, contexts of the class whose turn is over, of
these first those that have had most slices, then the context's other sets, lowest first LCID first. -/
def sliceKey (d : Die) (now slot : Nat) (c : Context) (mine : List Nat) (vslot : Nat) (v : Context) (l : List Nat) : Option (List Nat) :=
  let since := v.setSince l
  if vslot = slot ∧ l = mine then none
  else if !v.setHolds l then some [0, l.headD 0, vslot]
  else if v.cls < c.cls then some [1, v.cls, since, l.headD 0, vslot]
  else if v.cls ≠ c.cls ∨ since = now then none
  else if vslot = slot then some [3, l.headD 0]
  else if d.turnOver vslot v then some [2, 1000 - min 1000 (d.used vslot), vslot, l.headD 0]
  else none

/-- The waiting set of a context with the lowest first LCID is switched in, in place of others if it must. -/
def State.sliceFor (old : Die) (s : State) (d slot : Nat) : State :=
  match s.ctx slot with
  | none => s
  | some c =>
    match (c.setFirsts.map c.switchSet).find? (fun l => c.setWaits l && c.setDie l == d && !c.setHalting l) with
    | none => s
    | some l =>
      let need := s.setShort c l
      let cands := orderCands (sliceKey old s.tickNow slot c l) (s.residentSets d)
      if roomOf cands < need then s else (s.outAll (takeRoom need cands)).switchIn slot (l.headD 0)

/-- A round ends when every context of a class that has work on the die has had its slices; the class then begins another (R255). -/
def State.newRounds (s : State) (d : Nat) : State :=
  let works (slot : Nat) (c : Context) : Bool :=
    c.scheduled && (c.setFirsts.map c.switchSet).any (fun l => c.setDie l == d && c.setHolds l) && decide (slot < 8)
  let open_ (cls : Nat) : Bool := (List.range 8).any (fun k => match s.ctx k with
    | some c => works k c && c.cls == cls && !(s.die d).turnOver k c
    | none => false)
  s.modDie d (fun x => { x with sliceUse := (List.range 8).map (fun k => match s.ctx k with
    | some c => if open_ c.cls then x.used k else 0
    | none => 0) })

/-- Contexts in the order of service: class, then those whose turn is not over, then slot. -/
def State.sliceOrder (s : State) (d : Nat) : List Nat :=
  let rank (slot : Nat) : Nat := match s.ctx slot with
    | some c => (3 - c.cls) * 16 + (if (s.die d).turnOver slot c then 8 else 0) + slot
    | none => 1000
  sortBy rank ((List.range 8).filter (fun k => (s.ctx k).isSome))

/-- A slice of a die has ended and a halt spreads on none of its sets (R270). -/
def State.sliceDue (s : State) (d : Nat) : Bool :=
  s.dueEvery sliceTicks (s.die d).sliceTick && decide (d < s.dies.length)

def State.dieHalting (s : State) (d : Nat) : Bool :=
  (List.range 8).any (fun slot => match s.ctx slot with
    | some c => (c.setFirsts.map c.switchSet).any (fun l => c.setDie l == d && c.setHalting l)
    | none => false)

/-- SLICE_END. -/
def State.sliceEnd (s : State) (d : Nat) : State :=
  if !s.clocked || !s.sliceDue d || s.dieHalting d then s
  else
    let held := (s.residentSets d).filter (fun x => x.2.1.setHolds x.2.2)
    let s1 := s.modDie d (fun x => { x with
      sliceTick := s.tickNow
      sliceUse := (List.range 8).map (fun k => if held.any (fun y => y.1 == k) then x.used k + 1 else x.used k) })
    let s2 := s1.newRounds d
    (s2.sliceOrder d).foldl (fun acc slot => State.sliceFor (s1.die d) acc d slot) s2

/-! ## What the firmware does next -/

/-- Waiting sets with their context slots, in the order of service: highest class first, then contexts whose turn on the set's die is not
over, then slot and first LCID (R255, R256). -/
def State.waitingSets (s : State) : List (Nat × Context × List Nat) :=
  let rank (x : Nat × Context × List Nat) : Nat :=
    (((3 - x.2.1.cls) * 2 + (if (s.die (x.2.1.setDie x.2.2)).turnOver x.1 x.2.1 then 1 else 0)) * 8 + x.1) * 1024 + x.2.2.headD 0
  sortBy rank ((List.range 8).flatMap (fun slot => match s.ctx slot with
    | none => []
    | some c => (c.setFirsts.map c.switchSet).filterMap (fun l => if c.setWaits l then some (slot, c, l) else none)))

/-- The waiting set that is switched in next: the first that has room. -/
def State.nextIn (s : State) : Option (Nat × Nat) :=
  (s.waitingSets.find? (fun x => s.setShort x.2.1 x.2.2 == 0 && !x.2.1.setHalting x.2.2)).map (fun x => (x.1, x.2.2.headD 0))

/-- The idle set that is switched out next for a waiting set (R256). -/
def State.nextOut (s : State) : Option (Nat × Nat) :=
  s.waitingSets.findSome? (fun x =>
    let idle := orderCands idleKey (s.residentSets (x.2.1.setDie x.2.2))
    let need := s.setShort x.2.1 x.2.2
    if need = 0 ∨ roomOf idle < need then none else idle.head?.map (fun c => (c.slot, c.set.headD 0)))

end Sys2Proof.Machine
end

