-- ==== Sys2Proof/Machine/Halt.lean ====
section
/-! DEFINITION. Halt.lean: the debug registers' actions (15 R303 to R306), the context halt (12 R269), and the periodic trace
packets (15 R307). -/

namespace Sys2Proof.Machine

open Sys2Proof

/-! ## Context halts -/

/-- A context halt is still spreading: some split it reached has not halted. -/
def Context.haltSpreads (c : Context) : Bool :=
  c.halting && c.groups.any (fun x => x.2.splits.any (fun sp => sp.inUse && sp.st != .halted && sp.skid.isSome))

/-- CONTEXT_HALT (R306). -/
def State.contextHalt (s : State) (die slot : Nat) : State :=
  match s.ctx slot with
  | none => s
  | some c =>
    if !s.clocked || c.joinDie ≠ die || c.park == .captured || c.haltSpreads then s
    else
      ((s.haltStopped slot).modCtx slot (fun c => { c with halting := true })).haltContext slot die (fun i =>
        { die := die, aux0 := 2, ganginst := i.inst, cause := causeCode .halted })

/-! ## The debug stop -/

/-- DEBUG_STOP: a write of STOP; ignored while STOPPED is set. -/
def State.debugStop (s : State) (die slot : Nat) : State :=
  match s.ctx slot with
  | none => s
  | some c => if !s.clocked || c.joinDie ≠ die || c.park == .captured || c.debugging then s else s.beginStop slot none 10

/-- DEBUG_STOP_PROPAGATION: a sibling stops within its skid (R303). -/
def State.stopPropagates (s : State) (r : SplitRef) : State :=
  match s.split? r with
  | some sp => if sp.dskid.isSome && s.clocked then s.stopSplit r else s
  | none => s

/-- A held completion takes effect. -/
def State.applyHeld (s : State) : Instr → State
  | .cpaCopyCompletion slot lcid n => s.finishCopy slot lcid n
  | .recordCompletion slot lcid entry idx => s.finishRecord slot lcid entry idx
  | .recordFailure e => s.finishFailure e
  | .instanceRetirement slot recNum inst => s.retireOrHold slot recNum inst
  | _ => s

/-- A stopped split becomes READY; one that waits keeps its wait; its next instruction meets no comparator (R302). -/
def Split.resumed (now : Nat) (sp : Split) : Split :=
  if sp.dstopped then
    let sp1 := { sp with dstopped := false, dskid := none, exempt := true }
    match sp.st with
    | .issuing => { sp1.toReady now with exempt := true }
    | .ready => { sp1 with age := sp1.age.map (fun _ => now) }
    | .free | .wait _ | .halted => sp1
  else sp

/-- The order in which a bank enqueues what reaches it in one cycle: scopes, the mailbox, links, engines by the number of their working core,
groups (R19). -/
def Transit.rank (core : List Nat) : Transit → List Nat
  | .ext (.scopeEnd sc) _ _ | .held (.scopeEnd sc) _ _ => [2, sc]
  | .ext .host _ _ | .held .host _ _ => [3]
  | .ext (.link port) _ _ | .held (.link port) _ _ => [4, port]
  | .ext (.engine lcid) _ _ | .held (.engine lcid) _ _ => [5] ++ core ++ [lcid]
  | .post r _ _ => [6, r.lcid, r.gh]

/-- A post that a debug stop has held. -/
def Transit.asHeld : Transit → Transit
  | .ext src p m | .held src p m => .held src p m
  | .post r p m => .post r p m

/-- A message with its rank, put in its place. -/
def insertRanked (x : List Nat × Transit) : List (List Nat × Transit) → List (List Nat × Transit)
  | [] => [x]
  | y :: ys => if keyLess x.1 y.1 then x :: y :: ys else y :: insertRanked x ys

/-- A held completion takes effect; what it posts is put among the posts of its cycle, in the order of R19. -/
def State.applyOne (slot : Nat) (x : State × List (List Nat × Transit)) (h : List Nat × Instr) : State × List (List Nat × Transit) :=
  let n := match x.1.ctx slot with
    | some c => c.transit.length
    | none => 0
  let s1 := x.1.applyHeld h.2
  match s1.ctx slot with
  | none => (s1, x.2)
  | some c =>
    (s1.setCtx slot { c with transit := c.transit.take n },
      (c.transit.drop n).foldl (fun acc t => insertRanked (t.rank h.1, t.asHeld) acc) x.2)

/-- The completions of one cycle take effect; their posts are sent, and reach their ports in this order, ahead of whatever is posted later
(R14, R19, R304). -/
def State.applyCycle (slot : Nat) (s : State) (is : List (List Nat × Instr)) : State :=
  let x := is.foldl (State.applyOne slot) (s, [])
  x.1.modCtx slot (fun c => { c with transit := c.transit ++ x.2.map (fun t => t.2) })

/-- Held completions, cycle by cycle. -/
def byCycle : List (Nat × List Nat × Instr) → List (List (List Nat × Instr))
  | [] => []
  | x :: xs =>
    match xs, byCycle xs with
    | y :: _, l :: ls => if x.1 = y.1 then (x.2 :: l) :: ls else [x.2] :: l :: ls
    | _, ls => [x.2] :: ls

/-- The held completions of a context take effect in the order in which they occurred (R304). -/
def State.releaseStop (s : State) (slot : Nat) : State :=
  match s.ctx slot with
  | none => s
  | some c =>
    let s1 := s.setCtx slot { c with dbg := { c.dbg with stopped := false, stopping := false, held := [] } }
    let s2 := (byCycle c.dbg.held).foldl (State.applyCycle slot) s1
    s2.modCtx slot (fun c => { c with groups := c.groups.map (fun x =>
      (x.1, { x.2 with splits := x.2.splits.map (Split.resumed s.cycles) })) })

/-- DEBUG_RESUME: ignored while STOPPED is clear (R304). -/
def State.debugResume (s : State) (die slot : Nat) : State :=
  match s.ctx slot with
  | none => s
  | some c => if !s.clocked || c.joinDie ≠ die || !c.dbg.stopped then s else s.releaseStop slot

/-! ## Trace -/

/-- Ticks between SYNC packets. -/
def syncTicks : Nat := 4096

/-- A SYNC is due in a stream. -/
def State.syncDue (s : State) (die slot : Nat) : Bool :=
  traceOn ((s.die die).slot slot).trace && s.dueEvery syncTicks ((s.die die).slot slot).syncAt
    && decide (die < s.dies.length) && decide (slot < (s.die die).slots.length)

/-- TRACE_SYNC (R307): after a loss the LOSS packet and its SYNC are this tick's. -/
def State.traceSync (s : State) (die slot : Nat) : State :=
  if !s.clocked || !s.syncDue die slot then s
  else
    let x := (s.die die).slot slot
    let s1 := if x.dropped = 0 ∨ s.traceFull die slot then s.traceSyncPkt die slot else s.traceRecover die slot
    s1.modSlotRegs die slot (fun y => { y with syncAt := s.tickNow })

end Sys2Proof.Machine
end

