-- ==== Sys2Proof/Machine/Atomics.lean ====
section
/-! DEFINITION. Atomics.lean: ATOM, CAS and RED (16 R316, R317, R331, 18 R383) and FENCE (17 R345, 10 R230). -/

namespace Sys2Proof.Machine

open Sys2Proof

/-! ## Operations (Table 16.2) -/

/-- Bytes of a type of Table 4.9. -/
def atomBytes (ty : AtomTy) : Nat := if ty.wide then 8 else 4

/-- An integer operation on `n`-bit values. -/
def atomInt (op : AtomOp) (signed : Bool) (n old v : Nat) : Nat :=
  let less (a b : Nat) : Bool :=
    if signed then decide ((BitVec.ofNat n a).toInt < (BitVec.ofNat n b).toInt) else decide (a < b)
  match op with
  | .add => (old + v) % 2 ^ n
  | .min => if less v old then v else old
  | .max => if less old v then v else old
  | .and => old &&& v
  | .or => old ||| v
  | .xor => old ^^^ v
  | .exch => v
  | .inc => if v ≤ old then 0 else old + 1
  | .dec => if old = 0 ∨ v < old then v else old - 1

/-- A floating-point operation on codes: ADD rounds once in RN, MIN and MAX are minimumNumber and maximumNumber. -/
def atomFp (f : BinFmt) (op : AtomOp) (old v : Nat) : Nat :=
  match op with
  | .add => (addNums f .rn [f.decode old, f.decode v]).1
  | .min => (minMaxNum f false true old v).1
  | .max => (minMaxNum f true true old v).1
  | .exch => v
  | .and | .or | .xor | .inc | .dec => old

/-- Both halves of a packed type. -/
def atomPairFp (f : BinFmt) (op : AtomOp) (old v : Nat) : Nat :=
  atomFp f op (old % 2 ^ 16) (v % 2 ^ 16) + 2 ^ 16 * atomFp f op (old / 2 ^ 16) (v / 2 ^ 16)

def atomApply (ty : AtomTy) (op : AtomOp) (old v : Nat) : Nat :=
  match ty with
  | .i32 => atomInt op true 32 old v
  | .ui32 => atomInt op false 32 old v
  | .i64 => atomInt op true 64 old v
  | .ui64 => atomInt op false 64 old v
  | .f32 => atomFp fmtF32 op old v
  | .f64 => atomFp fmtF64 op old v
  | .bf16x2 => atomPairFp fmtBF16 op old v
  | .f16x2 => atomPairFp fmtF16 op old v

/-! ## One indivisible operation -/

/-- A lane's operation: what it does to the old value (none leaves it), and what asks a peer for it. -/
structure RmwOp where
  f  : Nat → Option Nat
  op : PeerOp

/-- The bytes of a translated range whose every piece is local. -/
def State.localBytes (s : State) (ps : List (TRes × Nat)) : List Byte :=
  ps.flatMap (fun p => match p.1 with
    | .phys pa _ => s.read pa p.2
    | .remote _ _ | .fault _ _ | .noX | .ecc _ | .wait => [])

/-- The ECC that reading a translated local range meets. -/
def State.localEcc (s : State) (ps : List (TRes × Nat)) : Option Exc :=
  ps.findSome? (fun p => match p.1 with
    | .phys pa _ => s.eccOf pa p.2
    | .remote _ _ | .fault _ _ | .noX | .ecc _ | .wait => none)

/-- One read-modify-write at the home slice or the scratchpad (R142, R237): the value it read. One that writes takes its lines out of the
issuing core's L1 (R147), wherever their home is. -/
def State.rmw (s : State) (cx : Cx) (hint : Nat) (addr : DWord) (size lane : Nat) (op : RmwOp) : MRes Nat :=
  match s.ctx cx.slot with
  | none => .wait s
  | some c =>
    match placeOf c cx.lcid addr with
    | some (.scratch lcid off) =>
      if s.softScratch cx.slot lcid off size then .fault Exc.sramEcc else
      let old := leNat (Cells.read (s.lc cx.slot lcid).scratch off size)
      let s1 := match op.f old with
        | none => s
        | some x =>
          (s.modLc cx.slot lcid (fun l => { l with scratch := Cells.write l.scratch off (natLe size x) })).modGroup
            ⟨cx.slot, cx.lcid, cx.gh⟩ (fun g => if lcid = cx.lcid then g.wrote [off] else g)
      .ok old s1
    | some (.global _ va) =>
      match s.transRange cx ⟨addr, va, size, .atomic, false, false⟩ with
      | .fault e => .fault e
      | .wait s1 => .wait s1
      | .ok ps s1 =>
        let drop (old : Nat) (t : State) : State := if (op.f old).isSome then t.l1Drop cx (linesOf va size) else t
        match ps with
        | (.remote rank pa, _) :: _ =>
          (match s1.remoteDo cx rank (pa / 128) (secMask (pa % 128) size) (.rmw [(lane, pa % 128, op.op)]) (Exc.at .access addr) with
           | .fault e => .fault e
           | .wait s2 => .wait (s2.farDrop cx ⟨addr, va, size, .atomic, false, false⟩ ps)
           | .ok b s2 => .ok (leNat b) (s2.farDrop cx ⟨addr, va, size, .atomic, false, false⟩ ps))
        | _ =>
          let s2 := s1.touchPieces hint ps
          match s2.localEcc ps with
          | some e => .fault e
          | none =>
            let old := leNat (s2.localBytes ps)
            match op.f old with
            | none => .ok old s2
            | some x => .ok old (drop old (s2.writeLocal ps (natLe size x)))
    | _ => .fault (Exc.at .access addr)

/-- The access lies in the memory of a peer. -/
def State.rmwRemote (s : State) (cx : Cx) (e : Elem) : MRes Bool :=
  if 2 < addrPath e.addr then .ok false s
  else (s.transRange cx ⟨e.addr, bitsOf e.addr.toNat 0 57, e.n, .atomic, false, false⟩).bind (fun ps s1 => .ok (hasRemote ps) s1)

/-- The lanes whose operation a peer performs, and those whose operation this device performs. -/
def State.rmwSplit (s : State) (cx : Cx) :
    List (Nat × Elem) → List (Nat × Elem) → List (Nat × Elem) → MRes (List (Nat × Elem) × List (Nat × Elem))
  | [], far, near => .ok (far, near) s
  | x :: xs, far, near =>
    (s.rmwRemote cx x.2).bind (fun b s1 => if b then s1.rmwSplit cx xs (far ++ [x]) near else s1.rmwSplit cx xs far (near ++ [x]))

/-- The operations of the lanes in ascending order; the values they read, by lane. Where one must wait for a peer, the others make their
requests too (R156). -/
def State.rmwLanes (s : State) (cx : Cx) (hint size : Nat) (op : Nat → RmwOp) :
    List (Nat × Elem) → List (Nat × List Nat) → MRes (List (Nat × List Nat))
  | [], acc => .ok acc s
  | (j, e) :: rest, acc =>
    match s.rmw cx hint e.addr size j (op j) with
    | .fault x => .fault x
    | .wait s1 => .wait ((s1.rmwLanes cx hint size op rest []).waitOr s1)
    | .ok v s1 => s1.rmwLanes cx hint size op rest (acc ++ [(j, [v])])

/-- Every lane's operation, each performed once: those of a peer first, which wait for their answers and have answers kept for
them, then those of this device (R237, R317). A lane of one kind and a lane of the other never touch a common byte. -/
def State.rmwAll (s : State) (cx : Cx) (hint size : Nat) (op : Nat → RmwOp) (es : List (Nat × Elem)) :
    MRes (List (Nat × List Nat)) :=
  (s.rmwSplit cx es [] []).bind (fun x s1 =>
    (s1.rmwLanes cx hint size op x.1 []).bind (fun far s2 => s2.rmwLanes cx hint size op x.2 far))

/-! ## The instructions -/

/-- A value of 4 or 8 bytes in lane `j`, low word first. -/
def regValue (src : Group) (v j size : Nat) : Nat :=
  if size = 8 then (src.vPair v j).toNat else (src.v v j).toNat

/-- The parts that ATOM, CAS and RED share. -/
structure RmwInstr where
  g     : Guard
  la    : LA
  d     : Option VReg
  x     : VReg
  arr   : AReg
  size  : Nat
  ord   : Ord
  scope : Scope
  kind  : Watched
  op    : Group → Nat → RmwOp

/-- Run an atomic (R317): FORMAT, the check of R70, ACCESS, then one operation per lane in ascending order. -/
def rmwRes (o : RmwInstr) (s : State) (r : SplitRef) (src g : Group) : Res :=
  let a := src.a o.arr.toNat
  let act := src.active r.k o.g
  let view := src.view r.k o.x.toNat
  if arBad a || arEsz a != (if o.size = 8 then 3 else 2) then .trap (Exc.plain .format 0) s
  else
    s.withCheck r (footprint a view 0 1) (arrayCheck a view act true 0 1 (fun j => (src.v o.x.toNat j).toInt)) (fun s1 c =>
      let ls := c.elems a 1
      match s1.laneChecks r (g.split r.k) .atomic o.kind 0 ls (s1.checked r c) with
      | some x => x
      | none =>
        let es := ls.flatMap (fun l => l.2.map (fun e => (l.1, e)))
        let cx := s1.cxOf r
        ((((s1.asking r .atomic o.ord o.scope).flush r.group).transElems cx .atomic (es.map (fun e => e.2))).bind (fun _ s2 =>
          s2.rmwAll cx (accessHint .fromArray a) o.size (o.op src) es)).toRes (s1.checked r c) (fun vals s3 =>
            .next ((s3.checked r c).done r (fun x =>
              match o.d with
              | none => x
              | some d => x.issueLong r.k o.la .load (loadDests d.toNat act false 1 (8 * o.size) vals) [] 0))))

/-- ATOM and RED: the operand of lane `j` is vV. -/
def atomInstr (o : AtomInstr) (ret : Bool) : RmwInstr where
  g := o.g
  la := o.la
  d := if ret then some o.d else none
  x := o.x
  arr := o.arr
  size := atomBytes o.ty
  ord := o.ord
  scope := o.scope
  kind := ⟨ret, true⟩
  op := fun src j =>
    let v := regValue src o.v.toNat j (atomBytes o.ty)
    { f := fun old => some (atomApply o.ty o.op old v)
      op := .atomic (atomBytes o.ty) o.op o.ty (BitVec.ofNat 64 v) }

def atomRes (o : AtomInstr) : State → SplitRef → Group → Group → Res := rmwRes (atomInstr o true)
def redRes (o : AtomInstr) : State → SplitRef → Group → Group → Res := rmwRes (atomInstr o false)

/-- CAS (R331). -/
def casInstr (o : CasOp) : RmwInstr :=
  let size := if o.ty.wide then 8 else 4
  { g := o.g, la := o.la, d := some o.d, x := o.x, arr := o.arr, size := size, ord := o.ord, scope := o.scope
    kind := ⟨true, true⟩
    op := fun src j =>
      let cmp := regValue src o.v.toNat j size
      let swap := regValue src (o.v.toNat + size / 4) j size
      { f := fun old => if old = cmp then some swap else none
        op := .cas size (BitVec.ofNat 64 cmp) (BitVec.ofNat 64 swap) } }

def casRes (o : CasOp) : State → SplitRef → Group → Group → Res := rmwRes (casInstr o)

/-! ## FENCE -/

/-- What a fence of a scope asks of the reads of the group's MMAs: a fence of GROUP scope orders nothing toward another agent. -/
def State.readsAt (s : State) (r : GroupRef) (scope : Scope) : State := if scope = .group then s else s.readsDone r

/-- FENCE (R345): a fence that orders earlier accesses holds them performed at its scope before anything later; an acquire
fence asks only that the reads are done, those of an MMA too (Table 10.3). -/
def fenceRes (gd : Guard) (ord : Ord) (scope : Scope) : State → SplitRef → Group → Group → Res :=
  underQ gd (fun s r _ _ =>
    match ord with
    | .plain | .acq => .next ((s.readsAt r.group scope).done r (fun x => x))
    | .rel | .acqrel | .sc => .next (((s.readsAt r.group scope).releaseAt r.group scope).done r (fun x => x)))

/-- FENCE.ENG.REL (R230, R242): every earlier access of the group is performed before later engine reads and writes. -/
def fenceEngRes (gd : Guard) (_scope : Scope) : State → SplitRef → Group → Group → Res :=
  underQ gd (fun s r _ _ => .next (((s.readsDone r.group).flush r.group).done r (fun x => x)))

end Sys2Proof.Machine
end

