-- ==== Sys2Proof/Machine/Keccak.lean ====
section
/-! DEFINITION. Keccak.lean: SHAKE256, the digest of a park image (13 R285): Keccak-f[1600] with 24 rounds, rate 136 bytes,
padding 1F … 80. The algorithm is that of FIPS 202, which the spec names and does not print (PRESUMED, log 30). -/

namespace Sys2Proof.Machine

open Sys2Proof

namespace Keccak

/-- The state: 25 lanes of 64 bits, lane (x, y) at x + 5y. -/
abbrev Lanes25 := List (BitVec 64)

def at_ (a : Lanes25) (x y : Nat) : BitVec 64 := regGet 0 a (x % 5 + 5 * (y % 5))
def build (f : Nat → Nat → BitVec 64) : Lanes25 := (List.range 25).map (fun i => f (i % 5) (i / 5))

def theta (a : Lanes25) : Lanes25 :=
  let c := (List.range 5).map (fun x => at_ a x 0 ^^^ at_ a x 1 ^^^ at_ a x 2 ^^^ at_ a x 3 ^^^ at_ a x 4)
  let d := (List.range 5).map (fun x => regGet 0 c ((x + 4) % 5) ^^^ (regGet 0 c ((x + 1) % 5)).rotateLeft 1)
  build (fun x y => at_ a x y ^^^ regGet 0 d x)

/-- Rotation of each lane. -/
def offsets : List Nat :=
  [0, 1, 62, 28, 27, 36, 44, 6, 55, 20, 3, 10, 43, 25, 39, 41, 45, 15, 21, 8, 18, 2, 61, 56, 14]

/-- Rho and pi: lane (y, 2x + 3y) takes lane (x, y) rotated. -/
def rhoPi (a : Lanes25) : Lanes25 :=
  build (fun x y =>
    let sx := (x + 3 * y) % 5
    let sy := x
    (at_ a sx sy).rotateLeft (regGet 0 offsets (sx + 5 * sy)))

def chi (a : Lanes25) : Lanes25 := build (fun x y => at_ a x y ^^^ (~~~(at_ a (x + 1) y) &&& at_ a (x + 2) y))

def roundConsts : List (BitVec 64) :=
  [0x0000000000000001, 0x0000000000008082, 0x800000000000808A, 0x8000000080008000, 0x000000000000808B, 0x0000000080000001,
   0x8000000080008081, 0x8000000000008009, 0x000000000000008A, 0x0000000000000088, 0x0000000080008009, 0x000000008000000A] ++
  [0x000000008000808B, 0x800000000000008B, 0x8000000000008089, 0x8000000000008003, 0x8000000000008002, 0x8000000000000080,
   0x000000000000800A, 0x800000008000000A, 0x8000000080008081, 0x8000000000008080, 0x0000000080000001, 0x8000000080008008]

def round (a : Lanes25) (rc : BitVec 64) : Lanes25 :=
  match chi (rhoPi (theta a)) with
  | [] => []
  | x :: xs => (x ^^^ rc) :: xs

def permute (a : Lanes25) : Lanes25 := roundConsts.foldl round a

def rate : Nat := 136

/-- XOR a block of `rate` bytes into the state. -/
def absorb (a : Lanes25) (b : List Byte) : Lanes25 :=
  (List.range 25).map (fun i => regGet 0 a i ^^^ BitVec.ofNat 64 (leNat ((b.drop (8 * i)).take 8)))

/-- Absorb whole blocks; `n` bounds their number. -/
def absorbAll : Nat → Lanes25 → List Byte → Lanes25
  | 0, a, _ => a
  | _ + 1, a, [] => a
  | n + 1, a, x :: xs => absorbAll n (permute (absorb a ((x :: xs).take rate))) ((x :: xs).drop rate)

/-- The padding of SHAKE. -/
def pad (n : Nat) : List Byte :=
  let k := rate - n % rate
  if k = 1 then [0x9F] else 0x1F :: (List.replicate (k - 2) 0 ++ [0x80])

end Keccak

/-- The first 64 bytes of SHAKE256. -/
def shake256 (b : List Byte) : List Byte :=
  let m := b ++ Keccak.pad b.length
  let a := Keccak.absorbAll (m.length / Keccak.rate) (List.replicate 25 0) m
  (a.take 8).flatMap (fun w => natLe 8 w.toNat)

end Sys2Proof.Machine
end

