-- ==== Sys2Proof/Machine/Host.lean ====
section
/-! DEFINITION. Host.lean: what reaches the device from outside: the mailbox (09 R214), BAR4 (14 R291, 10 R245), Ringus flits and
markers (14 R296, 13 R281, R289), the meridian source (14 R297), readiness (R294), attestation (R295), power (R298), the freeze
(15 R300), retried flits and the scrub (12 R275). -/

namespace Sys2Proof.Machine

open Sys2Proof

def State.modPkg (s : State) (f : Package → Package) : State := { s with pkg := f s.pkg }

/-- READY bits (Table 14.4). -/
def State.readyBit (s : State) (n : Nat) : Bool := s.pkg.ready.getLsbD n
def rdyMgmt : Nat := 0
def rdyMbox : Nat := 1
def rdyPcie : Nat := 2
def rdyFw : Nat := 3
def rdyDie (d : Nat) : Nat := 4 + d
def rdyStack (hs : Nat) : Nat := 12 + hs
def rdyMsync : Nat := 40
def rdyAttest : Nat := 41

/-! ## The mailbox -/

/-- Channels of Table 12.7: a bank, the fabric, the package controller (R274). -/
def chanBank (port : Nat) : Nat := 90 + port / 256
def chanPkg : Nat := 108

/-- A post from outside that its port refuses, or that names no port: event 0x06 (R274). -/
def State.dropPost (s : State) (slot : Option Nat) (port : Nat) (bytes : List Byte) : State :=
  let info : BitVec 32 := BitVec.ofNat 32 (leNat (bytes.take 4))
  match slot with
  | some k => s.logEvent (s.joinDie k) (chanBank port) 6 (causeCode .access) port k info
  | none => s.logEvent 0 chanPkg 6 (causeCode .access) port 0 info

/-- A context that outside posts can reach; one that a resume is restoring is reached from when BUSY clears (R288). -/
def State.openCtx (s : State) (slot : Nat) : Option Context :=
  match s.ctx slot with
  | some c => if c.park = .captured then none else some c
  | none => none

/-- MAILBOX_WRITE (R214). The mailbox takes writes once its READY bit is set and while the device runs. -/
def State.mailboxWrite (s : State) (off : Nat) (bytes : List Byte) : State :=
  let slot := off / 0x8000
  let port := off % 0x8000 / 8
  if !s.clocked || !s.readyBit rdyMbox then s
  else if bytes.length ≠ 8 ∨ off % 8 ≠ 0 then s.dropPost none port bytes
  else match s.openCtx slot with
    | none => s.dropPost none port bytes
    | some c =>
      if wordHost ((c.bank (port / 256)).word (port % 256)) then
        s.extPost slot .host port ⟨BitVec.ofNat 64 (leNat bytes), none⟩
      else s.dropPost (some slot) port bytes

/-- What a read of a mailbox slot returns (R214). -/
def State.mailboxRead (s : State) (off : Nat) : DWord :=
  match s.openCtx (off / 0x8000) with
  | some c =>
    let port := off % 0x8000 / 8
    let b := c.bank (port / 256)
    BitVec.ofNat 64 ((b.queue (port % 256)).length + (if wordHost (b.word (port % 256)) then 128 else 0))
  | none => 0

/-! ## BAR4 -/

/-- Every byte is one the host may reach: below 432 GiB, outside the compressed regions, in a stack whose READY bit is set. DEDUCED (log 25). -/
def State.hostOk (s : State) (pa n : Nat) : Bool :=
  decide (0 < n) && decide (pa + n ≤ Config.physBytes) && !s.inRegion pa && !s.inRegion (pa + n - 1)
    && s.readyBit (rdyStack (paStack pa)) && s.readyBit (rdyStack (paStack (pa + n - 1)))

/-- HOST_BAR4_ACCESS: performed at the home slice at SYSTEM scope (R245); an access that the device refuses is completed as Unsupported
Request, and one beyond the size of the BAR is not the device's (R291). A read that needs an uncorrectable sector logs event 0x02 and
completes without data: how the link says so is not stated. DESIGN CHOICE (log 25). -/
def State.bar4 (s : State) (off n : Nat) (data : Option (List Byte)) : State :=
  let pa := s.pkg.wbase.toNat + off
  let len := match data with
    | some bytes => bytes.length
    | none => n
  if !s.clocked || decide (2 ^ s.pkg.bar4Log < off + len) then s
  else if !s.hostOk pa len then { s with hostOut := s.hostOut ++ [.unsupported off] }
  else match data with
    | some bytes => s.homeWrite pa bytes
    | none =>
      let s1 := s.homeAccess pa len false
      match s1.eccOf pa len with
      | some e =>
        let s2 := s1.logEcc 0 (homeDie pa) none e
        { s2 with hostOut := s2.hostOut ++ [.uncorrectable off] }
      | none => { s1 with hostOut := s1.hostOut ++ [.read off (s1.read pa len)] }

/-- System software sizes BAR4 by its Resizable BAR capability: 1 GiB to 512 GiB (Table 14.1). -/
def State.resizeBar4 (s : State) (log : Nat) : State :=
  if 30 ≤ log ∧ log ≤ 39 then s.modPkg (fun p => { p with bar4Log := log }) else s

/-- System software selects the host port; the other one is held in reset until the next device reset (R15). -/
def State.selectPort (s : State) (io1 : Bool) : State :=
  if s.pkg.hostPort.isNone then s.modPkg (fun p => { p with hostPort := some io1 }) else s

/-! ## Ringus flits -/

/-- A slot has RV set and a rank as its RSELF (Table 14.2). -/
def State.isRank (s : State) (slot rank : Nat) : Bool :=
  let w := regGet 0 s.pkg.rsel slot
  w.getLsbD 12 && bitsOf w.toNat 0 12 == rank

/-- The slot that answers for a rank. -/
def State.rankSlot (s : State) (rank : Nat) : Option Nat := (List.range 8).find? (fun k => s.isRank k rank)

/-- Fields of a peer window (Table 14.5). -/
def pwBase (w : BitVec 128) : Nat := bitsOf w.toNat 64 64
def pwSize (w : BitVec 128) : Nat := bitsOf w.toNat 40 24 * 65536
def pwRank (w : BitVec 128) : Nat := bitsOf w.toNat 28 12

/-- One valid window of the sender covers every byte and grants the access. -/
def State.admits (s : State) (src pa n : Nat) (rd wr : Bool) : Bool :=
  s.pkg.pwin.any (fun w => w.getLsbD 0 && pwRank w == src && decide (pwBase w ≤ pa) && decide (pa + n ≤ pwBase w + pwSize w)
    && (!rd || w.getLsbD 1) && (!wr || w.getLsbD 2))

/-- An admitted write of bytes, each with the bits it changes. -/
def State.peerWrite (s : State) (pa : Nat) (bytes bits : List Byte) : State :=
  s.putAll 0 ((bytes.zip bits).zipIdx.map (fun x => ⟨.phys (pa + x.2), x.1.1, x.1.2⟩))

/-- A request of a peer for a range of bytes: performed at the home slice, with a reply, or refused; one that needs an uncorrectable sector
is answered so, and event 0x02 is logged here (R161). -/
def State.serve (s : State) (port rank src txn pa n : Nat) (need : List (Nat × Nat)) (rd wr : Bool) (f : State → List Byte × State) : State :=
  match s.rankSlot rank with
  | none => s.sendFlit port src (.refuse rank txn)
  | some slot =>
    if !s.admits src pa n rd wr then s.sendFlit port src (.refuse rank txn)
    else
      let s1 := s.homeAccess pa n wr
      match need.findSome? (fun x => s1.eccOf x.1 x.2) with
      | some e => (s1.logEcc slot (homeDie pa) none e).sendFlit port src (.ecc rank (e.tval.toNat / 32) txn)
      | none =>
        let x := f s1
        x.2.sendFlit port src (.reply rank txn x.1)

/-- The sectors of a line that a mask names: their first bytes. -/
def maskSectors (line : Nat) (secs : BitVec 4) : List (Nat × Nat) :=
  ((List.range 4).filter (fun k => secs.getLsbD k)).map (fun k => (128 * line + 32 * k, 32))

/-- The bytes of a line, zeros for the sectors that are not asked for. -/
def State.lineBytes (s : State) (line : Nat) (secs : BitVec 4) : List Byte :=
  (List.range 4).flatMap (fun k => if secs.getLsbD k then s.read (128 * line + 32 * k) 32 else List.replicate 32 0)

/-- The new value of an operation that a peer asks for (Table 16.2, R331). -/
def PeerOp.apply (op : PeerOp) (old : Nat) : Nat :=
  match op with
  | .atomic n op ty v => atomApply ty op old v.toNat % 2 ^ (8 * n)
  | .cas n cmp swap => if old = cmp.toNat % 2 ^ (8 * n) then swap.toNat % 2 ^ (8 * n) else old

/-- The operations of a request on a line in their order: the values they read, one after another. -/
def State.peerOps (s : State) (line : Nat) : List (Nat × PeerOp) → List Byte × State
  | [] => ([], s)
  | (off, op) :: rest =>
    let pa := 128 * line + off
    let old := s.read pa (PeerOp.size op)
    let x := (s.write pa (natLe (PeerOp.size op) (PeerOp.apply op (leNat old)))).peerOps line rest
    (old ++ x.1, x.2)

/-- A request to the peer of rank `src` whose answer a flit for `rank` brings: one of a slot of that rank (R296). -/
def State.answers (s : State) (rank src txn : Nat) (x : RemoteTxn) : Bool :=
  x.txn == txn && x.rank == src && s.isRank x.who.slot rank

/-- The answer to a request of this device: that of a PREF fills the L1, unless a store or an invalidation has passed it, and is done (R379). -/
def State.answered (s : State) (rank src txn : Nat) (a : PeerReply) : State :=
  match s.pkg.remote.find? (s.answers rank src txn) with
  | none => s
  | some x =>
    match x.who, a with
    | .pref slot lcid line reuse l1, .bytes b =>
      let s1 := s.remoteDone x.who
      if l1 && s.mayFill ⟨x.who, slot, lcid, 1024, s.portOf slot lcid⟩ (.remote x.rank (128 * x.line)) then (List.range 4).foldl (fun acc i =>
          acc.l1Fill ⟨x.who, slot, lcid, 1024, acc.portOf slot lcid⟩ reuse (4 * line + i) ((b.drop (32 * i)).take 32)) s1
      else s1
    | .pref _ _ _ _ _, .refused | .pref _ _ _ _ _, .ecc _ => s.remoteDone x.who
    | .split _, _ | .cpa _ _ _, _ | .record _ _ _ _, _ | .start _ _, _ | .fire _ _ _, _ =>
      s.modPkg (fun p => { p with remote := p.remote.map (fun y => if s.answers rank src txn y then { y with reply := some a } else y) })

/-- RINGUS_FLIT_ARRIVAL (R296): `rank` is the destination the flit names. -/
def State.flitArrival (s : State) (port rank : Nat) (f : Flit) : State :=
  if !s.clocked || !s.portUp port then s
  else match f with
    | .post _ p payload =>
      (match (s.rankSlot rank).bind (fun k => (s.openCtx k).map (fun c => (k, c))) with
       | none => s.dropPost none p (natLe 8 payload.toNat)
       | some (k, c) =>
         if wordPeer ((c.bank (p / 256)).word (p % 256)) then s.extPost k (.link port) p ⟨payload, none⟩
         else s.dropPost (some k) p (natLe 8 payload.toNat))
    | .read src line secs txn =>
      s.serve port rank src txn (128 * line) 128 (maskSectors line secs) true false (fun x => (x.lineBytes line secs, x))
    | .write src pa bytes bits txn =>
      s.serve port rank src txn pa bytes.length [] false true (fun x => ([], x.peerWrite pa bytes bits))
    | .rmw src line ops txn =>
      s.serve port rank src txn (128 * line) (ops.foldl (fun n x => max n (x.1 + PeerOp.size x.2)) 128) (ops.map (fun x =>
        (128 * line + x.1, PeerOp.size x.2))) false true (fun x => x.peerOps line ops)
    | .reply src txn bytes => s.answered rank src txn (.bytes bytes)
    | .refuse src txn => s.answered rank src txn .refused
    | .ecc src sec txn => s.answered rank src txn (.ecc sec)

/-! ## Drains and resumes between devices (R281, R289, R296) -/

/-- DRAIN_REQUEST_ARRIVAL: every flit sent earlier goes ahead of the marker; later traffic for the rank is held. -/
def State.drainRequest (s : State) (port rank : Nat) : State :=
  if !s.clocked || !s.portUp port then s
  else
    let held := if s.pkg.holds.contains (port, rank) then s.pkg.holds else s.pkg.holds ++ [(port, rank)]
    { s with pkg := { s.pkg with holds := held }, linkOut := s.linkOut ++ [.drainMarker port] }

/-- A port has answered a drain. -/
def Context.drained (port : Nat) (c : Context) : Context := { c with drains := c.drains.filter (fun p => p != port) }

/-- DRAIN_MARKER_ARRIVAL. -/
def State.drainMarker (s : State) (port slot : Nat) : State :=
  if s.clocked && s.portUp port then s.modCtx slot (Context.drained port) else s

/-- LINK_PORT_DOWN: the port counts as answered in every drain, while the device's clocks run (R300). -/
def State.portDown (s : State) (port : Nat) : State :=
  if 16 ≤ port then s
  else
    let s1 := s.modPkg (fun p => { p with linkDown := p.linkDown ||| BitVec.ofNat 16 (2 ^ port) })
    if s.clocked then { s1 with ctxs := s.ctxs.map (fun c => c.map (Context.drained port)) } else s1

/-- DRTO has passed since the drain of a context began. -/
def State.drainLate (s : State) (c : Context) : Bool :=
  s.pkg.drto != 0 && decide (c.drainAt + s.pkg.drto * 2 ^ 20 ≤ s.tickNow)

/-- DRAIN_TIMEOUT (R296). -/
def State.drainTimeout (s : State) (port slot : Nat) : State :=
  match s.ctx slot with
  | some c => if c.drains.contains port && s.drainLate c && s.clocked then s.portDown port else s
  | none => s

/-- The peer tables of this device, by context slot and address: of the groups of every context, of its gang records, and of the gangs that it has
had (R260). -/
def State.peerTables (s : State) : List (Nat × DWord) :=
  ((List.range 8).flatMap (fun slot => match s.ctx slot with
    | none => []
    | some c => ((c.groups.map (fun x => x.2.ctl.peers) ++ c.records.filterMap (fun r => r.desc.map (fun d => dgPeers (descNum d))) ++ c.tables).filter
        (fun a => a != 0)).map (fun a => (slot, a)))).dedup

/-- Read tables until the entry of one for a rank names a port. -/
def State.peerSeek (s : State) (port rank : Nat) : List (Nat × DWord) → Bool × State
  | [] => (false, s)
  | (slot, addr) :: rest =>
    match s.devRead slot addr 16 with
    | none => s.peerSeek port rank rest
    | some (h, s1) =>
      if bitsOf (leNat h) 12 13 ≤ rank then s1.peerSeek port rank rest
      else match s1.devRead slot (addr + BitVec.ofNat 64 (16 + 16 * rank)) 16 with
        | some (b, s2) => if (leNat b).testBit (100 + port) then (true, s2) else s2.peerSeek port rank rest
        | none => s1.peerSeek port rank rest

/-- This device's peer-table entry for a rank names a port, in one of its tables. -/
def State.peerNames (s : State) (port rank : Nat) : Bool := (s.peerSeek port rank s.peerTables).1

/-- The traffic held for a rank leaves on the port of the marker, in the order sent. -/
def State.releaseHeld (s : State) (port rank : Nat) : State :=
  let go := s.pkg.heldFor.filter (fun x => x.2.1 == rank)
  { s with
    pkg := { s.pkg with
      holds := s.pkg.holds.filter (fun x => x.2 != rank)
      heldFor := s.pkg.heldFor.filter (fun x => x.2.1 != rank)
      resumes := s.pkg.resumes.filter (fun x => x != (port, rank)) }
    linkOut := s.linkOut ++ go.map (fun x => .flit port rank x.2.2) }

/-- Markers whose port the peer table has come to name release their traffic. -/
def State.tryResumes (s : State) : State :=
  s.pkg.resumes.foldl (fun acc x =>
    let y := acc.peerSeek x.1 x.2 acc.peerTables
    if y.1 then y.2.releaseHeld x.1 x.2 else y.2) s

/-- RESUME_MARKER_ARRIVAL. -/
def State.resumeMarker (s : State) (port rank : Nat) : State :=
  if !s.clocked || !s.portUp port then s
  else if s.pkg.holds.any (fun x => x.2 == rank) && !s.pkg.resumes.contains (port, rank) then
    (s.modPkg (fun p => { p with resumes := p.resumes ++ [(port, rank)] })).tryResumes
  else s

/-! ## Readiness, meridian, attestation -/

/-- A READY bit sets, with notice 4. -/
def State.setReady (s : State) (n : Nat) : State :=
  if s.readyBit n then s else (s.modPkg (fun p => { p with ready := p.ready ||| BitVec.ofNat 64 (2 ^ n) })).notice 4

/-- A function may come up: no stack before the mailbox and the management block (R294); the firmware once its images are verified and none
has failed (R295); in a freeze only what keeps running, the package block, the host port and the package controller's report (R300).
MSYNC is set by the first lock (R297). -/
def State.mayRise (s : State) (n : Nat) : Bool :=
  decide (n < 42) && n != rdyMsync &&
  (!(decide (rdyStack 0 ≤ n) && decide (n < rdyStack 12)) || (s.readyBit rdyMgmt && s.readyBit rdyMbox)) &&
  (n != rdyFw || (!s.pkg.images.isEmpty && s.pkg.fwFailed.isEmpty)) &&
  (!s.pkg.frozen || n == rdyMgmt || n == rdyPcie || n == rdyAttest)

/-- FUNCTION_READY (R294). -/
def State.functionReady (s : State) (n : Nat) : State := if s.mayRise n then s.setReady n else s

/-- The device sends its own tick on every link that is up (R297). -/
def State.sendTicks (s : State) : State :=
  { s with linkOut := s.linkOut ++ s.upPorts.map (fun p => .timestamp p s.tickNow) }

/-- The meridian moves forward to a tick; packets of the tick it leaves are written. -/
def State.moveMeridian (s : State) (t : Nat) : State :=
  if t < 2 ^ 64 ∧ s.tickNow < t then { s.traceFlushAll with meridian := BitVec.ofNat 64 t } else s

/-- MERIDIAN_SYNC (R297): a timestamp of the source over an up link. The source answers with its own; another device moves forward to
within 2 ticks of it, and is locked once it stands so near. -/
def State.meridianSync (s : State) (tick : DWord) : State :=
  if !s.clocked || s.upPorts.isEmpty then s
  else if s.pkg.mersrc then s.sendTicks
  else
    let (d, s1) := s.draw
    let s2 := s1.moveMeridian (tick.toNat + Config.drift d % 5 - 2)
    (if s2.tickNow ≤ tick.toNat + 2 then s2.setReady rdyMsync else s2).sendTicks

/-- ATTESTATION_REQUEST (R295): a new request restarts the report. -/
def State.attestStart (s : State) : State :=
  if s.readyBit rdyAttest then s.modPkg (fun p => { p with attBusy := true }) else s

/-- ATTESTATION_REPORT_END: the nonce, the measurements, the fused security versions and the certificate, signed (R295). The form of the
parts after the measurements is free (log 5). -/
def State.attestEnd (s : State) : State :=
  if s.pkg.attBusy then
    s.modPkg (fun p =>
      let body := p.nonce ++ (p.images ++ p.fwFailed).flatMap (fun i => i.digest) ++ Config.versionBytes Config.fusedVersion ++
        Config.certificate
      { p with attBusy := false, report := body ++ Config.attestSign body })
  else s

/-- The boot ROM is handed a firmware image: it runs when its key is the fused one, its signature is valid and its security version is not
below the fused one; else its measurement is kept for a report (R295). Nothing is verified once the firmware runs. -/
def State.bootImage (s : State) (body key sig : List Byte) (version : Nat) : State :=
  let i : FwImage := ⟨shake256 body, version⟩
  let good := decide (shake256 key = Config.fusedKeyHash) && Config.falconVerify key i.digest sig && decide (Config.fusedVersion ≤ version)
  if s.readyBit rdyFw then s
  else if good then s.modPkg (fun p => { p with images := p.images ++ [i] })
  else s.modPkg (fun p => { p with fwFailed := p.fwFailed ++ [i] })

/-! ## Power (R298) and the freeze (R300) -/

/-- The lowest step. -/
def lowestStep : Nat := 5

/-- The power drawn at a step is within PWRLIM. What a step draws at a tick is the load's, a free value (log 5). -/
def State.stepWithin (s : State) (step : Nat) : Bool := decide (Config.power s.tickNow step ≤ bitsOf s.pkg.pwrlim.toNat 0 16)

/-- A step that the package controller may set: one within PWRLIM, or the lowest, below which there is none. -/
def State.stepHolds (s : State) (step : Nat) : Bool :=
  step == lowestStep || (decide (step < lowestStep) && s.stepWithin step)

/-- The clock is stepped down only while the present step draws more than PWRLIM (Table 0.2). -/
def State.mayStep (s : State) (step : Nat) : Bool :=
  s.stepHolds step && !s.pkg.hot && (decide (step < s.pkg.pstep) || !s.stepWithin s.pkg.pstep)

/-- CLOCK_STEP: not while the thermal limit holds the lowest step. -/
def State.clockStep (s : State) (step : Nat) : State :=
  if s.mayStep step then s.modPkg (fun p => { p with pstep := step }) else s

/-- The step down that is due: the first slower one that keeps the power within PWRLIM, else the lowest. -/
def State.capStep (s : State) : Option Nat :=
  if s.pkg.hot || decide (lowestStep ≤ s.pkg.pstep) || s.stepWithin s.pkg.pstep then none
  else (List.range (lowestStep + 1)).find? (fun k => decide (s.pkg.pstep < k) && s.mayStep k)

/-- Faster steps that keep the power within PWRLIM. -/
def State.fasterSteps (s : State) : List Nat := (List.range s.pkg.pstep).filter s.mayStep

/-- The junction is again below 105 °C (R298). -/
def State.cooled (s : State) : State := s.modPkg (fun p => { p with hot := false })

/-- THERMAL_LIMIT. -/
def State.thermalLimit (s : State) : State := s.modPkg (fun p => { p with hot := true, pstep := lowestStep })

def Split.haltNow (now : Nat) (sp : Split) : Split :=
  if sp.st = .free ∨ sp.st = .halted then sp
  else { sp with st := .halted, haltTick := now, skid := none, dskid := none, skidIns := 0, skidCyc := 0 }

/-- A context halts at once and without records. -/
def Context.railsHalt (now : Nat) (c : Context) : Context :=
  { c with
    insts := c.insts.map (fun i => { i with error := true, halt := if i.halt = .none then .spreading else i.halt })
    groups := c.groups.map (fun x => (x.1, { x.2 with splits := x.2.splits.map (Split.haltNow now) })) }

/-- THERMAL_SHUTDOWN. -/
def State.thermalShutdown (s : State) : State :=
  { s.modPkg (fun p => { p with railsOff := true }) with ctxs := s.ctxs.map (fun c => c.map (Context.railsHalt s.tickNow)) }

/-- FREEZE_ARM. -/
def State.freezeArm (s : State) : State :=
  if s.pkg.arm then s else s.modPkg (fun p => { p with arm := true, armTick := s.tickNow })

/-- The freeze is due: the first tick at or after FRZTICK, later than the one in which ARM was set. -/
def State.freezeDue (s : State) : Bool :=
  s.pkg.arm && !s.pkg.frozen && decide (s.pkg.frztick.toNat ≤ s.tickNow) && decide (s.pkg.armTick < s.tickNow)

/-- FREEZE. -/
def State.freeze (s : State) : State := if s.freezeDue then s.modPkg (fun p => { p with frozen := true }) else s

/-- DEVICE_RESET: everything as after reset, but for the part's fuses (R1); the stacks are zeroed before their READY bits set (R294). What
the environment has still to do, and what has already left the device, is not the device's. -/
def State.deviceReset (s : State) : State :=
  { State.reset with
    pkg := { Package.reset with ordering := s.pkg.ordering }
    agenda := s.agenda, freeCtr := s.freeCtr, hostOut := s.hostOut, linkOut := s.linkOut }

/-! ## Errors -/

/-- FLIT_RETRY: event 0x08 (R275), of a fabric flit on its die under the fabric's channel, of a Ringus flit, which an I/O die retries,
on CD0 under the package controller's (R274; log 36). -/
def State.flitRetry (s : State) (die : Nat) (ringus : Bool) : State :=
  if s.clocked then (if ringus then s.logEvent 0 chanPkg 8 0 0 0 0 else s.logEvent die chanFabric 8 0 0 0 0) else s

/-- SCRUB: the sector is poisoned until it is wholly rewritten; event 0x02 on its die, under its memory channel. -/
def State.scrub (s : State) (pa : Nat) : State :=
  if !s.clocked || decide (Config.physBytes ≤ pa) then s
  else
    (s.spoil (pa / 32)).logPoison (pa / 32)

end Sys2Proof.Machine
end

