-- ==== Sys2Proof/Machine/System.lean ====
section
/-! DEFINITION. System.lean: RTE (12 R266, 18 R387), NOP and YIELD (18 R370, 19 R407), SRD and SWR (03 R55, 19 R395, R399),
GTIMER and MERID (17 R349, 18 R363), TRAP and BKPT (19 R403, 16 R323) and TRACEMARK (19 R402). -/

namespace Sys2Proof.Machine

open Sys2Proof

/-- The word of an instruction, as TVAL of ILLEGAL and CONVERGENCE holds it. -/
def wordOf (i : Instr) : DWord := (encode i).getD 0

/-! ## RTE -/

/-- The split resumes at an address: the handler flag clears, waiting splits execute their instructions again, windows close,
a FLOW packet, and the instruction at the target meets no comparator (R266, R387, R302). -/
def State.resumeAt (s : State) (r : SplitRef) (g : Group) (pc : DWord) (again : Bool) : State :=
  let sp := g.split r.k
  let g1 := ((g.handlerDone s.cycles).closeWindows r.k).modSplit r.k (fun x =>
    { x.goto s.cycles pc x.clauseYields with exempt := true, replay := again })
  (s.setGroup r.group g1).traceFlow r sp.pc pc

/-- RTE and RTE.NEXT: ILLEGAL outside the handler split or while its mask is not that of its trap entry. The COUNT that tells
whether TPC is its clause's last instruction is read from the header; a TPC that R76 refuses stays, and raises TARGET when
control reaches it. -/
def rteRes (next : Bool) (word : DWord) (s : State) (r : SplitRef) (_src g : Group) : Res :=
  if !(g.trap.inHandler && g.trap.hsplit == r.k && (g.split r.k).mask == g.trap.hmask) then illegalWord s r word
  else
    let tpc := g.trap.tpc
    if !next || !pcOk tpc then .jump (s.resumeAt r g tpc (!next))
    else
      (s.fetch (s.cxOf r) (pcHdr tpc)).toRes s (fun h s1 =>
        if hdrMaj h ≠ 1 ∨ hdrRsvd h ∨ hdrCount h < pcPos tpc then .jump (s1.resumeAt r g tpc false)
        else .jump (s1.resumeAt r g (pcAfter tpc (hdrCount h)) false))

/-! ## NOP and YIELD -/

def nopOp (_src g : Group) (_k : Nat) : Group := g

/-- YIELD ends its clause; the split ranks last among those that become eligible in its cycle (R254). -/
def yieldRes (s : State) (r : SplitRef) (_src g : Group) : Res :=
  .jump (s.setGroup r.group (g.modSplit r.k (fun sp => sp.goto s.cycles sp.nextHdr true)))

/-! ## Special registers (Table 3.2) -/

/-- A cohort slot register: [8] valid, [7:0] number (R45). -/
def cohortReg (g : Group) (slot : Nat) : DWord :=
  match g.cohortOf slot with
  | some c => BitVec.ofNat 64 (256 + c)
  | none => 0

/-- The value of a register that is not per lane. -/
def specialVal (s : State) (r : SplitRef) (g : Group) (n : BitVec 8) : DWord :=
  match n.toNat with
  | 0x01 => BitVec.ofNat 64 g.ctl.groupIdx
  | 0x02 => BitVec.ofNat 64 g.ctl.role
  | 0x03 => BitVec.ofNat 64 g.ctl.ganginst
  | 0x04 => BitVec.ofNat 64 r.lcid
  | 0x05 => BitVec.ofNat 64 (s.lc r.slot r.lcid).dieGrp
  | 0x06 => BitVec.ofNat 64 g.ctl.rank
  | 0x07 => BitVec.ofNat 64 g.ctl.nranks
  | 0x09 => cohortReg g 0
  | 0x0A => cohortReg g 1
  | 0x0B => cohortReg g 2
  | 0x0C => cohortReg g 3
  | 0x10 => g.viol.setWidth 64
  | 0x11 => g.fflags
  | 0x12 => g.trap.tvec
  | 0x13 => g.trap.tpc
  | 0x14 => g.trap.tmask.setWidth 64
  | 0x15 => g.trap.tcause
  | 0x16 => g.trap.tval
  | 0x17 => g.ctl.spillBase
  | 0x18 => (match s.ctx r.slot with | some c => c.ctxclk | none => 0)
  | 0x19 => (s.lc r.slot r.lcid).tags
  | 0x1A => s.pkg.ready
  | _ => 0

/-- SRD (R395). LANEID and LORIGIN are read per lane, every other register into a uniform register. -/
def srdRes (gd : Guard) (o : SrdOp) (s : State) (r : SplitRef) (src g : Group) : Res :=
  match o with
  | .uni d n => .next (s.setGroup r.group (if src.passes gd then g.setS d.toNat (specialVal s r g n) else g))
  | .vec d n =>
    let m := src.active r.k gd
    .next (s.setGroup r.group
      (if n = 0 then g.writeVec r.k d.toNat m (perLane (fun j => BitVec.ofNat 32 j)) (some ⟨0, 31⟩)
       else g.writeVec r.k d.toNat m g.ctl.lorigin none))

/-- SWR (R399): RSVD bits are ignored. -/
def swrOp (gd : Guard) (n : BitVec 8) (a : SReg) (src g : Group) (_k : Nat) : Group :=
  if !src.passes gd then g
  else
    let x := src.s a.toNat
    match n.toNat with
    | 0x10 => { g with viol := x.extractLsb' 0 32 }
    | 0x11 => { g with fflags := x &&& 0x1F1F }
    | 0x12 => { g with trap := { g.trap with tvec := x &&& ~~~6 } }
    | 0x13 => { g with trap := { g.trap with tpc := x &&& ~~~7 } }
    | _ => g

/-! ## Timers and the meridian -/

/-- GTIMER sA (R349). -/
def gtimerOp (gd : Guard) (a : SReg) (src g : Group) (_k : Nat) : Group :=
  if src.passes gd then { g with trap := { g.trap with gtimer := (src.s a.toNat).toNat, tpend := false, tdue := false, tsplit := none } } else g

/-- GTIMER.GET sD (R349). -/
def gtimerGetOp (gd : Guard) (d : SReg) (src g : Group) (_k : Nat) : Group :=
  if src.passes gd then g.setS d.toNat (BitVec.ofNat 64 src.trap.gtimer) else g

/-- The context meridian (R290). -/
def State.ctxMeridian (s : State) (slot : Nat) : DWord :=
  s.meridian + (match s.ctx slot with | some c => c.merOff | none => 0)

/-- MERID and MERID.DEV (R363). -/
def meridRes (dev : Bool) (gd : Guard) (d : SReg) (s : State) (r : SplitRef) (src g : Group) : Res :=
  .next (s.setGroup r.group (if src.passes gd then g.setS d.toNat (if dev then s.meridian else s.ctxMeridian r.slot) else g))

/-! ## TRAP, BKPT, TRACEMARK -/

/-- TRAP code (R403). -/
def trapRes (gd : Guard) (code : BitVec 32) : State → SplitRef → Group → Group → Res :=
  underQ gd (fun s r _ g => .trap (Exc.plain .swtrap (code.setWidth 64)) (s.setGroup r.group g))

/-- BKPT code (R323): a debug stop while BKSTOP is set, else BREAK. -/
def bkptRes (gd : Guard) (code : BitVec 16) : State → SplitRef → Group → Group → Res :=
  underQ gd (fun s r _ g =>
    let stop := match s.ctx r.slot with
      | some _ => (s.dbgRegs r.slot).bkstop
      | none => false
    if stop then .jump (s.beginStop r.slot (some r) 9)
    else .trap (Exc.plain .brk (code.setWidth 64)) (s.setGroup r.group g))

/-- TRACEMARK sA (R402): a MARK packet while EN and MK are set. -/
def tracemarkRes (gd : Guard) (a : SReg) : State → SplitRef → Group → Group → Res :=
  underQ gd (fun s r src g =>
    let mk := ((s.die (s.dieOf r.slot r.lcid)).slot r.slot).trace.base.getLsbD 5
    let s1 := if mk then s.traceAt r (g.split r.k).pc { type := 5, w := src.s a.toNat } else s
    .next (s1.setGroup r.group g))

end Sys2Proof.Machine
end

