-- ==== Sys2Proof/Machine/Image.lean ====
section
/-! DEFINITION. Image.lean: the park image as a park writes it (13 R280, R285, Tables 13.5 to 13.10). -/

namespace Sys2Proof.Machine

open Sys2Proof

/-! ## Bytes -/

/-- Parts at ascending offsets from `pos`, zeros between them and up to `total`. -/
def layFrom (pos total : Nat) : List (Nat × List Byte) → List Byte
  | [] => List.replicate (total - pos) 0
  | (o, b) :: rest => List.replicate (o - pos) 0 ++ b ++ layFrom (max pos o + b.length) total rest

def layRecord (total : Nat) (parts : List (Nat × List Byte)) : List Byte := layFrom 0 total parts

/-- Fields at their lowest bits, summed. -/
def packBits (fs : List (Nat × Nat)) : Nat := fs.foldl (fun acc f => acc + f.2 * 2 ^ f.1) 0

def le8 (fs : List (Nat × Nat)) : List Byte := natLe 8 (packBits fs)
def le16 (fs : List (Nat × Nat)) : List Byte := natLe 16 (packBits fs)
def padTo64 (b : List Byte) : List Byte := b ++ List.replicate ((64 - b.length % 64) % 64) 0

/-! ## Group records (Table 13.8, Table 13.9) -/

/-- LO, HI and K of a caliper. -/
def calFields (c : Caliper) : List (Nat × Nat) :=
  match c with
  | some i => [(0, (BitVec.ofInt 32 i.lo).toNat), (32, (BitVec.ofInt 32 i.hi).toNat), (64, 1)]
  | none => []

def ovrBytes (o : Override) : List Byte := le16 (calFields o.cal ++ [(72, o.reg), (80, 1)])

def loopBytes (l : LoopLevel) : List Byte := le8 [(0, l.lstart.toNat)] ++ le8 [(0, l.lend.toNat)] ++ le8 [(0, l.lcount.toNat)]

/-- WAITK and its operands (Table 13.10); none for a split that is saved READY. A CPSEAL has bit 3 of WAITOP1; its eight batches leave
n zero. -/
def waitCode : Wait → Option (Nat × Nat × Nat)
  | .handle h w => some (1, h.toNat, w.toNat)
  | .barrier off p => some (2, off, p.toNat)
  | .tag m all => some (3, m.toNat, if all then 1 else 0)
  | .port x p => some (4, x.toNat, p)
  | .batch m n isSeal => some (5, m.toNat, n % 8 + (if isSeal then 8 else 0))
  | .reconv x _ => some (6, x.toNat, 0)
  | .cohort c p => some (7, 0, c + 2 ^ 32 * p.toNat)
  | .scope n => some (8, 0, n)
  | .regroup k p => some (9, 0, k + 4 * p.toNat)
  | .fault a _ _ => some (10, a.toNat, 0)
  | .handler | .answer | .kick | .park => none

/-- The PC a split is saved with: past its instruction in a wait of kinds 1 to 9 and at a PARK (R277, R286). DEDUCED (log 13). -/
def Split.savedPc (sp : Split) : DWord :=
  match sp.st with
  | .wait (.fault _ _ _) | .wait .handler | .wait .answer | .wait .kick => sp.pc
  | .wait _ => sp.afterPc
  | .free | .ready | .issuing | .halted => sp.pc

def stateCode (sp : Split) : Nat :=
  match sp.st with
  | .free => 0
  | .ready | .issuing => 1
  | .wait w => if (waitCode w).isSome then 2 else 1
  | .halted => 3

def splitWait (sp : Split) : Nat × Nat × Nat :=
  match sp.st with
  | .wait w => (waitCode w).getD (0, 0, 0)
  | .free | .ready | .issuing | .halted => (0, 0, 0)

def splitBytes (sp : Split) : List Byte :=
  let w := splitWait sp
  layRecord 0x400
    [(0x000, le8 [(0, sp.savedPc.toNat)]),
     (0x008, le8 [(0, sp.mask.toNat), (32, stateCode sp), (34, sp.back), (40, w.1)]),
     (0x010, le8 [(0, w.2.1)]),
     (0x018, le8 [(0, w.2.2)]),
     (0x020, le8 [(0, sp.ret.depth), (16, sp.div.depth), (32, sp.ret.chip.length), (36, sp.div.chip.length), (40, sp.div.bot)]),
     (0x028, le8 [(0, sp.haltTick)]),
     (0x030, le8 [(0, sp.skidCyc % 2 ^ 16), (16, sp.skidIns % 2 ^ 8)]),
     (0x038, le8 [(0, sp.ret.tag.toNat), (32, sp.div.tag.toNat)]),
     (0x040, sp.loops.flatMap loopBytes),
     (0x0E0, sp.ovr.flatMap ovrBytes),
     (0x160, sp.ret.chip.flatMap entryBytes),
     (0x1E0, sp.div.chip.flatMap entryBytes)]

/-- Table 13.8. -/
def groupBytes (r : GroupRef) (g : Group) : List Byte :=
  let t := g.trap
  let b := g.cals.length
  layRecord (0x2000 + 144 * b)
    [(0x000, le8 [(0, r.lcid), (10, r.gh), (20, g.ctl.role), (22, g.ctl.groupIdx), (34, g.ctl.ganginst)]),
     (0x008, le8 [(0, b), (9, bit t.inHandler), (10, if t.inHandler then t.hsplit else 0), (12, g.ctl.live.toNat),
       (44, bit (t.tpend || t.tdue))]),
     (0x010, [BitVec.ofNat 64 t.gtimer, g.fflags, g.viol.setWidth 64, t.tvec, t.tpc, t.tmask.setWidth 64, t.tcause, t.tval,
       g.ctl.spillBase].flatMap (fun x => natLe 8 x.toNat)),
     (0x058, (List.range 4).flatMap (fun k => natLe 2 (cohortReg g k).toNat)),
     (0x060, le8 [(0, g.ctl.spillCnt.toNat)]),
     (0x068, le8 (if t.inHandler then [(0, t.hmask.toNat), (32, t.family.toNat)] else [])),
     (0x070, (List.range 4).flatMap (fun k => natLe 4 (g.arrivedIn k).toNat)),
     (0x080, le8 [(0, g.ctl.recNum)]),
     (0x100, g.ctl.lorigin.flatMap (fun x => natLe 4 x.toNat)),
     (0x180, (List.range 8).flatMap (fun k => natLe 4 (g.p k).toNat)),
     (0x1A0, natLe 1 ((List.range 8).foldl (fun acc k => acc + 2 ^ k * bit (g.q k)) 0)),
     (0x200, g.sregs.flatMap (fun x => natLe 8 x.toNat)),
     (0x600, g.aregs.flatMap (fun x => natLe 32 x.toNat)),
     (0x800, g.hregs.flatMap (fun x => natLe 8 x.toNat)),
     (0x1000, (List.range 4).flatMap (fun k => splitBytes (g.split k))),
     (0x2000, g.vregs.flatMap (fun v => v.flatMap (fun x => natLe 4 x.toNat))),
     (0x2000 + 128 * b, g.cals.flatMap (fun c => le16 (calFields c)))]

/-! ## Logical cores and remainders -/

def kickBytes (k : Kick) : List Byte :=
  le16 [(0, k.gen.toNat), (32, kickCode k.st), (34, k.count - 1), (38, k.off), (58, k.doneMask.toNat), (74, k.ganginst), (98, k.recNum),
    (114, k.gh), (124, k.role)]

/-- Table 13.7. -/
def lcBytes (lcid : Nat) (l : LogicalCore) : List Byte :=
  layRecord 0x102000
    [(0x0000, le8 [(0, lcid), (16, l.dieGrp)]), (0x0008, le8 [(0, l.tags.toNat)]), (0x1000, l.kicks.flatMap kickBytes),
     (0x2000, Cells.read l.scratch 0 Config.scratchBytes)]

/-- DONE: bytes performed, in the order of the flat side (R280). -/
def EngRec.doneBytes (x : EngRec) : Nat :=
  let c := copyRec x.bytes
  let l := layoutOf x.layout
  min (recCount c l) (unitStart c l x.done + x.skip)

def remBytes (lcid : Nat) (x : EngRec) : List Byte :=
  layRecord 192
    [(0, x.bytes),
     (64, le8 [(0, lcid), (10, x.entry), (18, x.idx), (22, if x.started then x.tag else 0), (28, bit x.started)]),
     (72, le8 [(0, if x.started then x.doneBytes else 0)]),
     (128, x.layout)]

/-! ## Instances, banks, queued records, scopes -/

def heldSeq : HaltSt → Option (BitVec 32)
  | .held seq => some seq
  | .none | .spreading => none

def scopeFields (sc : Option Nat) : List (Nat × Nat) :=
  match sc with
  | some n => [(24, n), (32, 1)]
  | none => []

def cohortBytes (c : Cohort) : List Byte := le16 [(0, c.phase.toNat), (32, c.arrived), (64, c.live)]

def instBytes (c : Context) (i : GangInst) : List Byte :=
  let err := match c.record? i.recNum with
    | some r => r.error
    | none => false
  layRecord 0x1200
    [(0, le8 [(0, i.descAddr.toNat)]),
     (8, le8 ([(0, i.inst), (33, bit (heldSeq i.halt).isSome)] ++ scopeFields i.scope)),
     (16, le8 [(0, i.lcids.length)]),
     (24, le8 [(0, i.recNum), (16, bit err), (32, (heldSeq i.halt).elim 0 BitVec.toNat)]),
     (32, i.lcids.flatMap (natLe 2)),
     (0x100, i.desc),
     (0x200, i.cohorts.flatMap cohortBytes)]

def msgBytes (port : Nat) (ovf : Bool) (m : Msg) : List Byte :=
  le16 ([(0, m.payload.toNat), (64, port), (72, bit ovf)] ++ (match m.hold with
    | some n => [(73, 1), (74, n)]
    | none => []))

def bankBytes (b : Bank) : List Byte :=
  let ms := (List.range 256).flatMap (fun p => (b.queue p).map (msgBytes p false)) ++ b.overflow.map (fun x => msgBytes x.1 true x.2)
  padTo64 (layRecord 0x1240
    [(0, b.ports.flatMap (fun w => natLe 8 w.toNat)), (2048, b.patterns.flatMap (fun w => natLe 32 w.toNat)),
     (0x1000, le8 [(0, b.rrptr), (16, ms.length)]), (0x1040, b.owed.flatMap (fun w => natLe 8 w.toNat))] ++ ms.flatten)

def queuedBytes (r : GangRec) : List Byte :=
  layRecord 576
    [(0, le8 [(0, r.descAddr.toNat)]),
     (8, le8 ([(0, r.next), (33, r.prio), (36, r.payloads.length), (42, bit r.launched), (43, r.pattern)] ++ scopeFields r.scope)),
     (16, le8 [(0, r.num), (16, bit r.error), (17, bit r.desc.isSome)]),
     (0x40, r.payloads.flatMap (fun x => natLe 8 x.toNat)),
     (0x140, r.desc.getD [])]

def scopeCode : ScopeSt → Nat
  | .free => 0 | .open => 1 | .closed => 2 | .done => 3 | .error => 4

def scopeBytes (x : FScope) : List Byte :=
  le16 [(0, scopeCode x.st), (22, x.depth), (26, x.parent), (34, bit x.hasPar), (35, bit x.pen), (36, x.port), (48, x.nerr),
    (64, x.live % 2 ^ 32), (96, x.tag.toNat)]

/-! ## Peer tables -/

/-- The peer tables that instances and read records use, with their number of ranks. -/
def Context.peerTables (c : Context) : List DWord :=
  ((c.insts.map (fun i => dgPeers (descNum i.desc))) ++ c.records.filterMap (fun r => if r.queued then r.desc.map (fun d => dgPeers (descNum d))
    else none)).dedup.filter (fun a => a != 0)

/-- `n` entries of a peer table from an address on, as device reads find them; none while one must wait. -/
def State.peerRead (s : State) (slot : Nat) : Nat → DWord → Option (List Byte × State)
  | 0, _ => some ([], s)
  | n + 1, addr =>
    match s.devRead slot addr 16 with
    | none => none
    | some (b, s1) => (s1.peerRead slot n (addr + 16)).map (fun x => (b ++ x.1, x.2))

/-- The record of one peer table: its address and a copy (Tables 11.4, 11.5). -/
def State.peerCopy (s : State) (slot : Nat) (addr : DWord) : Option (List Byte × State) :=
  match s.peerRead slot 1 addr with
  | none => none
  | some (h, s1) =>
    (s1.peerRead slot (min 4096 (bitsOf (leNat h) 12 13)) (addr + 16)).map (fun x => (padTo64 (natLe 8 addr.toNat ++ h ++ x.1), x.2))

/-- The peer tables of a slot's context. -/
def State.peersOf (s : State) (slot : Nat) : List DWord :=
  match s.ctx slot with
  | some c => c.peerTables
  | none => []

/-- The records of some peer tables; none while a read of one must wait. -/
def State.peerCopies (s : State) (slot : Nat) : List DWord → Option (List (List Byte) × State)
  | [] => some ([], s)
  | a :: rest =>
    match s.peerCopy slot a with
    | none => none
    | some (b, s1) => (s1.peerCopies slot rest).map (fun x => (b :: x.1, x.2))

/-! ## The image -/

/-- Leaves 0 to 14 with their total (15 R310, Table 15.6a). -/
def withTotal (l : List DWord) : List DWord := l.take 15 ++ [(l.take 15).foldl (fun a b => a + b) 0]

/-- The counters section: the set of the logical core, with its total at index 15 (15 R311). -/
def countersBytes (l : LogicalCore) : List Byte := (withTotal l.leaves).flatMap (fun x => natLe 8 x.toNat)

/-- Groups in ascending LCID and GH, but those that have retired. -/
def Context.liveGroups (c : Context) : List (GroupRef × Group) :=
  sortBy (fun x => x.1.lcid * 1024 + x.1.gh) (c.groups.filter (fun x => !x.2.ctl.retired))

/-- The sections: TYPE, records. A section without a record is left out (DEDUCED, log 31). -/
def Context.sections (c : Context) (peers : List (List Byte)) : List (Nat × List (List Byte)) :=
  let lcs := c.lcs.zipIdx
  let all := [
    (1, lcs.map (fun x => lcBytes x.2 x.1)),
    (2, lcs.flatMap (fun x => x.1.engine.map (remBytes x.2))),
    (3, (sortBy (fun i => i.inst) c.insts).map (instBytes c)),
    (4, c.liveGroups.map (fun x => groupBytes x.1 x.2)),
    (5, c.banks.map bankBytes),
    (6, (sortBy (fun r => r.prio) (c.records.filter (fun r => r.queued))).map queuedBytes),
    (7, [c.scopes.flatMap scopeBytes]),
    (8, [natLe 32 c.fronts.toNat]),
    (9, peers),
    (10, c.lcs.map countersBytes)]
  all.filter (fun x => !x.2.isEmpty)

/-- Directory entries and bodies from an offset up, each section 64-byte aligned. -/
def layoutSections : Nat → List (Nat × List (List Byte)) → List (List Byte) × List Byte
  | _, [] => ([], [])
  | off, (t, rs) :: rest =>
    let body := padTo64 rs.flatten
    let more := layoutSections (off + body.length) rest
    (le16 [(0, t), (32, rs.length), (64, off)] :: more.1, body ++ more.2)

def Context.dieGroupCount (c : Context) : Nat := (c.lcs.map (fun l => l.dieGrp)).dedup.length

def Group.anyHalted (g : Group) : Bool := g.splits.any (fun sp => sp.st == .halted)

/-- The image of a context with the copies of its peer tables (Table 13.5). -/
def State.image (s : State) (slot : Nat) (c : Context) (peers : List (List Byte)) : List Byte :=
  let secs := layoutSections 0x1000 (c.sections peers)
  let fr := ((s.die c.joinDie).slot slot).fring.base
  let words := [
    packBits [(0, 0x4B505946), (32, 1), (49, bit (c.groups.any (fun x => !x.2.ctl.retired && x.2.anyHalted)))],
    0x1000 + secs.2.length,
    packBits [(0, Config.archRev), (32, 8 * s.coreCount)],
    packBits [(0, c.lcs.length), (16, c.dieGroupCount)],
    s.tickNow,
    (s.ctxMeridian slot).toNat,
    c.ctxclk.toNat,
    c.root,
    c.pbtab,
    fr.toNat,
    packBits [(0, c.cls), (4, c.weight - 1), (8, bit c.sup)]]
  layRecord 0x1000
    [(0x000, words.flatMap (natLe 8)),
     (0x100, secs.1.flatten),
     (0x300, c.lcs.flatMap (fun l => natLe 2 l.dieGrp)),
     (0xF00, shake256 secs.2)] ++ secs.2

end Sys2Proof.Machine
end

