-- ==== Sys2Proof/Machine/Restore.lean ====
section
/-! DEFINITION. Restore.lean: the checks a resume makes of an image (13 R287) and the context it restores (R63, R286, R288). -/

namespace Sys2Proof.Machine

open Sys2Proof

/-! ## Reading an image -/

def cut (b : List Byte) (o n : Nat) : List Byte := (b.drop o).take n
/-- `n` bytes at `o` as a number. -/
def fld (b : List Byte) (o n : Nat) : Nat := leNat (cut b o n)
def word (b : List Byte) (o : Nat) : Nat := fld b o 8
def word64 (b : List Byte) (o : Nat) : DWord := BitVec.ofNat 64 (word b o)
def zeroAt (b : List Byte) (o n : Nat) : Bool := (cut b o n).all (fun x => x == 0)
/-- A word has a bit set outside a list of fields. -/
def strayBits (w : Nat) (fs : List (Nat × Nat)) : Bool := w != packBits (fs.map (fun f => (f.1, bitsOf w f.1 f.2)))

/-- Parts of `n` bytes each. -/
def chunksOf (n : Nat) : Nat → List Byte → List (List Byte)
  | 0, _ => []
  | k + 1, b => b.take n :: chunksOf n k (b.drop n)

/-! ## Header and directory -/

def hdNlc (b : List Byte) : Nat := bitsOf (word b 0x18) 0 11
def hdDieGrp (b : List Byte) (i : Nat) : Nat := bitsOf (fld b (0x300 + 2 * i) 2) 0 10
def hdDieGrps (b : List Byte) : List Nat := (List.range (hdNlc b)).map (hdDieGrp b)

/-- The bits of a fault ring's base word: ADDR, HOLD and SZ (Table 12.4). -/
def ringBase (w : DWord) : Nat := (w &&& 0x7FFFFFFFDF).toNat

def headerBad (b : List Byte) : Bool :=
  bitsOf (word b 0) 50 14 != 0 || bitsOf (word b 0x10) 48 16 != 0 || strayBits (word b 0x18) [(0, 11), (16, 11)]
    || hdNlc b == 0 || decide (1024 < hdNlc b) || strayBits (word b 0x50) [(0, 2), (4, 4), (8, 1)]
    || !zeroAt b 0x58 0xA8 || !zeroAt b 0xB00 0x400 || !zeroAt b 0xF40 0xC0
    || word b 0x48 != ringBase (word64 b 0x48)
    || (List.range 1024).any (fun i => bitsOf (fld b (0x300 + 2 * i) 2) 10 6 != 0)
    || bitsOf (word b 0x18) 16 11 != (hdDieGrps b).dedup.length
    || (hdDieGrps b).dedup.any (fun g => decide (64 < (hdDieGrps b).countP (fun x => x == g)))

/-- Directory entries in use: TYPE, COUNT, OFFSET. -/
def dirEntries (b : List Byte) : List (Nat × Nat × Nat) :=
  ((List.range 32).map (fun n => fld b (0x100 + 16 * n) 16)).filterMap (fun e =>
    if e = 0 then none else some (bitsOf e 0 16, bitsOf e 32 32, bitsOf e 64 64))

def ascending : List Nat → Bool
  | [] => true
  | [_] => true
  | a :: b :: rest => decide (a < b) && ascending (b :: rest)

def dirBad (b : List Byte) : Bool :=
  (List.range 32).any (fun n => bitsOf (fld b (0x100 + 16 * n) 16) 16 16 != 0)
    || (dirEntries b).any (fun e => e.1 == 0 || decide (10 < e.1) || decide (b.length < e.2.2) || e.2.2 % 64 != 0 || decide (e.2.2 < 0x1000))
    || !ascending ((dirEntries b).map (fun e => e.1))

/-- COUNT and OFFSET of a section; no record when the directory does not name it. -/
def secOf (b : List Byte) (t : Nat) : Nat × Nat :=
  match (dirEntries b).find? (fun e => e.1 == t) with
  | some e => (e.2.1, e.2.2)
  | none => (0, 0)

/-- The records of a section of fixed record size. -/
def fixedRecs (b : List Byte) (t size : Nat) : List (List Byte) := chunksOf size (secOf b t).1 (b.drop (secOf b t).2)
def fixedBad (b : List Byte) (t size : Nat) : Bool := decide (b.length < (secOf b t).2 + size * (secOf b t).1)

/-- The records of a section whose size each record tells. -/
def variedRecs (size : List Byte → Nat) : Nat → List Byte → List (List Byte)
  | 0, _ => []
  | k + 1, b => b.take (size b) :: variedRecs size k (b.drop (size b))

/-- A record of the section lies past the end. -/
def variedBad (size : List Byte → Nat) : Nat → List Byte → Bool
  | 0, _ => false
  | k + 1, b => decide (b.length < size b) || variedBad size k (b.drop (size b))

def up64 (n : Nat) : Nat := (n + 63) / 64 * 64
def groupBudget (g : List Byte) : Nat := bitsOf (word g 8) 0 9
def groupSize (g : List Byte) : Nat := 0x2000 + 144 * groupBudget g
def bankMsgs (b : List Byte) : Nat := bitsOf (word b 0x1000) 16 16
def bankSize (b : List Byte) : Nat := up64 (0x1240 + 16 * bankMsgs b)
def peerRanks (b : List Byte) : Nat := bitsOf (fld b 8 16) 12 13
def peerSize (b : List Byte) : Nat := up64 (8 + 16 * (peerRanks b + 1))

def secBytes (b : List Byte) (t : Nat) : List Byte := b.drop (secOf b t).2
def groupRecs (b : List Byte) : List (List Byte) := variedRecs groupSize (secOf b 4).1 (secBytes b 4)
def bankRecs (b : List Byte) : List (List Byte) := variedRecs bankSize (secOf b 5).1 (secBytes b 5)
def peerRecs (b : List Byte) : List (List Byte) := variedRecs peerSize (secOf b 9).1 (secBytes b 9)
def lcRecs (b : List Byte) : List (List Byte) := fixedRecs b 1 0x102000
def remRecs (b : List Byte) : List (List Byte) := fixedRecs b 2 192
def instRecs (b : List Byte) : List (List Byte) := fixedRecs b 3 0x1200
def queuedRecs (b : List Byte) : List (List Byte) := fixedRecs b 6 576

/-! ## Record checks: RSVD fields, reserved codes, counts out of range -/

def lcBad (nlc : Nat) (dgs : List Nat) (b : List Byte) : Bool :=
  let w := word b 0
  strayBits w [(0, 10), (16, 10)] || decide (nlc ≤ bitsOf w 0 10) || bitsOf w 16 10 != regGet 1024 dgs (bitsOf w 0 10)
    || !zeroAt b 0x10 0xFF0 || (List.range 256).any (fun e => decide (2 < bitsOf (fld b (0x1000 + 16 * e) 16) 124 4))

/-- A remainder. The records of one that had started are checked too; those of one that had not are read at its start, where R184 has them fail
with FORMAT. -/
def remBad (nlc : Nat) (b : List Byte) : Bool :=
  let w := word b 64
  let c := copyRec (b.take 64)
  let l := layoutOf (cut b 128 64)
  (w.testBit 28 && (recordRsvd c || (c.laid && layoutRsvd l) || decide (recCount c l < word b 72))) || bitsOf w 29 35 != 0
    || decide (nlc ≤ bitsOf w 0 10) || !zeroAt b 80 48 || (!w.testBit 28 && word b 72 != 0)

def instBad (nlc : Nat) (b : List Byte) : Bool :=
  let n := word b 16
  strayBits (word b 8) [(0, 24), (24, 8), (32, 1), (33, 1)] || n == 0 || decide (16 < n) || bitsOf (word b 24) 17 15 != 0
    || (List.range 16).any (fun i => if i < n then decide (nlc ≤ fld b (32 + 2 * i) 2) else fld b (32 + 2 * i) 2 != 0)
    || !zeroAt b 64 192 || descReserved (descNum (cut b 0x100 256)) || (List.range 256).any (fun k => bitsOf (fld b (0x200 + 16 * k) 16) 96 32 != 0)

/-- The instance a group record names. -/
def groupInst (insts : List (List Byte)) (g : List Byte) : Option (List Byte) :=
  insts.find? (fun i => bitsOf (word i 24) 0 16 == bitsOf (word g 0x80) 0 16 && bitsOf (word i 8) 0 24 == bitsOf (word g 0) 34 24
    && (List.range (word i 16)).any (fun k => fld i (32 + 2 * k) 2 == bitsOf (word g 0) 0 10))

/-- RSVD of the stack entries, and of the program counter in each (Table 4.1). -/
def stackBad (b : List Byte) (o n : Nat) : Bool :=
  (List.range n).any (fun i => bitsOf (fld b (o + 16 * i) 16) 97 31 != 0 || bitsOf (fld b (o + 16 * i) 8) 0 3 != 0)

def splitBad (b : List Byte) : Bool :=
  let st := word b 8
  let kind := bitsOf st 40 4
  let d := word b 0x20
  let chip (o : Nat) : Nat := bitsOf d o 4
  bitsOf st 44 20 != 0 || decide (10 < kind) || ((kind != 0) != (bitsOf st 32 2 == 2))
    || strayBits d [(0, 11), (16, 11), (32, 4), (36, 4), (40, 10)]
    || decide (1024 < bitsOf d 0 11) || decide (1024 < bitsOf d 16 11)
    || decide (8 < chip 32) || decide (8 < chip 36) || decide (bitsOf d 0 11 < chip 32) || decide (bitsOf d 16 11 < chip 36)
    || bitsOf (word b 0) 0 3 != 0 || bitsOf (word b 0x30) 24 40 != 0
    || (List.range 4).any (fun i => fld b (0x54 + 24 * i) 4 != 0 || bitsOf (word b (0x40 + 24 * i)) 0 3 != 0
        || bitsOf (word b (0x48 + 24 * i)) 0 3 != 0)
    || !zeroAt b 0xA0 0x40 || !zeroAt b 0x260 0x1A0
    || (List.range 8).any (fun i => strayBits (fld b (0xE0 + 16 * i) 16) [(0, 65), (72, 9)])
    || stackBad b 0x160 8 || stackBad b 0x1E0 8

/-- RSVD bits of FFLAGS, VIOLMASK, TVEC, TPC and TMASK (Table 3.2). -/
def specialBad (b : List Byte) : Bool :=
  (word64 b 0x18 &&& ~~~0x1F1F) != 0 || bitsOf (word b 0x20) 32 32 != 0 || bitsOf (word b 0x28) 1 2 != 0
    || bitsOf (word b 0x30) 0 3 != 0 || bitsOf (word b 0x38) 32 32 != 0

def groupBad (nlc : Nat) (insts : List (List Byte)) (b : List Byte) : Bool :=
  let id := word b 0
  let n := groupBudget b
  bitsOf id 58 6 != 0 || decide (nlc ≤ bitsOf id 0 10) || bitsOf id 20 2 == 3 || bitsOf (word b 8) 45 19 != 0
    || n == 0 || decide (256 < n) || n % 8 != 0 || (groupInst insts b).isNone
    || (List.range 4).any (fun k => bitsOf (fld b (0x58 + 2 * k) 2) 9 7 != 0)
    || specialBad b || bitsOf (word b 0x60) 32 32 != 0 || bitsOf (word b 0x68) 36 28 != 0 || bitsOf (word b 0x80) 16 48 != 0
    || !zeroAt b 0x88 0x78 || !zeroAt b 0x1A1 0x5F || !zeroAt b 0x880 0x780
    || (List.range 16).any (fun k => arBad (BitVec.ofNat 256 (fld b (0x600 + 32 * k) 32)))
    || (List.range 16).any (fun k => bitsOf (word b (0x800 + 8 * k)) 50 13 != 0)
    || (List.range 4).any (fun k => splitBad (cut b (0x1000 + 0x400 * k) 0x400))
    || (List.range n).any (fun i => bitsOf (fld b (0x2000 + 128 * n + 16 * i) 16) 65 63 != 0)

/-- A join bank; a port holds at most 64 messages and the overflow area 32 (R205, R208). -/
def bankBad (b : List Byte) : Bool :=
  let msgs := (List.range (bankMsgs b)).map (fun i => fld b (0x1240 + 16 * i) 16)
  decide (32 < msgs.countP (fun m => m.testBit 72))
    || (List.range 256).any (fun y => decide (64 < msgs.countP (fun m => !m.testBit 72 && bitsOf m 64 8 == y)))
    || (imageFault (b.take 4096)).isSome || strayBits (word b 0x1000) [(0, 6), (16, 16)] || !zeroAt b 0x1008 0x38
    || msgs.any (fun m => bitsOf m 82 46 != 0)

def queuedBad (b : List Byte) : Bool :=
  let w := word b 8
  let n := bitsOf w 36 6
  bitsOf w 53 11 != 0 || decide (32 < n) || bitsOf (word b 16) 18 46 != 0 || !zeroAt b 24 40
    || ((word b 16).testBit 17 && descReserved (descNum (cut b 0x140 256)))

/-- RSVD fields, NRANKS and SELF of a peer table (Tables 11.4, 11.5). -/
def peerBad (b : List Byte) : Bool :=
  let h := fld b 8 16
  h / 2 ^ 25 != 0 || peerRanks b == 0 || decide (4096 < peerRanks b) || decide (peerRanks b ≤ bitsOf h 0 12)
    || (List.range (peerRanks b)).any (fun j => peerEntryRsvd (fld b (24 + 16 * j) 16))

def scopeBad (b : List Byte) : Bool :=
  let w := leNat b
  bitsOf w 3 19 != 0 || decide (4 < bitsOf w 0 3)

/-- R287 step 5. -/
def imageBad (b : List Byte) : Bool :=
  let n := hdNlc b
  let insts := instRecs b
  headerBad b || dirBad b
    || (secOf b 1).1 != n || (secOf b 5).1 != 16 || (secOf b 7).1 != 1 || (secOf b 8).1 != 1 || (secOf b 10).1 != n
    || fixedBad b 1 0x102000 || fixedBad b 2 192 || fixedBad b 3 0x1200 || fixedBad b 6 576 || fixedBad b 7 4096
    || fixedBad b 8 32 || fixedBad b 10 128
    || variedBad groupSize (secOf b 4).1 (secBytes b 4) || variedBad bankSize (secOf b 5).1 (secBytes b 5)
    || variedBad peerSize (secOf b 9).1 (secBytes b 9)
    || (lcRecs b).any (lcBad n (hdDieGrps b)) || (remRecs b).any (remBad n) || insts.any (instBad n)
    || (groupRecs b).any (groupBad n insts) || (bankRecs b).any bankBad || (queuedRecs b).any queuedBad
    || (peerRecs b).any peerBad || (chunksOf 16 256 (secBytes b 7)).any scopeBad

/-! ## Restoring records -/

def calOf (x : Nat) : Caliper :=
  if x.testBit 64 then some ⟨(BitVec.ofNat 32 (bitsOf x 0 32)).toInt, (BitVec.ofNat 32 (bitsOf x 32 32)).toInt⟩ else none

def stackAt (b : List Byte) (o chip depth bot tag : Nat) : Stack :=
  ⟨(List.range chip).map (fun i => entryOf (cut b (o + 16 * i) 16)), depth, bot, BitVec.ofNat 32 tag⟩

/-- The wait of a saved split: those of kind 10, and those of a header's HWAIT mask, are READY again (R286). -/
def waitOf (kind op0 op1 : Nat) : Option Wait :=
  match kind with
  | 1 => if bitsOf op1 0 8 = 0 then some (.handle (BitVec.ofNat 64 op0) 0) else none
  | 2 => some (.barrier (bitsOf op0 0 20) (BitVec.ofNat 32 op1))
  | 3 => some (.tag (BitVec.ofNat 64 op0) (op1.testBit 0))
  | 4 => some (.port (BitVec.ofNat 64 op0) (bitsOf op1 0 12))
  | 5 => some (.batch (BitVec.ofNat 32 op0) (bitsOf op1 0 3) (op1.testBit 3))
  | 6 => some (.reconv (BitVec.ofNat 64 op0) [])
  | 7 => some (.cohort (bitsOf op1 0 8) (BitVec.ofNat 32 (bitsOf op1 32 32)))
  | 8 => some (.scope (bitsOf op1 0 8))
  | 9 => some (.regroup (bitsOf op1 0 2) (BitVec.ofNat 3 (bitsOf op1 2 3)))
  | _ => none

def splitOf (now : Nat) (b : List Byte) : Split :=
  let st := word b 8
  let kind := bitsOf st 40 4
  let d := word b 0x20
  let div := stackAt b 0x1E0 (bitsOf d 36 4) (bitsOf d 16 11) (bitsOf d 40 10) (bitsOf (word b 0x38) 32 32)
  { Split.freeEntry with
    st := (match bitsOf st 32 2 with
      | 0 => .free
      | 1 => .ready
      | 2 => (match waitOf kind (word b 0x10) (word b 0x18) with
        | some w => .wait w
        | none => .ready)
      | _ => .halted)
    pc := word64 b 0
    mask := BitVec.ofNat 32 (bitsOf st 0 32)
    ret := stackAt b 0x160 (bitsOf d 32 4) (bitsOf d 0 11) 0 (bitsOf (word b 0x38) 0 32)
    div := div
    loops := (List.range 4).map (fun i => ⟨word64 b (0x40 + 24 * i), word64 b (0x48 + 24 * i), BitVec.ofNat 32 (fld b (0x50 + 24 * i) 4)⟩)
    ovr := (List.range 8).filterMap (fun i =>
      let x := fld b (0xE0 + 16 * i) 16
      if x.testBit 80 then some ⟨bitsOf x 72 8, calOf x⟩ else none)
    back := bitsOf st 34 6
    age := some now
    replay := kind == 10
    refill := div.chip.isEmpty && decide (0 < div.depth)
    haltTick := word b 0x28
    skidCyc := bitsOf (word b 0x30) 0 16
    skidIns := bitsOf (word b 0x30) 16 8 }

/-- The part of a peer table that groups need: address, rank, ranks. -/
def peerOf (tables : List (List Byte)) (addr : DWord) : Nat × Nat :=
  match tables.find? (fun t => word64 t 0 == addr) with
  | some t => (bitsOf (fld t 8 16) 0 12, peerRanks t)
  | none => (0, 1)

/-- RECALC (R63): the hull of a register's live lanes. -/
def hullOf (m : Mask) (v : Lanes) : Caliper :=
  match (m.lanes.map (fun j => (regGet 0 v j).toInt)) with
  | [] => none
  | x :: xs => some (xs.foldl (fun i y => ⟨min i.lo y, max i.hi y⟩) ⟨x, x⟩)

/-- A group of an image. It keeps the quadrant of its handle, GH / 256: R16 and R252 let it come back in another one, whose number no
program can read. DESIGN CHOICE (log 41). Its slot-table entry then stands for it alone. -/
def groupOf (now : Nat) (recalc : Bool) (insts tables : List (List Byte)) (b : List Byte) : Group :=
  let id := word b 0
  let gs := word b 8
  let n := groupBudget b
  let d := descNum (match groupInst insts b with | some i => cut i 0x100 256 | none => [])
  let role := bitsOf id 20 2
  let live : Mask := BitVec.ofNat 32 (bitsOf gs 12 32)
  let peers := peerOf tables (dgPeers d)
  let vregs := (List.range n).map (fun r => (List.range 32).map (fun j => BitVec.ofNat 32 (fld b (0x2000 + 128 * r + 4 * j) 4)))
  let sp := (List.range 4).map (fun k => splitOf now (cut b (0x1000 + 0x400 * k) 0x400))
  Group.reawait
  { ctl :=
      { role := role, groupIdx := bitsOf id 22 12, ganginst := bitsOf id 34 24, recNum := bitsOf (word b 0x80) 0 16
        number := dgFirst d role + bitsOf id 22 12, budget := n, rank := peers.1, nranks := peers.2, peers := dgPeers d
        quad := bitsOf id 10 10 / 256, slotInQ := bitsOf id 10 10 % 256, regBase := 0
        bind := ⟨bitsOf id 22 12, 1, bitsOf id 10 10 % 256, 0, false⟩, cls := bitsOf d 0 3, eligible := true
        retired := false, spillBase := word64 b 0x50
        cohorts := (List.range 4).map (fun k =>
          let c := fld b (0x58 + 2 * k) 2
          if c.testBit 8 then some (bitsOf c 0 8) else none)
        arrived := (List.range 4).map (fun k => BitVec.ofNat 32 (fld b (0x70 + 4 * k) 4))
        live := live
        lorigin := (List.range 32).map (fun j => BitVec.ofNat 32 (fld b (0x100 + 4 * j) 4))
        spillCnt := BitVec.ofNat 32 (bitsOf (word b 0x60) 0 32) }
    trap :=
      { inHandler := gs.testBit 9, hsplit := bitsOf gs 10 2, hmask := BitVec.ofNat 32 (bitsOf (word b 0x68) 0 32)
        family := BitVec.ofNat 4 (bitsOf (word b 0x68) 32 4), tvec := word64 b 0x28, tpc := word64 b 0x30
        tmask := BitVec.ofNat 32 (word b 0x38), tcause := word64 b 0x40, tval := word64 b 0x48, gtimer := word b 0x10
        tpend := gs.testBit 44, tdue := false, tsplit := none }
    vregs := vregs
    cals := if recalc then vregs.map (hullOf live) else (List.range n).map (fun r => calOf (fld b (0x2000 + 128 * n + 16 * r) 16))
    sregs := (List.range 128).map (fun k => word64 b (0x200 + 8 * k))
    pregs := (List.range 7).map (fun k => BitVec.ofNat 32 (fld b (0x180 + 4 * k) 4))
    qregs := (List.range 7).map (fun k => (fld b 0x1A0 1).testBit k)
    aregs := (List.range 16).map (fun k => BitVec.ofNat 256 (fld b (0x600 + 32 * k) 32))
    hregs := (List.range 16).map (fun k => word64 b (0x800 + 8 * k))
    viol := BitVec.ofNat 32 (word b 0x20)
    fflags := word64 b 0x18
    storeQ := []
    inflight := []
    nextId := 0
    batches := List.replicate 32 Batch.none
    splits := if recalc then sp.map (fun x => { x with ovr := [] }) else sp }

def kickOf (x : Nat) : Kick :=
  { gen := BitVec.ofNat 32 (bitsOf x 0 32)
    st := (match bitsOf x 32 2 with | 0 => .done | 1 => .pending | 2 => .cancelled | _ => .failed)
    count := bitsOf x 34 4 + 1, off := bitsOf x 38 20, doneMask := BitVec.ofNat 16 (bitsOf x 58 16), ganginst := bitsOf x 74 24
    recNum := bitsOf x 98 16, gh := bitsOf x 114 10, role := bitsOf x 124 2 }

/-- A remainder continues from DONE when it has started (R280). -/
def remOf (k : Kick) (b : List Byte) : EngRec :=
  let w := word b 64
  let rec_ := cut b 0 64
  let c := copyRec rec_
  let lay := if c.laid then cut b 128 64 else []
  let at_ := unitAt c (layoutOf lay) (word b 72)
  let idx := bitsOf w 18 4
  ⟨bitsOf w 10 8, idx, k.off + 64 * idx, rec_, lay, true, w.testBit 28, if w.testBit 28 then bitsOf w 22 6 else 64, at_.1, at_.2, false, none⟩

/-- The stored bytes of a scratchpad that are not zero. -/
def cellsOf (b : List Byte) : Cells := b.zipIdx.filterMap (fun x => if x.1 = 0 then none else some (x.2, x.1))

def lcOf (rems : List (List Byte)) (counters : List (List Byte)) (b : List Byte) : LogicalCore :=
  let lcid := bitsOf (word b 0) 0 10
  let kicks := (List.range 256).map (fun e => kickOf (fld b (0x1000 + 16 * e) 16))
  { LogicalCore.empty with
    dieGrp := bitsOf (word b 0) 16 10
    scratch := cellsOf (cut b 0x2000 0x100000)
    tags := word64 b 8
    kicks := kicks
    engine := (rems.filter (fun r => bitsOf (word r 64) 0 10 == lcid)).map (fun r =>
      remOf (regGet ⟨0, .done, 0, 0, 0, 0, 0, 0, 0⟩ kicks (bitsOf (word r 64) 10 8)) r)
    leaves := (List.range 16).map (fun k => word64 (regGet [] counters lcid) (8 * k)) }

def scopeOpt (w : Nat) : Option Nat := if w.testBit 32 then some (bitsOf w 24 8) else none

def cohortOfNat (x : Nat) : Cohort := ⟨bitsOf x 64 32, bitsOf x 32 32, BitVec.ofNat 32 (bitsOf x 0 32)⟩

/-- An instance; one with a halted split that is not held retires with ERROR in its turn. -/
def instOf (groups : List (List Byte)) (b : List Byte) : GangInst :=
  let w := word b 8
  let num := bitsOf (word b 24) 0 16
  let isHalted := groups.any (fun g => bitsOf (word g 0x80) 0 16 == num && bitsOf (word g 0) 34 24 == bitsOf w 0 24
    && (List.range 4).any (fun k => bitsOf (word g (0x1008 + 0x400 * k)) 32 2 == 3))
  { recNum := num, inst := bitsOf w 0 24, scope := scopeOpt w
    lcids := (List.range (word b 16)).map (fun i => fld b (32 + 2 * i) 2)
    cohorts := (List.range 256).map (fun k => cohortOfNat (fld b (0x200 + 16 * k) 16))
    desc := cut b 0x100 256, descAddr := word64 b 0
    halt := if w.testBit 33 then .held (BitVec.ofNat 32 (bitsOf (word b 24) 32 32)) else if isHalted then .spreading else .none
    seq := BitVec.ofNat 32 (bitsOf (word b 24) 32 32), error := w.testBit 33 || isHalted
    binding := false }

def msgOf (x : Nat) : Msg := ⟨BitVec.ofNat 64 (bitsOf x 0 64), if x.testBit 73 then some (bitsOf x 74 8) else none⟩

/-- A bank with the owed sets and RRPTR of the image (DEDUCED, log 32). -/
def bankOf (b : List Byte) : Bank :=
  let ms := (List.range (bankMsgs b)).map (fun i => fld b (0x1240 + 16 * i) 16)
  { ports := (List.range 256).map (fun p => word64 b (8 * p))
    queues := (List.range 256).map (fun p => (ms.filter (fun x => !x.testBit 72 && bitsOf x 64 8 == p)).map msgOf)
    overflow := (ms.filter (fun x => x.testBit 72)).map (fun x => (bitsOf x 64 8, msgOf x))
    patterns := (List.range 64).map (fun i => BitVec.ofNat 256 (fld b (2048 + 32 * i) 32))
    rrptr := bitsOf (word b 0x1000) 0 6
    owed := (List.range 64).map (fun i => word64 b (0x1040 + 8 * i))
    failed := 0
    left := 0 }

/-- Instances of a record that the image holds, and whether one of them tells of an ERROR. -/
def instCount (insts : List (List Byte)) (num : Nat) : Nat := insts.countP (fun i => bitsOf (word i 24) 0 16 == num)
def instError (insts : List (List Byte)) (num : Nat) : Bool := insts.any (fun i => bitsOf (word i 24) 0 16 == num && (word i 24).testBit 16)

/-- The last instance of this device's share (R261). -/
def lastOf (tables : List (List Byte)) (d : Nat) : Nat :=
  let p := peerOf tables (dgPeers d)
  (share (dgSpmd d) (dgInstances d) p.1 p.2).2

/-- A queued gang record. The image has no bit for a firing whose descriptor read was answered with FAIL (R425) and that has not been taken,
nor for a root gang's record whose doubleword 0 has not been read: either comes back as an ordinary record. DESIGN CHOICE (log 50). -/
def queuedOf (insts tables : List (List Byte)) (b : List Byte) : GangRec :=
  let w := word b 8
  let num := bitsOf (word b 16) 0 16
  let desc := cut b 0x140 256
  let read := (word b 16).testBit 17
  { num := num, descAddr := word64 b 0, payloads := (List.range (bitsOf w 36 6)).map (fun i => word64 b (0x40 + 8 * i))
    scope := scopeOpt w, prio := bitsOf w 33 3, launched := w.testBit 42, pattern := bitsOf w 43 10
    desc := if read then some desc else none, next := bitsOf w 0 24
    last := if read then lastOf tables (descNum desc) else 0
    running := instCount insts num, error := (word b 16).testBit 16 || instError insts num, queued := true, headAt := none
    starving := false, failed := false, launching := false }

/-- A record of which only instances are left. -/
def spentRec (insts : List (List Byte)) (i : List Byte) : GangRec :=
  let num := bitsOf (word i 24) 0 16
  let d := cut i 0x100 256
  { num := num, descAddr := word64 i 0, payloads := [], scope := scopeOpt (word i 8), prio := bitsOf (descNum d) 0 3, launched := false
    pattern := 0, desc := some d, next := 0, last := 0, running := instCount insts num, error := instError insts num, queued := false
    headAt := none, starving := false, failed := false, launching := false }

def recordsOf (insts tables queued : List (List Byte)) : List GangRec :=
  let q := queued.map (queuedOf insts tables)
  let nums := (insts.map (fun i => bitsOf (word i 24) 0 16)).dedup.filter (fun n => !q.any (fun r => r.num == n))
  q ++ nums.filterMap (fun n => (insts.find? (fun i => bitsOf (word i 24) 0 16 == n)).map (spentRec insts))

def scopeOfNat (x : Nat) : FScope :=
  { tag := BitVec.ofNat 32 (bitsOf x 96 32), live := bitsOf x 64 32, nerr := bitsOf x 48 16, port := bitsOf x 36 12, pen := x.testBit 35
    hasPar := x.testBit 34, parent := bitsOf x 26 8, depth := bitsOf x 22 4
    st := (match bitsOf x 0 3 with | 0 => .free | 1 => .open | 2 => .closed | 3 => .done | _ => .error) }

/-- Each group takes a register range of its quadrant. -/
def giveRegs : List (GroupRef × Group) → List (GroupRef × Group) → List (GroupRef × Group)
  | [], acc => acc
  | x :: rest, acc =>
    let used := (acc.filter (fun y => y.1.lcid == x.1.lcid && y.2.ctl.quad == x.2.ctl.quad)).map (fun y => (y.2.ctl.regBase, y.2.ctl.budget / 8))
    let n := x.2.ctl.budget / 8
    let base := match (QuadUse.mk [] used).gaps.find? (fun p => decide (n ≤ p.2)) with
      | some p => p.1
      | none => 0
    giveRegs rest (acc ++ [(x.1, { x.2 with ctl := { x.2.ctl with regBase := base, bind := { x.2.ctl.bind with regBase := base } } })])

/-- Posts that wait on a full port wait again (R286). -/
def waitingPosts (insts : List GangInst) (gs : List (GroupRef × Group)) : List (Nat × SplitRef × Msg) :=
  gs.flatMap (fun x => (List.range 4).filterMap (fun k => match (x.2.split k).st with
    | .wait (.port payload p) =>
      let scope := match insts.find? (fun i => i.recNum == x.2.ctl.recNum && i.inst == x.2.ctl.ganginst) with
        | some i => i.scope
        | none => none
      some (p, ⟨x.1.slot, x.1.lcid, x.1.gh, k⟩, ⟨payload, scope⟩)
    | _ => none))

/-- A group of the image with a live lane: one without is not restored (R63). -/
def keptGroup (g : List Byte) : Bool := bitsOf (word g 8) 12 32 != 0

def groupRefOf (slot : Nat) (g : List Byte) : GroupRef := ⟨slot, bitsOf (word g 0) 0 10, bitsOf (word g 0) 10 10⟩

/-- The context an image holds, in a slot, on a join die; ROOT and PBTAB of the registers replace the image's unless zero. -/
def restoredContext (now slot joinDie root pbtab : Nat) (dieOf : Nat → Nat) (b : List Byte) : Context :=
  let insts := instRecs b
  let tables := peerRecs b
  let recalc := (word b 0).testBit 48
  let counters := fixedRecs b 10 128
  let sched := word b 0x50
  let gs := giveRegs (((groupRecs b).filter keptGroup).map (fun g =>
    (groupRefOf slot g, groupOf now recalc insts tables g))) []
  let is := insts.map (instOf (groupRecs b))
  let lcs := (lcRecs b).map (lcOf (remRecs b) counters)
  { root := if root = 0 then word b 0x38 else root
    pbtab := if pbtab = 0 then word b 0x40 else pbtab
    cls := bitsOf sched 0 2, weight := bitsOf sched 4 4 + 1, sup := sched.testBit 8, joinDie := joinDie
    lcs := lcs.map (fun l => { l with die := dieOf l.dieGrp })
    banks := (bankRecs b).map bankOf
    scopes := (chunksOf 16 256 (secBytes b 7)).map (fun x => scopeOfNat (leNat x))
    groups := gs, insts := is
    records := recordsOf insts tables (queuedRecs b)
    binds := [], fronts := BitVec.ofNat 256 (fld (secBytes b 8) 0 32), flips := [], transit := [], enqd := [], met := []
    tables := tables.map (fun t => word64 t 0)
    waiting := waitingPosts is gs
    ctxclk := word64 b 0x30, merOff := word64 b 0x28
    dbg := ⟨false, false, []⟩
    halting := false, park := .captured, parkSrc := 0, drains := [], drainAt := 0, destroying := false }

end Sys2Proof.Machine
end

