-- ==== Sys2Proof/Machine/Park.lean ====
section
/-! DEFINITION. Park.lean: parking and resuming a context (13 R276 to R281, R287 to R290, 18 R372), creating and destroying one (14
R293). -/

namespace Sys2Proof.Machine

open Sys2Proof

/-! ## Park registers -/

def State.parkRegs (s : State) (d slot : Nat) : ParkRegs := ((s.die d).slot slot).park
def State.modPark (s : State) (d slot : Nat) (f : ParkRegs → ParkRegs) : State := s.modSlotRegs d slot (fun x => { x with park := f x.park })

/-! ## The request (R276, R277) -/

/-- A park of a context begins; one that is in progress is joined. A TIMER due at a split's boundary is taken first (R267). -/
def State.parkBegin (s : State) (slot src : Nat) : State :=
  match s.ctx slot with
  | none => s
  | some c =>
    if c.park != .none || c.destroying then s
    else
      ((s.timersFirst slot (List.range c.lcs.length)).modPark c.joinDie slot (fun r =>
        { r with busy := true, status := 0, src := src, op := 1 })).modCtx slot (fun c => { c with park := .stopping, parkSrc := src })

/-- PARK_REQUEST: GO with OP 1, on the join die of a context, while BUSY is clear. -/
def State.parkRequest (s : State) (die slot : Nat) : State :=
  match s.ctx slot with
  | none => s
  | some c => if !s.clocked || c.joinDie ≠ die || (s.parkRegs die slot).busy then s else s.parkBegin slot 1

/-- PARK (R277, R372): while the registers are busy with a resume, the request waits. -/
def parkRes (gd : Guard) : State → SplitRef → Group → Group → Res :=
  underQ gd (fun s r _ _ =>
    match s.ctx r.slot with
    | none => .stall s
    | some c =>
      if c.park == .none && (s.parkRegs c.joinDie r.slot).busy then .stall s
      else waitRes (s.parkBegin r.slot 2) r .park)

/-- PARK (R277, R372). -/
def execPark (gd : Guard) (s : State) : Host.Outcome State Fault Refusal := runRes (uniAct gd) (parkRes gd) s

/-! ## Steps 1 to 5 (Table 13.3) -/

/-- Every split has stopped, and loads, matrix work, long-latency instructions and stores are complete (steps 2 and 3). -/
def State.stopQuiet (s : State) (slot : Nat) (c : Context) : Bool :=
  c.binds.isEmpty
    && c.groups.all (fun x => x.2.inflight.isEmpty && x.2.storeQ.isEmpty)
    && !c.groups.any (fun x => x.2.splits.any (fun sp => sp.inUse && sp.skid.isSome && sp.st != .halted))
    && c.lcs.all (fun l => l.outbound.isEmpty)
    && !s.pkg.remote.any (fun x => x.who.slot == slot && !x.who.isPref)

/-- Accepted CPA copies have finished, and no failure waits to take effect (step 4), what a debug stop holds apart (R305); a flip
waits for its records. -/
def Context.copiesQuiet (slot : Nat) (c : Context) : Bool :=
  c.flips.isEmpty && c.lcs.zipIdx.all (fun y =>
    y.1.cpas.all (fun x => x.failed || c.dbg.has (.cpaCopyCompletion slot y.2 x.num)
      || c.dbg.has (.recordFailure (.cpa slot y.2 x.num)))
    && y.1.engine.all (fun x => x.fail.isNone || c.dbg.has (.recordFailure (.record slot y.2 x.entry x.idx))))

/-- Step 5 begins: drain requests leave on every port that is up (R281). -/
def State.drainStart (s : State) (slot : Nat) : State :=
  match s.ctx slot with
  | none => s
  | some c =>
    if !s.clocked || c.park != .stopping || !s.stopQuiet slot c || !c.copiesQuiet slot then s
    else
      let ports := s.upPorts
      { s.setCtx slot { c with park := .draining, drains := ports, drainAt := s.tickNow } with
        linkOut := s.linkOut ++ ports.map (fun p => .drainRequest p slot) }

/-! ## Leaving the device -/

/-- The context slot, its logical cores and its bank space are freed; what TLBs and L1s hold of it is dropped (DEDUCED, log 33), and no L2 line is
unpinned (R155). -/
def State.freeContext (s : State) (slot : Nat) : State :=
  match s.ctx slot with
  | none => s
  | some c =>
    let s1 := (List.range c.lcs.length).foldl (fun acc l => acc.unplace slot l) s
    let s2 : State := { s1 with dies := s1.dies.map (fun d => d.dropPages slot 0 0) }
    { s2 with
      ctxs := regSet s2.ctxs slot none
      dies := s2.dies.map (Die.withdraw (fun w => w.slot == slot))
      pkg := { s2.pkg with remote := s2.pkg.remote.filter (fun x => x.who.slot != slot) } }

/-! ## Steps 6 and 7 -/

/-- The splits that wait at a PARK continue past it. -/
def Context.pastPark (now : Nat) (c : Context) : Context := c.releaseWhere now (fun w => w == .park)

/-- The park ends with STATUS 1: the context goes on (R277). -/
def State.parkFails (s : State) (slot : Nat) (c : Context) : State :=
  ((s.setCtx slot { c.pastPark s.cycles with park := .none, drains := [] }).modPark c.joinDie slot (fun r =>
    { r with busy := false, status := 1 })).notice 2

/-- The messages on their way to the banks arrive, bank by bank, in their order: a captured context has none on the way (R305). -/
def State.arriveAll (s : State) (slot : Nat) : State :=
  match s.ctx slot with
  | none => s
  | some c => (sortBy (fun t => t.port / 256) c.transit).foldl (fun acc t => acc.deliver slot t) (s.setCtx slot { c with transit := [] })

/-- The end of every bank cycle in progress (R210). -/
def State.endBanks (s : State) (slot : Nat) : State :=
  s.modCtx slot (fun c => { c with banks := c.banks.zipIdx.map (fun x =>
    if x.1.left = 0 then x.1 else x.1.endCycle (s.readyPatterns slot x.2 x.1)) })

/-- PARK_CAPTURE: the join capture instant, the image, and the slot freed. Held completions of a debug stop are applied first
(R305). DEDUCED (log 16). -/
def State.parkCapture (s : State) (slot : Nat) : State :=
  match s.ctx slot with
  | none => s
  | some c =>
    if !s.clocked || c.park != .draining || !c.drains.isEmpty || !s.stopQuiet slot c || !c.copiesQuiet slot || !c.transit.isEmpty then s
    else
      let s1 := ((s.releaseStop slot).arriveAll slot).endBanks slot
      match s1.ctx slot, s1.peerCopies slot (s1.peersOf slot) with
      | some c1, some (ps, s2) =>
        let img := s2.image slot c1 ps
        let r := s.parkRegs c.joinDie slot
        if r.size = 0 ∨ r.size.toNat < img.length then s.parkFails slot c
        else
          (((s2.homeWrite r.addr.toNat img).freeContext slot).modPark c.joinDie slot (fun r =>
            { r with busy := false, status := 0, len := BitVec.ofNat 64 img.length })).notice 2
      | _, _ => s

/-! ## Resume -/

/-- The resume's checks up to the digest (R287 steps 1 to 5): 0, or the STATUS. -/
def imageStatus (size : Nat) (b : List Byte) : Nat :=
  let len := word b 8
  if bitsOf (word b 0) 0 48 ≠ packBits [(0, 0x4B505946), (32, 1)] then 2
  else if bitsOf (word b 0x10) 0 32 ≠ Config.archRev then 3
  else if size = 0 ∨ size < len then 1
  else if shake256 (cut b 0x1000 (len - 0x1000)) ≠ cut b 0xF00 64 then 4
  else if len < 0x1000 then 5
  else if imageBad (b.take len) then 5
  else 0

/-- The slot a resume takes (R288). -/
def State.resumeSlot (s : State) (slot : Nat) : Option Nat :=
  if (s.ctx slot).isNone ∧ slot < 8 then some slot else (List.range 8).find? (fun k => (s.ctx k).isNone)

/-- Usable compute dies; all of them before any is ready. -/
def State.usableDies (s : State) : List Nat :=
  let l := (List.range 8).filter (fun d => s.readyBit (rdyDie d))
  if l.isEmpty then List.range 8 else l

/-- Each die group is given a usable die, by free draws. -/
def State.mapDies (s : State) : List Nat → List (Nat × Nat) × State
  | [] => ([], s)
  | g :: gs =>
    let (n, s1) := s.draw
    let d := regGet 0 s.usableDies (Config.place n % s.usableDies.length)
    let x := s1.mapDies gs
    ((g, d) :: x.1, x.2)

def dieIn (m : List (Nat × Nat)) (g : Nat) : Nat :=
  match m.find? (fun x => x.1 == g) with
  | some x => x.2
  | none => 0

/-- A held instance gets a record that names the SEQ which released it before (R288). -/
def State.heldRecord (s : State) (slot : Nat) (i : GangInst) : State :=
  match i.halt with
  | .held seq =>
    let x := s.record slot { die := s.joinDie slot, aux0 := 3, aux1 := seq.setWidth 64, ganginst := i.inst, cause := causeCode .halted }
    x.2.modCtx slot (fun c => c.modInst i.recNum i.inst (fun y => { y with halt := .held x.1, seq := x.1 }))
  | .none | .spreading => s

/-- The resume ends with a failure: the device is unchanged but for its registers. -/
def State.resumeFails (s : State) (die slot status len : Nat) : State :=
  (s.modPark die slot (fun r => { r with op := 2, src := 1, status := status, len := BitVec.ofNat 64 len })).notice 2

/-- The resume needs an uncorrectable sector, and ends with a STATUS that the spec does not name: any that reports a failure (log 33). -/
def State.resumeEcc (s : State) (die slot len : Nat) (e : Exc) : State :=
  let (d, s1) := (s.logEcc 0 die none e).draw
  s1.resumeFails die slot (1 + Config.eccStatus d % 6) len

/-- A resume whose image has passed its checks up to the slot, or has not: the context is restored at once and runs from RESUME_END. -/
def State.restore (s : State) (die slot len : Nat) (b : List Byte) : State :=
  let r := s.parkRegs die slot
  let st := imageStatus r.size.toNat b
  if st ≠ 0 then s.resumeFails die slot st len
  else match s.resumeSlot slot with
    | none => s.resumeFails die slot 6 len
    | some k =>
      let img := b.take len
      let m := s.mapDies (hdDieGrps img).dedup
      let c := restoredContext s.cycles k die r.root.toNat r.pbtab.toNat (dieIn m.1) img
      let s1 : State := { m.2 with ctxs := regSet m.2.ctxs k (some c) }
      (s1.modPark die slot (fun r => { r with busy := true, status := 0, op := 2, src := 1, rslot := k, len := BitVec.ofNat 64 len })).modSlotRegs
        die k (fun x => { x with fring := { x.fring with base := word64 img 0x48 } })

/-- RESUME_REQUEST: GO with OP 2 on any die, while BUSY is clear: the header is read at its home, then the rest of the image (R161, R287). -/
def State.resumeRequest (s : State) (die slot : Nat) : State :=
  let r := s.parkRegs die slot
  if !s.clocked || r.busy || decide (8 ≤ die) || decide (8 ≤ slot) then s
  else
    let s1 := s.homeAccess r.addr.toNat 0x1000 false
    match s1.eccOf r.addr.toNat 0x1000 with
    | some e => s1.resumeEcc die slot r.len.toNat e
    | none =>
      let head := s1.read r.addr.toNat 0x1000
      let len := word head 8
      let n := min len r.size.toNat - 0x1000
      let s2 := if n = 0 then s1 else s1.homeAccess (r.addr.toNat + 0x1000) n false
      match (if n = 0 then none else s2.eccOf (r.addr.toNat + 0x1000) n) with
      | some e => s2.resumeEcc die slot len e
      | none => s2.restore die slot len (head ++ s2.read (r.addr.toNat + 0x1000) n)

/-- The park registers are busy with the resume that restored the context of slot `k`, not with a park of their own context. -/
def State.restores (s : State) (die slot k : Nat) : Bool :=
  (s.parkRegs die slot).busy && (s.parkRegs die slot).rslot == k &&
    (match s.ctx slot with
     | some c => c.joinDie != die || c.park == .none || c.park == .captured
     | none => true)

/-- RESUME_END: held instances are recorded, BUSY clears, markers leave, the context meridian continues (R288 to R290). -/
def State.resumeEnd (s : State) (die slot : Nat) : State :=
  let r := s.parkRegs die slot
  match s.ctx r.rslot with
  | none => s
  | some c =>
    if !s.clocked || !s.restores die slot r.rslot || c.park != .captured || c.joinDie ≠ die then s
    else
      let s1 := s.setCtx r.rslot { c with park := .none, merOff := c.merOff - s.meridian }
      let s2 := c.insts.foldl (fun acc i => acc.heldRecord r.rslot i) s1
      let s3 : State := { s2 with linkOut := s2.linkOut ++ s2.upPorts.map (fun p => .resumeMarker p r.rslot) }
      (s3.modPark die slot (fun x => { x with busy := false })).notice 2

/-! ## Create and destroy (R293) -/

/-- Fields of a creation record. -/
def crRoot (b : List Byte) : Nat := word b 32
def crNlc (x : Nat) : Nat := bitsOf x 0 11
def crJoin (x : Nat) : Nat := bitsOf x 12 3

/-- RSVD fields, the counts of R50, a misaligned root: STATUS 2. -/
def createBad (b : List Byte) (dgs : List Nat) : Bool :=
  let x := leNat b
  bitsOf x 25 231 != 0 || bitsOf x 18 2 != 0 || x.testBit 15 || x.testBit 11
    || crNlc x == 0 || decide (1024 < crNlc x) || crRoot b % 2 ^ 14 != 0
    || dgs.any (fun g => decide (1024 ≤ g)) || dgs.dedup.any (fun g => decide (64 < dgs.countP (fun y => y == g)))

/-- The stacks that hold some bytes are ready. Bytes at or above 432 GiB lie in no stack, and are not ready: a root table or DGMAP there gives
STATUS 4, while a root gang descriptor whose PTE names no stack does not, since the root gang's own read then meets the fault: DESIGN CHOICE
(log 53). -/
def State.stackReady (s : State) (pa n : Nat) : Bool :=
  decide (pa + n ≤ Config.physBytes) && s.readyBit (rdyStack (paStack pa)) && s.readyBit (rdyStack (paStack (pa + n - 1)))

/-- The stack that holds the root gang descriptor, in its frame or compressed record, is ready. A descriptor that no PTE of this device
places is held by no stack, nor is one whose PTE names no stack. -/
def State.descReady (s : State) (root : Nat) (addr : DWord) : Bool :=
  let va := bitsOf addr.toNat 0 57
  match walk s root va with
  | .pte _ e =>
    if pteRmt e then true
    else if pteTier e = 1 then decide (12 ≤ (tierOneOf e).1) || s.readyBit (rdyStack (tierOneOf e).1)
    else decide (Config.physBytes ≤ pteFrame e * 65536) || s.stackReady (pteFrame e * 65536 + va % 65536) 256
  | .fault _ _ | .ecc _ => true

def emptyLc (g d : Nat) : LogicalCore := { LogicalCore.empty with dieGrp := g, die := d }

/-- A created context, with its ports and scopes as at reset (R205, R220). -/
def newContext (b : List Byte) (lcs : List LogicalCore) : Context :=
  let x := leNat b
  { root := crRoot b, pbtab := word b 40, cls := bitsOf x 16 2, weight := bitsOf x 20 4 + 1, sup := x.testBit 24, joinDie := crJoin x
    lcs := lcs, banks := List.replicate 16 Bank.empty, scopes := List.replicate 256 FScope.free
    groups := [], insts := [], records := [], binds := [], fronts := 0, flips := [], transit := [], enqd := [], met := [], tables := [], waiting := []
    ctxclk := 0, merOff := 0, dbg := ⟨false, false, []⟩
    halting := false, park := .none, parkSrc := 0, drains := [], drainAt := 0, destroying := false }

/-- An address at which a LAUNCH starts a gang (R219). -/
def launchAddr (addr : DWord) : Bool :=
  addr.extractLsb' 0 8 == 0 && (addrPath addr == 0 || addrPath addr == 2) && addr.extractLsb' 57 3 == 0

/-- The root gang as a LAUNCH with no payloads and no scope: its record reads doubleword 0 first (R425); at an address that R219 refuses it
fails with ACCESS (DESIGN CHOICE, log 48: no instruction is there to raise it). -/
def Context.launchRoot (c : Context) (addr : DWord) : Context :=
  { c with
    records := c.records ++ [{ num := c.freshNum, descAddr := addr, payloads := [], scope := none, prio := 0, launched := true, pattern := 0
                               desc := none, next := 0, last := 0, running := 0, error := false, queued := true, headAt := none
                               starving := false, failed := !launchAddr addr, launching := true }] }

/-- A create that needs an uncorrectable sector creates nothing and ends with a STATUS that the spec does not name: any that reports a failure
(log 33). -/
def State.createEcc (s : State) (e : Exc) : Nat × Nat × State :=
  let (d, s1) := (s.logEcc 0 0 none e).draw
  (regGet 4 [1, 2, 4] (Config.eccStatus d % 3), s.pkg.cmdSlot, s1)

/-- A create whose record and DGMAP have been read. -/
def State.createWith (s : State) (b : List Byte) (dgs : List Nat) : Nat × Nat × State :=
  if createBad b dgs then (2, s.pkg.cmdSlot, s)
  else match (List.range 8).find? (fun k => (s.ctx k).isNone) with
    | none => (1, s.pkg.cmdSlot, s)
    | some k =>
      let m := s.mapDies dgs.dedup
      let c := (newContext b (dgs.map (fun g => emptyLc g (dieIn m.1 g)))).launchRoot (word64 b 48)
      (0, k, { m.2 with ctxs := regSet m.2.ctxs k (some c) })

/-- What create does: a STATUS and the slot; nothing is read of a stack that is not ready (R294). The record and DGMAP are read at their home
(R161); DGMAP, of which R293 says only that it is an address, is a physical one as CREC is: DESIGN CHOICE (log 53). -/
def State.create (s0 : State) : Nat × Nat × State :=
  let rec_ := s0.pkg.crec.toNat
  let s := s0.homeAccess rec_ 64 false
  match s.eccOf rec_ 64 with
  | some e => s.createEcc e
  | none =>
    let b := s.read rec_ 64
    let x := leNat b
    let dg := word b 56
    let n := crNlc x
    if !s.readyBit rdyFw || !s.readyBit (rdyDie (crJoin x)) || !s.stackReady (crRoot b) 0x4000 || !s.stackReady dg (max 1 (2 * n))
        || !s.descReady (crRoot b) (word64 b 48) then (4, s.pkg.cmdSlot, s)
    else
      let u := if n = 0 then s else s.homeAccess dg (2 * n) false
      match (if n = 0 then none else u.eccOf dg (2 * n)) with
      | some e => u.createEcc e
      | none => u.createWith b ((List.range n).map (fun i => u.readNat (dg + 2 * i) 2))

/-- CONTEXT_CREATE: GO with OP 1, while BUSY is clear. The slot given and the STATUS are seen when the command ends. -/
def State.contextCreate (s : State) : State :=
  if !s.clocked || s.pkg.cmdRun.isSome then s
  else
    let x := s.create
    x.2.2.modPkg (fun p => { p with cmdRun := some (1, x.2.1), cmdOp := 1, cmdStatus := x.1, cmdSlot := x.2.1 })

/-- CONTEXT_DESTROY: GO with OP 2, while BUSY is clear: the slot stops as a park does. -/
def State.contextDestroy (s : State) (slot : Nat) : State :=
  if !s.clocked || s.pkg.cmdRun.isSome then s
  else
    let s1 := s.modPkg (fun p =>
      { p with cmdRun := some (2, slot % 8), cmdOp := 2, cmdSlot := slot % 8, cmdStatus := if (s.openCtx (slot % 8)).isSome then 0 else 3 })
    match s.openCtx (slot % 8) with
    | some c => s1.setCtx (slot % 8) { c with destroying := true }
    | none => s1

/-- A context that a destroy has stopped (steps 1 to 3 of Table 13.3); one that no bind record will fill any more. -/
def State.destroyQuiet (s : State) (slot : Nat) : Bool :=
  match s.ctx slot with
  | some c => s.stopQuiet slot { c with binds := [] }
  | none => true

/-- CONTEXT_COMMAND_END: a destroyed context is discarded whole; BUSY clears, with notice 2. -/
def State.commandEnd (s : State) : State :=
  let done (s : State) : State := (s.modPkg (fun p => { p with cmdRun := none })).notice 2
  match s.pkg.cmdRun with
  | none => s
  | some (op, slot) =>
    if !s.clocked then s
    else if op = 2 ∧ s.pkg.cmdStatus = 0 then (if s.destroyQuiet slot then done (s.freeContext slot) else s)
    else done s

end Sys2Proof.Machine
end

