-- ==== Sys2Proof/Machine/Registers.lean ====
section
/-! DEFINITION. Registers.lean: the registers of BAR0 (14 R291, Tables 14.1, 14.2, 15.1) and of a die's management block (Tables
6.5, 6.6, 7.4 to 7.7, 11.2, 12.4, 12.7 to 12.9, 13.1, 13.4, 15.2, 15.3, 15 R311): what a read returns and what a write does.
RSVD bits read zero and are ignored in a write (00 R10); an offset without a register reads zero and ignores writes (R291). -/

namespace Sys2Proof.Machine

open Sys2Proof

/-! ## Actions of single registers -/

/-- FAULT_RING_CONFIG_WRITE: ignored while an instance of the context is held (12 R272). -/
def State.faultRingConfig (s : State) (die slot : Nat) (v : DWord) : State :=
  let held := match s.ctx slot with
    | some c => c.joinDie == die && c.insts.any (fun i => (heldSeq i.halt).isSome)
    | none => false
  if held then s else s.modSlotRegs die slot (fun x => { x with fring := { x.fring with base := v &&& 0x7FFFFFFFDF } })

/-- ELOG_CLEAR (12 R275): counters are unchanged; it takes effect before every event of its cycle. -/
def State.elogClear (s : State) (die : Nat) : State :=
  (s.noteEvent die 0).modDie die (fun x => { x with elog := [], elogOvf := false, elogLost := 0 })

/-- Replace the entry of a requester. -/
def latchPut {α : Type} (requester : Nat) (x : α) (l : List (Nat × α)) : List (Nat × α) :=
  l.filter (fun y => y.1 != requester) ++ [(requester, x)]

def Die.count (d : Die) (code : Nat) : EvCount := regGet EvCount.reset d.counts code

/-- EVENT_COUNT_READ (12 R275): the read returns COUNT and latches the tick and SEQ of the same update. -/
def State.eventCountRead (s : State) (die code requester : Nat) : State :=
  let c := (s.die die).count code
  { s.modDie die (fun x => { x with counts := regMod x.counts code (fun y =>
      { y with latch := latchPut requester (y.lastTick, y.lastSeq) y.latch }) }) with
    hostOut := s.hostOut ++ [.read (0x91000 + 32 * code) (natLe 8 c.count.toNat)] }

/-- The counters of the logical core that a working core holds. -/
def State.residentLeaves (s : State) (die core : Nat) : List DWord :=
  match ((s.die die).core core).holds with
  | some p => (s.lc p.1 p.2).leaves
  | none => List.replicate 16 0

/-- TOPDOWN_TOTAL_READ (15 R311): set 0 counts every slot, set 1 those of the logical core now resident. -/
def State.topdownRead (s : State) (die core set requester : Nat) : State :=
  let v := withTotal (if set = 0 then ((s.die die).core core).leaves else s.residentLeaves die core)
  let put (c : Core) : Core :=
    if set = 0 then { c with latchAll := latchPut requester v c.latchAll } else { c with latchLc := latchPut requester v c.latchLc }
  { s.modCore die core put with
    hostOut := s.hostOut ++ [.read (0xA0000 + 0x100 * core + (if set = 0 then 0 else 0x80) + 120) (natLe 8 (regGet 0 v 15).toNat)] }

/-! ## Reading a management block -/

/-- Doubleword `i` of a number. -/
def dwOf (x i : Nat) : DWord := BitVec.ofNat 64 (bitsOf x (64 * i) 64)

/-- Table 7.5. -/
def faultBits (f : FaultEnt) : Nat :=
  packBits [(0, f.slot), (3, f.lcid), (13, bit f.straddle), (63, f.reason), (66, f.level), (68, f.kinds.toNat), (72, causeCode f.cause),
    (80, f.count), (96, f.seq.toNat), (128, f.addr.toNat), (192, f.tick)]

/-- Table 12.7. -/
def logBits (e : LogEnt) : Nat :=
  packBits [(0, e.slot), (32, e.cause), (40, e.event), (48, e.chan), (64, e.info.toNat), (96, e.seq.toNat), (128, e.addr), (192, e.tick)]

/-- Table 11.2: the bind record of a resident group; a free slot reads zero (R251). -/
def State.slotEntry (s : State) (die core gh : Nat) : Nat :=
  match ((s.die die).core core).holds with
  | none => 0
  | some p =>
    match s.group? ⟨p.1, p.2, gh⟩ with
    | none => 0
    | some g =>
      if g.ctl.retired then 0
      else packBits [(0, 1), (1, bit g.ctl.bind.last), (31, g.ctl.cls), (48, g.ctl.bind.regBase), (59, g.ctl.bind.slot), (67, g.ctl.quad),
        (69, p.2), (79, g.ctl.bind.gcount - 1), (87, g.ctl.bind.gfirst), (99, g.ctl.role), (101, g.ctl.ganginst), (125, p.1)]

def ringRead (r : Ring) (o : Nat) : DWord :=
  match o with
  | 0x00 => r.base
  | 0x08 => r.lost ++ r.prod
  | 0x10 => r.cons.setWidth 64
  | _ => 0

/-- Table 7.7. -/
def tierRead (t : Tier) (o : Nat) : DWord :=
  BitVec.ofNat 64 (match o with
    | 0x00 => packBits [(0, t.start), (32, t.size)]
    | 0x10 => t.granules
    | 0x18 => packBits [(0, t.frames.length), (32, t.records.length)]
    | 0x20 => packBits [(16, t.arg), (58, t.op), (60, t.status), (63, bit t.run.isSome)]
    | 0x28 => packBits [(16, t.result)]
    | 0x30 => t.pulls.toNat
    | 0x38 => t.moves.toNat
    | _ => 0)

/-- Table 13.1. -/
def parkRead (r : ParkRegs) (o : Nat) : DWord :=
  match o with
  | 0x00 => r.addr
  | 0x08 => r.size
  | 0x10 => BitVec.ofNat 64 (packBits [(1, r.op), (48, r.src), (50, r.rslot), (59, r.status), (63, bit r.busy)])
  | 0x18 => r.len
  | 0x20 => r.root
  | 0x28 => r.pbtab
  | _ => 0

/-- STOPPED of a slot, as the join die of its context shows it. -/
def State.stoppedAt (s : State) (die slot : Nat) : Bool :=
  match s.ctx slot with
  | some c => c.joinDie == die && c.dbg.stopped
  | none => false

/-- The debug registers of a slot in a die's block (Table 15.2). -/
def debugRead (stopped : Bool) (d : DbgRegs) (o : Nat) : DWord :=
  if o = 0 then BitVec.ofNat 64 (packBits [(2, bit stopped), (3, bit d.bkstop), (8, d.hit)])
  else if 0x10 ≤ o ∧ o < 0x90 then dwOf (regGet 0 d.comps ((o - 0x10) / 16)).toNat (o / 8 % 2)
  else 0

/-- A counter latched by a requester, or as it stands. -/
def latched (requester : Nat) (l : List (Nat × List DWord)) (now : List DWord) (k : Nat) : DWord :=
  match l.find? (fun x => x.1 == requester) with
  | some x => regGet 0 x.2 k
  | none => regGet 0 now k

def State.counterRead (s : State) (die core o requester : Nat) : DWord :=
  let k := o % 0x80 / 8
  let c := (s.die die).core core
  if 16 ≤ k ∨ 0x100 ≤ o then 0
  else if o < 0x80 then (if k = 15 then regGet 0 (withTotal c.leaves) 15 else latched requester c.latchAll c.leaves k)
  else
    (let l := s.residentLeaves die core
     if k = 15 then regGet 0 (withTotal l) 15 else latched requester c.latchLc l k)

def eventRead (c : EvCount) (o requester : Nat) : DWord :=
  let x := match c.latch.find? (fun y => y.1 == requester) with
    | some y => (y.2.1, y.2.2)
    | none => (c.lastTick, c.lastSeq)
  match o with
  | 0x00 => c.count
  | 0x08 => BitVec.ofNat 64 x.1
  | 0x10 => x.2.setWidth 64
  | _ => 0

/-- A doubleword of a die's management block; a fault queue entry that is free again reads zero (log 2). -/
def State.mgmtRead (s : State) (die off requester : Nat) : DWord :=
  let d := s.die die
  if off % 8 ≠ 0 then 0
  else if off = 0x100 then d.l2cfg
  else if off = 0x108 then BitVec.ofNat 64 (packBits [(32, (d.l2.filter (fun x => x.pinned)).length)])
  else if off = 0x140 then d.xlinva
  else if off = 0x148 then BitVec.ofNat 64 (packBits [(0, d.xlCtx), (16, d.xlPages), (63, bit d.xlRun.isSome)])
  else if off = 0x180 then
    BitVec.ofNat 64 (packBits [(0, d.fhead), (16, d.ftail), (32, (d.faults.filter Option.isSome).length)])
  else if 0x200 ≤ off ∧ off < 0x300 then ringRead (d.slot ((off - 0x200) / 0x20)).fring (off % 0x20)
  else if off = 0x300 then BitVec.ofNat 64 (packBits [(0, d.elog.length), (16, d.elogLost.toNat), (63, bit d.elogOvf)])
  else if 0x400 ≤ off ∧ off < 0x480 then tierRead (regGet Tier.reset d.tiers ((off - 0x400) / 0x40)) (off % 0x40)
  else if 0x500 ≤ off ∧ off < 0x700 then parkRead (d.slot ((off - 0x500) / 0x40)).park (off % 0x40)
  else if 0x700 ≤ off ∧ off < 0x800 then ringRead (d.slot ((off - 0x700) / 0x20)).dlog (off % 0x20)
  else if 0x800 ≤ off ∧ off < 0x900 then ringRead (d.slot ((off - 0x800) / 0x20)).trace (off % 0x20)
  else if 0x900 ≤ off ∧ off < 0x1100 then
    debugRead (s.stoppedAt die ((off - 0x900) / 0x100)) (d.slot ((off - 0x900) / 0x100)).dbg ((off - 0x900) % 0x100)
  else if 0x10000 ≤ off ∧ off < 0x18000 then (match regGet none d.faults ((off - 0x10000) / 32) with
    | some f => dwOf (faultBits f) (off / 8 % 4)
    | none => 0)
  else if 0x20000 ≤ off ∧ off < 0x20000 + 0x4000 * coresPerDie then
    dwOf (s.slotEntry die ((off - 0x20000) / 0x4000) ((off - 0x20000) % 0x4000 / 16)) (off / 8 % 2)
  else if 0x90000 ≤ off ∧ off < 0x90200 then (match d.elog[(off - 0x90000) / 32]? with
    | some e => dwOf (logBits e) (off / 8 % 4)
    | none => 0)
  else if 0x91000 ≤ off ∧ off < 0x91000 + 32 * 10 then eventRead (d.count ((off - 0x91000) / 32)) (off % 32) requester
  else if 0xA0000 ≤ off ∧ off < 0xA0000 + 0x100 * coresPerDie then s.counterRead die ((off - 0xA0000) / 0x100) ((off - 0xA0000) % 0x100) requester
  else 0

/-! ## Reading the package block -/

def bytesAt (l : List Byte) (o : Nat) : DWord := BitVec.ofNat 64 (leNat ((l.drop o).take 8))

def State.pkgRead (s : State) (off : Nat) : DWord :=
  let p := s.pkg
  if off % 8 ≠ 0 then 0
  else if off = 0x0000 then p.ready
  else if off = 0x0008 then p.winsel
  else if off = 0x0010 then p.wbase
  else if off = 0x0018 then p.nen ||| (p.pend <<< 8)
  else if off = 0x0020 then BitVec.ofNat 64 (packBits [(0, p.drto), (63, bit p.mersrc)])
  else if off = 0x0800 then BitVec.ofNat 64 (packBits [(1, p.cmdOp), (8, p.cmdSlot), (59, p.cmdStatus), (63, bit p.cmdRun.isSome)])
  else if off = 0x0808 then p.crec
  else if 0x0840 ≤ off ∧ off < 0x0880 then regGet 0 p.rsel ((off - 0x840) / 8)
  else if 0x1000 ≤ off ∧ off < 0x1400 then dwOf (regGet 0 p.pwin ((off - 0x1000) / 16)).toNat (off / 8 % 2)
  else if off = 0x2000 then p.pwrlim
  else if off = 0x2008 then BitVec.ofNat 64 p.pstep
  else if 0x3000 ≤ off ∧ off < 0x3040 then bytesAt p.nonce (off - 0x3000)
  else if 0x3100 ≤ off ∧ off < 0x4000 then bytesAt p.report (off - 0x3100)
  else if off = 0x4000 then p.frztick
  else if off = 0x4008 then BitVec.ofNat 64 (packBits [(0, bit p.arm), (63, bit p.frozen)])
  else if off = 0x4010 then p.scansel
  else if off = 0x4018 then (if p.frozen then Config.scanWord (bitsOf p.scansel.toNat 0 16) (bitsOf p.scansel.toNat 16 32) else 0)
  else 0

/-- The die that a window of BAR0 shows. -/
def State.windowDie (s : State) (w : Nat) : Nat := bitsOf s.pkg.winsel.toNat (4 * (w - 1)) 3

/-- A doubleword of BAR0; a frozen device answers the package block only (R300). -/
def State.barRead (s : State) (off requester : Nat) : DWord :=
  let w := off / 0x100000
  if w = 0 then s.pkgRead off
  else if w ≤ 3 ∧ s.clocked then s.mgmtRead (s.windowDie w) (off % 0x100000) requester
  else 0

/-! ## Writing a management block -/

/-- A half of a 128-bit register. -/
def setHalf (x : BitVec 128) (hi : Bool) (v : DWord) : BitVec 128 :=
  if hi then v ++ x.extractLsb' 0 64 else x.extractLsb' 64 64 ++ v

/-- The bits of a comparator's low half that are not RSVD: LEN, R and W are those of data comparators (R301). -/
def compMask (i : Nat) : DWord := if i < 4 then 0x9 else 0xFFFFFF000000000F

def State.modDbg (s : State) (die slot : Nat) (f : DbgRegs → DbgRegs) : State :=
  s.modSlotRegs die slot (fun x => { x with dbg := f x.dbg })

def State.debugWrite (s : State) (die slot o : Nat) (v : DWord) : State :=
  if o = 0 then
    let s1 := s.modDbg die slot (fun d => { d with bkstop := v.getLsbD 3 })
    let s2 := if v.getLsbD 4 then s1.contextHalt die slot else s1
    let s3 := if v.getLsbD 1 then s2.debugResume die slot else s2
    if v.getLsbD 0 then s3.debugStop die slot else s3
  else if 0x10 ≤ o ∧ o < 0x90 then
    let i := (o - 0x10) / 16
    let hi := o / 8 % 2 = 1
    s.modDbg die slot (fun d => { d with comps := regMod d.comps i (fun x => setHalf x hi (if hi then v else v &&& compMask i)) })
  else s

def State.parkWrite (s : State) (die slot o : Nat) (v : DWord) : State :=
  match o with
  | 0x00 => s.modPark die slot (fun r => { r with addr := v &&& 0x7FFFFFF000 })
  | 0x08 => s.modPark die slot (fun r => { r with size := v &&& 0xFFFFFFFFFF })
  | 0x10 =>
    let op := bitsOf v.toNat 1 3
    if (op ≠ 1 ∧ op ≠ 2) ∨ (op = 1 ∧ (s.ctx slot).isNone) then s
    else if !v.getLsbD 0 then s.modPark die slot (fun r => { r with op := op })
    else if op = 1 then s.parkRequest die slot
    else s.resumeRequest die slot
  | 0x20 => s.modPark die slot (fun r => { r with root := v &&& 0x7FFFFFC000 })
  | 0x28 => s.modPark die slot (fun r => { r with pbtab := v })
  | _ => s

/-- Trace control: turned on, the next periodic SYNC is that of the next multiple of 4,096 ticks. -/
def State.traceWrite (s : State) (die slot o : Nat) (v : DWord) : State :=
  match o with
  | 0x00 => s.modSlotRegs die slot (fun x =>
      { x with
        trace := { x.trace with base := v &&& 0x7FFFFFF03F }
        syncAt := if v.getLsbD 4 && !traceOn x.trace then s.tickNow else x.syncAt })
  | 0x10 => s.modSlotRegs die slot (fun x => { x with trace := { x.trace with cons := v.extractLsb' 0 32 } })
  | _ => s

def State.dlogWrite (s : State) (die slot o : Nat) (v : DWord) : State :=
  match o with
  | 0x00 => s.modSlotRegs die slot (fun x => { x with dlog := { x.dlog with base := v &&& 0x7FFFFFF01F } })
  | 0x10 => s.modSlotRegs die slot (fun x => { x with dlog := { x.dlog with cons := v.extractLsb' 0 32 } })
  | _ => s

def State.fringWrite (s : State) (die slot o : Nat) (v : DWord) : State :=
  match o with
  | 0x00 => s.faultRingConfig die slot v
  | 0x10 => s.modSlotRegs die slot (fun x => { x with fring := { x.fring with cons := v.extractLsb' 0 32 } })
  | 0x18 => s.haltrel die slot (v.extractLsb' 0 32)
  | _ => s

def State.tierWrite (s : State) (die j o : Nat) (v : DWord) : State :=
  if (tierStack die j).isNone then s
  else match o with
  | 0x00 => s.regionWrite die j v
  | 0x08 => s.framePush die j (bitsOf v.toNat 16 23)
  | 0x20 =>
    let op := bitsOf v.toNat 58 2
    let arg := bitsOf v.toNat 16 23
    if v.getLsbD 0 then (if op = 1 ∨ op = 2 then s.tierCommand die j op arg else s)
    else s.modDie die (fun x => { x with tiers := regMod x.tiers j (fun t => { t with op := op, arg := arg }) })
  | _ => s

def State.mgmtWrite (s : State) (die off : Nat) (v : DWord) : State :=
  if off % 8 ≠ 0 then s
  else if off = 0x100 then s.l2cfgWrite die v
  else if off = 0x108 then (if v.getLsbD 0 then s.unpinDie die else s)
  else if off = 0x140 then s.modDie die (fun x => { x with xlinva := v &&& 0x1FFFFFFFFFF0000 })
  else if off = 0x148 then
    (if v.getLsbD 15 then s.xlinvStart die (bitsOf v.toNat 16 16) (bitsOf v.toNat 0 3)
     else s.modDie die (fun x => { x with xlPages := bitsOf v.toNat 16 16, xlCtx := bitsOf v.toNat 0 3 }))
  else if off = 0x188 then
    (match bitsOf v.toNat 10 2 with
     | 0 => s.fqReplay die (bitsOf v.toNat 0 10)
     | 1 => s.fqFail die (bitsOf v.toNat 0 10)
     | _ => s)
  else if 0x200 ≤ off ∧ off < 0x300 then s.fringWrite die ((off - 0x200) / 0x20) (off % 0x20) v
  else if off = 0x300 then (if v.getLsbD 8 then s.elogClear die else s)
  else if 0x400 ≤ off ∧ off < 0x480 then s.tierWrite die ((off - 0x400) / 0x40) (off % 0x40) v
  else if 0x500 ≤ off ∧ off < 0x700 then s.parkWrite die ((off - 0x500) / 0x40) (off % 0x40) v
  else if 0x700 ≤ off ∧ off < 0x800 then s.dlogWrite die ((off - 0x700) / 0x20) (off % 0x20) v
  else if 0x800 ≤ off ∧ off < 0x900 then s.traceWrite die ((off - 0x800) / 0x20) (off % 0x20) v
  else if 0x900 ≤ off ∧ off < 0x1100 then s.debugWrite die ((off - 0x900) / 0x100) ((off - 0x900) % 0x100) v
  else s

/-! ## Writing the package block -/

/-- The create and destroy command (Table 14.2); a write of GO while BUSY is ignored. -/
def State.cmdWrite (s : State) (v : DWord) : State :=
  let op := bitsOf v.toNat 1 2
  let slot := bitsOf v.toNat 8 3
  if v.getLsbD 0 && s.pkg.cmdRun.isSome then s
  else
  let s1 := s.modPkg (fun p => { p with cmdOp := op, cmdSlot := slot })
  if !v.getLsbD 0 then s1 else if op = 1 then s1.contextCreate else if op = 2 then s1.contextDestroy slot else s1

/-- Replace eight bytes of a list. -/
def putBytes (l : List Byte) (o : Nat) (v : DWord) : List Byte := l.take o ++ natLe 8 v.toNat ++ l.drop (o + 8)

def State.pkgWrite (s : State) (off : Nat) (v : DWord) : State :=
  if off % 8 ≠ 0 then s
  else if off = 0x0008 then s.modPkg (fun p => { p with winsel := v &&& 0x777 })
  else if off = 0x0010 then s.modPkg (fun p => { p with wbase := v &&& 0x7FC0000000 })
  else if off = 0x0018 then s.modPkg (fun p => { p with nen := v &&& 0x1F, pend := p.pend &&& ~~~((v >>> 8) &&& 0x1F) })
  else if off = 0x0020 then s.modPkg (fun p => { p with mersrc := v.getLsbD 63, drto := bitsOf v.toNat 0 8 })
  else if off = 0x0800 then s.cmdWrite v
  else if off = 0x0808 then s.modPkg (fun p => { p with crec := v })
  else if 0x0840 ≤ off ∧ off < 0x0880 then s.modPkg (fun p => { p with rsel := regSet p.rsel ((off - 0x840) / 8) (v &&& 0x1FFF) })
  else if 0x1000 ≤ off ∧ off < 0x1400 then
    s.modPkg (fun p => { p with pwin := regMod p.pwin ((off - 0x1000) / 16) (fun x =>
      setHalf x (off / 8 % 2 = 1) (if off / 8 % 2 = 1 then v else v &&& ~~~0xFFFFFF8)) })
  else if off = 0x2000 then s.modPkg (fun p => { p with pwrlim := v &&& 0xFFFF })
  else if 0x3000 ≤ off ∧ off < 0x3040 then s.modPkg (fun p => { p with nonce := putBytes p.nonce (off - 0x3000) v })
  else if off = 0x3040 then (if v = 1 then s.attestStart else s)
  else if off = 0x4000 then s.modPkg (fun p => { p with frztick := v })
  else if off = 0x4008 then (if v.getLsbD 0 then s.freezeArm else s.modPkg (fun p => { p with arm := false }))
  else if off = 0x4010 then s.modPkg (fun p => { p with scansel := v &&& 0xFFFFFFFFFFFF })
  else s

/-- REGISTER_WRITE: a doubleword written at an offset of BAR0, once the package block is usable. -/
def State.barWrite (s : State) (off : Nat) (v : DWord) : State :=
  let w := off / 0x100000
  if !s.readyBit rdyMgmt then s
  else if w = 0 then s.pkgWrite off v
  else if w ≤ 3 ∧ s.clocked then s.mgmtWrite (s.windowDie w) (off % 0x100000) v
  else s

end Sys2Proof.Machine
end

