-- ==== Sys2Proof/Machine/EventsDevice.lean ====
section
/-! DEFINITION. EventsDevice.lean: the meanings of the machine events of scheduling, translation, the tier and the L2,
one definition per event. An event whose condition does not hold changes nothing. -/

namespace Sys2Proof.Machine

open Sys2Proof

/-- A register of a die's management block answers only while the device runs (R298, R300). -/
def State.running (s : State) (f : State → State) : State := if s.clocked then f s else s

/-- HALTREL (R271). -/
def execHaltrel (die slot : Nat) (seq : BitVec 32) (s : State) : Host.Outcome State Fault Refusal :=
  .next (s.running (fun x => x.haltrel die slot seq))
/-- SLICE_END (R256). -/
def execSliceEnd (die : Nat) (s : State) : Host.Outcome State Fault Refusal := .next (s.sliceEnd die)
/-- SWITCH_OUT (R257). -/
def execSwitchOut (slot lcid : Nat) (s : State) : Host.Outcome State Fault Refusal := .next (s.switchOut slot lcid)
/-- SWITCH_IN (R256). -/
def execSwitchIn (slot lcid : Nat) (s : State) : Host.Outcome State Fault Refusal := .next (s.switchIn slot lcid)
/-- PREEMPTION (R258). -/
def execPreemption (slot recNum : Nat) (s : State) : Host.Outcome State Fault Refusal := .next (s.preempt slot recNum)
/-- FQRESP_REPLAY (R171). -/
def execFqrespReplay (die index : Nat) (s : State) : Host.Outcome State Fault Refusal :=
  .next (s.running (fun x => x.fqReplay die index))
/-- FQRESP_FAIL (R171). -/
def execFqrespFail (die index : Nat) (s : State) : Host.Outcome State Fault Refusal :=
  .next (s.running (fun x => x.fqFail die index))
/-- XLINV_COMMAND (R168). -/
def execXlinvCommand (die npages ctx : Nat) (s : State) : Host.Outcome State Fault Refusal :=
  .next (s.running (fun x => x.xlinvStart die npages ctx))
/-- XLINV_COMPLETION (R168). -/
def execXlinvCompletion (die : Nat) (s : State) : Host.Outcome State Fault Refusal := .next (s.xlinvEnd die)
/-- COMPRESS_FRAME (R173). -/
def execCompressFrame (die j arg : Nat) (s : State) : Host.Outcome State Fault Refusal :=
  .next (s.running (fun x => x.tierCommand die j 1 arg))
/-- FREE_RECORD (R173). -/
def execFreeRecord (die j arg : Nat) (s : State) : Host.Outcome State Fault Refusal :=
  .next (s.running (fun x => x.tierCommand die j 2 arg))
/-- TIER_COMMAND_COMPLETION (R173). -/
def execTierCommandCompletion (die j : Nat) (s : State) : Host.Outcome State Fault Refusal := .next (s.tierEnd die j)
/-- FRAME_PUSH (R172). -/
def execFramePush (die j frame : Nat) (s : State) : Host.Outcome State Fault Refusal :=
  .next (s.running (fun x => x.framePush die j frame))
/-- TIER_REGION_WRITE (R172). -/
def execTierRegionWrite (die j : Nat) (value : DWord) (s : State) : Host.Outcome State Fault Refusal :=
  .next (s.running (fun x => x.regionWrite die j value))
/-- BACKGROUND_PULL (R174). -/
def execBackgroundPull (die idx unit : Nat) (s : State) : Host.Outcome State Fault Refusal := .next (s.background die idx unit)
/-- PAGE_MOVE_START (R175). -/
def execPageMoveStart (slot vpage stack : Nat) (s : State) : Host.Outcome State Fault Refusal :=
  .next (s.moveStart slot vpage stack)
/-- PAGE_MOVE_COMPLETION (R177). -/
def execPageMoveCompletion (die idx : Nat) (s : State) : Host.Outcome State Fault Refusal := .next (s.moveEnd die idx)
/-- PLACEMENT_POLICY_PASS (R178). -/
def execPlacementPolicyPass (die : Nat) (s : State) : Host.Outcome State Fault Refusal := .next (s.policyPass die)
/-- PIN_COUNT_HALVING (R155). -/
def execPinCountHalving (die : Nat) (s : State) : Host.Outcome State Fault Refusal := .next (s.halvePins die)
/-- L2CFG_WRITE (R152). -/
def execL2cfgWrite (die : Nat) (value : DWord) (s : State) : Host.Outcome State Fault Refusal :=
  .next (s.running (fun x => x.l2cfgWrite die value))
/-- UNPIN (R155). -/
def execUnpin (die : Nat) (s : State) : Host.Outcome State Fault Refusal := .next (s.running (fun x => x.unpinDie die))

end Sys2Proof.Machine
end

