-- ==== Sys2Proof/Machine/EventsHost.lean ====
section
/-! DEFINITION. EventsHost.lean: the meanings of the machine events of the links, the package, parking and debug, one
definition per event. An event whose condition does not hold changes nothing. -/

namespace Sys2Proof.Machine

open Sys2Proof

/-- MAILBOX_WRITE (R214). -/
def execMailboxWrite (off : Nat) (bytes : List Byte) (s : State) : Host.Outcome State Fault Refusal :=
  .next (s.mailboxWrite off bytes)
/-- HOST_BAR4_ACCESS (R245). -/
def execHostBar4Access (off n : Nat) (data : Option (List Byte)) (s : State) : Host.Outcome State Fault Refusal :=
  .next (s.bar4 off n data)
/-- RINGUS_FLIT_ARRIVAL (R296). -/
def execRingusFlitArrival (port rank : Nat) (f : Flit) (s : State) : Host.Outcome State Fault Refusal :=
  .next (s.flitArrival port rank f)
/-- DRAIN_REQUEST_ARRIVAL (R281). -/
def execDrainRequestArrival (port rank : Nat) (s : State) : Host.Outcome State Fault Refusal := .next (s.drainRequest port rank)
/-- DRAIN_MARKER_ARRIVAL (R281). -/
def execDrainMarkerArrival (port slot : Nat) (s : State) : Host.Outcome State Fault Refusal := .next (s.drainMarker port slot)
/-- DRAIN_TIMEOUT (R296). -/
def execDrainTimeout (port slot : Nat) (s : State) : Host.Outcome State Fault Refusal := .next (s.drainTimeout port slot)
/-- RESUME_MARKER_ARRIVAL (R296). -/
def execResumeMarkerArrival (port rank : Nat) (s : State) : Host.Outcome State Fault Refusal := .next (s.resumeMarker port rank)
/-- MERIDIAN_SYNC (R297). -/
def execMeridianSync (tick : DWord) (s : State) : Host.Outcome State Fault Refusal := .next (s.meridianSync tick)
/-- PARK_REQUEST (R277, R278). -/
def execParkRequest (die slot : Nat) (s : State) : Host.Outcome State Fault Refusal := .next (s.parkRequest die slot)
/-- PARK_CAPTURE (R278). -/
def execParkCapture (slot : Nat) (s : State) : Host.Outcome State Fault Refusal := .next (s.parkCapture slot)
/-- RESUME_REQUEST (R287, R288). -/
def execResumeRequest (die slot : Nat) (s : State) : Host.Outcome State Fault Refusal := .next (s.resumeRequest die slot)
/-- CONTEXT_CREATE (R293). -/
def execContextCreate (s : State) : Host.Outcome State Fault Refusal := .next (s.contextCreate)
/-- CONTEXT_DESTROY (R293). -/
def execContextDestroy (slot : Nat) (s : State) : Host.Outcome State Fault Refusal := .next (s.contextDestroy slot)
/-- DEVICE_RESET (R294). -/
def execDeviceReset (s : State) : Host.Outcome State Fault Refusal := .next (s.deviceReset)
/-- FUNCTION_READY (R294). -/
def execFunctionReady (bit : Nat) (s : State) : Host.Outcome State Fault Refusal := .next (s.functionReady bit)
/-- ATTESTATION_REQUEST (R295). -/
def execAttestationRequest (s : State) : Host.Outcome State Fault Refusal := .next (s.attestStart)
/-- CLOCK_STEP (R298). -/
def execClockStep (step : Nat) (s : State) : Host.Outcome State Fault Refusal := .next (s.clockStep step)
/-- THERMAL_LIMIT (R298). -/
def execThermalLimit (s : State) : Host.Outcome State Fault Refusal := .next (s.thermalLimit)
/-- THERMAL_SHUTDOWN (R298). -/
def execThermalShutdown (s : State) : Host.Outcome State Fault Refusal := .next (s.thermalShutdown)
/-- FREEZE_ARM (R300). -/
def execFreezeArm (s : State) : Host.Outcome State Fault Refusal := .next (s.freezeArm)
/-- FREEZE (R300). -/
def execFreeze (s : State) : Host.Outcome State Fault Refusal := .next (s.freeze)
/-- DEBUG_STOP (R303). -/
def execDebugStop (die slot : Nat) (s : State) : Host.Outcome State Fault Refusal := .next (s.debugStop die slot)
/-- DEBUG_RESUME (R304). -/
def execDebugResume (die slot : Nat) (s : State) : Host.Outcome State Fault Refusal := .next (s.debugResume die slot)
/-- CONTEXT_HALT (R306). -/
def execContextHalt (die slot : Nat) (s : State) : Host.Outcome State Fault Refusal := .next (s.contextHalt die slot)
/-- TRACE_SYNC (R307). -/
def execTraceSync (die slot : Nat) (s : State) : Host.Outcome State Fault Refusal := .next (s.traceSync die slot)
/-- ELOG_CLEAR (R275). -/
def execElogClear (die : Nat) (s : State) : Host.Outcome State Fault Refusal := .next (s.running (fun x => x.elogClear die))
/-- EVENT_COUNT_READ (R275). -/
def execEventCountRead (die code requester : Nat) (s : State) : Host.Outcome State Fault Refusal :=
  .next (s.running (fun x => x.eventCountRead die code requester))
/-- TOPDOWN_TOTAL_READ (R311). -/
def execTopdownTotalRead (die core set requester : Nat) (s : State) : Host.Outcome State Fault Refusal :=
  .next (s.running (fun x => x.topdownRead die core set requester))
/-- FAULT_RING_CONFIG_WRITE (R272). -/
def execFaultRingConfigWrite (die slot : Nat) (value : DWord) (s : State) : Host.Outcome State Fault Refusal :=
  .next (s.running (fun x => x.faultRingConfig die slot value))
/-- REGISTER_WRITE (R9, R291). -/
def execRegisterWrite (off : Nat) (value : DWord) (s : State) : Host.Outcome State Fault Refusal := .next (s.barWrite off value)
/-- LINK_PORT_DOWN (R281). -/
def execLinkPortDown (port : Nat) (s : State) : Host.Outcome State Fault Refusal := .next (s.portDown port)
/-- RESUME_END (R288, R289). -/
def execResumeEnd (die slot : Nat) (s : State) : Host.Outcome State Fault Refusal := .next (s.resumeEnd die slot)
/-- CONTEXT_COMMAND_END (R293). -/
def execContextCommandEnd (s : State) : Host.Outcome State Fault Refusal := .next (s.commandEnd)
/-- ATTESTATION_REPORT_END (R295). -/
def execAttestationReportEnd (s : State) : Host.Outcome State Fault Refusal := .next (s.attestEnd)
/-- DEBUG_STOP_PROPAGATION (R303). -/
def execDebugStopPropagation (r : SplitRef) (s : State) : Host.Outcome State Fault Refusal := .next (s.stopPropagates r)
/-- FLIT_RETRY (R275). -/
def execFlitRetry (die : Nat) (ringus : Bool) (s : State) : Host.Outcome State Fault Refusal := .next (s.flitRetry die ringus)
/-- SCRUB (R275). -/
def execScrub (pa : Nat) (s : State) : Host.Outcome State Fault Refusal := .next (s.scrub pa)

end Sys2Proof.Machine
end

