-- ==== Sys2Proof/Machine/EventsRun.lean ====
section
/-! DEFINITION. EventsRun.lean: the meanings of the machine events of splits, groups, instances, banks and engines, one
definition per event. An event whose condition does not hold changes nothing. -/

namespace Sys2Proof.Machine

open Sys2Proof

/-- CLAUSE_START (R79, R254). -/
def execClauseStart (r : SplitRef) (s : State) : Host.Outcome State Fault Refusal := .next (s.clauseStart r)
/-- LONG_LATENCY_COMPLETION (R60, R95). -/
def execLongLatencyCompletion (r : GroupRef) (n : Nat) (s : State) : Host.Outcome State Fault Refusal := .next (s.complete r n .alu)
/-- LOAD_COMPLETION (R157). -/
def execLoadCompletion (r : GroupRef) (n : Nat) (s : State) : Host.Outcome State Fault Refusal := .next (s.complete r n .load)
/-- MATRIX_COMPLETION (R134). -/
def execMatrixCompletion (r : GroupRef) (n : Nat) (s : State) : Host.Outcome State Fault Refusal := .next (s.complete r n .matrix)
/-- STORE_QUEUE_DRAIN (R147). -/
def execStoreQueueDrain (r : GroupRef) (s : State) : Host.Outcome State Fault Refusal := .next (s.drains r)
/-- MESSAGE_ARRIVAL (R19, R208). -/
def execMessageArrival (slot idx : Nat) (s : State) : Host.Outcome State Fault Refusal := .next (s.arrive slot idx)
/-- BANK_CYCLE (R210). -/
def execBankCycle (slot bank : Nat) (s : State) : Host.Outcome State Fault Refusal := .next (s.bankCycle slot bank)
/-- GANG_RECORD_TAKE (R216). -/
def execGangRecordTake (slot recNum : Nat) (s : State) : Host.Outcome State Fault Refusal := .next (s.takeRecord slot recNum)
/-- INSTANCE_PLACEMENT (R248). -/
def execInstancePlacement (slot recNum : Nat) (s : State) : Host.Outcome State Fault Refusal := .next (s.placeInstance slot recNum)
/-- QUEUE_HEAD_STARVATION (R247). -/
def execQueueHeadStarvation (slot recNum : Nat) (s : State) : Host.Outcome State Fault Refusal := .next (s.starve slot recNum)
/-- BIND_RECORD_DISPATCH (R252). -/
def execBindRecordDispatch (slot : Nat) (s : State) : Host.Outcome State Fault Refusal := .next (s.dispatchBind slot)
/-- ISSUE_AGE_BOOST (R254). -/
def execIssueAgeBoost (r : SplitRef) (s : State) : Host.Outcome State Fault Refusal := .next (s.boost r)
/-- INSTANCE_RETIREMENT (R217). -/
def execInstanceRetirement (slot recNum inst : Nat) (s : State) : Host.Outcome State Fault Refusal :=
  .next (s.instRetirement slot recNum inst)
/-- CPA_COPY_COMPLETION (R180). -/
def execCpaCopyCompletion (slot lcid n : Nat) (s : State) : Host.Outcome State Fault Refusal := .next (s.copyCompletion slot lcid n)
/-- RECORD_START (R189). -/
def execRecordStart (slot lcid entry idx : Nat) (s : State) : Host.Outcome State Fault Refusal :=
  .next (s.recordStart slot lcid entry idx)
/-- RECORD_COMPLETION (R191). -/
def execRecordCompletion (slot lcid entry idx : Nat) (s : State) : Host.Outcome State Fault Refusal :=
  .next (s.recordCompletion slot lcid entry idx)
/-- RECORD_FAILURE (R203). -/
def execRecordFailure (r : EngRef) (s : State) : Host.Outcome State Fault Refusal := .next (s.recordFailure r)
/-- PUBLISH_FLIP (R200). -/
def execPublishFlip (slot idx : Nat) (s : State) : Host.Outcome State Fault Refusal := .next (s.publishFlip slot idx)
/-- TIMER_EXPIRY (R268). -/
def execTimerExpiry (r : GroupRef) (s : State) : Host.Outcome State Fault Refusal := .next (s.timerExpires r)
/-- HALT_PROPAGATION (R271). -/
def execHaltPropagation (r : SplitRef) (s : State) : Host.Outcome State Fault Refusal := .next (s.haltPropagates r)

end Sys2Proof.Machine
end

