-- ==== Sys2Proof/Machine/FamControl.lean ====
section
/-! DEFINITION. FamControl.lean: the meanings of the control-transfer, system, post, finish-scope, cohort and REGROUP
instructions, one definition per instruction. -/

namespace Sys2Proof.Machine

open Sys2Proof

/-- BRA (R324). -/
def execBra (gd : Guard) (disp : BitVec 32) (s : State) : Host.Outcome State Fault Refusal := runRes (laneAct gd) (braRes gd disp) s
/-- BRC (R325). -/
def execBrc (gd : Guard) (cond : Cond) (a : VReg) (b : Src) (disp : BitVec 24) (s : State) : Host.Outcome State Fault Refusal :=
  runRes (laneAct gd) (brcRes gd cond a b disp) s
/-- BRX (R328). -/
def execBrx (gd : Guard) (o : BrxOp) (s : State) : Host.Outcome State Fault Refusal := runRes (laneAct gd) (brxRes gd o) s
/-- BREAKL (R326). -/
def execBreakl (gd : Guard) (s : State) : Host.Outcome State Fault Refusal :=
  runRes (laneAct gd) (breaklRes gd (wordOf (.breakl gd))) s
/-- CALL (R330). -/
def execCall (gd : Guard) (o : CallOp) (s : State) : Host.Outcome State Fault Refusal := runRes (laneAct gd) (callRes gd o) s
/-- RET (R386). -/
def execRet (gd : Guard) (s : State) : Host.Outcome State Fault Refusal := runRes (laneAct gd) (retRes gd (wordOf (.ret gd))) s
/-- LOOP (R362). -/
def execLoop (a : SReg) (disp : BitVec 32) (s : State) : Host.Outcome State Fault Refusal :=
  runRes (uniAct Guard.always) (loopRes a disp (wordOf (.loop a disp))) s
/-- LOOP.END (R362). -/
def execLoopEnd (s : State) : Host.Outcome State Fault Refusal :=
  runRes (uniAct Guard.always) (loopEndRes (wordOf .loopEnd)) s
/-- RECONV (R382). -/
def execReconv (s : State) : Host.Outcome State Fault Refusal := runRes (uniAct Guard.always) reconvRes s
/-- EXIT (R339). -/
def execExit (gd : Guard) (s : State) : Host.Outcome State Fault Refusal := runRes (laneAct gd) (exitRes gd) s
/-- RTE (R266, R387). -/
def execRte (s : State) : Host.Outcome State Fault Refusal := runRes (uniAct Guard.always) (rteRes false (wordOf .rte)) s
/-- RTE.NEXT (R266, R387). -/
def execRteNext (s : State) : Host.Outcome State Fault Refusal := runRes (uniAct Guard.always) (rteRes true (wordOf .rteNext)) s
/-- NOP (R370). -/
def execNop (gd : Guard) (s : State) : Host.Outcome State Fault Refusal := runOk (laneAct gd) nopOp s
/-- YIELD (R407). -/
def execYield (s : State) : Host.Outcome State Fault Refusal := runRes (uniAct Guard.always) yieldRes s
/-- SRD (R395). -/
def execSrd (gd : Guard) (o : SrdOp) (s : State) : Host.Outcome State Fault Refusal := runRes (laneAct gd) (srdRes gd o) s
/-- SWR (R399). -/
def execSwr (gd : Guard) (n : BitVec 8) (a : SReg) (s : State) : Host.Outcome State Fault Refusal :=
  runOk (uniAct gd) (swrOp gd n a) s
/-- GTIMER (R268, R349). -/
def execGtimer (gd : Guard) (a : SReg) (s : State) : Host.Outcome State Fault Refusal := runOk (uniAct gd) (gtimerOp gd a) s
/-- GTIMER.GET (R268, R349). -/
def execGtimerGet (gd : Guard) (d : SReg) (s : State) : Host.Outcome State Fault Refusal := runOk (uniAct gd) (gtimerGetOp gd d) s
/-- MERID (R290, R363). -/
def execMerid (gd : Guard) (d : SReg) (s : State) : Host.Outcome State Fault Refusal := runRes (uniAct gd) (meridRes false gd d) s
/-- MERID.DEV (R363). -/
def execMeridDev (gd : Guard) (d : SReg) (s : State) : Host.Outcome State Fault Refusal := runRes (uniAct gd) (meridRes true gd d) s
/-- TRAP (R264, R403). -/
def execTrap (gd : Guard) (code : BitVec 32) (s : State) : Host.Outcome State Fault Refusal :=
  runRes (uniAct gd) (trapRes gd code) s
/-- BKPT (R303, R323). -/
def execBkpt (gd : Guard) (code : BitVec 16) (s : State) : Host.Outcome State Fault Refusal := runRes (uniAct gd) (bkptRes gd code) s
/-- TRACEMARK (R309, R402). -/
def execTracemark (gd : Guard) (a : SReg) (s : State) : Host.Outcome State Fault Refusal :=
  runRes (uniAct gd) (tracemarkRes gd a) s
/-- POST (R206, R376 to R378). -/
def execPost (gd : Guard) (a : SReg) (b : SOrH) (s : State) : Host.Outcome State Fault Refusal := runRes (uniAct gd) (postRes gd a b) s
/-- POSTQ (R206, R376 to R378). -/
def execPostq (gd : Guard) (d : PReg) (a : SReg) (b : SOrH) (s : State) : Host.Outcome State Fault Refusal :=
  runRes (uniAct gd) (postqRes gd d a b) s
/-- PATLOAD (R213, R373). -/
def execPatload (gd : Guard) (a : SReg) (bank : BitVec 4) (s : State) : Host.Outcome State Fault Refusal :=
  runRes (uniAct gd) (patloadRes gd a bank) s
/-- LAUNCH (R219, R354). -/
def execLaunch (gd : Guard) (a b : SReg) (n : BitVec 8) (s : State) : Host.Outcome State Fault Refusal :=
  runRes (uniAct gd) (launchRes gd a b n) s
/-- FSOPEN (R221, R347). -/
def execFsopen (gd : Guard) (a : SReg) (s : State) : Host.Outcome State Fault Refusal := runRes (uniAct gd) (fsopenRes gd a) s
/-- FSCLOSE (R223, R347). -/
def execFsclose (gd : Guard) (a : SOrN) (s : State) : Host.Outcome State Fault Refusal := runRes (uniAct gd) (fscloseRes gd a) s
/-- FSWAIT (R225, R347). -/
def execFswait (gd : Guard) (a : SOrN) (s : State) : Host.Outcome State Fault Refusal := runRes (uniAct gd) (fswaitRes gd a) s
/-- BAR (R46, R318). -/
def execBar (gd : Guard) (k : BitVec 2) (s : State) : Host.Outcome State Fault Refusal := runRes (laneAct gd) (barRes gd k) s
/-- BARARR (R46, R318). -/
def execBararr (gd : Guard) (d : SReg) (k : BitVec 2) (s : State) : Host.Outcome State Fault Refusal :=
  runRes (laneAct gd) (bararrRes gd d k) s
/-- BARWAIT (R46, R318). -/
def execBarwait (gd : Guard) (k : BitVec 2) (b : SReg) (s : State) : Host.Outcome State Fault Refusal :=
  runRes (uniAct gd) (barwaitRes gd k b) s
/-- REGROUP (R47 to R49, R385). -/
def execRegroup (la : LA) (k : BitVec 2) (p : PReg) (s : State) : Host.Outcome State Fault Refusal :=
  runRes (uniAct Guard.always) (regroupRes k p (wordOf (.regroup la k p))) s

end Sys2Proof.Machine
end

