-- ==== Sys2Proof/Machine/FamFloat.lean ====
section
/-! DEFINITION. FamFloat.lean: the meanings of the floating-point, special-function, conversion and packing instructions, one
definition per instruction. -/

namespace Sys2Proof.Machine

open Sys2Proof

/-- FADD (R340). -/
def execFadd (o : FBin) (s : State) : Host.Outcome State Fault Refusal := runG (laneAct o.g) (fbinOp o faddNum) s
/-- FSUB (R340). -/
def execFsub (o : FBin) (s : State) : Host.Outcome State Fault Refusal := runG (laneAct o.g) (fbinOp o fsubNum) s
/-- FMUL (R340). -/
def execFmul (o : FBin) (s : State) : Host.Outcome State Fault Refusal := runG (laneAct o.g) (fbinOp o mulNums) s
/-- FFMA (R340). -/
def execFfma (o : FTern) (s : State) : Host.Outcome State Fault Refusal := runG (laneAct o.g) (ffmaOp o) s
/-- FMIN (R340, R112). -/
def execFmin (o : FMinMax) (s : State) : Host.Outcome State Fault Refusal := runG (laneAct o.g) (fminmaxOp o false) s
/-- FMAX (R340, R112). -/
def execFmax (o : FMinMax) (s : State) : Host.Outcome State Fault Refusal := runG (laneAct o.g) (fminmaxOp o true) s
/-- FCLASS (R342). -/
def execFclass (o : FclassOp) (s : State) : Host.Outcome State Fault Refusal := runOk (laneAct o.g) (fclassOp o) s
/-- FCMP (R343). -/
def execFcmp (o : FcmpOp) (s : State) : Host.Outcome State Fault Refusal := runG (laneAct o.g) (fcmpOp o) s
/-- FRCP (R115, R344). -/
def execFrcp (o : SfuOp) (s : State) : Host.Outcome State Fault Refusal := runG (laneAct o.g) (sfuOp .rcp o) s
/-- FRSQ (R115, R344). -/
def execFrsq (o : SfuOp) (s : State) : Host.Outcome State Fault Refusal := runG (laneAct o.g) (sfuOp .rsq o) s
/-- FSQRT (R115, R344). -/
def execFsqrt (o : SfuOp) (s : State) : Host.Outcome State Fault Refusal := runG (laneAct o.g) (sfuOp .sqrt o) s
/-- FEXP2 (R115, R344). -/
def execFexp2 (o : SfuOp) (s : State) : Host.Outcome State Fault Refusal := runG (laneAct o.g) (sfuOp .exp2 o) s
/-- FLOG2 (R115, R344). -/
def execFlog2 (o : SfuOp) (s : State) : Host.Outcome State Fault Refusal := runG (laneAct o.g) (sfuOp .log2 o) s
/-- FSIN (R115, R344). -/
def execFsin (o : SfuOp) (s : State) : Host.Outcome State Fault Refusal := runG (laneAct o.g) (sfuOp .sin o) s
/-- FCOS (R115, R344). -/
def execFcos (o : SfuOp) (s : State) : Host.Outcome State Fault Refusal := runG (laneAct o.g) (sfuOp .cos o) s
/-- FTANH (R115, R344). -/
def execFtanh (o : SfuOp) (s : State) : Host.Outcome State Fault Refusal := runG (laneAct o.g) (sfuOp .tanh o) s
/-- CVT (R335). -/
def execCvt (o : CvtOp) (s : State) : Host.Outcome State Fault Refusal := runG (laneAct o.g) (cvtOp o) s
/-- CVTN (R336). -/
def execCvtn (o : CvtnOp) (s : State) : Host.Outcome State Fault Refusal := runG (laneAct o.g) (cvtnOp o) s
/-- CVTW (R337). -/
def execCvtw (o : CvtwOp) (s : State) : Host.Outcome State Fault Refusal := runG (laneAct o.g) (cvtwOp o) s
/-- PACK (R371). -/
def execPack (o : PackOp) (s : State) : Host.Outcome State Fault Refusal := runG (laneAct o.g) (packOp o) s
/-- UNPACK (R404). -/
def execUnpack (o : PackOp) (s : State) : Host.Outcome State Fault Refusal := runG (laneAct o.g) (unpackOp o) s
/-- QSCALE (R381, R125). -/
def execQscale (o : QscaleOp) (s : State) : Host.Outcome State Fault Refusal := runG (laneAct o.g) (qscaleOp o) s

end Sys2Proof.Machine
end

