-- ==== Sys2Proof/Machine/FamInt.lean ====
section
/-! DEFINITION. FamInt.lean: the meanings of the integer, logic, shift, bit-field, comparison, predicate and move
instructions, one definition per instruction. -/

namespace Sys2Proof.Machine

open Sys2Proof

/-- AND (R315). -/
def execAnd (o : Bin) (s : State) : Host.Outcome State Fault Refusal := runOk (dstAct o.d o.g) (logicOp o (some .and) (· &&& ·)) s
/-- OR (R315). -/
def execOr (o : Bin) (s : State) : Host.Outcome State Fault Refusal := runOk (dstAct o.d o.g) (logicOp o none (· ||| ·)) s
/-- XOR (R315). -/
def execXor (o : Bin) (s : State) : Host.Outcome State Fault Refusal := runOk (dstAct o.d o.g) (logicOp o none (· ^^^ ·)) s
/-- ANDN (R315). -/
def execAndn (o : Bin) (s : State) : Host.Outcome State Fault Refusal :=
  runOk (dstAct o.d o.g) (logicOp o none (fun a b => a &&& ~~~b)) s
/-- NOT (R315). -/
def execNot (o : Un) (s : State) : Host.Outcome State Fault Refusal := runOk (dstAct o.d o.g) (notOp o) s
/-- BFI (R322). -/
def execBfi (o : Tern) (s : State) : Host.Outcome State Fault Refusal := runOk (dstAct o.d o.g) (bfiOp o) s
/-- BFX (R321). -/
def execBfx (o : Tern) (s : State) : Host.Outcome State Fault Refusal := runOk (dstAct o.d o.g) (bfxOp o) s
/-- BREV (R327). -/
def execBrev (o : Un) (s : State) : Host.Outcome State Fault Refusal := runOk (dstAct o.d o.g) (bitUn o false brev) s
/-- CLZ (R327). -/
def execClz (o : Un) (s : State) : Host.Outcome State Fault Refusal := runOk (dstAct o.d o.g) (bitUn o true clz) s
/-- POPC (R375). -/
def execPopc (o : Un) (s : State) : Host.Outcome State Fault Refusal := runOk (dstAct o.d o.g) (bitUn o true popcount) s
/-- IADD (R351). -/
def execIadd (o : Bin) (s : State) : Host.Outcome State Fault Refusal := runOk (dstAct o.d o.g) (binOp o (some .add) (· + ·)) s
/-- ISUB (R351). -/
def execIsub (o : Bin) (s : State) : Host.Outcome State Fault Refusal := runOk (dstAct o.d o.g) (binOp o (some .sub) (· - ·)) s
/-- IMUL (R351). -/
def execImul (o : Bin) (s : State) : Host.Outcome State Fault Refusal := runOk (dstAct o.d o.g) (binOp o (some .mul) (· * ·)) s
/-- IMULH (R351). -/
def execImulh (o : Bin) (s : State) : Host.Outcome State Fault Refusal := runOk (dstAct o.d o.g) (imulhOp o) s
/-- IMAD (R351). -/
def execImad (o : Tern) (s : State) : Host.Outcome State Fault Refusal := runOk (dstAct o.d o.g) (imadOp o) s
/-- IMIN (R351). -/
def execImin (o : Bin) (s : State) : Host.Outcome State Fault Refusal := runOk (dstAct o.d o.g) (binOp o (some .min) min) s
/-- IMAX (R351). -/
def execImax (o : Bin) (s : State) : Host.Outcome State Fault Refusal := runOk (dstAct o.d o.g) (binOp o (some .max) max) s
/-- IABS (R351). -/
def execIabs (o : Un) (s : State) : Host.Outcome State Fault Refusal :=
  runOk (dstAct o.d o.g) (fun src g k =>
    unOp o (fun x => if x < 0 then -x else x) (propAbs o.ty o.sat (o.a.cal src k)) src g k) s
/-- INEG (R351). -/
def execIneg (o : Un) (s : State) : Host.Outcome State Fault Refusal := runOk (dstAct o.d o.g) (unOp o (fun x => -x) none) s
/-- ICMP (R352). -/
def execIcmp (o : IcmpOp) (s : State) : Host.Outcome State Fault Refusal :=
  runOk (if o.uni then uniAct o.g else laneAct o.g) (icmpOp o) s
/-- LEA (R361). -/
def execLea (o : LeaOp) (s : State) : Host.Outcome State Fault Refusal := runOk (dstAct o.d o.g) (leaOp o) s
/-- SEL (R391). -/
def execSel (o : SelOp) (s : State) : Host.Outcome State Fault Refusal := runOk (dstAct o.d o.g) (selOp o) s
/-- SHL (R393). -/
def execShl (o : Bin) (s : State) : Host.Outcome State Fault Refusal := runOk (dstAct o.d o.g) (shiftOp .shl o) s
/-- SHR (R393). -/
def execShr (o : Bin) (s : State) : Host.Outcome State Fault Refusal := runOk (dstAct o.d o.g) (shiftOp .shr o) s
/-- SHRA (R393). -/
def execShra (o : Bin) (s : State) : Host.Outcome State Fault Refusal := runOk (dstAct o.d o.g) (shiftOp .shra o) s
/-- MOV (R366). -/
def execMov (gd : Guard) (o : MovOp) (s : State) : Host.Outcome State Fault Refusal := runOk (laneAct gd) (movOp gd o) s
/-- MOVI (R87, R367). -/
def execMovi (gd : Guard) (d : Dst) (imm : BitVec 32) (s : State) : Host.Outcome State Fault Refusal :=
  runOk (dstAct d gd) (moviOp gd d imm) s
/-- MOVI.HI (R87, R367). -/
def execMoviHi (gd : Guard) (d : SReg) (imm : BitVec 32) (s : State) : Host.Outcome State Fault Refusal :=
  runOk (uniAct gd) (fun src g _ => moviHiOp gd d imm src g) s
/-- PLOP (R374). -/
def execPlop (gd : Guard) (uni : Bool) (d : PReg) (o : PlopOp) (s : State) : Host.Outcome State Fault Refusal :=
  runOk (if uni then uniAct gd else laneAct gd) (plopOp gd uni d o) s

end Sys2Proof.Machine
end

