-- ==== Sys2Proof/Machine/CrossLane.lean ====
section
/-! DEFINITION. CrossLane.lean: the cross-lane family as functions of the group (16 R320, R332, 18 R384, 19 R389, R390,
R392, R405). All are long-latency: the sources are read at issue, the results land at completion. -/

namespace Sys2Proof.Machine

open Sys2Proof

/-- Results of 32 or 64 bits in the lanes of `m`, calipers unknown (R60, R64). -/
def vecDests (d : Nat) (wide : Bool) (m : Mask) (val : Nat → DWord) : List VecDest :=
  let lo : VecDest := ⟨d, m, perLane (fun j => (val j).extractLsb' 0 32), none, false⟩
  if wide then [lo, ⟨d + 1, m, perLane (fun j => (val j).extractLsb' 32 32), none, false⟩] else [lo]

/-- A vector source of 32 or 64 bits. -/
def vecBits (src : Group) (r : VReg) (wide : Bool) (j : Nat) : DWord :=
  if wide then src.vPair r.toNat j else (src.v r.toNat j).setWidth 64

/-- A source lane: its value when live, 0 when it has exited (R320, R392). -/
def fromLane (src : Group) (r : VReg) (wide : Bool) (j : Nat) : DWord :=
  if Mask.has src.ctl.live j then vecBits src r wide j else 0

/-- BCAST (R320). -/
def bcastOp (o : BcastOp) (src g : Group) (k : Nat) : GRes :=
  let n := ((o.b.word src 0).extractLsb' 0 5).toNat
  .ok (g.issueLong k o.la .alu
    (vecDests o.d.toNat o.ty.wide (src.active k o.g) (fun _ => fromLane src o.a o.ty.wide n)) [] 0)

/-- Source lane of SHFL (Table 19.2). -/
def shflLane (mode : ShflMode) (w b i : Nat) : Nat :=
  let base := i - i % w
  match mode with
  | .idx => base + b % w
  | .up => if i < base + b then i else i - b
  | .down => if base + w ≤ i + b then i else i + b
  | .xor => i ^^^ (b % w)

/-- SHFL (R392). -/
def shflOp (o : ShflOp) (src g : Group) (k : Nat) : GRes :=
  let w := if o.w = 0 then 32 else o.w.toNat
  .ok (g.issueLong k o.la .alu
    (vecDests o.d.toNat o.ty.wide (src.active k o.g)
      (fun i => fromLane src o.a o.ty.wide (shflLane o.mode w (o.b.word src i).toNat i))) [] 0)

/-- CONFLICT and CONFLICT.ALL (R332). -/
def conflictOp (o : ConflictOp) (all : Bool) (src g : Group) (k : Nat) : GRes :=
  let m := src.active k o.g
  let same (i : Nat) : Mask := Mask.ofFn (fun j => Mask.has m j && vecBits src o.a o.ty.wide j == vecBits src o.a o.ty.wide i
    && (if all then j != i else decide (j < i)))
  .ok (g.issueLong k o.la .alu (vecDests o.d.toNat false m (fun i => (same i).setWidth 64)) [] 0)

/-! ## Reductions (Tables 18.9 and 19.1) -/

def RedTy.num (src : Group) (t : IntTy) (a : VReg) (j : Nat) : Int :=
  (Src.v a).num src t j

/-- An integer reduction over the values of some lanes, in lane order. -/
def redInt (ty : IntTy) (op : RedOp) (sat : Bool) (xs : List Int) : DWord :=
  match op with
  | .add => intResult ty sat xs.sum
  | .min => BitVec.ofInt 64 (xs.foldl min ty.greatest)
  | .max => BitVec.ofInt 64 (xs.foldl max ty.least)
  | .and => xs.foldl (fun acc x => acc &&& BitVec.ofInt 64 x) (BitVec.allOnes 64)
  | .or => xs.foldl (fun acc x => acc ||| BitVec.ofInt 64 x) 0
  | .xor => xs.foldl (fun acc x => acc ^^^ BitVec.ofInt 64 x) 0

/-- minimumNumber or maximumNumber over codes; ±∞ for none (Table 18.9). -/
def redMinMax (isMax : Bool) : List Nat → Nat
  | [] => if isMax then fmtF32.signBit + fmtF32.infBits else fmtF32.infBits
  | [x] => if (fmtF32.decode x).isNan then fmtF32.qnan else x
  | x :: y :: ys => (y :: ys).foldl (fun acc z => (minMaxNum fmtF32 isMax true acc z).1) x

/-- An F32 reduction over codes (R116, R112, R384). -/
def redF32 (op : RedOp) (r : Rnd) (xs : List Nat) : Nat × Flags :=
  let fl : Flags := if xs.any (fun x => (fmtF32.decode x).isSnan) then flInvalid else 0
  match op with
  | .add => addNums fmtF32 r (xs.map fmtF32.decode)
  | .min => (redMinMax false xs, fl)
  | .max => (redMinMax true xs, fl)
  | .and | .or | .xor => (0, 0)

/-- A reduction over the lanes of a set. -/
def redLanes (ty : RedTy) (op : RedOp) (r : Rnd) (sat : Bool) (src : Group) (a : VReg) (lanes : List Nat) : DWord × Flags :=
  match ty with
  | .int t => (redInt t op sat (lanes.map (RedTy.num src t a)), 0)
  | .f32 =>
    let x := redF32 op r (lanes.map (fun j => (src.v a.toNat j).toNat))
    (BitVec.ofNat 64 x.1, x.2)

/-- REDUX (R384): a uniform result, extended by its type. -/
def reduxOp (o : ReduxOp) (src g : Group) (k : Nat) : GRes :=
  let m := src.active k o.g
  let r := redLanes o.ty o.op o.rnd o.sat src o.a m.lanes
  let x : DWord := match o.ty with
    | .int t => uniExtend t r.1
    | .f32 => (r.1.extractLsb' 0 32).setWidth 64
  match o.ty with
  | .int _ => .ok (g.issueLong k o.la .alu [] [.s o.d.toNat x] 0)
  | .f32 => longFp g k o.la m (fun _ => r.2) [] [.s o.d.toNat x]

/-- Results of SCAN and SEGRED with their flags; F32 with an enable set is precise at issue (R114). -/
def redVec (src g : Group) (k : Nat) (gd : Guard) (la : LA) (d : VReg) (ty : RedTy) (f : Nat → DWord × Flags) : GRes :=
  let m := src.active k gd
  match ty with
  | .int _ => .ok (g.issueLong k la .alu (vecDests d.toNat ty.wide m (fun j => (f j).1)) [] 0)
  | .f32 => longFp g k la m (fun j => (f j).2) (vecDests d.toNat ty.wide m (fun j => (f j).1)) []

/-- SCAN (R389). -/
def scanOp (o : ScanOp) (src g : Group) (k : Nat) : GRes :=
  let m := src.active k o.g
  redVec src g k o.g o.la o.d o.ty (fun j =>
    redLanes o.ty o.op o.rnd o.sat src o.a
      (m.lanes.filter (fun i => decide (i < j) || (i == j && !o.excl))))

/-- SEGRED (R390). -/
def segredOp (o : SegredOp) (src g : Group) (k : Nat) : GRes :=
  let m := src.active k o.g
  redVec src g k o.g o.la o.d o.ty (fun i =>
    redLanes o.ty o.op o.rnd o.sat src o.a
      (m.lanes.filter (fun j => src.v o.b.toNat j == src.v o.b.toNat i)))

/-- VOTE (Table 19.8). -/
def voteOp (gd : Guard) (la : LA) (o : VoteOp) (src g : Group) (k : Nat) : GRes :=
  let m := src.active k gd
  let dest : UniDest := match o with
    | .any d a => .q d.toNat ((m &&& src.p a.toNat) != 0)
    | .all d a => .q d.toNat ((m &&& ~~~src.p a.toNat) == 0)
    | .uni d a => .q d.toNat ((m &&& src.p a.toNat) == 0 || (m &&& ~~~src.p a.toNat) == 0)
    | .ballot d a => .s d.toNat ((m &&& src.p a.toNat).setWidth 64)
  .ok (g.issueLong k la .alu [] [dest] 0)

end Sys2Proof.Machine
end

