-- ==== Sys2Proof/Machine/FamLane.lean ====
section
/-! DEFINITION. FamLane.lean: the meanings of the cross-lane, array-register and caliper instructions, one definition per
instruction. -/

namespace Sys2Proof.Machine

open Sys2Proof

/-- AGET (R69, R314). -/
def execAget (gd : Guard) (d : SReg) (a : AReg) (s : State) : Host.Outcome State Fault Refusal := runOk (uniAct gd) (agetOp gd d a) s
/-- AOFF (R69, R314). -/
def execAoff (gd : Guard) (d a : AReg) (b : SReg) (s : State) : Host.Outcome State Fault Refusal :=
  runG (uniAct gd) (aoffOp gd d a b) s
/-- ASET (R69, R314). -/
def execAset (gd : Guard) (d : AReg) (a : SReg) (s : State) : Host.Outcome State Fault Refusal := runG (uniAct gd) (asetOp gd d a) s
/-- BCAST (R320). -/
def execBcast (o : BcastOp) (s : State) : Host.Outcome State Fault Refusal := runG (laneAct o.g) (bcastOp o) s
/-- SHFL (R392). -/
def execShfl (o : ShflOp) (s : State) : Host.Outcome State Fault Refusal := runG (laneAct o.g) (shflOp o) s
/-- CONFLICT (R332). -/
def execConflict (o : ConflictOp) (s : State) : Host.Outcome State Fault Refusal := runG (laneAct o.g) (conflictOp o false) s
/-- CONFLICT.ALL (R332). -/
def execConflictAll (o : ConflictOp) (s : State) : Host.Outcome State Fault Refusal := runG (laneAct o.g) (conflictOp o true) s
/-- REDUX (R384). -/
def execRedux (o : ReduxOp) (s : State) : Host.Outcome State Fault Refusal := runG (laneAct o.g) (reduxOp o) s
/-- SCAN (R389). -/
def execScan (o : ScanOp) (s : State) : Host.Outcome State Fault Refusal := runG (laneAct o.g) (scanOp o) s
/-- SEGRED (R390). -/
def execSegred (o : SegredOp) (s : State) : Host.Outcome State Fault Refusal := runG (laneAct o.g) (segredOp o) s
/-- VOTE (R405). -/
def execVote (gd : Guard) (la : LA) (o : VoteOp) (s : State) : Host.Outcome State Fault Refusal :=
  runG (laneAct gd) (voteOp gd la o) s
/-- CALGET (R67, R329). -/
def execCalget (gd : Guard) (d : SReg) (a : VReg) (s : State) : Host.Outcome State Fault Refusal :=
  runOk (uniAct gd) (calgetOp gd d a) s
/-- CALSET (R67, R329). -/
def execCalset (gd : Guard) (d : VReg) (a : SReg) (s : State) : Host.Outcome State Fault Refusal :=
  runRes (uniAct gd) (calsetRes gd d a (wordOf (.calset gd d a))) s
/-- CALTOP (R67, R329). -/
def execCaltop (gd : Guard) (d : VReg) (s : State) : Host.Outcome State Fault Refusal := runOk (uniAct gd) (caltopOp gd d) s
/-- WIDEN.TRAP (R67, R406). -/
def execWidenTrap (gd : Guard) (d : VReg) (a b : SReg) (s : State) : Host.Outcome State Fault Refusal :=
  runRes (laneAct gd) (widenRes false gd d a b) s
/-- WIDEN.CLAMP (R67, R406). -/
def execWidenClamp (gd : Guard) (d : VReg) (a b : SReg) (s : State) : Host.Outcome State Fault Refusal :=
  runRes (laneAct gd) (widenRes true gd d a b) s

end Sys2Proof.Machine
end

