-- ==== Sys2Proof/Machine/FamMem.lean ====
section
/-! DEFINITION. FamMem.lean: the meanings of the memory, atomic, fence, copy, handle, tag, transaction-barrier, publish and
matrix instructions, one definition per instruction. -/

namespace Sys2Proof.Machine

open Sys2Proof

/-- LD (R355 to R359). -/
def execLd (o : MemV) (s : State) : Host.Outcome State Fault Refusal := runRes (laneAct o.g) (ldRes false o) s
/-- LDU (R355 to R357). -/
def execLdu (o : MemU) (s : State) : Host.Outcome State Fault Refusal := runRes (uniAct o.g) (lduRes o) s
/-- LDP (R355 to R358). -/
def execLdp (o : MemV) (s : State) : Host.Outcome State Fault Refusal := runRes (laneAct o.g) (ldRes true o) s
/-- LDS (R355 to R357). -/
def execLds (o : MemS) (s : State) : Host.Outcome State Fault Refusal := runRes (laneAct o.g) (ldsRes o) s
/-- LDLINES (R73, R360). -/
def execLdlines (o : LdlinesOp) (s : State) : Host.Outcome State Fault Refusal := runRes (uniAct o.g) (ldlinesRes o) s
/-- ST (R396 to R398). -/
def execSt (o : MemV) (s : State) : Host.Outcome State Fault Refusal := runRes (laneAct o.g) (stRes false o) s
/-- STU (R396 to R398). -/
def execStu (o : MemU) (s : State) : Host.Outcome State Fault Refusal := runRes (uniAct o.g) (stuRes o) s
/-- STS (R396, R397). -/
def execSts (o : MemS) (s : State) : Host.Outcome State Fault Refusal := runRes (laneAct o.g) (stsRes o) s
/-- STP (R358, R396 to R398). -/
def execStp (o : MemV) (s : State) : Host.Outcome State Fault Refusal := runRes (laneAct o.g) (stRes true o) s
/-- GSHUF (R348). -/
def execGshuf (o : GshufOp) (s : State) : Host.Outcome State Fault Refusal := runRes (laneAct o.g) (gshufRes o) s
/-- PREF (R379). -/
def execPref (o : PrefOp) (s : State) : Host.Outcome State Fault Refusal := runRes (laneAct o.g) (prefRes o) s
/-- SPILL (R74, R394). -/
def execSpill (o : SpillOp) (s : State) : Host.Outcome State Fault Refusal := runRes (laneAct o.g) (spillRes o) s
/-- FILL (R74, R346). -/
def execFill (o : SpillOp) (s : State) : Host.Outcome State Fault Refusal := runRes (laneAct o.g) (fillRes o) s
/-- ATOM (R316, R317). -/
def execAtom (o : AtomInstr) (s : State) : Host.Outcome State Fault Refusal := runRes (laneAct o.g) (atomRes o) s
/-- RED (R383). -/
def execRed (o : AtomInstr) (s : State) : Host.Outcome State Fault Refusal := runRes (laneAct o.g) (redRes o) s
/-- CAS (R331). -/
def execCas (o : CasOp) (s : State) : Host.Outcome State Fault Refusal := runRes (laneAct o.g) (casRes o) s
/-- FENCE (R230, R345). -/
def execFence (gd : Guard) (ord : Ord) (scope : Scope) (s : State) : Host.Outcome State Fault Refusal :=
  runRes (uniAct gd) (fenceRes gd ord scope) s
/-- FENCE.ENG.REL (R230, R242, R345). -/
def execFenceEngRel (gd : Guard) (scope : Scope) (s : State) : Host.Outcome State Fault Refusal :=
  runRes (uniAct gd) (fenceEngRes gd scope) s
/-- CPA (R179, R180, R333). -/
def execCpa (o : CpaOp) (s : State) : Host.Outcome State Fault Refusal := runRes (laneAct o.g) (cpaRes o) s
/-- CPSEAL (R181, R334). -/
def execCpseal (gd : Guard) (s : State) : Host.Outcome State Fault Refusal := runRes (laneAct gd) (cpsealRes gd) s
/-- CPWAIT (R182, R334). -/
def execCpwait (gd : Guard) (n : BitVec 3) (s : State) : Host.Outcome State Fault Refusal := runRes (laneAct gd) (cpwaitRes gd n) s
/-- KICK (R189, R353). -/
def execKick (gd : Guard) (d : HReg) (a : SReg) (n : BitVec 8) (s : State) : Host.Outcome State Fault Refusal :=
  runRes (uniAct gd) (kickRes gd d a n) s
/-- HWAIT (R350). -/
def execHwait (gd : Guard) (a : HReg) (s : State) : Host.Outcome State Fault Refusal := runRes (uniAct gd) (hwaitRes gd a) s
/-- HTEST (R350). -/
def execHtest (gd : Guard) (d : SReg) (a : HReg) (s : State) : Host.Outcome State Fault Refusal :=
  runRes (uniAct gd) (htestRes gd d a) s
/-- HCANCEL (R194, R350). -/
def execHcancel (gd : Guard) (a : HReg) (s : State) : Host.Outcome State Fault Refusal := runRes (uniAct gd) (hcancelRes gd a) s
/-- TAGFIND (R400). -/
def execTagfind (gd : Guard) (d a : SReg) (s : State) : Host.Outcome State Fault Refusal := runRes (uniAct gd) (tagfindRes gd d a) s
/-- TAGWAIT.ANY (R400). -/
def execTagwaitAny (gd : Guard) (a : SReg) (s : State) : Host.Outcome State Fault Refusal :=
  runRes (uniAct gd) (tagwaitRes false gd a) s
/-- TAGWAIT.ALL (R400). -/
def execTagwaitAll (gd : Guard) (a : SReg) (s : State) : Host.Outcome State Fault Refusal :=
  runRes (uniAct gd) (tagwaitRes true gd a) s
/-- TBINIT (R196, R401). -/
def execTbinit (gd : Guard) (a b : SReg) (s : State) : Host.Outcome State Fault Refusal := runRes (uniAct gd) (tbinitRes gd a b) s
/-- TBARRIVE (R196, R401). -/
def execTbarrive (gd : Guard) (a : SReg) (s : State) : Host.Outcome State Fault Refusal := runRes (uniAct gd) (tbarriveRes gd a) s
/-- TBARRIVE.TX (R196, R401). -/
def execTbarriveTx (gd : Guard) (a b : SReg) (s : State) : Host.Outcome State Fault Refusal :=
  runRes (uniAct gd) (tbarriveTxRes gd a b) s
/-- TBEXPECT (R196, R401). -/
def execTbexpect (gd : Guard) (a b : SReg) (s : State) : Host.Outcome State Fault Refusal := runRes (uniAct gd) (tbexpectRes gd a b) s
/-- TBWAIT (R196, R401). -/
def execTbwait (gd : Guard) (a b : SReg) (s : State) : Host.Outcome State Fault Refusal := runRes (uniAct gd) (tbwaitRes gd a b) s
/-- PUBLISH (R200, R380). -/
def execPublish (gd : Guard) (a : SOrN) (scope : Scope) (s : State) : Host.Outcome State Fault Refusal :=
  runRes (uniAct gd) (publishRes gd a scope) s
/-- MMA (R126 to R135, R365). -/
def execMma (o : MmaOp) (s : State) : Host.Outcome State Fault Refusal := runRes (uniAct o.g) (mmaRes false o (wordOf (.mma o))) s
/-- MMA.Z (R126 to R135, R365). -/
def execMmaZ (o : MmaOp) (s : State) : Host.Outcome State Fault Refusal := runRes (uniAct o.g) (mmaRes true o (wordOf (.mmaZ o))) s
/-- MLD (R364). -/
def execMld (o : MldOp) (s : State) : Host.Outcome State Fault Refusal := runRes (uniAct o.g) (mldRes o (wordOf (.mld o))) s
/-- MST (R368, R369). -/
def execMst (o : MstOp) (s : State) : Host.Outcome State Fault Refusal := runRes (uniAct o.g) (mstRes false o (wordOf (.mst o))) s
/-- MST.SUM (R368, R369). -/
def execMstSum (o : MstOp) (s : State) : Host.Outcome State Fault Refusal := runRes (uniAct o.g) (mstRes true o (wordOf (.mstSum o))) s

end Sys2Proof.Machine
end

