-- ==== Sys2Proof/Machine/Dispatch.lean ====
section
/-! DEFINITION. Dispatch.lean: one arm per row of the opcode table, each one call of that row's meaning. -/

namespace Sys2Proof.Machine

open Sys2Proof

def exec (i : Instr) (s : State) : Host.Outcome State Fault Refusal :=
  match i with
  | .aget g d a => Sys2Proof.Machine.execAget g d a s
  | .aoff g d a b => Sys2Proof.Machine.execAoff g d a b s
  | .aset g d a => Sys2Proof.Machine.execAset g d a s
  | .and o => Sys2Proof.Machine.execAnd o s
  | .or o => Sys2Proof.Machine.execOr o s
  | .xor o => Sys2Proof.Machine.execXor o s
  | .andn o => Sys2Proof.Machine.execAndn o s
  | .not o => Sys2Proof.Machine.execNot o s
  | .atom o => Sys2Proof.Machine.execAtom o s
  | .bar g k => Sys2Proof.Machine.execBar g k s
  | .bararr g d k => Sys2Proof.Machine.execBararr g d k s
  | .barwait g k b => Sys2Proof.Machine.execBarwait g k b s
  | .bcast o => Sys2Proof.Machine.execBcast o s
  | .bfi o => Sys2Proof.Machine.execBfi o s
  | .bfx o => Sys2Proof.Machine.execBfx o s
  | .bkpt g code => Sys2Proof.Machine.execBkpt g code s
  | .bra g disp => Sys2Proof.Machine.execBra g disp s
  | .brc g cond a b disp => Sys2Proof.Machine.execBrc g cond a b disp s
  | .breakl g => Sys2Proof.Machine.execBreakl g s
  | .brev o => Sys2Proof.Machine.execBrev o s
  | .clz o => Sys2Proof.Machine.execClz o s
  | .brx g o => Sys2Proof.Machine.execBrx g o s
  | .calget g d a => Sys2Proof.Machine.execCalget g d a s
  | .calset g d a => Sys2Proof.Machine.execCalset g d a s
  | .caltop g d => Sys2Proof.Machine.execCaltop g d s
  | .call g o => Sys2Proof.Machine.execCall g o s
  | .cas o => Sys2Proof.Machine.execCas o s
  | .conflict o => Sys2Proof.Machine.execConflict o s
  | .conflictAll o => Sys2Proof.Machine.execConflictAll o s
  | .cpa o => Sys2Proof.Machine.execCpa o s
  | .cpseal g => Sys2Proof.Machine.execCpseal g s
  | .cpwait g n => Sys2Proof.Machine.execCpwait g n s
  | .cvt o => Sys2Proof.Machine.execCvt o s
  | .cvtn o => Sys2Proof.Machine.execCvtn o s
  | .cvtw o => Sys2Proof.Machine.execCvtw o s
  | .exit g => Sys2Proof.Machine.execExit g s
  | .fadd o => Sys2Proof.Machine.execFadd o s
  | .fsub o => Sys2Proof.Machine.execFsub o s
  | .fmul o => Sys2Proof.Machine.execFmul o s
  | .ffma o => Sys2Proof.Machine.execFfma o s
  | .fmin o => Sys2Proof.Machine.execFmin o s
  | .fmax o => Sys2Proof.Machine.execFmax o s
  | .fclass o => Sys2Proof.Machine.execFclass o s
  | .fcmp o => Sys2Proof.Machine.execFcmp o s
  | .frcp o => Sys2Proof.Machine.execFrcp o s
  | .frsq o => Sys2Proof.Machine.execFrsq o s
  | .fsqrt o => Sys2Proof.Machine.execFsqrt o s
  | .fexp2 o => Sys2Proof.Machine.execFexp2 o s
  | .flog2 o => Sys2Proof.Machine.execFlog2 o s
  | .fsin o => Sys2Proof.Machine.execFsin o s
  | .fcos o => Sys2Proof.Machine.execFcos o s
  | .ftanh o => Sys2Proof.Machine.execFtanh o s
  | .fence g ord scope => Sys2Proof.Machine.execFence g ord scope s
  | .fenceEngRel g scope => Sys2Proof.Machine.execFenceEngRel g scope s
  | .fill o => Sys2Proof.Machine.execFill o s
  | .fsopen g a => Sys2Proof.Machine.execFsopen g a s
  | .fsclose g a => Sys2Proof.Machine.execFsclose g a s
  | .fswait g a => Sys2Proof.Machine.execFswait g a s
  | .gshuf o => Sys2Proof.Machine.execGshuf o s
  | .gtimer g a => Sys2Proof.Machine.execGtimer g a s
  | .gtimerGet g d => Sys2Proof.Machine.execGtimerGet g d s
  | .hwait g a => Sys2Proof.Machine.execHwait g a s
  | .htest g d a => Sys2Proof.Machine.execHtest g d a s
  | .hcancel g a => Sys2Proof.Machine.execHcancel g a s
  | .iadd o => Sys2Proof.Machine.execIadd o s
  | .isub o => Sys2Proof.Machine.execIsub o s
  | .imul o => Sys2Proof.Machine.execImul o s
  | .imulh o => Sys2Proof.Machine.execImulh o s
  | .imad o => Sys2Proof.Machine.execImad o s
  | .imin o => Sys2Proof.Machine.execImin o s
  | .imax o => Sys2Proof.Machine.execImax o s
  | .iabs o => Sys2Proof.Machine.execIabs o s
  | .ineg o => Sys2Proof.Machine.execIneg o s
  | .icmp o => Sys2Proof.Machine.execIcmp o s
  | .kick g d a n => Sys2Proof.Machine.execKick g d a n s
  | .launch g a b n => Sys2Proof.Machine.execLaunch g a b n s
  | .ld o => Sys2Proof.Machine.execLd o s
  | .ldu o => Sys2Proof.Machine.execLdu o s
  | .ldp o => Sys2Proof.Machine.execLdp o s
  | .lds o => Sys2Proof.Machine.execLds o s
  | .ldlines o => Sys2Proof.Machine.execLdlines o s
  | .lea o => Sys2Proof.Machine.execLea o s
  | .loop a disp => Sys2Proof.Machine.execLoop a disp s
  | .loopEnd => Sys2Proof.Machine.execLoopEnd s
  | .merid g d => Sys2Proof.Machine.execMerid g d s
  | .meridDev g d => Sys2Proof.Machine.execMeridDev g d s
  | .mld o => Sys2Proof.Machine.execMld o s
  | .mma o => Sys2Proof.Machine.execMma o s
  | .mmaZ o => Sys2Proof.Machine.execMmaZ o s
  | .mov g o => Sys2Proof.Machine.execMov g o s
  | .movi g d imm => Sys2Proof.Machine.execMovi g d imm s
  | .moviHi g d imm => Sys2Proof.Machine.execMoviHi g d imm s
  | .mst o => Sys2Proof.Machine.execMst o s
  | .mstSum o => Sys2Proof.Machine.execMstSum o s
  | .nop g => Sys2Proof.Machine.execNop g s
  | .pack o => Sys2Proof.Machine.execPack o s
  | .park g => Sys2Proof.Machine.execPark g s
  | .patload g a bank => Sys2Proof.Machine.execPatload g a bank s
  | .plop g uni d o => Sys2Proof.Machine.execPlop g uni d o s
  | .popc o => Sys2Proof.Machine.execPopc o s
  | .post g a b => Sys2Proof.Machine.execPost g a b s
  | .postq g d a b => Sys2Proof.Machine.execPostq g d a b s
  | .pref o => Sys2Proof.Machine.execPref o s
  | .publish g a scope => Sys2Proof.Machine.execPublish g a scope s
  | .qscale o => Sys2Proof.Machine.execQscale o s
  | .reconv => Sys2Proof.Machine.execReconv s
  | .red o => Sys2Proof.Machine.execRed o s
  | .redux o => Sys2Proof.Machine.execRedux o s
  | .regroup la k p => Sys2Proof.Machine.execRegroup la k p s
  | .ret g => Sys2Proof.Machine.execRet g s
  | .rte => Sys2Proof.Machine.execRte s
  | .rteNext => Sys2Proof.Machine.execRteNext s
  | .scan o => Sys2Proof.Machine.execScan o s
  | .segred o => Sys2Proof.Machine.execSegred o s
  | .sel o => Sys2Proof.Machine.execSel o s
  | .shfl o => Sys2Proof.Machine.execShfl o s
  | .shl o => Sys2Proof.Machine.execShl o s
  | .shr o => Sys2Proof.Machine.execShr o s
  | .shra o => Sys2Proof.Machine.execShra o s
  | .spill o => Sys2Proof.Machine.execSpill o s
  | .srd g o => Sys2Proof.Machine.execSrd g o s
  | .st o => Sys2Proof.Machine.execSt o s
  | .stu o => Sys2Proof.Machine.execStu o s
  | .sts o => Sys2Proof.Machine.execSts o s
  | .stp o => Sys2Proof.Machine.execStp o s
  | .swr g reg a => Sys2Proof.Machine.execSwr g reg a s
  | .tagfind g d a => Sys2Proof.Machine.execTagfind g d a s
  | .tagwaitAny g a => Sys2Proof.Machine.execTagwaitAny g a s
  | .tagwaitAll g a => Sys2Proof.Machine.execTagwaitAll g a s
  | .tbinit g a b => Sys2Proof.Machine.execTbinit g a b s
  | .tbarrive g a => Sys2Proof.Machine.execTbarrive g a s
  | .tbarriveTx g a b => Sys2Proof.Machine.execTbarriveTx g a b s
  | .tbexpect g a b => Sys2Proof.Machine.execTbexpect g a b s
  | .tbwait g a b => Sys2Proof.Machine.execTbwait g a b s
  | .tracemark g a => Sys2Proof.Machine.execTracemark g a s
  | .trap g code => Sys2Proof.Machine.execTrap g code s
  | .unpack o => Sys2Proof.Machine.execUnpack o s
  | .vote g la o => Sys2Proof.Machine.execVote g la o s
  | .widenTrap g d a b => Sys2Proof.Machine.execWidenTrap g d a b s
  | .widenClamp g d a b => Sys2Proof.Machine.execWidenClamp g d a b s
  | .yield => Sys2Proof.Machine.execYield s
  | .clauseStart r => Sys2Proof.Machine.execClauseStart r s
  | .longLatencyCompletion r n => Sys2Proof.Machine.execLongLatencyCompletion r n s
  | .loadCompletion r n => Sys2Proof.Machine.execLoadCompletion r n s
  | .matrixCompletion r n => Sys2Proof.Machine.execMatrixCompletion r n s
  | .storeQueueDrain r => Sys2Proof.Machine.execStoreQueueDrain r s
  | .messageArrival slot idx => Sys2Proof.Machine.execMessageArrival slot idx s
  | .bankCycle slot bank => Sys2Proof.Machine.execBankCycle slot bank s
  | .gangRecordTake slot recNum => Sys2Proof.Machine.execGangRecordTake slot recNum s
  | .instancePlacement slot recNum => Sys2Proof.Machine.execInstancePlacement slot recNum s
  | .queueHeadStarvation slot recNum => Sys2Proof.Machine.execQueueHeadStarvation slot recNum s
  | .bindRecordDispatch slot => Sys2Proof.Machine.execBindRecordDispatch slot s
  | .issueAgeBoost r => Sys2Proof.Machine.execIssueAgeBoost r s
  | .instanceRetirement slot recNum inst => Sys2Proof.Machine.execInstanceRetirement slot recNum inst s
  | .cpaCopyCompletion slot lcid n => Sys2Proof.Machine.execCpaCopyCompletion slot lcid n s
  | .recordStart slot lcid entry idx => Sys2Proof.Machine.execRecordStart slot lcid entry idx s
  | .recordCompletion slot lcid entry idx => Sys2Proof.Machine.execRecordCompletion slot lcid entry idx s
  | .recordFailure r => Sys2Proof.Machine.execRecordFailure r s
  | .publishFlip slot idx => Sys2Proof.Machine.execPublishFlip slot idx s
  | .timerExpiry r => Sys2Proof.Machine.execTimerExpiry r s
  | .haltPropagation r => Sys2Proof.Machine.execHaltPropagation r s
  | .haltrel die slot seq => Sys2Proof.Machine.execHaltrel die slot seq s
  | .sliceEnd die => Sys2Proof.Machine.execSliceEnd die s
  | .switchOut slot lcid => Sys2Proof.Machine.execSwitchOut slot lcid s
  | .switchIn slot lcid => Sys2Proof.Machine.execSwitchIn slot lcid s
  | .preemption slot recNum => Sys2Proof.Machine.execPreemption slot recNum s
  | .fqrespReplay die index => Sys2Proof.Machine.execFqrespReplay die index s
  | .fqrespFail die index => Sys2Proof.Machine.execFqrespFail die index s
  | .xlinvCommand die npages ctx => Sys2Proof.Machine.execXlinvCommand die npages ctx s
  | .xlinvCompletion die => Sys2Proof.Machine.execXlinvCompletion die s
  | .compressFrame die j arg => Sys2Proof.Machine.execCompressFrame die j arg s
  | .freeRecord die j arg => Sys2Proof.Machine.execFreeRecord die j arg s
  | .tierCommandCompletion die j => Sys2Proof.Machine.execTierCommandCompletion die j s
  | .framePush die j frame => Sys2Proof.Machine.execFramePush die j frame s
  | .tierRegionWrite die j value => Sys2Proof.Machine.execTierRegionWrite die j value s
  | .backgroundPull die idx unit => Sys2Proof.Machine.execBackgroundPull die idx unit s
  | .pageMoveStart slot vpage stack => Sys2Proof.Machine.execPageMoveStart slot vpage stack s
  | .pageMoveCompletion die idx => Sys2Proof.Machine.execPageMoveCompletion die idx s
  | .placementPolicyPass die => Sys2Proof.Machine.execPlacementPolicyPass die s
  | .pinCountHalving die => Sys2Proof.Machine.execPinCountHalving die s
  | .l2cfgWrite die value => Sys2Proof.Machine.execL2cfgWrite die value s
  | .unpin die => Sys2Proof.Machine.execUnpin die s
  | .mailboxWrite off bytes => Sys2Proof.Machine.execMailboxWrite off bytes s
  | .hostBar4Access off n data => Sys2Proof.Machine.execHostBar4Access off n data s
  | .ringusFlitArrival port rank f => Sys2Proof.Machine.execRingusFlitArrival port rank f s
  | .drainRequestArrival port rank => Sys2Proof.Machine.execDrainRequestArrival port rank s
  | .drainMarkerArrival port slot => Sys2Proof.Machine.execDrainMarkerArrival port slot s
  | .drainTimeout port slot => Sys2Proof.Machine.execDrainTimeout port slot s
  | .resumeMarkerArrival port rank => Sys2Proof.Machine.execResumeMarkerArrival port rank s
  | .meridianSync tick => Sys2Proof.Machine.execMeridianSync tick s
  | .parkRequest die slot => Sys2Proof.Machine.execParkRequest die slot s
  | .parkCapture slot => Sys2Proof.Machine.execParkCapture slot s
  | .resumeRequest die slot => Sys2Proof.Machine.execResumeRequest die slot s
  | .contextCreate => Sys2Proof.Machine.execContextCreate s
  | .contextDestroy slot => Sys2Proof.Machine.execContextDestroy slot s
  | .deviceReset => Sys2Proof.Machine.execDeviceReset s
  | .functionReady bit => Sys2Proof.Machine.execFunctionReady bit s
  | .attestationRequest => Sys2Proof.Machine.execAttestationRequest s
  | .clockStep step => Sys2Proof.Machine.execClockStep step s
  | .thermalLimit => Sys2Proof.Machine.execThermalLimit s
  | .thermalShutdown => Sys2Proof.Machine.execThermalShutdown s
  | .freezeArm => Sys2Proof.Machine.execFreezeArm s
  | .freeze => Sys2Proof.Machine.execFreeze s
  | .debugStop die slot => Sys2Proof.Machine.execDebugStop die slot s
  | .debugResume die slot => Sys2Proof.Machine.execDebugResume die slot s
  | .contextHalt die slot => Sys2Proof.Machine.execContextHalt die slot s
  | .traceSync die slot => Sys2Proof.Machine.execTraceSync die slot s
  | .elogClear die => Sys2Proof.Machine.execElogClear die s
  | .eventCountRead die code requester => Sys2Proof.Machine.execEventCountRead die code requester s
  | .topdownTotalRead die core set requester => Sys2Proof.Machine.execTopdownTotalRead die core set requester s
  | .faultRingConfigWrite die slot value => Sys2Proof.Machine.execFaultRingConfigWrite die slot value s
  | .registerWrite off value => Sys2Proof.Machine.execRegisterWrite off value s
  | .linkPortDown port => Sys2Proof.Machine.execLinkPortDown port s
  | .resumeEnd die slot => Sys2Proof.Machine.execResumeEnd die slot s
  | .contextCommandEnd => Sys2Proof.Machine.execContextCommandEnd s
  | .attestationReportEnd => Sys2Proof.Machine.execAttestationReportEnd s
  | .debugStopPropagation r => Sys2Proof.Machine.execDebugStopPropagation r s
  | .flitRetry die ringus => Sys2Proof.Machine.execFlitRetry die ringus s
  | .scrub pa => Sys2Proof.Machine.execScrub pa s

end Sys2Proof.Machine
end

