-- ==== Sys2Proof/Machine/Turns.lean ====
section
/-! DEFINITION. Turns.lean: a core cycle and a meridian tick (01 R21, R22, 12 R268, 15 R310), the turns that the device can take of
itself, and what one turn does. The order in which agents take their turns is free (DESIGN CHOICE, log 4 and 6). -/

namespace Sys2Proof.Machine

open Sys2Proof

/-! ## The slot tree (Table 15.6a) -/

/-- The leaf of a wait. DEDUCED (log 9). -/
def waitLeaf : Wait → Nat
  | .handle _ _ => 13
  | .barrier _ _ => 11
  | .tag _ _ => 12
  | .port _ _ => 10
  | .batch _ _ _ => 13
  | .reconv _ _ => 11
  | .cohort _ _ => 11
  | .scope _ => 10
  | .regroup _ _ => 11
  | .fault _ _ _ => 9
  | .handler => 8
  | .answer => 10
  | .kick => 13
  | .park => 3

/-- The leaf of a READY split whose header conditions are unmet: loads and stores before the rest. -/
def State.unmetLeaf (s : State) (r : SplitRef) (g : Group) : Nat :=
  match s.hdrPeek r.slot (g.split r.k).pc with
  | none => 14
  | some h =>
    let w := hdrWaitcls h
    let loads := g.inflight.any (fun p => p.split == r.k && p.kind == .load && !(p.vecs.isEmpty && p.unis.isEmpty))
    if (w.getLsbD 0 && loads) || (w.getLsbD 1 && !g.storeQ.isEmpty) then 9 else 13

/-- The leaf of a split inside a clause that did not issue: the lookahead wait, or another bounded wait. -/
def State.clauseLeaf (s : State) (r : SplitRef) (g : Group) : Nat :=
  let sp := g.split r.k
  match sp.clause, s.hdrPeek r.slot (pcWord sp.pc) with
  | some c, some w =>
    (match wordInstr g c (pcPos sp.pc) w with
     | some i => (g.hazard r.k i).getD 8
     | none => 8)
  | _, _ => 8

/-- A split of a quadrant that stands in WAIT or with unmet conditions: from when, its place, and the leaf it gives. -/
structure Standing where
  since : Nat
  gh    : Nat
  k     : Nat
  leaf  : Nat
deriving DecidableEq, Repr

def State.standings (s : State) (gs : List (GroupRef × Group)) : List Standing :=
  gs.flatMap (fun x => x.2.usedSplits.filterMap (fun k =>
    match (x.2.split k).since with
    | none => none
    | some t =>
      match (x.2.split k).st with
      | .wait w => some ⟨t, x.1.gh, k, waitLeaf w⟩
      | .ready => some ⟨t, x.1.gh, k, s.unmetLeaf ⟨x.1.slot, x.1.lcid, x.1.gh, k⟩ x.2⟩
      | .free | .issuing | .halted => none))

/-- The one that has stood longest; ties go to the lowest GH and then the lowest entry. -/
def longest : List Standing → Option Standing
  | [] => none
  | x :: xs =>
    match longest xs with
    | none => some x
    | some y => if keyLess [y.since, y.gh, y.k] [x.since, x.gh, x.k] then some y else some x

def Group.live (g : Group) : Bool := g.usedSplits.any (fun k => (g.split k).st != .halted)

/-- The leaf of a quadrant that holds a logical core and issued nothing. -/
def State.quadLeaf (s : State) (slot lcid quad : Nat) (c : Context) : Nat :=
  let here := c.groups.filter (fun x => x.1.lcid == lcid && !x.2.ctl.retired)
  let mine := here.filter (fun x => x.2.ctl.quad == quad && x.2.live)
  if c.park != .none || c.destroying then 3
  else if c.debugging then 4
  else if !here.isEmpty && !here.any (fun x => x.2.live) then 5
  else if mine.isEmpty then 6
  else match mine.findSome? (fun x => (x.2.usedSplits.find? (fun k => (x.2.split k).st == .issuing)).map (fun k => (x, k))) with
    | some (x, k) => s.clauseLeaf ⟨slot, lcid, x.1.gh, k⟩ x.2
    | none =>
      match longest (s.standings mine) with
      | some y => y.leaf
      | none => 14

/-- The leaf in which this cycle's slot of a quadrant counts. -/
def State.leafOf (s : State) (c : Core) (q : Nat) : Nat :=
  let x := regGet ⟨none, 0⟩ c.quads q
  match x.taken with
  | some n => n
  | none =>
    if 0 < x.insert then 0
    else match c.holds with
      | none => 6
      | some p => (match s.ctx p.1 with
        | some ctx => s.quadLeaf p.1 p.2 q ctx
        | none => 6)

def countLeaves (ls : List Nat) (l : List DWord) : List DWord := ls.foldl (fun acc n => regMod acc n (fun x => x + 1)) l

/-- The next cycle's slot: free again, or still owed to a check (R70). -/
def Quad.nextCycle (q : Quad) : Quad := if q.taken.isSome then { q with taken := none } else { q with insert := q.insert - 1 }

/-- Count the four slots of a working core. -/
def State.countCore (s : State) (d i : Nat) : State :=
  let c := (s.die d).core i
  let ls := (List.range 4).map (s.leafOf c)
  let s1 := s.modCore d i (fun c => { c with leaves := countLeaves ls c.leaves, quads := c.quads.map Quad.nextCycle })
  match c.holds with
  | some p => s1.modLc p.1 p.2 (fun l => { l with leaves := countLeaves ls l.leaves })
  | none => s1

/-! ## A core cycle -/

/-- A cycle of a skid. -/
def skidCycle (x : Option (Nat × Nat)) : Option (Nat × Nat) := x.map (fun y => (y.1 - 1, y.2))

def Split.cycle (sp : Split) : Split :=
  { sp with skid := skidCycle sp.skid, dskid := skidCycle sp.dskid, skidCyc := if sp.skid.isSome then sp.skidCyc + 1 else sp.skidCyc }

/-- A group's deadline falls by one; at zero its TIMER is due (R268). -/
def Group.timerCycle (g : Group) : Group :=
  if g.trap.gtimer = 0 then g
  else { g with trap := { g.trap with gtimer := g.trap.gtimer - 1, tdue := g.trap.tdue || g.trap.gtimer == 1 } }

/-- A core cycle of a context: CTXCLK (R55, R290), deadlines and skids; they run until the capture of a park, and stand still in a debug
stop (R303). Every port may then take its next message (R19). -/
def Context.cycle (now : Nat) (c : Context) : Context :=
  let on := c.park != .captured && !c.debugging
  Context.portCycle (now := now) { c with
    met := []
    ctxclk := if on && c.lcs.any (fun l => l.placed.isSome) then c.ctxclk + 1 else c.ctxclk
    groups := c.groups.map (fun x =>
      let g := { x.2 with splits := x.2.splits.map Split.cycle }
      (x.1, if on && (c.lc x.1.lcid).placed.isSome && !g.ctl.retired && g.ctl.eligible && g.live then g.timerCycle else g)) }

def State.coreCycle (s : State) : State :=
  let s1 := (List.range 8).foldl (fun acc d => (List.range s.coreCount).foldl (fun a i => a.countCore d i) acc) s
  let s2 : State := { s1 with cycles := s1.cycles + 1, ctxs := s1.ctxs.map (fun c => c.map (Context.cycle s1.cycles)) }
  (List.range 8).foldl State.bankTicks s2

/-- Tenths of a core cycle in a meridian tick at a clock step: 2.5, 2.25, 2.0, 1.75, 1.5 and 1.25 GHz (R21, R22, R298). -/
def stepTenths (step : Nat) : Nat := 10 - min step 5

/-- One meridian tick, with the core cycle that ends in it. DESIGN CHOICE (log 36). -/
def State.tick (s : State) : State :=
  let s1 := if s.clocked then s.traceFlushAll else s
  let s2 : State := { s1 with meridian := s1.meridian + 1 }
  if !s.clocked then s2
  else
    let acc := s.cycleAcc + stepTenths s.pkg.pstep
    if 10 ≤ acc then State.coreCycle { s2 with cycleAcc := acc - 10 } else { s2 with cycleAcc := acc }

/-! ## Turns the device can take of itself -/

/-- The contexts of the device with their slots. -/
def State.contexts (s : State) : List (Nat × Context) :=
  (List.range 8).filterMap (fun slot => (s.ctx slot).map (fun c => (slot, c)))

/-- Core cycles within which a READY split of the highest class issues (R52). -/
def promiseCycles : Nat := 2048

/-- The splits that quadrants choose, READY for as long as R52 promises, whose clause can start now. -/
def State.promised (s : State) (slot : Nat) (c : Context) : List SplitRef :=
  (List.range c.lcs.length).flatMap (fun l => (List.range 4).filterMap (fun q =>
    (s.chosen slot l q).filter (fun r => match s.split? r with
      | some sp => (match sp.age with
        | some a => decide (a + promiseCycles ≤ s.cycles) && (s.startClause r).split? r != some sp
        | none => false)
      | none => false)))

/-- What must happen before the next tick: everything that the spec dates. -/
def Context.dueTurns (s : State) (slot : Nat) (c : Context) : List Instr :=
  c.groups.flatMap (fun x =>
    (if x.2.trap.tdue then [.timerExpiry x.1] else []) ++
    x.2.usedSplits.flatMap (fun k =>
      let r : SplitRef := ⟨slot, x.1.lcid, x.1.gh, k⟩
      let sp := x.2.split k
      (if skidLate sp.skid && sp.st != .halted then [.haltPropagation r] else []) ++
      (if skidLate sp.dskid then [.debugStopPropagation r] else []) ++
      (match sp.age with
       | some a => if sp.st == .ready && !sp.boosted && decide (a + boostCycles ≤ s.cycles) then [.issueAgeBoost r] else []
       | none => []))) ++
  c.records.flatMap (fun r => match r.headAt with
    | some t => if r.queued && !r.starving && c.isHead r && decide (t + starveTicks ≤ s.tickNow) then [.queueHeadStarvation slot r.num] else []
    | none => []) ++
  (s.promised slot c).map Instr.clauseStart ++
  (if s.drainLate c then c.drains.map (fun p => .drainTimeout p slot) else [])

def State.dieDue (s : State) (d : Nat) : List Instr :=
  (if s.dueAt (s.die d).passTick then [.placementPolicyPass d] else []) ++
  (if s.dueAt (s.die d).halveTick then [.pinCountHalving d] else []) ++
  (if s.sliceDue d && !s.dieHalting d then [.sliceEnd d] else []) ++
  ((List.range 8).filter (fun slot => s.syncDue d slot)).map (fun slot => .traceSync d slot)

def State.dueTurns (s : State) : List Instr :=
  if s.freezeDue then [.freeze]
  else if !s.clocked then []
  else (s.capStep.map Instr.clockStep).toList ++ (List.range 8).flatMap s.dieDue ++ s.contexts.flatMap (fun x => x.2.dueTurns s x.1)

/-- Turns of the splits and groups of a context. -/
def Context.groupTurns (s : State) (slot : Nat) (c : Context) : List Turn :=
  (List.range c.lcs.length).flatMap (fun l => (List.range 4).filterMap (fun q =>
    (s.chosen slot l q).map (fun r => Turn.event (.clauseStart r)))) ++
  c.groups.flatMap (fun x =>
    x.2.inflight.map (fun p => Turn.event (match p.kind with
      | .alu => .longLatencyCompletion x.1 p.id
      | .load => .loadCompletion x.1 p.id
      | .matrix => .matrixCompletion x.1 p.id)) ++
    (if x.2.storeQ.isEmpty then [] else [.event (.storeQueueDrain x.1)]) ++
    x.2.usedSplits.flatMap (fun k =>
      let r : SplitRef := ⟨slot, x.1.lcid, x.1.gh, k⟩
      let sp := x.2.split k
      (if sp.st == .issuing && (s.groupRuns x.1 x.2 || s.inRemote r) && sp.unstopped && s.slotFree x.1 x.2 then [.issue r] else []) ++
      (if sp.skid.isSome && sp.st != .halted then [.event (.haltPropagation r)] else []) ++
      (if sp.dskid.isSome then [.event (.debugStopPropagation r)] else [])))

/-- Turns of the engines of a context. -/
def Context.engineTurns (s : State) (slot : Nat) (c : Context) : List Turn :=
  c.lcs.zipIdx.flatMap (fun y =>
    let l := y.1
    let n := y.2
    ((l.cpas.flatMap (fun x =>
      if x.fail.isSome then [Instr.recordFailure (.cpa slot n x.num)]
      else if x.faulted || x.failed then [] else [.cpaCopyCompletion slot n x.num])).filter (fun i => !c.dbg.has i)).map Turn.event ++
    (match l.nextStart with
     | some x => if s.engineStarts slot n then [.event (.recordStart slot n x.entry x.idx)] else []
     | none => []) ++
    ((l.engine.flatMap (fun x =>
      if x.fail.isSome then [Instr.recordFailure (.record slot n x.entry x.idx)]
      else if x.ready then [.recordCompletion slot n x.entry x.idx] else [])).filter (fun i => !c.dbg.has i)).map Turn.event ++
    (l.engine.filter (fun x => x.started && !x.faulted && x.fail.isNone && !x.ready)).map (fun x => .chunk slot n x.entry x.idx) ++
    (l.cpas.filter (fun x => !x.faulted && !x.failed && x.fail.isNone && !c.dbg.has (.cpaCopyCompletion slot n x.num))).flatMap (fun x =>
      (x.allUnits.filter (fun u => !x.units.contains u)).map (fun u => .copyUnit slot n x.num u)) ++
    (List.range l.outbound.length).map (fun i => .perform slot n i))

/-- Turns of a context's banks, gang records and instances. -/
def Context.joinTurns (s : State) (slot : Nat) (c : Context) : List Turn :=
  ((List.range c.transit.length).filter c.mayArrive).map (fun i => .event (.messageArrival slot i)) ++
  (if s.joinRuns c then
    ((List.range c.banks.length).filter (fun n => (c.bank n).idle &&
      (!(s.readyPatterns slot n (c.bank n)).isEmpty || (c.bank n).owed.any (fun w => w != 0)))).map (fun n => .event (.bankCycle slot n))
   else []) ++
  (s.recordReads slot c).map (fun r => .event (.gangRecordTake slot r.num)) ++
  (match s.serves slot c with
   | some r => if r.desc.isSome then [.event (.instancePlacement slot r.num)] else []
   | none => []) ++
  (match c.binds with
   | b :: _ => if s.bindFirst c b then [.event (.bindRecordDispatch slot)] else []
   | [] => []) ++
  ((c.insts.filter (fun i => c.instQuiet i && (heldSeq i.halt).isNone)).map (fun i => Instr.instanceRetirement slot i.recNum i.inst)).filterMap
    (fun i => if c.dbg.has i then none else some (.event i)) ++
  (List.range c.flips.length).map (fun i => .event (.publishFlip slot i)) ++
  ((c.records.map (fun r => r.num)).filter (s.preemptible slot)).map (fun n => .event (.preemption slot n))

/-- Turns of a context that parks or is restored. -/
def Context.parkTurns (slot : Nat) (c : Context) : List Turn :=
  match c.park with
  | .none => []
  | .stopping => [.drain slot]
  | .draining => [.event (.parkCapture slot)]
  | .captured => (List.range 8).map (fun k => .event (.resumeEnd c.joinDie k))

/-- Turns of a die's firmware and units. -/
def State.dieTurns (s : State) (d : Nat) : List Turn :=
  let x := s.die d
  (if x.xlRun.isSome then [.event (.xlinvCompletion d)] else []) ++
  ((List.range 2).filter (fun j => (regGet Tier.reset x.tiers j).run.isSome)).map (fun j => .event (.tierCommandCompletion d j)) ++
  x.moves.zipIdx.map (fun m =>
    match (List.range m.1.units).find? (fun u => !m.1.pulled.contains u) with
    | some u => .event (.backgroundPull d m.2 u)
    | none => .event (.pageMoveCompletion d m.2))

/-- Functions that come up by themselves after a reset (R294); a link needs its peer, and MSYNC the meridian source. -/
def State.upTurns (s : State) : List Turn :=
  ((List.range 24 ++ [rdyAttest]).filter (fun n => !s.readyBit n && s.mayRise n)).map (fun n => .event (.functionReady n))

/-- Every turn that the device can take now. -/
def State.turns (s : State) : List Turn :=
  let due := s.dueTurns
  if s.freezeDue then due.map Turn.event
  else
    (if due.isEmpty then [.tick] else due.map Turn.event) ++ s.upTurns ++
    (if s.pkg.attBusy then [.event .attestationReportEnd] else []) ++
    (if !s.clocked then []
     else
      s.fasterSteps.map (fun k => .event (.clockStep k)) ++
      (if s.pkg.cmdRun.isSome then [.event .contextCommandEnd] else []) ++
      (List.range 8).flatMap s.dieTurns ++
      (match s.nextIn with
       | some x => [.event (.switchIn x.1 x.2)]
       | none => []) ++
      (match s.nextOut with
       | some x => [.event (.switchOut x.1 x.2)]
       | none => []) ++
      s.contexts.flatMap (fun x =>
        x.2.groupTurns s x.1 ++ x.2.engineTurns s x.1 ++ x.2.joinTurns s x.1 ++ x.2.parkTurns x.1))

/-! ## One turn -/

/-- A context halt has spread (R306). -/
def Context.haltDone (c : Context) : Context := if c.halting && !c.haltSpreads then { c with halting := false } else c

/-- A context after a turn: heads of its queues are noted, KICKs of halted instances are not started, a debug stop or a context halt that
has reached every split is complete (R247, R270, R303, R306). -/
def Context.afterTurn (cycles tick : Nat) (c : Context) : Context :=
  ((c.standing cycles).markHeads tick).haltKicks.settleStop.haltDone

/-- The HALT records that are due in this cycle on a die, by the channels of their cores. -/
def State.haltsDue (s : State) (d : Nat) : List Nat :=
  s.dueTurns.filterMap (fun i => match i with
    | .haltPropagation r => if s.dieOf r.slot r.lcid = d then some (s.lcChan r.slot r.lcid) else none
    | _ => none)

/-- Event 0x09 of a fault record that a full ring has lost, on the record's die, under a free channel: not below those of the turn so far, nor
above that of a HALT record that is still due in this cycle (log 36). -/
def State.logLost (s : State) (x : Nat × Nat) : State :=
  let (dr, s1) := s.draw
  let lo := min (s.lastChan x.1) 108
  let hi := ((s.haltsDue x.1).filter (fun c => decide (lo ≤ c))).foldl min 108
  s1.logEvent x.1 (lo + Config.lostChan dr % (hi + 1 - lo)) 9 0 0 x.2 0

/-- A turn ends: its requests to peers leave, waits that are over end, and the records that it has lost are logged. DEDUCED (log 39). -/
def State.turnEnd (s : State) : State :=
  let s1 := s.sendAsks.wakeAll.tryResumes
  (sortBy (fun x => x.1) s1.req.lost).foldl State.logLost s1

/-- A numbered event of the cycle on a die: the last of its channels. -/
def Die.sawEvent (now key : Nat) (d : Die) : Die :=
  { d with evCycle := now, evChan := if d.evCycle = now then max d.evChan key else key }

/-! ## What a turn does to cohorts (R46) -/

/-- The cohorts of a context, each with its record, instance and number. -/
def Context.cohortList (c : Context) : List (List Nat × Cohort) :=
  c.insts.flatMap (fun i => i.cohorts.zipIdx.map (fun x => ([i.recNum, i.inst, x.2], x.1)))

/-- The cohorts of a context before and after a turn. -/
def cohortMoves (old new : Context) : List (List Nat × Cohort × Cohort) :=
  new.cohortList.filterMap (fun x => (old.cohortList.find? (fun y => y.1 == x.1)).map (fun y => (x.1, y.2, x.2)))

/-- A turn has deducted lanes from a cohort, has completed a phase of it, has brought it arrivals. -/
def Cohort.deducted (old new : Cohort) : Bool := decide (new.live < old.live)
def Cohort.completed (old new : Cohort) : Bool := new.phase != old.phase
def Cohort.came (old new : Cohort) : Bool := !old.deducted new && (old.completed new || decide (old.arrived < new.arrived))

/-- What a turn leaves to know of the cohorts for the rest of its core cycle. -/
def Context.meets (old new : Context) : Context :=
  { new with met := (new.met ++ (cohortMoves old new).flatMap (fun x =>
      (if x.2.1.came x.2.2 then [(x.1, false)] else []) ++ (if x.2.1.completed x.2.2 then [(x.1, true)] else []))).dedup }

/-- A turn deducts lanes from a cohort after arrivals of its core cycle, or completes a phase of it a second time in the cycle. -/
def Context.metLate (old new : Context) : Bool :=
  (cohortMoves old new).any (fun x =>
    (x.2.1.deducted x.2.2 && new.met.contains (x.1, false)) || (x.2.1.completed x.2.2 && new.met.contains (x.1, true)))

def State.cohortLate (s t : State) : Bool :=
  (List.range 8).any (fun k => match s.ctx k, t.ctx k with
    | some a, some b => a.metLate b
    | _, _ => false)

/-- The next turn may come after one that began in `old`: its numbered events and what it did to cohorts are noted, its requests forgotten; the
events of its write-backs come next, in the order of their channels (R274). -/
def State.closeTurn (old s : State) : State :=
  let s1 := s.req.events.foldl (fun acc e => acc.modDie e.1 (Die.sawEvent s.cycles e.2)) s
  { s1 with
    req := Requests.none
    agenda := (sortBy (fun sec => stackChan (32 * sec)) s1.req.evicted).map Turn.wroteBack ++ s1.agenda
    ctxs := s1.ctxs.zipIdx.map (fun c => c.1.map (fun x =>
      Context.afterTurn s1.cycles s1.tickNow (match old.ctx c.2 with
        | some y => y.meets x
        | none => x))) }

/-- What follows every turn, which began in `old`. -/
def State.settle (old s : State) : State := old.closeTurn s.turnEnd

/-! ## The order of the events of a cycle (R46, R274) -/

/-- An event of these would be numbered after one of its die and cycle with a higher channel. -/
def State.clash (s : State) (evs : List (Nat × Nat)) : Bool :=
  s.clocked && evs.any (fun e => (s.die e.1).evCycle == s.cycles && decide (e.2 < (s.die e.1).evChan))

/-- The numbered events of an event's turn. -/
def State.eventsOf (s : State) (i : Instr) : List (Nat × Nat) :=
  match exec i s with
  | .next t => t.turnEnd.req.events
  | .fault _ | .refused _ => []

/-- A due turn that goes before the turn `t`, whose numbered events are `evs`: one of a lower channel on a die of theirs; or any, where `t` is
to wait for the next cycle. -/
def State.dueFirst (s : State) (t : Turn) (evs : List (Nat × Nat)) (late : Bool) : Option Instr :=
  if evs.isEmpty && !late then none
  else ((sortBy (fun x => x.2.foldl (fun n e => max n e.2) 0) (s.dueTurns.map (fun i => (i, s.eventsOf i)))).find? (fun x =>
    Turn.event x.1 != t && !s.clash x.2 && (late || x.2.any (fun a => evs.any (fun e => a.1 == e.1 && decide (a.2 < e.2)))))).map (fun x => x.1)

/-- What follows an outcome of the turn `t` taken in `s`: a next state settles. A turn whose numbered events come too late in their cycle for
their channels, or whose deductions come after arrivals of their cycle, is taken in the next one, when all that is due in this one is done; and
one that a due event comes before is taken after it (R46, R274). DESIGN CHOICE (log 36). -/
def State.conclude (s : State) (t : Turn) : Host.Outcome State Fault Refusal → Host.Outcome State Fault Refusal
  | .next s1 =>
    let s2 := s1.turnEnd
    let late := s2.clash s2.req.events || s.cohortLate s2
    match s.dueFirst t s2.req.events late with
    | some i =>
      (match exec i s with
       | .next u => .next (s.settle { u with agenda := t :: u.agenda })
       | o => o)
    | none => if late then .next (s.settle { s.tick with agenda := t :: s.agenda }) else .next (s.closeTurn s2)
  | .fault e => .fault e
  | .refused e => .refused e

/-- The issue slot of a split: what comes before its instruction, then its instruction. -/
def State.issue (s : State) (r : SplitRef) : Host.Outcome State Fault Refusal :=
  match s.issuePrep r with
  | .done s1 => .next s1
  | .run i s1 => exec i s1

/-- Die, channel and address of a soft error's place; none for a logical core that holds no working core. -/
def State.softWhere (s : State) (n : Nat) : SoftPlace → Option (Nat × Nat × Nat)
  | .stack sec => some (homeDie (32 * sec), stackChan (32 * sec), 32 * sec)
  | .l2 line => some (homeDie (128 * line), sramChannel n, 0)
  | .scratch slot lcid _ => (s.lc slot lcid).placed.map (fun p => (p.1, coreChan p.2, 0))
  | .group r => (s.lc r.slot r.lcid).placed.map (fun p => (p.1, coreChan p.2, 0))

/-- A soft error that ECC corrects: event 0x01 of a stack sector, 0x03 of on-chip SRAM (Table 12.6). -/
def State.softCorrected (s : State) (p : SoftPlace) : State :=
  let (n, s1) := s.draw
  match s1.softWhere n p with
  | none => s
  | some w =>
    let code := match p with
      | .stack _ => 1
      | .l2 _ | .scratch _ _ _ | .group _ => 3
    s1.logEvent w.1 w.2.1 code 0 w.2.2 0 (Config.syndrome n)

/-- A soft error in a core's L1 that ECC cannot correct: event 0x04; the line is dropped, without a fault. -/
def State.softL1 (s : State) (die core line : Nat) : State :=
  let (n, s1) := s.draw
  (s1.modCore die core (fun c => { c with l1 := c.l1.filter (fun x => x.line != line) })).logEvent die (coreChan core) 4 0 0 0 (Config.syndrome n)

/-- One turn. -/
def State.turn (s : State) : Turn → Host.Outcome State Fault Refusal
  | .event i => exec i s
  | .issue r => s.issue r
  | .tick => .next (if s.dueTurns.isEmpty then s.tick else s)
  | .perform slot lcid n => .next (if s.clocked then s.performOne slot lcid n else s)
  | .chunk slot lcid entry idx => .next (s.chunk slot lcid entry idx)
  | .drain slot => .next (s.drainStart slot)
  | .corrected p => .next (if s.clocked then s.softCorrected p else s)
  | .uncorrected p => .next (if s.soft.contains p then s else
      { s with soft := s.soft ++ [p], mended := s.mended.filter (fun x => !p.holds x) })
  | .l1Error die core line => .next (if s.clocked then s.softL1 die core line else s)
  | .copyUnit slot lcid n u => .next (s.copyUnit slot lcid n u)
  | .selectPort io1 => .next (s.selectPort io1)
  | .resizeBar4 log => .next (s.resizeBar4 log)
  | .bootImage body key sig version => .next (s.bootImage body key sig version)
  | .cooled => .next s.cooled
  | .wroteBack sec => .next (s.logPoison sec)

/-- The turn that the agenda names; when it names none, one that the device can take, by a free draw. DESIGN CHOICE (log 6). -/
def State.nextTurn (s : State) : Turn × State :=
  match s.agenda with
  | t :: rest => (t, { s with agenda := rest })
  | [] => (regGet .tick s.turns (Config.pick s.freeCtr % s.turns.length), { s with freeCtr := s.freeCtr + 1 })

end Sys2Proof.Machine
end

