-- ==== Sys2Proof/Machine/Place.lean ====
section
/-! DEFINITION. Place.lean: a device that is about to issue one given instruction (DESIGN CHOICE, log 7): the state that creation, placement,
dispatch and CLAUSE_START leave for a gang of one group whose clause holds that instruction alone. -/

namespace Sys2Proof.Machine

open Sys2Proof

/-- Physical addresses of the four page tables, and the one page of code, virtual and physical. -/
def placeTables : List Nat := [0x4000, 0x8000, 0xA000, 0xC000]
def placeCode : Nat := 0x10000

/-- The PTE of the code page: V, R, W, X, AC and D set, FRAME 1 (Table 7.3). -/
def placePte : Nat := 0x101F1

/-- The clause header: MAJ 0x01, every class, COUNT 0 (Table 4.2). -/
def placeHeader : DWord := 0x01F0000000000000

/-- The bytes of the tables and of the clause. -/
def placeMem (m : Cells) (w : Nat) : Cells :=
  let put (m : Cells) (x : Nat × Nat) : Cells := Cells.write m x.1 (natLe 8 x.2)
  [(0x4000, 0x8001), (0x8000, 0xA001), (0xA000, 0xC001), (0xC008, placePte), (placeCode, placeHeader.toNat),
    (placeCode + 8, w)].foldl put m

/-- The split that is to issue. -/
def placeRef : SplitRef := ⟨0, 0, 0, 0⟩

/-- The bind record of its group: one group of role 0 with 256 registers, at POS 0 of the clause. -/
def placeBind : Bind where
  ord := 0
  recNum := 0
  inst := 0
  role := 0
  gfirst := 0
  gcount := 1
  lcid := 0
  quad := 0
  slot := 0
  regBase := 0
  cls := 0
  last := true
  budget := 256
  pc := BitVec.ofNat 64 placeCode
  spill := 0
  payloads := []
  total := 1
  firstNum := 0
  cohorts := []
  rank := 0
  nranks := 1
  peers := 0

/-- Its group, with the clause started. -/
def placeGroup : Group :=
  let g := placeBind.group 0
  { g with
    ctl := { g.ctl with eligible := true }
    splits := g.splits.map (fun sp =>
      if sp.st = .ready then { sp with st := .issuing, clause := some ⟨placeHeader, 0xF, 0, false⟩ } else sp) }

/-- Its instance. -/
def placeInst : GangInst := ⟨0, 0, none, [0], [], [], 0, .none, 0, false, false⟩

/-- Its gang record, of which the instance is left. -/
def placeRec : GangRec where
  num := 0
  descAddr := 0
  payloads := []
  scope := none
  prio := 0
  launched := true
  pattern := 0
  desc := none
  next := 1
  last := 1
  running := 1
  error := false
  queued := false
  headAt := none
  starving := false
  failed := false
  launching := false

def placeContext : Context where
  root := 0x4000
  pbtab := 0
  cls := 0
  weight := 1
  sup := false
  joinDie := 0
  lcs := [{ LogicalCore.empty with placed := some (0, 0) }]
  banks := List.replicate 16 Bank.empty
  scopes := List.replicate 256 FScope.free
  groups := [(placeRef.group, placeGroup)]
  insts := [placeInst]
  records := [placeRec]
  binds := []
  fronts := 0
  flips := []
  transit := []
  enqd := []
  met := []
  tables := []
  waiting := []
  ctxclk := 0
  merOff := 0
  dbg := ⟨false, false, []⟩
  halting := false
  park := .none
  parkSrc := 0
  drains := []
  drainAt := 0
  destroying := false

/-- The device with the word `w` placed; the next turn is the issue of its split. -/
def State.placeWord (s : State) (w : Nat) : State :=
  let s1 := s.modCore 0 0 (fun c => { c with holds := some (0, 0) })
  { s1 with mem := placeMem s1.mem w, ctxs := regSet s1.ctxs 0 (some placeContext), agenda := [.issue placeRef] }

end Sys2Proof.Machine
end

