-- ==== Sys2Proof/Machine/Step.lean ====
section
/-! DEFINITION. Step.lean: one step of the device is one turn of one of its agents, and what follows every turn. -/

namespace Sys2Proof.Machine

open Sys2Proof

/-- One step: the next turn, and what follows it. -/
def step (s : State) : Host.Outcome State Fault Refusal := s.nextTurn.2.conclude s.nextTurn.1 (State.turn s.nextTurn.2 s.nextTurn.1)

/-- `s` with an instruction where the next step issues it (DESIGN CHOICE, log 7): a context with one group whose split stands at it. An
instruction is one word of 64 bits, so `nbits` says nothing more. -/
def State.withFetchWord (s : State) (nbits w : Nat) : State := s.placeWord (w % 2 ^ (max nbits 64))

end Sys2Proof.Machine
end

