-- ==== Sys2Proof/Safety.lean ====
section
/-! DEFINITION. Safety.lean: the terms in which the statements are made: the split that issues, what an instruction writes in its
own group and what it leaves as it was, how a split goes on, and the canonical form of the device's storages. -/

namespace Sys2Proof.Machine

open Sys2Proof

/-- Split `r` is the issuer, and `g` is its group, whose split-table entry is in use. -/
structure Issuing (s : State) (r : SplitRef) (g : Group) : Prop where
  cur   : s.cur = some ⟨r⟩
  group : s.group? r.group = some g
  used  : (g.split r.k).st ≠ .free

/-- The state in which a meaning runs. -/
def State.entered (s : State) : State := { s with cur := none, freeCtr := s.freeCtr + 1 }

/-- The group as the issuing instruction reads it: with no open lookahead window of its split it holds the registers of `g` (R97), and those of
its issue while it waits for a peer (R96). -/
def State.reads (s : State) (r : SplitRef) (g : Group) : Group := ((g.countWindows r.k).seen r.k s.freeCtr).asHeld r.k

/-- Split `k` has no open lookahead window in `g`, and waits inside no instruction. -/
def Group.settled (g : Group) (k : Nat) : Prop := (∀ p ∈ g.inflight, p.split = k → p.window = none) ∧ (g.split k).held = none

/-- What an instruction may write in its own group: numbers of vector registers (with their calipers), uniform registers, lane
and uniform predicates, array and handle registers; FFLAGS; VIOLMASK; whether it opens a long-latency instruction;
trap and timer registers; the store queue; the batches; overrides of other splits. -/
structure Writes where
  v     : List Nat := []
  s     : List Nat := []
  p     : List Nat := []
  q     : List Nat := []
  a     : List Nat := []
  h     : List Nat := []
  flags : Bool := false
  viol  : Bool := false
  long  : Bool := false
  trap  : Bool := false
  stores : Bool := false
  batch : Bool := false
  ovr   : Bool := false

/-- A group but for what `w` names and the splits of the issuer is as it was: registers, calipers, flags, exception registers,
control values, store queue, batches and the other splits. -/
structure Group.Keeps (g g' : Group) (k : Nat) (w : Writes) : Prop where
  vec    : ∀ n, n ∉ w.v → g'.vec n = g.vec n
  cal    : ∀ n, n ∉ w.v → g'.cal n = g.cal n
  sreg   : ∀ n, n ∉ w.s → g'.s n = g.s n
  preg   : ∀ n, n ∉ w.p → g'.p n = g.p n
  qreg   : ∀ n, n ∉ w.q → g'.q n = g.q n
  areg   : ∀ n, n ∉ w.a → g'.a n = g.a n
  hreg   : ∀ n, n ∉ w.h → g'.h n = g.h n
  flags  : w.flags = false → g'.fflags = g.fflags
  viol   : w.viol = false → g'.viol = g.viol
  long   : w.long = false → g'.inflight = (g.countWindows k).inflight ∧ g'.nextId = g.nextId
  trap   : w.trap = false → g'.trap = g.trap
  ctl    : g'.ctl = g.ctl
  storeQ : w.stores = false → g'.storeQ = g.storeQ
  batch  : w.batch = false → g'.batches = g.batches
  splits : w.ovr = false → ∀ j, j ≠ k → g'.split j = g.split j
  others : ∀ j, j ≠ k → { g'.split j with ovr := [] } = { g.split j with ovr := [] }

/-- R81: the split goes on with the next word of its clause, or its clause ends and it is READY at the header after it; its mask,
stacks and loop levels stay. -/
def WentOn (a b : Split) : Prop :=
  (if pcPos a.pc < a.count then b.pc = mkPc (pcHdr a.pc) (pcPos a.pc + 1) ∧ b.st = a.st ∧ b.clause = a.clause
   else b.pc = pcHdr a.pc + BitVec.ofNat 64 (8 * (a.count + 2)) ∧ b.st = .ready ∧ b.clause = none)
  ∧ b.mask = a.mask ∧ b.ret = a.ret ∧ b.div = a.div ∧ b.loops = a.loops

/-- Everything but group `r`, the issuer, the draw counter and the issue slots of working cores is as it was: every other group,
what a context holds besides its groups, every die but for its cores, and every byte of memory. -/
structure OnlyGroup (s t : State) (r : GroupRef) : Prop where
  mem      : t.mem = s.mem
  poison   : t.poison = s.poison
  soft     : t.soft = s.soft
  mended   : t.mended = s.mended
  pkg      : t.pkg = s.pkg
  dies     : ∀ d, { t.die d with cores := [] } = { s.die d with cores := [] }
  meridian : t.meridian = s.meridian
  cycles   : t.cycles = s.cycles
  agenda   : t.agenda = s.agenda
  hostOut  : t.hostOut = s.hostOut
  linkOut  : t.linkOut = s.linkOut
  others   : ∀ x, x ≠ r → t.group? x = s.group? x
  ctxs     : ∀ k, (t.ctx k).map (fun c => { c with groups := [] }) = (s.ctx k).map (fun c => { c with groups := [] })

/-- Every byte of the stacks and of every scratchpad reads as before. -/
def SameBytes (s t : State) : Prop :=
  (∀ a, Cells.get t.mem a = Cells.get s.mem a) ∧
    ∀ slot lcid a, Cells.get (t.lc slot lcid).scratch a = Cells.get (s.lc slot lcid).scratch a

/-- Instruction `i` has its own effect at `s`: exec answers a next state in which the issuer's group satisfies `P`; in the group
only what `w` names has changed, the issuer's split has gone on, and nothing outside the group has changed. -/
def Effect (i : Instr) (s : State) (r : SplitRef) (g : Group) (w : Writes) (P : Group → Prop) : Prop :=
  ∃ t g', exec i s = .next t ∧ t.group? r.group = some g' ∧ P g' ∧ g.Keeps g' r.k w ∧
    WentOn (g.split r.k) (g'.split r.k) ∧ OnlyGroup s t r.group

/-- The memory of the stacks is in its canonical form. -/
def State.MemoryOk (s : State) : Prop := Memory.wf s.mem = true

/-- So is the scratchpad of every logical core. -/
def State.ScratchOk (s : State) : Prop := ∀ slot c, s.ctx slot = some c → ∀ l ∈ c.lcs, Memory.wf l.scratch = true

/-! ## Results of integer instructions -/

/-- The group has the registers that a destination names (R53, R54). -/
def dstExists (g : Group) (wide : Bool) : Dst → Prop
  | .v r => r.toNat + (if wide then 1 else 0) < g.vregs.length
  | .s r => r.toNat < g.sregs.length

/-- What a destination says is written: a vector register or an even-odd pair, or a uniform register. -/
def dstWrites (wide : Bool) : Dst → Writes
  | .v r => { v := if wide then [r.toNat, r.toNat + 1] else [r.toNat] }
  | .s r => { s := [r.toNat] }

/-- The destination holds the result `x` of an instruction of type `ty` under its guard: in each active lane of a vector register
or pair, other lanes keeping their values; or in a uniform register, extended by the type, unless the guard fails (R54, R84,
R313). `src` is the group as read, `g` the group before, `g'` after. -/
def dstHolds (src g g' : Group) (k : Nat) (gd : Guard) (ty : IntTy) (x : Nat → DWord) : Dst → Prop
  | .v r =>
    if ty.wide then ∀ j, j < 32 → g'.vPair r.toNat j = if Mask.has (src.active k gd) j then x j else g.vPair r.toNat j
    else ∀ j, j < 32 → g'.v r.toNat j = if Mask.has (src.active k gd) j then (x j).extractLsb' 0 32 else g.v r.toNat j
  | .s r =>
    g'.s r.toNat = if src.passes gd then
        (match ty with
         | .i32 => ((x 0).extractLsb' 0 32).signExtend 64
         | .ui32 => ((x 0).extractLsb' 0 32).setWidth 64
         | .i64 | .ui64 => x 0)
      else g.s r.toNat

/-- A function of one, two or three N-bit operands, for N = 32 and 64. -/
abbrev WordFn1 := (w : Nat) → BitVec w → BitVec w
abbrev WordFn2 := (w : Nat) → BitVec w → BitVec w → BitVec w
abbrev WordFn3 := (w : Nat) → BitVec w → BitVec w → BitVec w → BitVec w

/-- Its value on the operands of lane `j`, at the width of the type. -/
def value1 (f : WordFn1) (src : Group) (ty : IntTy) (a : Src) (j : Nat) : DWord :=
  if ty.wide then f 64 (a.dword src j) else (f 32 (a.word src j)).setWidth 64
def value2 (f : WordFn2) (src : Group) (ty : IntTy) (a b : Src) (j : Nat) : DWord :=
  if ty.wide then f 64 (a.dword src j) (b.dword src j) else (f 32 (a.word src j) (b.word src j)).setWidth 64
def value3 (f : WordFn3) (src : Group) (ty : IntTy) (a b c : Src) (j : Nat) : DWord :=
  if ty.wide then f 64 (a.dword src j) (b.dword src j) (c.dword src j)
  else (f 32 (a.word src j) (b.word src j) (c.word src j)).setWidth 64

/-- The exact value of an operand, as its type reads it (R351). -/
def exactOf (src : Group) (ty : IntTy) (a : Src) (j : Nat) : Int :=
  match ty with
  | .i32 => (a.word src j).toInt
  | .ui32 => ((a.word src j).toNat : Int)
  | .i64 => (a.dword src j).toInt
  | .ui64 => ((a.dword src j).toNat : Int)

/-- A number saturated to the range of its type (R4, R351). -/
def saturated (ty : IntTy) (x : Int) : DWord :=
  match ty with
  | .i32 => BitVec.ofInt 64 (min (max x (-2147483648)) 2147483647)
  | .ui32 => BitVec.ofInt 64 (min (max x 0) 4294967295)
  | .i64 => BitVec.ofInt 64 (min (max x (-9223372036854775808)) 9223372036854775807)
  | .ui64 => BitVec.ofInt 64 (min (max x 0) 18446744073709551615)

/-! ## Long-latency instructions -/

/-- An instruction has opened: the next number, its split, its destinations, whose registers keep their values until the
completion, while the calipers of those written in some lane are unknown and those of the others stay (R58, R60, R95). -/
def Opens (g g' : Group) (k : Nat) (kind : Unit3) (la : LA) (vecs : List VecDest) (unis : List UniDest) (fl : Flags)
    (job : Option MmaJob := none) : Prop :=
  g'.inflight = (g.countWindows k).inflight ++ [⟨g.nextId, k, kind, if la = 0 then none else some la.toNat, vecs, unis, fl, job⟩] ∧
    g'.nextId = g.nextId + 1 ∧ (∀ n, g'.vec n = g.vec n) ∧
    (∀ d ∈ vecs, d.all = true ∨ d.mask ≠ 0 → g'.cal d.reg = none ∧ g'.view k d.reg = none) ∧
    ∀ n, (∀ d ∈ vecs, d.reg = n → d.all = false ∧ d.mask = 0) → g'.cal n = g.cal n

/-- What an instruction with these destination registers writes when it issues: their calipers. -/
def longWrites (vecs : List VecDest) : Writes := { v := vecs.map (fun d => d.reg), long := true }

/-! ## Instructions that act beyond their group -/

/-- From `s` to `t` nothing but group `r`, the issuer, the draw counter, finished remote requests and the issue slots of working
cores has changed. -/
structure OnlyGroupAfter (s t : State) (r : GroupRef) : Prop where
  mem      : t.mem = s.mem
  poison   : t.poison = s.poison
  soft     : t.soft = s.soft
  mended   : t.mended = s.mended
  pkg      : { t.pkg with remote := [] } = { s.pkg with remote := [] }
  dies     : ∀ d, { t.die d with cores := [] } = { s.die d with cores := [] }
  meridian : t.meridian = s.meridian
  cycles   : t.cycles = s.cycles
  agenda   : t.agenda = s.agenda
  hostOut  : t.hostOut = s.hostOut
  linkOut  : t.linkOut = s.linkOut
  others   : ∀ x, x ≠ r → t.group? x = s.group? x
  ctxs     : ∀ k, (t.ctx k).map (fun c => { c with groups := [] }) = (s.ctx k).map (fun c => { c with groups := [] })

/-- Instruction `i` answers a next state at `s`: after what its accesses did, which gives `s1` with the issuer's group `g`, the
group satisfies `P`, only what `w` names of it has changed, its split has gone on, and nothing else has changed. -/
def EffectAfter (i : Instr) (s s1 : State) (r : SplitRef) (g : Group) (w : Writes) (P : Group → Prop) : Prop :=
  ∃ t g', exec i s = .next t ∧ t.group? r.group = some g' ∧ P g' ∧ g.Keeps g' r.k w ∧
    WentOn (g.split r.k) (g'.split r.k) ∧ OnlyGroupAfter s1 t r.group

/-- After accesses the state is `s`, in which the issuer's group is `g` and its split is still in use. -/
def Still (s : State) (r : SplitRef) (g : Group) : Prop := s.group? r.group = some g ∧ (g.split r.k).st ≠ .free

/-- The registers, flags and values of a group, its stores and batches, are as they were. -/
structure Group.SameRegs (g g' : Group) : Prop where
  vregs   : g'.vregs = g.vregs
  cals    : g'.cals = g.cals
  sregs   : g'.sregs = g.sregs
  pregs   : g'.pregs = g.pregs
  qregs   : g'.qregs = g.qregs
  aregs   : g'.aregs = g.aregs
  hregs   : g'.hregs = g.hregs
  viol    : g'.viol = g.viol
  fflags  : g'.fflags = g.fflags
  storeQ  : g'.storeQ = g.storeQ
  batches : g'.batches = g.batches

/-- Every byte of the stacks and of the scratchpads is as it was. -/
def SameMemory (s t : State) : Prop := t.mem = s.mem ∧ ∀ slot lcid, (t.lc slot lcid).scratch = (s.lc slot lcid).scratch

/-- The split waits at its instruction (R32). -/
def Waits (i : Instr) (s : State) (r : SplitRef) (g : Group) (w : Wait) : Prop :=
  ∃ t g', exec i s = .next t ∧ t.group? r.group = some g' ∧ g.SameRegs g' ∧ (g'.split r.k).st = .wait w ∧
    (g'.split r.k).pc = (g.split r.k).pc ∧ (g'.split r.k).mask = (g.split r.k).mask ∧ ∀ j, j ≠ r.k → g'.split j = g.split j

/-- A split of the group comes to this state; the registers, and its PC and mask, stay. -/
def SplitComes (t : State) (r : SplitRef) (g : Group) (P : Split → Prop) : Prop :=
  ∃ g', t.group? r.group = some g' ∧ g.SameRegs g' ∧ (g'.split r.k).pc = (g.split r.k).pc ∧
    (g'.split r.k).mask = (g.split r.k).mask ∧ P (g'.split r.k)

/-! ## Control transfers -/

/-- The split is READY at `pc` with the stacks and loop levels named; registers, the other splits but for what waits at a RECONV
count, and memory are as they were (R31, R81). -/
structure JumpedTo (s t : State) (g g' : Group) (k : Nat) (pc : DWord) (mask : Mask) (ret div : Stack) (loops : List LoopLevel) :
    Prop where
  regs   : g.SameRegs g'
  trap   : g'.trap = g.trap
  ctl    : g'.ctl = g.ctl
  pc     : (g'.split k).pc = pc
  st     : (g'.split k).st = .ready
  clause : (g'.split k).clause = none
  mask   : (g'.split k).mask = mask
  ret    : (g'.split k).ret = ret
  div    : (g'.split k).div = div
  loops  : (g'.split k).loops = loops
  others : ∀ j, j ≠ k → { g'.split j with st := .ready } = { g.split j with st := .ready }
  mem    : SameMemory s t

/-- Instruction `i` takes its split to `pc`, with these stacks and loop levels. -/
def Jumps (i : Instr) (s : State) (r : SplitRef) (g : Group) (pc : DWord) (mask : Mask) (ret div : Stack)
    (loops : List LoopLevel) : Prop :=
  ∃ t g', exec i s = .next t ∧ t.group? r.group = some g' ∧ JumpedTo s t g g' r.k pc mask ret div loops

/-- Instruction `i` transfers its split to an address that is no header's, bits [59:56] not being zero: after the transfer the split
halts there, with POS zero in TPC and TVAL (R75, R78). -/
def BadTarget (i : Instr) (s : State) (r : SplitRef) (g : Group) (target : DWord) : Prop :=
  ∃ t g', exec i s = .next t ∧ t.group? r.group = some g' ∧ g.SameRegs g' ∧ (g'.split r.k).st = .halted ∧
    (g'.split r.k).pc = atPosZero target ∧ (g'.split r.k).mask = (g.split r.k).mask ∧ g'.trap.tpc = atPosZero target ∧
    g'.trap.tval = atPosZero target

/-! ## Exceptions -/

/-- Trap entry (R264): the group's trap registers hold the cause, the split stands at the handler, issuing or (its quadrant issuing
another split) READY, with its mask, stacks and loop levels, and no register but FFLAGS and VIOLMASK has changed. -/
structure TrapEntered (s t : State) (g g' : Group) (k : Nat) (act : Mask) (code : Nat) (tval : DWord) (st : SplitSt := .issuing) :
    Prop where
  trap   : g'.trap = { g.trap with
    inHandler := true, hsplit := k, hmask := (g.split k).mask, family := BitVec.ofNat 4 (2 ^ k), tpc := (g.split k).pc, tmask := act
    tcause := BitVec.ofNat 64 code, tval := tval }
  pc     : (g'.split k).pc = g.trap.tvec &&& ~~~7
  st     : (g'.split k).st = st
  clause : (g'.split k).clause = none
  mask   : (g'.split k).mask = (g.split k).mask
  ret    : (g'.split k).ret = (g.split k).ret
  div    : (g'.split k).div = (g.split k).div
  loops  : (g'.split k).loops = (g.split k).loops
  others : ∀ j, j ≠ k → g'.split j = g.split j
  vregs  : g'.vregs = g.vregs
  cals   : g'.cals = g.cals
  sregs  : g'.sregs = g.sregs
  pregs  : g'.pregs = g.pregs
  qregs  : g'.qregs = g.qregs
  aregs  : g'.aregs = g.aregs
  hregs  : g'.hregs = g.hregs
  ctl    : g'.ctl = g.ctl
  mem    : SameMemory s t

/-- A handler may be entered: TVEC enables it, no split is in it, and its address has POS zero (R264, R265). -/
def Group.mayTrap (g : Group) : Prop :=
  g.trap.tvec.getLsbD 0 = true ∧ g.trap.inHandler = false ∧ (g.trap.tvec &&& ~~~7).extractLsb' 56 4 = 0

/-- Instruction `i` takes a user cause; FFLAGS takes the flags `fl`. -/
def TakesTrap (i : Instr) (s : State) (r : SplitRef) (g : Group) (act : Mask) (code : Nat) (tval : DWord) (fl : Flags) : Prop :=
  ∃ t g', exec i s = .next t ∧ t.group? r.group = some g' ∧ TrapEntered s t g g' r.k act code tval ∧
    g'.fflags = g.fflags ||| fl.setWidth 64

/-- Instruction `i` is a fatal fault: it raises the cause of code `code` (Table 12.1), which the FAULT record of `Obligations.TrapEntry` carries,
its split halts where it stands, and its group keeps its registers (R269). -/
def HaltsAt (i : Instr) (s : State) (r : SplitRef) (g : Group) (code : Nat) : Prop :=
  ∃ t g' s1 act e, exec i s = .next t ∧ t = (s.entered.raise s1 r act e).noteIssued r g.ctl.quad (g.split r.k).replay ∧
    causeClass e.cause = .fatal ∧ causeCode e.cause = code ∧ t.group? r.group = some g' ∧ g.SameRegs g' ∧
    (g'.split r.k).st = .halted ∧ (g'.split r.k).pc = (g.split r.k).pc ∧ (g'.split r.k).mask = (g.split r.k).mask

/-! ## Floating point -/

/-- What a floating-point instruction writes: a register or a pair, and FFLAGS. -/
def fpWrites (wide : Bool) (d : VReg) : Writes := { v := if wide then [d.toNat, d.toNat + 1] else [d.toNat], flags := true }

/-- The active lanes of the destination hold the results, the other lanes their values. -/
def fpHolds (g g' : Group) (m : Mask) (wide : Bool) (d : VReg) (x : Nat → Nat) : Prop :=
  ∀ j, j < 32 → if wide then g'.vPair d.toNat j = if Mask.has m j then BitVec.ofNat 64 (x j) else g.vPair d.toNat j
    else g'.v d.toNat j = if Mask.has m j then BitVec.ofNat 32 (x j) else g.v d.toNat j

/-- Instruction `i` with per-lane results and flags `f`: when no flag that it raises is enabled, it writes its results and the
flags accrue (R113); else FPEXC is taken, with the flags alone (R114). -/
def FpCompletes (i : Instr) (gd : Guard) (d : VReg) (wide : Bool) (f : Group → Nat → Nat × Flags) : Prop :=
  ∀ (s : State) (r : SplitRef) (g : Group), Issuing s r g → d.toNat + (if wide then 1 else 0) < g.vregs.length →
    let src := s.reads r g
    let m := src.active r.k gd
    let fl := orFlags m (fun j => (f src j).2)
    fl &&& g.enables = 0 →
      Effect i s r g (fpWrites wide d)
        (fun g' => fpHolds g g' m wide d (fun j => (f src j).1) ∧ g'.fflags = g.fflags ||| fl.setWidth 64)

/-- The FPEXC side of the same instruction. -/
def FpTraps (i : Instr) (gd : Guard) (f : Group → Nat → Nat × Flags) : Prop :=
  ∀ (s : State) (r : SplitRef) (g : Group), Issuing s r g → g.mayTrap →
    let src := s.reads r g
    let m := src.active r.k gd
    let fl := orFlags m (fun j => (f src j).2)
    fl &&& g.enables ≠ 0 → TakesTrap i s r g (g.active r.k gd) 12 (fpexcVal m (fun j => (f src j).2) (fl &&& g.enables)) fl

end Sys2Proof.Machine
end

