-- ==== Sys2Proof/Certificates/Slice0/Obligations.lean ====
section
/-! DEFINITION. Obligations.lean: what the model claims of the machine, from the numbered rules of spec/. -/

open Sys2Proof Sys2Proof.Machine

/-! ## Integer instructions -/

/-- Tables 16.1 and 17.7 (R315, R351) without SAT: two-source instructions and their functions of the operands. -/
def intBinaries : List ((Bin → Instr) × (IntTy → WordFn2)) :=
  [(.and, fun _ _ x y => x &&& y), (.or, fun _ _ x y => x ||| y), (.xor, fun _ _ x y => x ^^^ y),
   (.andn, fun _ _ x y => x &&& ~~~y), (.iadd, fun _ _ x y => x + y), (.isub, fun _ _ x y => x - y),
   (.imul, fun _ _ x y => x * y),
   (.imulh, fun ty w x y => if ty.signed then (x.signExtend (2 * w) * y.signExtend (2 * w)).extractLsb' w w
     else (x.setWidth (2 * w) * y.setWidth (2 * w)).extractLsb' w w),
   (.imin, fun ty _ x y => if (if ty.signed then x.slt y else x.ult y) then x else y),
   (.imax, fun ty _ x y => if (if ty.signed then y.slt x else y.ult x) then x else y)]

/-- Table 17.7: the exact values of the instructions that allow SAT. -/
def intSaturating : List ((Guard → Dst → Src → Src → Src → IntTy → Instr) × (Int → Int → Int → Int)) :=
  [(fun g d a b _ ty => .iadd ⟨g, d, a, b, ty, true⟩, fun x y _ => x + y),
   (fun g d a b _ ty => .isub ⟨g, d, a, b, ty, true⟩, fun x y _ => x - y),
   (fun g d a b _ ty => .imul ⟨g, d, a, b, ty, true⟩, fun x y _ => x * y),
   (fun g d a b c ty => .imad ⟨g, d, a, b, c, ty, true⟩, fun x y z => x * y + z),
   (fun g d a _ _ ty => .iabs ⟨g, d, a, ty, true⟩, fun x _ _ => |x|),
   (fun g d a _ _ ty => .ineg ⟨g, d, a, ty, true⟩, fun x _ _ => -x)]

/-- R315, R351: each two-source logic and arithmetic instruction completes, in every operand form and type, with its result in
its destination and nothing else changed. R351: with SAT the result is the exact value saturated to the type's range. -/
def Obligations.IntBinary : Prop :=
  (∀ row ∈ intBinaries, ∀ (s : State) (r : SplitRef) (g : Group) (gd : Guard) (d : Dst) (a b : Src) (ty : IntTy),
     Issuing s r g → dstExists g ty.wide d →
       Effect (row.1 ⟨gd, d, a, b, ty, false⟩) s r g (dstWrites ty.wide d)
         (fun g' => dstHolds (s.reads r g) g g' r.k gd ty (value2 (row.2 ty) (s.reads r g) ty a b) d)) ∧
  (∀ row ∈ intSaturating, ∀ (s : State) (r : SplitRef) (g : Group) (gd : Guard) (d : Dst) (a b c : Src) (ty : IntTy),
     Issuing s r g → dstExists g ty.wide d →
       Effect (row.1 gd d a b c ty) s r g (dstWrites ty.wide d)
         (fun g' => dstHolds (s.reads r g) g g' r.k gd ty
           (fun j => saturated ty (row.2 (exactOf (s.reads r g) ty a j) (exactOf (s.reads r g) ty b j) (exactOf (s.reads r g) ty c j))) d))

/-- Tables 16.1, 17.7 and 18.x without SAT: one-source instructions (R315, R327, R351, R375). -/
def intUnaries : List ((Un → Instr) × WordFn1) :=
  [(.not, fun _ x => ~~~x), (.brev, fun _ x => x.reverse), (.clz, fun _ x => x.clz), (.popc, fun _ x => x.cpop),
   (.ineg, fun _ x => -x)]

/-- R315, R327, R351, R375: NOT, BREV, CLZ, POPC and INEG complete with their results. IABS does on signed types. R393: the
shifts, with the amount never masked: at or beyond the width SHL and SHR give 0 and SHRA the sign. -/
def Obligations.IntUnaryAndShift : Prop :=
  (∀ (s : State) (r : SplitRef) (g : Group) (gd : Guard) (d : Dst) (a : Src) (ty : IntTy),
     Issuing s r g → dstExists g ty.wide d →
       (∀ row ∈ intUnaries, Effect (row.1 ⟨gd, d, a, ty, false⟩) s r g (dstWrites ty.wide d)
         (fun g' => dstHolds (s.reads r g) g g' r.k gd ty (value1 row.2 (s.reads r g) ty a) d)) ∧
       (ty.signed = true → Effect (.iabs ⟨gd, d, a, ty, false⟩) s r g (dstWrites ty.wide d)
         (fun g' => dstHolds (s.reads r g) g g' r.k gd ty (value1 (fun _ x => if x.msb then -x else x) (s.reads r g) ty a) d))) ∧
  (∀ (s : State) (r : SplitRef) (g : Group) (gd : Guard) (d : Dst) (a b : Src) (ty : IntTy),
     Issuing s r g → dstExists g ty.wide d →
       let amount (j : Nat) : Nat := (b.word (s.reads r g) j).toNat
       let shifted (f : (w : Nat) → BitVec w → Nat → BitVec w) (j : Nat) : DWord :=
         value1 (fun w x => f w x (amount j)) (s.reads r g) ty a j
       Effect (.shl ⟨gd, d, a, b, ty, false⟩) s r g (dstWrites ty.wide d)
         (fun g' => dstHolds (s.reads r g) g g' r.k gd ty (shifted (fun _ x n => x <<< n)) d) ∧
       Effect (.shr ⟨gd, d, a, b, ty, false⟩) s r g (dstWrites ty.wide d)
         (fun g' => dstHolds (s.reads r g) g g' r.k gd ty (shifted (fun _ x n => x >>> n)) d) ∧
       (ty.signed = true → Effect (.shra ⟨gd, d, a, b, ty, false⟩) s r g (dstWrites ty.wide d)
         (fun g' => dstHolds (s.reads r g) g g' r.k gd ty (shifted (fun _ x n => x.sshiftRight n)) d)))

/-- Bit `i` of BFX (R321): of a field of `n` bits at `pos`, zero- or sign-extended; bits beyond the operand read 0. -/
def bfxBit (signed : Bool) (w : Nat) (x : BitVec w) (pos n i : Nat) : Bool :=
  let m := min n w
  if i < m then x.getLsbD (pos + i) else signed && decide (0 < m) && x.getLsbD (pos + m - 1)

/-- Bit `i` of BFI (R322): the field's bits from `a`, the others from `b`. -/
def bfiBit (w : Nat) (a b : BitVec w) (pos n i : Nat) : Bool :=
  if pos ≤ i ∧ i < pos + min n w then a.getLsbD (i - pos) else b.getLsbD i

/-- R321, R322: the bit-field instructions, bit by bit. R351, R361, R391: IMAD, LEA and SEL complete with their results; SAT of
LEA saturates the exact sum. -/
def Obligations.IntThreeSource : Prop :=
  (∀ (s : State) (r : SplitRef) (g : Group) (gd : Guard) (d : Dst) (a b c : Src) (ty : IntTy),
     Issuing s r g → dstExists g ty.wide d →
       let src := s.reads r g
       let w8 (y : Src) (i j : Nat) : Nat := ((y.word src j).extractLsb' i 8).toNat
       Effect (.bfx ⟨gd, d, a, b, c, ty, false⟩) s r g (dstWrites ty.wide d)
         (fun g' => dstHolds src g g' r.k gd ty (fun j => value1 (fun w x =>
           BitVec.ofFnLE (fun i => bfxBit ty.signed w x (w8 b 0 j) (w8 c 0 j) i)) src ty a j) d) ∧
       Effect (.bfi ⟨gd, d, a, b, c, ty, false⟩) s r g (dstWrites ty.wide d)
         (fun g' => dstHolds src g g' r.k gd ty (fun j => value2 (fun w x y =>
           BitVec.ofFnLE (fun i => bfiBit w x y (w8 c 0 j) (w8 c 8 j) i)) src ty a b j) d)) ∧
  (∀ (s : State) (r : SplitRef) (g : Group) (gd : Guard) (d : Dst) (a b c : Src) (ty : IntTy) (k : BitVec 5) (p : PSrc),
     Issuing s r g → dstExists g ty.wide d →
       let src := s.reads r g
       Effect (.imad ⟨gd, d, a, b, c, ty, false⟩) s r g (dstWrites ty.wide d)
         (fun g' => dstHolds src g g' r.k gd ty (value3 (fun _ x y z => x * y + z) src ty a b c) d) ∧
       Effect (.lea ⟨gd, d, a, b, k, ty, false⟩) s r g (dstWrites ty.wide d)
         (fun g' => dstHolds src g g' r.k gd ty (value2 (fun _ x y => x + y <<< k.toNat) src ty a b) d) ∧
       Effect (.lea ⟨gd, d, a, b, k, ty, true⟩) s r g (dstWrites ty.wide d)
         (fun g' => dstHolds src g g' r.k gd ty
           (fun j => saturated ty (exactOf src ty a j + exactOf src ty b j * 2 ^ k.toNat)) d) ∧
       Effect (.sel ⟨gd, d, a, b, p, ty⟩) s r g (dstWrites ty.wide d)
         (fun g' => dstHolds src g g' r.k gd ty
           (fun j => value2 (fun _ x y => if (if p.uni then src.q p.p.toNat else Mask.has (src.p p.p.toNat) j) then x else y)
             src ty a b j) d))

/-- The conditions of Table 4.12 on two words. -/
def condTrue (w : Nat) (x y : BitVec w) : Cond → Bool
  | .eq => x == y | .ne => x != y
  | .lt => x.slt y | .le => x.sle y | .gt => y.slt x | .ge => y.sle x
  | .ltu => x.ult y | .leu => x.ule y | .gtu => y.ult x | .geu => y.ule x

/-- The operations of Table 18.6 on predicate values. -/
def plopTrue (val : PSrc → Bool) (bit : SReg → Bool) : PlopOp → Bool
  | .and a b => val a && val b
  | .or a b => val a || val b
  | .xor a b => xor (val a) (val b)
  | .andn a b => val a && !val b
  | .not a => !val a
  | .mov a => val a
  | .sel a b c => if val c then val a else val b
  | .setm a => bit a

/-- A predicate destination: lane predicate `d` in the active lanes, other lanes keeping their bits, or uniform predicate `d` unless
the guard fails; p7 and q7 keep reading true (R54, R352, R374). -/
def predHolds (src g g' : Group) (k : Nat) (gd : Guard) (uni : Bool) (d : PReg) (x : Nat → Bool) : Prop :=
  if uni then g'.q d.toNat = if d = 7 then true else if src.passes gd then x 0 else g.q d.toNat
  else ∀ j, j < 32 → Mask.has (g'.p d.toNat) j =
    if d = 7 then true else if Mask.has (src.active k gd) j then x j else Mask.has (g.p d.toNat) j

/-- What a predicate destination names. -/
def predWrites (uni : Bool) (d : PReg) : Writes := if uni then { q := [d.toNat] } else { p := [d.toNat] }

/-- R352, R374: ICMP and PLOP complete in both forms and write one predicate; a write to p7 or q7 is discarded. R366, R367,
R87: MOV, MOVI and MOVI.HI complete in every form. -/
def Obligations.MovesAndPredicates : Prop :=
  (∀ (s : State) (r : SplitRef) (g : Group) (gd : Guard) (uni : Bool) (d : PReg) (a b : Src) (ty : IntTy) (cond : Cond) (op : PlopOp),
     Issuing s r g → d = 7 ∨ d.toNat < g.pregs.length → d = 7 ∨ d.toNat < g.qregs.length →
       let src := s.reads r g
       Effect (.icmp ⟨gd, uni, d, a, b, ty, cond⟩) s r g (predWrites uni d)
         (fun g' => predHolds src g g' r.k gd uni d (fun j =>
           if ty.wide then condTrue 64 (a.dword src j) (b.dword src j) cond else condTrue 32 (a.word src j) (b.word src j) cond)) ∧
       Effect (.plop gd uni d op) s r g (predWrites uni d)
         (fun g' => predHolds src g g' r.k gd uni d (fun j =>
           plopTrue (fun x => if x.uni then src.q x.p.toNat else Mask.has (src.p x.p.toNat) j) (fun x => (src.s x.toNat).getLsbD j) op))) ∧
  (∀ (s : State) (r : SplitRef) (g : Group) (gd : Guard) (d : Dst) (a : Src) (ty : IntTy) (h : HReg) (u x : SReg) (imm : BitVec 32),
     Issuing s r g →
       let src := s.reads r g
       (dstExists g ty.wide d → Effect (.mov gd (.reg d a ty)) s r g (dstWrites ty.wide d)
         (fun g' => dstHolds src g g' r.k gd ty (value1 (fun _ y => y) src ty a) d)) ∧
       (h.toNat < g.hregs.length → Effect (.mov gd (.toHandle h x)) s r g { h := [h.toNat] }
         (fun g' => g'.h h.toNat = if src.passes gd then src.s x.toNat else g.h h.toNat)) ∧
       (u.toNat < g.sregs.length → Effect (.mov gd (.fromHandle u h)) s r g { s := [u.toNat] }
         (fun g' => g'.s u.toNat = if src.passes gd then src.h h.toNat else g.s u.toNat)) ∧
       (dstExists g false d → Effect (.movi gd d imm) s r g (dstWrites false d)
         (fun g' => dstHolds src g g' r.k gd .i32 (fun _ => imm.setWidth 64) d)) ∧
       (u.toNat < g.sregs.length → Effect (.moviHi gd u imm) s r g { s := [u.toNat] }
         (fun g' => g'.s u.toNat = if src.passes gd then imm ++ (src.s u.toNat).extractLsb' 0 32 else g.s u.toNat)))

/-! ## Floating-point instructions -/

/-- The number that element `e` of an operand holds (R108, R338). -/
def fpNum (ty : FTy) (src : Group) (a : Src) (j e : Nat) : Sys2Proof.Machine.Num := ty.fmt.decode (ty.elem (a.fbits src ty j) e)

/-- R340, R110: FADD, FSUB, FMUL and FFMA: in each active lane, per element, the exact sum, difference, product or fused
multiply-add rounded once; flags accrue. -/
def Obligations.FloatArith : Prop :=
  ∀ (gd : Guard) (d : VReg) (a b c : Src) (ty : FTy) (rnd : Rnd),
    FpCompletes (.fadd ⟨gd, d, a, b, ty, rnd⟩) gd d ty.wide (fun src j => perElem ty (fun e =>
      addNums ty.fmt rnd [fpNum ty src a j e, fpNum ty src b j e])) ∧
    FpCompletes (.fsub ⟨gd, d, a, b, ty, rnd⟩) gd d ty.wide (fun src j => perElem ty (fun e =>
      addNums ty.fmt rnd [fpNum ty src a j e, (fpNum ty src b j e).neg])) ∧
    FpCompletes (.fmul ⟨gd, d, a, b, ty, rnd⟩) gd d ty.wide (fun src j => perElem ty (fun e =>
      mulNums ty.fmt rnd (fpNum ty src a j e) (fpNum ty src b j e))) ∧
    FpCompletes (.ffma ⟨gd, d, a, b, c, ty, rnd⟩) gd d ty.wide (fun src j => perElem ty (fun e =>
      fmaNums ty.fmt rnd (fpNum ty src a j e) (fpNum ty src b j e) (fpNum ty src c j e)))

/-- R335 to R337, R342: CVT, CVTN, CVTW and FCLASS complete; FCLASS writes one bit of its class. Ties of CVTN follow log 27.
R113, R343: FCMP writes a lane predicate in the active lanes (a write to p7 is discarded), and its flags accrue. -/
def Obligations.FloatConvertCompare : Prop :=
  (∀ (gd : Guard) (d : VReg) (a : Src) (ty : FTy) (fmt : BitVec 8) (nf : NarrowFmt) (rnd : Rnd) (sat : Bool)
     (k : BitVec 2) (ts td : CvtTy),
     FpCompletes (.cvt ⟨gd, d, a, ts, td, rnd, sat⟩) gd d td.wide (cvtLane ⟨gd, d, a, ts, td, rnd, sat⟩) ∧
     (elemFmt fmt = some (.narrow nf) →
       FpCompletes (.cvtn ⟨gd, d, a, ty, fmt, rnd, sat⟩) gd d false (fun src j => cvtnNum nf (rnd == .rn) sat (fpNum ty src a j 0)) ∧
       FpCompletes (.cvtw ⟨gd, d, a, ty, fmt, k⟩) gd d false (fun src j =>
         roundAny ty.fmt .rn false (nf.decode ((a.word src j).toNat / 2 ^ (8 * k.toNat))))) ∧
     ∀ (s : State) (r : SplitRef) (g : Group), Issuing s r g → d.toNat < g.vregs.length →
       Effect (.fclass ⟨gd, d, a, ty⟩) s r g { v := [d.toNat] }
         (fun g' => fpHolds g g' ((s.reads r g).active r.k gd) false d
           (fun j => 2 ^ classOf ty.fmt (ty.elem (a.fbits (s.reads r g) ty j) 0)))) ∧
  (∀ (s : State) (r : SplitRef) (g : Group) (gd : Guard) (d : PReg) (a b : Src) (ty : FTy) (rel : FRel) (sig : Bool),
     Issuing s r g → d = 7 ∨ d.toNat < g.pregs.length →
       let src := s.reads r g
       let cmp (j : Nat) : Bool × Flags := fcmpNum rel sig (fpNum ty src a j 0) (fpNum ty src b j 0)
       let fl := orFlags (src.active r.k gd) (fun j => (cmp j).2)
       fl &&& g.enables = 0 →
         Effect (.fcmp ⟨gd, d, a, b, ty, rel, sig⟩) s r g { p := [d.toNat], flags := true }
           (fun g' => predHolds src g g' r.k gd false d (fun j => (cmp j).1) ∧ g'.fflags = g.fflags ||| fl.setWidth 64))

/-- The special functions of major 0x58. -/
def specialFns : List ((SfuOp → Instr) × SfuFn) :=
  [(.frcp, .rcp), (.frsq, .rsq), (.fsqrt, .sqrt), (.fexp2, .exp2), (.flog2, .log2), (.fsin, .sin), (.fcos, .cos), (.ftanh, .tanh)]

/-- R114: when an enabled flag is raised by FADD, FSUB, FMUL, FFMA, FMIN, FMAX, FCMP, CVT, CVTN, CVTW or an instruction of major 0x58,
it writes its flags alone and takes FPEXC, whose TVAL names the flags and the lanes that raised them; its destination is unchanged. -/
def Obligations.FloatTraps : Prop :=
  ∀ (gd : Guard) (d : VReg) (p : PReg) (a b c : Src) (ty : FTy) (rnd : Rnd) (num sat : Bool) (rel : FRel) (ts td : CvtTy) (la : LA)
    (fmt : BitVec 8) (nf : NarrowFmt) (k : BitVec 2),
    FpTraps (.fadd ⟨gd, d, a, b, ty, rnd⟩) gd (fun src j => perElem ty (fun e =>
      addNums ty.fmt rnd [fpNum ty src a j e, fpNum ty src b j e])) ∧
    FpTraps (.fsub ⟨gd, d, a, b, ty, rnd⟩) gd (fun src j => perElem ty (fun e =>
      addNums ty.fmt rnd [fpNum ty src a j e, (fpNum ty src b j e).neg])) ∧
    FpTraps (.fmul ⟨gd, d, a, b, ty, rnd⟩) gd (fun src j => perElem ty (fun e =>
      mulNums ty.fmt rnd (fpNum ty src a j e) (fpNum ty src b j e))) ∧
    FpTraps (.ffma ⟨gd, d, a, b, c, ty, rnd⟩) gd (fun src j => perElem ty (fun e =>
      fmaNums ty.fmt rnd (fpNum ty src a j e) (fpNum ty src b j e) (fpNum ty src c j e))) ∧
    FpTraps (.fmin ⟨gd, d, a, b, ty, num⟩) gd (fun src j => perElem ty (fun e =>
      minMaxNum ty.fmt false num (ty.elem (a.fbits src ty j) e) (ty.elem (b.fbits src ty j) e))) ∧
    FpTraps (.fmax ⟨gd, d, a, b, ty, num⟩) gd (fun src j => perElem ty (fun e =>
      minMaxNum ty.fmt true num (ty.elem (a.fbits src ty j) e) (ty.elem (b.fbits src ty j) e))) ∧
    FpTraps (.fcmp ⟨gd, p, a, b, ty, rel, sat⟩) gd (fun src j =>
      (0, (fcmpNum rel sat (fpNum ty src a j 0) (fpNum ty src b j 0)).2)) ∧
    FpTraps (.cvt ⟨gd, d, a, ts, td, rnd, sat⟩) gd (cvtLane ⟨gd, d, a, ts, td, rnd, sat⟩) ∧
    (elemFmt fmt = some (.narrow nf) →
      FpTraps (.cvtn ⟨gd, d, a, ty, fmt, rnd, sat⟩) gd (fun src j => cvtnNum nf (rnd == .rn) sat (fpNum ty src a j 0)) ∧
      FpTraps (.cvtw ⟨gd, d, a, ty, fmt, k⟩) gd (fun src j =>
        roundAny ty.fmt .rn false (nf.decode ((a.word src j).toNat / 2 ^ (8 * k.toNat))))) ∧
    ∀ row ∈ specialFns, FpTraps (row.1 ⟨gd, la, d, a, rnd⟩) gd (fun src j => sfu row.2 rnd (a.word src j).toNat)

/-- R371, R404, R381: PACK, UNPACK and QSCALE complete for a narrow format. Each code of the lane's stream of 6- or 4-bit codes
and 8-bit fields is carried over, in order. -/
def Obligations.PackUnpack : Prop :=
  ∀ (s : State) (r : SplitRef) (g : Group) (gd : Guard) (d a : VReg) (u : SReg) (fmt n : BitVec 8) (ty : FTy) (nf : NarrowFmt),
    Issuing s r g → elemFmt fmt = some (.narrow nf) →
      let src := s.reads r g
      let m := src.active r.k gd
      let kb := packK fmt
      (d.toNat + (packRegs fmt).2 ≤ g.vregs.length →
        Effect (.pack ⟨gd, d, a, fmt⟩) s r g { v := (List.range (packRegs fmt).2).map (fun i => d.toNat + i) }
          (fun g' => ∀ j, j < 32 → ∀ bit, bit < 32 * (packRegs fmt).2 →
            (g'.v (d.toNat + bit / 32) j).getLsbD (bit % 32) =
              if Mask.has m j then (src.v (a.toNat + bit / kb / 4) j).getLsbD (8 * (bit / kb % 4) + bit % kb)
              else (g.v (d.toNat + bit / 32) j).getLsbD (bit % 32))) ∧
      (d.toNat + (packRegs fmt).1 ≤ g.vregs.length →
        Effect (.unpack ⟨gd, d, a, fmt⟩) s r g { v := (List.range (packRegs fmt).1).map (fun i => d.toNat + i) }
          (fun g' => ∀ j, j < 32 → ∀ e, e < packCount fmt → ∀ bit, bit < 8 →
            (g'.v (d.toNat + e / 4) j).getLsbD (8 * (e % 4) + bit) =
              if Mask.has m j then
                decide (bit < kb) && (src.v (a.toNat + (kb * e + bit) / 32) j).getLsbD ((kb * e + bit) % 32)
              else (g.v (d.toNat + e / 4) j).getLsbD (8 * (e % 4) + bit))) ∧
      (u.toNat < g.sregs.length →
        Effect (.qscale ⟨gd, u, a, fmt, n, ty⟩) s r g { s := [u.toNat] }
          (fun g' => g'.s u.toNat = BitVec.ofNat 64 (qscaleCode nf (qscaleMax ⟨gd, u, a, fmt, n, ty⟩ src r.k))))

/-! ## Long-latency instructions -/

/-- R95, R115, R344: a special function opens with its results; its destination keeps its values until the completion, and its
flags accrue there. While an enable is set it opens as if LA were zero (R114). The values are those of the model's series (log
20). -/
def Obligations.SpecialFunctions : Prop :=
  ∀ row ∈ specialFns, ∀ (s : State) (r : SplitRef) (g : Group) (gd : Guard) (la : LA) (d : VReg) (a : Src) (rnd : Rnd),
    Issuing s r g →
      let src := s.reads r g
      let m := src.active r.k gd
      let f (j : Nat) : Nat × Flags := sfu row.2 rnd (a.word src j).toNat
      let vecs : List VecDest := [⟨d.toNat, m, perLane (fun j => BitVec.ofNat 32 (f j).1), none, false⟩]
      orFlags m (fun j => (f j).2) &&& g.enables = 0 →
        Effect (row.1 ⟨gd, la, d, a, rnd⟩) s r g (longWrites vecs)
          (fun g' => Opens g g' r.k .alu (if g.enables = 0 then la else 0) vecs [] (orFlags m (fun j => (f j).2)))

/-- The lane that a lane of SHFL reads (Table 19.2), in a segment of `w` lanes. -/
def shuffledLane (mode : ShflMode) (w b i : Nat) : Nat :=
  match mode with
  | .idx => i / w * w + b % w
  | .up => if i % w < b then i else i - b
  | .down => if w ≤ i % w + b then i else i + b
  | .xor => i ^^^ (b % w)

/-- R320, R332, R392, R405: BCAST, SHFL, CONFLICT, CONFLICT.ALL and VOTE open with the values that their sources hold at issue; a
source lane that has exited reads zero. -/
def Obligations.CrossLane : Prop :=
  ∀ (s : State) (r : SplitRef) (g : Group) (gd : Guard) (la : LA) (d a : VReg) (b : Src) (w : BitVec 8) (ty : IntTy)
    (mode : ShflMode) (p q : PReg) (u : SReg),
    Issuing s r g →
      let src := s.reads r g
      let m := src.active r.k gd
      let x (j : Nat) : DWord := if ty.wide then src.vPair a.toNat j else (src.v a.toNat j).setWidth 64
      let lane (j : Nat) : DWord := if Mask.has src.ctl.live j then x j else 0
      let opens (i : Instr) (vecs : List VecDest) (unis : List UniDest) : Prop :=
        Effect i s r g (longWrites vecs) (fun g' => Opens g g' r.k .alu la vecs unis 0)
      let same (i j : Nat) : Bool := Mask.has m j && x j == x i
      opens (.bcast ⟨gd, la, d, a, b, ty⟩) (vecDests d.toNat ty.wide m (fun _ => lane ((b.word src 0).toNat % 32))) [] ∧
      opens (.shfl ⟨gd, la, d, a, b, w, ty, mode⟩) (vecDests d.toNat ty.wide m (fun i =>
        lane (shuffledLane mode (if w = 0 then 32 else w.toNat) (b.word src i).toNat i))) [] ∧
      opens (.conflict ⟨gd, la, d, a, ty⟩) (vecDests d.toNat false m (fun i =>
        (Mask.ofFn (fun j => same i j && decide (j < i))).setWidth 64)) [] ∧
      opens (.conflictAll ⟨gd, la, d, a, ty⟩) (vecDests d.toNat false m (fun i =>
        (Mask.ofFn (fun j => same i j && decide (j ≠ i))).setWidth 64)) [] ∧
      opens (.vote gd la (.any q p)) [] [.q q.toNat (m &&& src.p p.toNat != 0)] ∧
      opens (.vote gd la (.all q p)) [] [.q q.toNat (m &&& ~~~src.p p.toNat == 0)] ∧
      opens (.vote gd la (.uni q p)) [] [.q q.toNat (m &&& src.p p.toNat == 0 || m &&& ~~~src.p p.toNat == 0)] ∧
      opens (.vote gd la (.ballot u p)) [] [.s u.toNat ((m &&& src.p p.toNat).setWidth 64)]

/-- R384, R389, R390: REDUX, SCAN and SEGRED of integers open with the reduction over the active lanes, the lanes up to or
below each lane, and the lanes of equal key; those of F32 do while no flag they raise is enabled. A single NaN in MIN and MAX
is the model's reading (log 27). -/
def Obligations.Reductions : Prop :=
  ∀ (s : State) (r : SplitRef) (g : Group) (gd : Guard) (la : LA) (d a b : VReg) (u : SReg) (t : IntTy) (op : RedOp) (rnd : Rnd)
    (sat excl : Bool),
    Issuing s r g →
      let src := s.reads r g
      let m := src.active r.k gd
      let num (j : Nat) : Int := (Src.v a).num src t j
      let upTo (j : Nat) : List Nat := m.lanes.filter (fun i => decide (if excl then i < j else i ≤ j))
      let keyed (j : Nat) : List Nat := m.lanes.filter (fun i => src.v b.toNat i == src.v b.toNat j)
      let f32 (l : List Nat) : Nat × Flags := redF32 op rnd (l.map (fun j => (src.v a.toNat j).toNat))
      let laF : LA := if g.enables = 0 then la else 0
      Effect (.redux ⟨gd, la, u, a, .int t, op, rnd, sat⟩) s r g { long := true }
        (fun g' => Opens g g' r.k .alu la [] [.s u.toNat (uniExtend t (redInt t op sat (m.lanes.map num)))] 0) ∧
      Effect (.scan ⟨gd, la, d, a, .int t, op, excl, rnd, sat⟩) s r g
        (longWrites (vecDests d.toNat t.wide m (fun j => redInt t op sat ((upTo j).map num))))
        (fun g' => Opens g g' r.k .alu la (vecDests d.toNat t.wide m (fun j => redInt t op sat ((upTo j).map num))) [] 0) ∧
      Effect (.segred ⟨gd, la, d, a, b, .int t, op, rnd, sat⟩) s r g
        (longWrites (vecDests d.toNat t.wide m (fun j => redInt t op sat ((keyed j).map num))))
        (fun g' => Opens g g' r.k .alu la (vecDests d.toNat t.wide m (fun j => redInt t op sat ((keyed j).map num))) [] 0) ∧
      (orFlags m (fun _ => (f32 m.lanes).2) &&& g.enables = 0 →
        Effect (.redux ⟨gd, la, u, a, .f32, op, rnd, sat⟩) s r g { long := true }
          (fun g' => Opens g g' r.k .alu laF [] [.s u.toNat ((BitVec.ofNat 32 (f32 m.lanes).1).setWidth 64)]
            (orFlags m (fun _ => (f32 m.lanes).2)))) ∧
      (orFlags m (fun j => (f32 (upTo j)).2) &&& g.enables = 0 →
        Effect (.scan ⟨gd, la, d, a, .f32, op, excl, rnd, sat⟩) s r g
          (longWrites (vecDests d.toNat false m (fun j => BitVec.ofNat 64 (f32 (upTo j)).1)))
          (fun g' => Opens g g' r.k .alu laF (vecDests d.toNat false m (fun j => BitVec.ofNat 64 (f32 (upTo j)).1)) []
            (orFlags m (fun j => (f32 (upTo j)).2)))) ∧
      (orFlags m (fun j => (f32 (keyed j)).2) &&& g.enables = 0 →
        Effect (.segred ⟨gd, la, d, a, b, .f32, op, rnd, sat⟩) s r g
          (longWrites (vecDests d.toNat false m (fun j => BitVec.ofNat 64 (f32 (keyed j)).1)))
          (fun g' => Opens g g' r.k .alu laF (vecDests d.toNat false m (fun j => BitVec.ofNat 64 (f32 (keyed j)).1)) []
            (orFlags m (fun j => (f32 (keyed j)).2))))

/-- R60, R95, R113: at its completion a long-latency instruction's results are written, in the lanes still live (LDLINES writes
every lane position), its uniform results and flags with them, and it is no longer in flight. The group caliper of a register becomes its
interval, where one split holds all live lanes and they were all written, else the hull with the interval; so do, for a single
destination, the views of the splits that hold written lanes. Which splits those are is the model's choice (log 42). An MMA whose
operands have not all been read yet (R134) is no such instruction: its completion reads them first. R369: at the completion of
an MST its rows have left the store queue, with what stood before them. -/
def Obligations.Completion : Prop :=
  ∀ (s : State) (r : GroupRef) (g : Group) (p : Pending),
    s.group? r = some g → g.inflight.find? (fun x => x.id == p.id) = some p → s.clocked = true →
    (p.vecs.map (fun d => d.reg)).Nodup → (∀ d ∈ p.vecs, d.reg < g.vregs.length) →
      let done (i : Instr) : Prop := ∃ t g', exec i s = .next t ∧ t.group? r = some g' ∧
        (∀ d ∈ p.vecs, ∀ j, j < 32 → g'.v d.reg j =
          if Mask.has d.mask j && (d.all || Mask.has g.ctl.live j) then regGet 0 d.vals j else g.v d.reg j) ∧
        (∀ n, n ∉ p.vecs.map (fun d => d.reg) → g'.vec n = g.vec n ∧ g'.cal n = g.cal n) ∧
        (∀ d ∈ p.vecs, d.reg < g.cals.length →
          let m := d.mask &&& g.ctl.live
          g'.cal d.reg = (if d.all then none else if m = 0 then g.cal d.reg
            else if g.usedSplits.length ≤ 1 ∧ g.ctl.live &&& ~~~m = 0 then d.cal else hull (g.cal d.reg) d.cal) ∧
          (p.vecs = [d] → d.all = false → ∀ k ∈ g.usedSplits, (g.split k).mask &&& m ≠ 0 →
            g'.view k d.reg = if (g.split k).mask &&& ~~~m = 0 then d.cal else hull (g.view k d.reg) d.cal)) ∧
        (∀ n x, p.unis = [.s n x] → n < g.sregs.length → g'.s n = x) ∧
        (∀ n x, p.unis = [.q n x] → (n < 7 → n < g.qregs.length → g'.q n = x) ∧ (n = 7 → g'.qregs = g.qregs)) ∧
        (p.unis = [] → g'.sregs = g.sregs ∧ g'.qregs = g.qregs) ∧
        g'.fflags = g.fflags ||| p.flags.setWidth 64 ∧ g'.inflight = g.inflight.filter (fun x => x.id != p.id) ∧
        g'.pregs = g.pregs ∧ g'.aregs = g.aregs ∧ g'.hregs = g.hregs ∧ g'.storeQ = g.storeQ ∧ SameMemory s t
      (p.kind = .alu → done (.longLatencyCompletion r p.id)) ∧ (p.kind = .load → done (.loadCompletion r p.id)) ∧
        (p.kind = .matrix → p.job = none → (∀ e ∈ g.storeQ, e.mst ≠ some p.id) → done (.matrixCompletion r p.id)) ∧
        (p.kind = .matrix → ∃ t g', exec (.matrixCompletion r p.id) s = .next t ∧ t.group? r = some g' ∧
          g'.inflight.map (fun x => x.id) = (g.inflight.filter (fun x => x.id != p.id)).map (fun x => x.id) ∧
          ∃ left, g.storeQ = left ++ g'.storeQ ∧ ∀ e ∈ g'.storeQ, e.mst ≠ some p.id)

/-! ## Array registers and calipers -/

/-- R68, R69, R314: ASET, AGET and AOFF complete: an accepted descriptor is held whole, read back in four registers, and advanced
to its element N with EXTENT less N. -/
def Obligations.ArrayRegisters : Prop :=
  ∀ (s : State) (r : SplitRef) (g : Group) (gd : Guard) (d a : AReg) (u v : SReg) (x : BitVec 256) (n : Int),
    Issuing s r g →
      let src := s.reads r g
      (src.passes gd = true → x = src.s (u.toNat + 3) ++ src.s (u.toNat + 2) ++ src.s (u.toNat + 1) ++ src.s u.toNat →
        arBad x = false → arMisbased x = false → d.toNat < g.aregs.length →
          Effect (.aset gd d u) s r g { a := [d.toNat] } (fun g' => g'.a d.toNat = x)) ∧
      (src.passes gd = true → v.toNat + 3 < g.sregs.length →
        Effect (.aget gd v a) s r g { s := [v.toNat, v.toNat + 1, v.toNat + 2, v.toNat + 3] }
          (fun g' => g'.s (v.toNat + 3) ++ g'.s (v.toNat + 2) ++ g'.s (v.toNat + 1) ++ g'.s v.toNat = src.a a.toNat)) ∧
      (src.passes gd = true → x = src.a a.toNat → arBad x = false → n = ((src.s u.toNat).extractLsb' 0 32).toInt →
        (0 ≤ n ∧ n ≤ arExtent x →
          ((arEsz x = 6 → n % 2 = 0) → (arEsz x = 5 → n % 4 = 0) → d.toNat < g.aregs.length →
            Effect (.aoff gd d a u) s r g { a := [d.toNat] } (fun g' =>
              arBase (g'.a d.toNat) = arBase x + BitVec.ofNat 64 (n.toNat * eszBits (arEsz x) / 8) ∧
              (arExtent (g'.a d.toNat) : Int) = arExtent x - n ∧
              (g'.a d.toNat).extractLsb' 95 161 = x.extractLsb' 95 161)) ∧
          (g.mayTrap → (arEsz x = 6 ∧ n % 2 ≠ 0) ∨ (arEsz x = 5 ∧ n % 4 ≠ 0) →
            TakesTrap (.aoff gd d a u) s r g (g.split r.k).mask 7 (BitVec.ofInt 64 n) 0)) ∧
        (g.mayTrap → n < 0 ∨ (arExtent x : Int) < n →
          TakesTrap (.aoff gd d a u) s r g (g.split r.k).mask 5 (BitVec.ofInt 64 n) 0)) ∧
      (src.passes gd = false →
        Effect (.aset gd d u) s r g {} (fun _ => True) ∧ Effect (.aget gd v a) s r g {} (fun _ => True) ∧
          Effect (.aoff gd d a u) s r g {} (fun _ => True))

/-- R67, R329: CALGET reads the view, the full range when it is unknown; CALSET, in a supervisor context, and CALTOP set the
caliper in every split. R58, R67, R406: WIDEN.CLAMP clamps the active lanes to its bounds and WIDEN.TRAP requires them there,
unless the view already lies within the bounds; the caliper is then written with the bounds. A lane outside them is CALIPER,
with the lanes in TVAL. -/
def Obligations.Calipers : Prop :=
  (∀ (s : State) (r : SplitRef) (g : Group) (c : Context) (gd : Guard) (u : SReg) (a : VReg),
     Issuing s r g → s.ctx r.slot = some c →
       let src := s.reads r g
       let lo := ((src.s u.toNat).extractLsb' 0 32).toInt
       let hi := ((src.s u.toNat).extractLsb' 32 32).toInt
       (src.passes gd = true → u.toNat < g.sregs.length →
         Effect (.calget gd u a) s r g { s := [u.toNat] } (fun g' => g'.s u.toNat =
           match src.view r.k a.toNat with
           | some iv => BitVec.ofInt 32 iv.hi ++ BitVec.ofInt 32 iv.lo
           | none => BitVec.ofInt 32 (2 ^ 31 - 1) ++ BitVec.ofInt 32 (-2 ^ 31))) ∧
       (src.passes gd = true → c.sup = true → lo ≤ hi → a.toNat < g.cals.length →
         Effect (.calset gd a u) s r g { v := [a.toNat], ovr := true }
           (fun g' => (∀ k, g'.view k a.toNat = some ⟨lo, hi⟩) ∧ g'.vec a.toNat = g.vec a.toNat)) ∧
       (src.passes gd = true →
         Effect (.caltop gd a) s r g { v := [a.toNat], ovr := true }
           (fun g' => (∀ k, g'.view k a.toNat = none) ∧ g'.vec a.toNat = g.vec a.toNat)) ∧
       (src.passes gd = false →
         Effect (.calget gd u a) s r g {} (fun _ => True) ∧ Effect (.calset gd a u) s r g {} (fun _ => True) ∧
           Effect (.caltop gd a) s r g {} (fun _ => True))) ∧
  (∀ (s : State) (r : SplitRef) (g : Group) (gd : Guard) (d : VReg) (a b : SReg),
     Issuing s r g → d.toNat < g.vregs.length →
       let src := s.reads r g
       let m := src.active r.k gd
       let lo := ((src.s a.toNat).extractLsb' 0 32).toInt
       let hi := ((src.s b.toNat).extractLsb' 0 32).toInt
       let x (j : Nat) : Int := (src.v d.toNat j).toInt
       let within := provenIn (src.view r.k d.toNat) lo hi = true
       let out := m &&& Mask.ofFn (fun j => decide (x j < lo) || decide (hi < x j))
       let caliper (g' : Group) : Prop := m ≠ 0 → g'.view r.k d.toNat =
         if maskCovers m (g.split r.k).mask then some ⟨lo, hi⟩ else hull (g.view r.k d.toNat) (some ⟨lo, hi⟩)
       lo ≤ hi →
         (¬within → Effect (.widenClamp gd d a b) s r g { v := [d.toNat] } (fun g' => caliper g' ∧
           ∀ j, j < 32 → g'.v d.toNat j = if Mask.has m j then BitVec.ofInt 32 (min (max (x j) lo) hi) else g.v d.toNat j)) ∧
         (within → Effect (.widenClamp gd d a b) s r g { v := [d.toNat] } (fun g' => caliper g' ∧ g'.vec d.toNat = g.vec d.toNat)) ∧
         (within ∨ out = 0 →
           Effect (.widenTrap gd d a b) s r g { v := [d.toNat] } (fun g' => caliper g' ∧ g'.vec d.toNat = g.vec d.toNat)) ∧
         (g.mayTrap → ¬within → out ≠ 0 →
           TakesTrap (.widenTrap gd d a b) s r g (g.active r.k gd) 6 (out.setWidth 64) 0))

/-! ## Control transfers -/

/-- R31: one more set of lanes finds a free entry, `k2` the lowest, and the spilled entries of both stacks are copied to it, which gives `s1`. -/
structure Splits (s s1 : State) (r : SplitRef) (g : Group) (k2 : Nat) : Prop where
  small  : k2 < 4
  table  : g.splits.length = 4
  free   : (g.split k2).st = .free
  lowest : ∀ j, j < k2 → (g.split j).st ≠ .free
  copied : ∃ s0, s.entered.copySpill (s.entered.cxOf r) (g.countWindows r.k) r.k k2 false = .ok () s0 ∧
    s0.copySpill (s.entered.cxOf r) (g.countWindows r.k) r.k k2 true = .ok () s1
  group  : s1.group? r.group = some g

/-- R31: instruction `i` divides its split: its lanes of `m` go to `target`, with return stack `ret` and loop levels `loops`, the others to the
next header with those of the split. The set of the lower address stays in the split, of two equal ones that of `m` (log 40), the other goes on
in entry `k2`, and both hold the divergence stack. `also` holds of the split of `m` and of the other. -/
def Divides (i : Instr) (s s1 : State) (r : SplitRef) (g : Group) (k2 : Nat) (m : Mask) (target : DWord) (ret : Stack)
    (loops : List LoopLevel) (also : Split → Split → Prop) : Prop :=
  let sp := g.split r.k
  let way (x : Split) (pc : DWord) (mask : Mask) (rs : Stack) (ls : List LoopLevel) : Prop :=
    x.st = .ready ∧ x.clause = none ∧ x.pc = pc ∧ x.mask = mask ∧ x.ret = rs ∧ x.div = sp.div ∧ x.loops = ls
  ∃ t g', exec i s = .next t ∧ t.group? r.group = some g' ∧ SameMemory s1 t ∧ g.SameRegs g' ∧
    (∀ j, j ≠ r.k → j ≠ k2 → { g'.split j with st := .ready } = { g.split j with st := .ready }) ∧
    let stays := target.toNat ≤ sp.nextHdr.toNat
    let on := if stays then g'.split r.k else g'.split k2
    let off := if stays then g'.split k2 else g'.split r.k
    way on target m ret loops ∧ way off sp.nextHdr (sp.mask &&& ~~~m) sp.ret sp.loops ∧ also on off

/-- The same for a computed target: where the target or the next header has bits [59:56] set, the split that comes there halts (log 43). -/
def DividesTo (i : Instr) (s s1 : State) (r : SplitRef) (g : Group) (k2 : Nat) (m : Mask) (target : DWord) (ret : Stack)
    (also : Split → Split → Prop) : Prop :=
  (pcPos target = 0 → pcPos (g.split r.k).nextHdr = 0 → Divides i s s1 r g k2 m target ret (g.split r.k).loops also) ∧
    (pcPos target ≠ 0 ∨ pcPos (g.split r.k).nextHdr ≠ 0 → ∃ t g', exec i s = .next t ∧ t.group? r.group = some g' ∧
      ((g'.split r.k).st = .halted ∨ (g'.split k2).st = .halted))

/-- R31, R35: with no entry free, instruction `i` goes on with the set of the lower address and pushes the other, PENDING at its address or,
where it is to execute the instruction again, at the instruction's own; the overrides stay (R66). -/
def Pushes (i : Instr) (s : State) (r : SplitRef) (g : Group) (m : Mask) (target : DWord) (redo : Bool) (ret : Stack)
    (loops : List LoopLevel) : Prop :=
  let sp := g.split r.k
  let other := sp.mask &&& ~~~m
  let stays := target.toNat ≤ sp.nextHdr.toNat
  let entry : StackEntry := ⟨if redo then sp.pc else if stays then sp.nextHdr else target, if stays then other else m, .pending⟩
  let div : Stack := { sp.div with chip := sp.div.chip ++ [entry], depth := sp.div.depth + 1 }
  ∃ t g', exec i s = .next t ∧ t.group? r.group = some g' ∧ (g'.split r.k).ovr = sp.ovr ∧
    if stays then JumpedTo s t g g' r.k target m ret div loops else JumpedTo s t g g' r.k sp.nextHdr other sp.ret div sp.loops

/-- Every entry of the split table is in use, and the divergence stack takes one more entry on chip. -/
def FullTable (g : Group) (k : Nat) : Prop :=
  (∀ j, j < 4 → (g.split j).st ≠ .free) ∧ (g.split k).div.chip.length < 8 ∧ (g.split k).div.depth < 1024

/-- The condition that holds where `c` does not, and `c` with its operands exchanged. -/
def condNot : Cond → Cond
  | .eq => .ne | .ne => .eq | .lt => .ge | .ge => .lt | .le => .gt | .gt => .le
  | .ltu => .geu | .geu => .ltu | .leu => .gtu | .gtu => .leu
def condSwap : Cond → Cond
  | .eq => .eq | .ne => .ne | .lt => .gt | .gt => .lt | .le => .ge | .ge => .le
  | .ltu => .gtu | .gtu => .ltu | .leu => .geu | .geu => .leu
def condUnsigned : Cond → Bool
  | .ltu | .leu | .gtu | .geu => true
  | .eq | .ne | .lt | .le | .gt | .ge => false

/-- Table 3.5: the interval of a where the condition holds of a and b. -/
def refinedInterval (c : Cond) (a b : Interval) : Interval :=
  match c with
  | .lt | .ltu => ⟨a.lo, min a.hi (b.hi - 1)⟩
  | .le | .leu => ⟨a.lo, min a.hi b.hi⟩
  | .gt | .gtu => ⟨max a.lo (b.lo + 1), a.hi⟩
  | .ge | .geu => ⟨max a.lo b.lo, a.hi⟩
  | .eq => ⟨max a.lo b.lo, min a.hi b.hi⟩
  | .ne => if b.lo = b.hi ∧ b.lo = a.lo then ⟨a.lo + 1, a.hi⟩ else if b.lo = b.hi ∧ b.lo = a.hi then ⟨a.lo, a.hi - 1⟩ else a

/-- R65: what a BRC refines a to on its taken or its other path, where it refines it. -/
def Refines (c : Cond) (taken : Bool) (a b : Caliper) (iv : Interval) : Prop :=
  ∃ x y, a = some x ∧ b = some y ∧ (condUnsigned c = true → 0 ≤ x.lo ∧ 0 ≤ y.lo) ∧
    iv = refinedInterval (if taken then c else condNot c) x y ∧ iv.lo ≤ iv.hi

/-- R31, R324, R325, R328: a branch that every lane of the split takes goes to its target, one that none takes to the next
header; masks, stacks, loop levels and registers stay. Where that address has bits [59:56] set it is no header's and the split halts there
with TARGET (R75, R78; log 43). R31: where lanes go both ways and an entry is free, the branch divides the split. R35: with every entry in use
it pushes the other set. R36: the 64th backward branch of a path with others on its divergence stack puts the path at the bottom, on chip or in
its slot with a new spill tag (R38), and goes on with the top one. R65, R66, R325: BRC refines the calipers of its vector operands by Table 3.5,
in the group for a split alone with every live lane active, in the override of each split else, the other path only of the unguarded form. -/
def Obligations.Branches : Prop :=
  (∀ (s : State) (r : SplitRef) (g : Group) (gd : Guard) (disp : BitVec 32) (disp24 : BitVec 24) (cond : Cond) (a : VReg) (b : Src)
     (u : SReg),
     Issuing s r g → (g.split r.k).mask ≠ 0 → (g.split r.k).back < 63 ∨ (g.split r.k).div.depth = 0 →
       let sp := g.split r.k
       let src := s.reads r g
       let act := src.active r.k gd
       let own := pcWord sp.pc
       let goes (i : Instr) (m : Mask) (target : DWord) : Prop :=
         let lands (pc : DWord) : Prop := if pcPos pc = 0 then Jumps i s r g pc sp.mask sp.ret sp.div sp.loops else BadTarget i s r g pc
         (m = sp.mask → lands target) ∧ (m = 0 → lands sp.nextHdr)
       let taken := Mask.ofFn (fun j => Mask.has act j && condTrue 32 (src.v a.toNat j) (b.word src j) cond)
       let offset := disp24.signExtend 64 <<< 3
       goes (.bra gd disp) act (own + disp.signExtend 64) ∧
       goes (.brx gd (.uni u disp)) act (own + disp.signExtend 64 + ((src.s u.toNat).extractLsb' 0 32).setWidth 64) ∧
       goes (.brx gd (.full u)) act (src.s u.toNat) ∧
       (∀ target, (∀ j, j < 32 → own + disp.signExtend 64 + (src.v a.toNat j).setWidth 64 = target) →
         goes (.brx gd (.vec a disp)) act target) ∧
       (let pc := if taken = 0 then sp.nextHdr else own + offset
        let va := src.view r.k a.toNat
        let vb := b.cal src r.k
        let way := decide (taken ≠ 0)
        taken = sp.mask ∨ taken = 0 →
         ∃ t g', exec (.brc gd cond a b disp24) s = .next t ∧ t.group? r.group = some g' ∧
           (if pcPos pc = 0 then (g'.split r.k).pc = pc ∧ (g'.split r.k).st = .ready
            else (g'.split r.k).pc = atPosZero pc ∧ (g'.split r.k).st = .halted) ∧
            (g'.split r.k).mask = sp.mask ∧ (g'.split r.k).ret = sp.ret ∧ (g'.split r.k).div = sp.div ∧
           (g'.split r.k).loops = sp.loops ∧ g'.vregs = g.vregs ∧ g'.sregs = g.sregs ∧ g'.pregs = g.pregs ∧ g'.qregs = g.qregs ∧
           (∀ n, n ≠ a.toNat → (∀ vb, b = .v vb → n ≠ vb.toNat) → g'.cal n = g.cal n) ∧ (pcPos pc = 0 → SameMemory s t) ∧
           (let refined (n : Nat) (iv : Interval) : Prop := n < g.cals.length →
              if g.onlySplit r.k = true ∧ act = g.ctl.live then g'.cal n = some iv
              else g'.cal n = g.cal n ∧ (g'.split r.k).override? n = some (some iv)
            (way = true ∨ gd = Guard.always →
              (∀ iv, Refines cond way va vb iv → refined a.toNat iv) ∧
              ∀ v iv, b = .v v → v ≠ a → Refines (condSwap cond) way vb va iv → refined v.toNat iv) ∧
            ((way = false ∧ gd ≠ Guard.always) ∨ va = none ∨ vb = none → g'.cals = g.cals ∧ (g'.split r.k).ovr = sp.ovr)))) ∧
  (∀ (s s1 : State) (r : SplitRef) (g : Group) (gd : Guard) (disp : BitVec 32) (disp24 : BitVec 24) (cond : Cond) (a x : VReg) (b : Src)
     (u : SReg) (k2 : Nat),
     Issuing s r g → (g.split r.k).back < 63 ∨ (g.split r.k).div.depth = 0 →
       let sp := g.split r.k
       let src := s.reads r g
       let act := src.active r.k gd
       let own := pcWord sp.pc
       let parts (m : Mask) (target : DWord) : Prop := m ≠ 0 ∧ sp.mask &&& ~~~m ≠ 0 ∧ target ≠ sp.nextHdr
       let taken := Mask.ofFn (fun j => Mask.has act j && condTrue 32 (src.v a.toNat j) (b.word src j) cond)
       let braTo := own + disp.signExtend 64
       let brcTo := own + (disp24.signExtend 64 <<< 3)
       let uniTo := own + disp.signExtend 64 + ((src.s u.toNat).extractLsb' 0 32).setWidth 64
       let fullTo := src.s u.toNat
       let va := src.view r.k a.toNat
       let vb := b.cal src r.k
       let way (y : Split) (tk : Bool) : Prop :=
         (∀ iv, Refines cond tk va vb iv → y.override? a.toNat = some (some iv)) ∧
           ∀ v iv, b = .v v → v ≠ a → Refines (condSwap cond) tk vb va iv → y.override? v.toNat = some (some iv)
       let refined (on off : Split) : Prop := way on true ∧ (gd = Guard.always → way off false) ∧
         (gd ≠ Guard.always → off.ovr = sp.ovr) ∧ (va = none ∨ vb = none → on.ovr = sp.ovr ∧ off.ovr = sp.ovr)
       let kept (on off : Split) : Prop := on.ovr = sp.ovr ∧ off.ovr = sp.ovr
       (Splits s s1 r g k2 →
         (parts act braTo → DividesTo (.bra gd disp) s s1 r g k2 act braTo sp.ret kept) ∧
         (parts taken brcTo → DividesTo (.brc gd cond a b disp24) s s1 r g k2 taken brcTo sp.ret refined) ∧
         (parts act uniTo → DividesTo (.brx gd (.uni u disp)) s s1 r g k2 act uniTo sp.ret kept) ∧
         (parts act fullTo → DividesTo (.brx gd (.full u)) s s1 r g k2 act fullTo sp.ret kept) ∧
         (∀ target, (∀ j, Mask.has act j = true → own + disp.signExtend 64 + (src.v x.toNat j).setWidth 64 = target) → parts act target →
           DividesTo (.brx gd (.vec x disp)) s s1 r g k2 act target sp.ret kept)) ∧
       (FullTable g r.k → sp.back < 63 →
         let pushes (i : Instr) (m : Mask) (target : DWord) : Prop := parts m target →
           (pcPos target = 0 → pcPos sp.nextHdr = 0 → Pushes i s r g m target false sp.ret sp.loops) ∧
           (pcPos target ≠ 0 ∨ pcPos sp.nextHdr ≠ 0 →
             ∃ t g', exec i s = .next t ∧ t.group? r.group = some g' ∧ (g'.split r.k).st = .halted)
         pushes (.bra gd disp) act braTo ∧ pushes (.brc gd cond a b disp24) taken brcTo ∧ pushes (.brx gd (.uni u disp)) act uniTo ∧
           pushes (.brx gd (.full u)) act fullTo)) ∧
  (∀ (s s1 : State) (r : SplitRef) (g : Group) (gd : Guard) (disp : BitVec 32) (es : List StackEntry) (e : StackEntry),
     Issuing s r g →
       let sp := g.split r.k
       let target := pcWord sp.pc + disp.signExtend 64
       let mine : StackEntry := ⟨target, sp.mask, .pending⟩
       let on := if e.kind = .pending then e.pc else pcHdr e.pc + BitVec.ofNat 64 (8 * (pcPos e.pc + 2))
       (s.reads r g).active r.k gd = sp.mask → sp.mask ≠ 0 → sp.back = 63 → pcPos target = 0 → target ≠ sp.nextHdr →
       (pcHdr target).toNat ≤ (pcHdr sp.pc).toNat → sp.div.chip = es ++ [e] → 0 < sp.div.depth →
         (sp.div.chip.length < 8 → sp.div.depth ≤ sp.div.chip.length →
           ∃ t g', exec (.bra gd disp) s = .next t ∧ t.group? r.group = some g' ∧ (g'.split r.k).back = 0 ∧ (g'.split r.k).ovr = [] ∧
             JumpedTo s t g g' r.k on e.mask sp.ret { sp.div with chip := mine :: es } sp.loops) ∧
         (8 ≤ sp.div.chip.length ∨ sp.div.chip.length < sp.div.depth → es ≠ [] →
           let bot := (sp.div.bot + 1023) % 1024
           s.entered.spillWrite (s.entered.cxOf r) (spillAddr g r.k true bot) (entryBytes mine) = .ok () s1 → s1.group? r.group = some g →
           ∃ t g', exec (.bra gd disp) s = .next t ∧ t.group? r.group = some g' ∧ (g'.split r.k).back = 0 ∧ (g'.split r.k).ovr = [] ∧
             g'.ctl = { g.ctl with spillCnt := g.ctl.spillCnt + 1 } ∧
             JumpedTo s1 t { g with ctl := g'.ctl } g' r.k on e.mask sp.ret
               { sp.div with chip := es, bot := bot, tag := g.ctl.spillCnt + 1 } sp.loops))

/-- R38, R330, R386: a CALL of every lane pushes the next header and goes to its target; a RET pops and goes there. With no active lane both
fall through. An address that CALL or LOOP computes with bits [59:56] set is TARGET (R75, R78; log 43). R326, R362: LOOP opens the next
level and goes on after its clause, or with a count of zero goes to its end; LOOP.END goes back while the count is above one and closes the
level at one; BREAKL of every lane closes it and leaves. R31, R35: where lanes go both ways, CALL, RET and BREAKL divide the split, and with
every entry in use push the other set at their own address, to execute again. R38, R40: the push of a ninth entry on chip first writes the
four oldest to their slots, with a new spill tag, and the pop of the last on chip reads up to four back; a fault of such an access leaves
the split at its instruction, with its stacks and levels (that it waits for its service is R169's, Obligations.TrapEntry); a push beyond
1,024 entries is ACCESS. -/
def Obligations.CallsAndLoops : Prop :=
  (∀ (s s1 : State) (r : SplitRef) (g : Group) (gd : Guard) (disp : BitVec 32) (u : SReg) (es fs : List StackEntry) (e : StackEntry) (x : Exc),
     Issuing s r g → (g.split r.k).mask ≠ 0 → (g.split r.k).back < 63 ∨ (g.split r.k).div.depth = 0 →
       let sp := g.split r.k
       let src := s.reads r g
       let act := src.active r.k gd
       let cx := s.entered.cxOf r
       let back : StackEntry := ⟨sp.nextHdr, 0, .pending⟩
       let pushed : Stack := { sp.ret with chip := sp.ret.chip ++ [back], depth := sp.ret.depth + 1 }
       let popped : Stack := { sp.ret with chip := es, depth := sp.ret.depth - 1 }
       let fell (i : Instr) : Prop := Jumps i s r g sp.nextHdr sp.mask sp.ret sp.div sp.loops
       let lands (i : Instr) (pc : DWord) (ret : Stack) : Prop :=
         if pcPos pc = 0 then Jumps i s r g pc sp.mask ret sp.div sp.loops else BadTarget i s r g pc
       let precise (i : Instr) : Prop := ∃ t, exec i s = .next t ∧
         SplitComes t r g (fun y => y.ret = sp.ret ∧ y.div = sp.div ∧ y.loops = sp.loops)
       (act = sp.mask → sp.ret.chip.length < 8 → sp.ret.depth < 1024 →
         lands (.call gd (.direct disp)) (pcWord sp.pc + disp.signExtend 64) pushed ∧ lands (.call gd (.reg u)) (src.s u.toNat) pushed) ∧
       (act = 0 → lands (.call gd (.direct disp)) sp.nextHdr sp.ret ∧ lands (.call gd (.reg u)) sp.nextHdr sp.ret) ∧
       (act = sp.mask → 1024 ≤ sp.ret.depth → HaltsAt (.call gd (.direct disp)) s r g 8 ∧ HaltsAt (.call gd (.reg u)) s r g 8) ∧
       (act = sp.mask → 8 ≤ sp.ret.chip.length → sp.ret.depth < 1024 →
         let wrote := s.entered.writeEntries cx (g.countWindows r.k) r.k false sp.ret.bot sp.ret.spilled (sp.ret.chip.take 4)
         (wrote = .ok () s1 → s1.group? r.group = some g → pcPos (src.s u.toNat) = 0 →
           ∃ t g', exec (.call gd (.reg u)) s = .next t ∧ t.group? r.group = some g' ∧
             g'.ctl = { g.ctl with spillCnt := g.ctl.spillCnt + 1 } ∧
             JumpedTo s1 t { g with ctl := g'.ctl } g' r.k (src.s u.toNat) sp.mask
               { sp.ret with chip := sp.ret.chip.drop 4 ++ [back], depth := sp.ret.depth + 1, tag := g.ctl.spillCnt + 1 } sp.div sp.loops) ∧
         (wrote = .fault x → x.cause = .spillx → precise (.call gd (.direct disp)) ∧ precise (.call gd (.reg u)))) ∧
       (sp.ret.chip = es ++ [e] → es ≠ [] ∨ sp.ret.depth ≤ 1 →
         (act = sp.mask → Jumps (.ret gd) s r g e.pc sp.mask popped sp.div sp.loops) ∧
         (act = 0 → fell (.ret gd))) ∧
       (sp.ret.chip = [e] → 1 < sp.ret.depth → act = sp.mask →
         let n := min 4 (sp.ret.depth - 1)
         let read := s.entered.readEntries cx ((g.countWindows r.k).modSplit r.k (fun y => { y with ret := y.ret.dropTop })) r.k false sp.ret.bot
           (sp.ret.depth - 1 - n) n []
         (read = .ok fs s1 → s1.group? r.group = some g →
           ∃ t g', exec (.ret gd) s = .next t ∧ t.group? r.group = some g' ∧
             JumpedTo s1 t g g' r.k e.pc sp.mask { sp.ret with chip := fs, depth := sp.ret.depth - 1 } sp.div sp.loops) ∧
         (read = .fault x → x.cause = .spillx → precise (.ret gd)))) ∧
  (∀ (s : State) (r : SplitRef) (g : Group) (gd : Guard) (u : SReg) (disp : BitVec 32) (j : Nat) (l : LoopLevel),
     Issuing s r g → (g.split r.k).mask ≠ 0 → (g.split r.k).back < 63 ∨ (g.split r.k).div.depth = 0 →
       let sp := g.split r.k
       let src := s.reads r g
       let n := (src.s u.toNat).extractLsb' 0 32
       let target := pcWord sp.pc + disp.signExtend 64
       let go (i : Instr) (pc : DWord) (loops : List LoopLevel) : Prop := Jumps i s r g pc sp.mask sp.ret sp.div loops
       (sp.openLevels < 4 →
         (n = 0 → if pcPos target = 0 then go (.loop u disp) target sp.loops else BadTarget (.loop u disp) s r g target) ∧
         (n ≠ 0 → if pcPos sp.nextHdr ≠ 0 then BadTarget (.loop u disp) s r g sp.nextHdr
           else go (.loop u disp) sp.nextHdr (regSet sp.loops sp.openLevels ⟨sp.nextHdr, target, n⟩))) ∧
       (sp.innermost = some j → regGet LoopLevel.closed sp.loops j = l →
         (l.lcount = 1 → go .loopEnd l.lend (regSet sp.loops j LoopLevel.closed)) ∧
         (l.lcount ≠ 1 → go .loopEnd l.lstart (regSet sp.loops j { l with lcount := l.lcount - 1 })) ∧
         (src.active r.k gd = sp.mask → go (.breakl gd) l.lend (regSet sp.loops j LoopLevel.closed)) ∧
         (src.active r.k gd = 0 → go (.breakl gd) sp.nextHdr sp.loops))) ∧
  (∀ (s s1 : State) (r : SplitRef) (g : Group) (gd : Guard) (disp : BitVec 32) (u : SReg) (es : List StackEntry) (e : StackEntry) (j k2 : Nat),
     Issuing s r g →
       let sp := g.split r.k
       let src := s.reads r g
       let act := src.active r.k gd
       let pushed : Stack := { sp.ret with chip := sp.ret.chip ++ [⟨sp.nextHdr, 0, .pending⟩], depth := sp.ret.depth + 1 }
       let popped : Stack := { sp.ret with chip := es, depth := sp.ret.depth - 1 }
       let l := regGet LoopLevel.closed sp.loops j
       let closed := regSet sp.loops j LoopLevel.closed
       let any (_ _ : Split) : Prop := True
       let callTo := pcWord sp.pc + disp.signExtend 64
       let calls : Prop := sp.ret.chip.length < 8 ∧ sp.ret.depth < 1024
       let returns : Prop := sp.ret.chip = es ++ [e] ∧ (es ≠ [] ∨ sp.ret.depth ≤ 1)
       act ≠ 0 → sp.mask &&& ~~~act ≠ 0 →
         (Splits s s1 r g k2 →
           (calls → (callTo ≠ sp.nextHdr → DividesTo (.call gd (.direct disp)) s s1 r g k2 act callTo pushed any) ∧
             (src.s u.toNat ≠ sp.nextHdr → DividesTo (.call gd (.reg u)) s s1 r g k2 act (src.s u.toNat) pushed any)) ∧
           (returns → e.pc ≠ sp.nextHdr → Divides (.ret gd) s s1 r g k2 act e.pc popped sp.loops any) ∧
           (sp.innermost = some j → Divides (.breakl gd) s s1 r g k2 act l.lend sp.ret closed any)) ∧
         (FullTable g r.k →
           (calls → pcPos sp.nextHdr = 0 →
             (callTo ≠ sp.nextHdr → pcPos callTo = 0 → Pushes (.call gd (.direct disp)) s r g act callTo true pushed sp.loops) ∧
             (src.s u.toNat ≠ sp.nextHdr → pcPos (src.s u.toNat) = 0 →
               Pushes (.call gd (.reg u)) s r g act (src.s u.toNat) true pushed sp.loops)) ∧
           (returns → e.pc ≠ sp.nextHdr → Pushes (.ret gd) s r g act e.pc true popped sp.loops) ∧
           (sp.innermost = some j → Pushes (.breakl gd) s r g act l.lend true sp.ret closed)))

/-- R33, R34, R36, R382: RECONV with an empty divergence stack goes on alone when no other split shares its stack state; it
waits at its instruction while those that do have not reached it, and with one that waits there for it alone it merges, and the
survivor goes on. With a pending path on the stack it exchanges with that path; with one that waits at the same RECONV it takes
up its lanes and goes on; with one that waits at another it exchanges with it, and that path goes on after its own RECONV. When
the wait ends is the model's reading (log 29). -/
def Obligations.Reconverge : Prop :=
  ∀ (s : State) (r : SplitRef) (g : Group) (es : List StackEntry) (e : StackEntry) (j : Nat),
    Issuing s r g →
      let sp := g.split r.k
      let x := pcWord sp.pc
      let g0 := g.modSplit r.k (fun y => { y with back := 0 })
      let peers := g0.peers r.k
      let waiting : StackEntry := ⟨sp.pc, sp.mask, .waiting⟩
      let afterOf (pc : DWord) : DWord := pcHdr pc + BitVec.ofNat 64 (8 * (pcPos pc + 2))
      (sp.div.chip = [] → peers = [] → Jumps .reconv s r g sp.nextHdr sp.mask sp.ret sp.div sp.loops) ∧
      (sp.div.chip = [] → peers ≠ [] → (∀ i ∈ peers, (g.split i).atReconv x = false) →
        Waits .reconv s r g (.reconv x (peers.map (fun i => (i, 0))))) ∧
      (sp.div.chip = [] → peers = [j] → (g.split j).atReconv x = true → g0.mayMerge j r.k = true → r.k < 4 → g.splits.length = 4 →
        (∀ a ∈ g.awaits j, a.1 = r.k ∨ a.1 = j) → ∃ t g', exec .reconv s = .next t ∧ t.group? r.group = some g' ∧ g.SameRegs g' ∧
          SameMemory s t ∧ (g'.split (max r.k j)).st = .free ∧ (g'.split (min r.k j)).st = .ready ∧
          (g'.split (min r.k j)).pc = sp.nextHdr ∧ (g'.split (min r.k j)).mask = sp.mask ||| (g.split j).mask) ∧
      (sp.div.chip = es ++ [e] → e.kind = .pending →
        Jumps .reconv s r g e.pc e.mask sp.ret { sp.div with chip := es ++ [waiting] } sp.loops) ∧
      (sp.div.chip = es ++ [e] → e.kind = .waiting → e.pc = sp.pc → es ≠ [] ∨ sp.div.depth ≤ 1 →
        Jumps .reconv s r g sp.nextHdr (sp.mask ||| e.mask) sp.ret { sp.div with chip := es, depth := sp.div.depth - 1 } sp.loops) ∧
      (sp.div.chip = es ++ [e] → e.kind = .waiting → e.pc ≠ sp.pc →
        Jumps .reconv s r g (afterOf e.pc) e.mask sp.ret { sp.div with chip := es ++ [waiting] } sp.loops)

/-- R27, R36, R339: EXIT takes its lanes out of the split's mask and of the live lanes, and the split goes on; a split without lanes
takes up the path on top of its divergence stack or is FREE; when it was the handler's, the handler flag clears and splits that wait
for the handler are READY. A group without live lanes retires, and its stores leave its queue. With no active lane it does nothing. -/
def Obligations.Exit : Prop :=
  ∀ (s : State) (r : SplitRef) (g : Group) (gd : Guard) (es : List StackEntry) (e : StackEntry),
    Issuing s r g →
      let sp := g.split r.k
      let m := (s.reads r g).active r.k gd
      let left := sp.mask &&& ~~~m
      let live := g.ctl.live &&& ~~~m
      let handler := g.trap.inHandler = true ∧ g.trap.hsplit = r.k ∧ left = 0
      let retires := left = 0 ∧ live = 0
      (m = 0 → Effect (.exit gd) s r g {} (fun _ => True)) ∧
      (m ≠ 0 → ∃ t g', exec (.exit gd) s = .next t ∧ t.group? r.group = some g' ∧
        ({ g with storeQ := g'.storeQ } : Group).SameRegs g' ∧ g'.ctl.live = live ∧
        (retires → g'.ctl.retired = true ∧ g'.storeQ = []) ∧
        (¬retires → g'.ctl.retired = g.ctl.retired ∧ g'.storeQ = g.storeQ) ∧
        (¬retires ∨ g.storeQ = [] → SameMemory s t) ∧
        (∀ j, j ≠ r.k → (g'.split j).pc = (g.split j).pc ∧ (g'.split j).mask = (g.split j).mask ∧
          (¬handler → g'.split j = g.split j) ∧
          (handler → (g'.split j).st = if (g.split j).st = .wait .handler then .ready else (g.split j).st)) ∧
        (¬handler → g'.trap.inHandler = g.trap.inHandler ∧ g'.trap.hsplit = g.trap.hsplit) ∧ (handler → g'.trap.inHandler = false) ∧
        g'.trap.tvec = g.trap.tvec ∧ g'.trap.tpc = g.trap.tpc ∧ g'.trap.gtimer = g.trap.gtimer ∧
        (left ≠ 0 → (g'.split r.k).mask = left ∧ WentOn { sp with mask := left } (g'.split r.k)) ∧
        (left = 0 → sp.div.chip = [] → (g'.split r.k).st = .free) ∧
        (left = 0 → sp.div.chip = es ++ [e] → (g'.split r.k).st = .ready ∧ (g'.split r.k).mask = e.mask ∧
          (g'.split r.k).pc = if e.kind = .pending then e.pc else pcHdr e.pc + BitVec.ofNat 64 (8 * (pcPos e.pc + 2))))

/-! ## Exceptions -/

/-- R264: taking a user cause: TVEC enabled and no split of the group in the handler: the trap registers are written and the
raising split goes to the handler; its mask, stacks and loop levels stay, and no other split changes. R264, R265, R269: a cause
in the handler's own split, or without a handler, or a fatal cause, halts the split where it stands; a user cause of another
split waits for the handler, with nothing changed. R269, R272, Table 12.5: a fatal cause writes a FAULT record into a fault ring with room,
under the die's next number, and its instance begins to halt: R270, Table 12.2: every other split of it that has not halted gets its skid.
R169, R170: a replayable fault suspends its split at the instruction with the faulting address; the fault queue of the die of its working
core holds an entry for it: that it is this die's queue, and where a new entry goes, is the model's reading (log 28). -/
def Obligations.TrapEntry : Prop :=
  (∀ (s : State) (r : SplitRef) (g : Group) (act : Mask) (e : Exc),
     s.group? r.group = some g → r.k < g.splits.length → causeClass e.cause = .user → g.mayTrap →
       ∃ g', (s.raise s r act e).group? r.group = some g' ∧
         TrapEntered s (s.raise s r act e) g g' r.k act (causeCode e.cause) e.tval ∧ g'.fflags = g.fflags ∧ g'.viol = g.viol) ∧
  (∀ (s : State) (r : SplitRef) (g : Group) (act : Mask) (e : Exc),
     s.group? r.group = some g → r.k < g.splits.length → (g.split r.k).st ≠ .free →
       let t := s.raise s r act e
       let stands (st : SplitSt) : Prop := ∃ g', t.group? r.group = some g' ∧ g.SameRegs g' ∧ (g'.split r.k).st = st ∧
         (g'.split r.k).pc = (g.split r.k).pc ∧ (g'.split r.k).mask = (g.split r.k).mask
       (causeClass e.cause = .fatal → stands .halted) ∧
       (causeClass e.cause = .user → g.trap.tvec.getLsbD 0 = false → stands .halted) ∧
       (causeClass e.cause = .user → g.trap.inHandler = true → g.trap.hsplit = r.k → stands .halted) ∧
       (causeClass e.cause = .user → g.trap.tvec.getLsbD 0 = true → g.trap.inHandler = true → g.trap.hsplit ≠ r.k →
         stands (.wait .handler) ∧ SameMemory s t)) ∧
  (∀ (s : State) (r r2 : SplitRef) (g g2 : Group) (c : Context) (i : GangInst) (act : Mask) (e : Exc),
     s.ctx r.slot = some c → s.group? r.group = some g → r.k < g.splits.length → (g.split r.k).st ≠ .free →
     causeClass e.cause = .fatal → e.event ≠ 2 → e.event ≠ 4 → s.MemoryOk →
       let t := s.raise s r act e
       let die := s.dieOf r.slot r.lcid
       let regs (y : State) : SlotRegs := (y.die c.joinDie).slot r.slot
       let ring := (regs s).fring
       let size := 2 ^ (ring.base.toNat % 16 + 4)
       let pa := (ring.base &&& 0x7FFFFFFFC0).toNat + 64 * (ring.prod.toNat % size)
       let field (k lo n : Nat) : Nat := bitsOf (t.readNat (pa + 8 * k) 8) lo n
       (c.joinDie < s.dies.length → r.slot < (s.die c.joinDie).slots.length → ring.base.toNat % 16 ≠ 15 → (ring.prod - ring.cons).toNat ≠ size →
         pa + 64 ≤ Config.physBytes →
           (regs t).fring = { ring with prod := ring.prod + 1 } ∧
           field 0 0 3 = r.slot % 8 ∧ field 1 4 4 = 0 ∧ field 1 8 8 = causeCode e.cause ∧ field 1 16 2 = r.k % 4 ∧
           field 1 20 10 = r.gh % 1024 ∧ field 1 30 10 = r.lcid % 1024 ∧ field 1 40 24 = g.ctl.ganginst % 2 ^ 24 ∧
           field 2 0 32 = act.toNat ∧ field 2 32 32 = (s.die die).seq.toNat ∧ field 3 0 64 = s.tickNow ∧ field 4 0 64 = e.addr.toNat ∧
           field 5 0 64 = (g.split r.k).pc.toNat ∧ field 6 0 64 = e.tval.toNat) ∧
       (c.instOf g = some i → ∃ c' j, t.ctx r.slot = some c' ∧ c'.inst? i.recNum i.inst = some j ∧ j.error = true ∧ j.halt ≠ .none) ∧
       (r2.slot = r.slot → r2 ≠ r → r2.k < 4 → s.group? r2.group = some g2 → g2.ctl.recNum = g.ctl.recNum →
         g2.ctl.ganginst = g.ctl.ganginst → (g2.split r2.k).inUse = true → (g2.split r2.k).st ≠ .halted → (g2.split r2.k).skid = none →
           SplitComes t r2 g2 (fun x => x.st = (g2.split r2.k).st ∧
             x.skid = some (if r2.lcid = r.lcid then (24, 4) else if s.dieOf r.slot r2.lcid = die then (64, 8) else (256, 16))))) ∧
  (∀ (s : State) (r : SplitRef) (g : Group) (act : Mask) (e : Exc),
     s.group? r.group = some g → r.k < g.splits.length → e.cause = .xlate → s.dieOf r.slot r.lcid < s.dies.length →
     (s.die (s.dieOf r.slot r.lcid)).faults.length = 1024 →
     freeFault (s.die (s.dieOf r.slot r.lcid)) ≠ none →
       let t := s.raise s r act e
       ∃ g', t.group? r.group = some g' ∧ g.SameRegs g' ∧ (g'.split r.k).st = .wait (.fault e.addr act e.straddle) ∧
         (g'.split r.k).pc = (g.split r.k).pc ∧ SameMemory s t ∧
         ∃ f, some f ∈ (t.die (s.dieOf r.slot r.lcid)).faults ∧ Waiter.split r ∈ f.waiters ∧ f.cause = .xlate ∧ f.slot = r.slot ∧
           bitsOf f.addr.toNat 16 41 = bitsOf e.addr.toNat 16 41)

/-- R262, R264, R303, R323, R403: TRAP and BKPT take SWTRAP and BREAK with their code in TVAL; BKPT while BKSTOP is set begins
a debug stop instead, with the split at it. A guard that fails does nothing. R266, R387: RTE takes the handler's split back to
TPC, RTE.NEXT past the instruction there; the handler flag clears and splits that waited for the handler are READY at their
instructions. -/
def Obligations.SoftwareTrapsAndReturn : Prop :=
  (∀ (s : State) (r : SplitRef) (g : Group) (c : Context) (gd : Guard) (code : BitVec 32) (code16 : BitVec 16),
     Issuing s r g → s.ctx r.slot = some c →
       let pass := (s.reads r g).passes gd
       (pass = false → Effect (.trap gd code) s r g {} (fun _ => True) ∧ Effect (.bkpt gd code16) s r g {} (fun _ => True)) ∧
       (pass = true → g.mayTrap → TakesTrap (.trap gd code) s r g (g.split r.k).mask 13 (code.setWidth 64) 0) ∧
       (pass = true → g.mayTrap → (s.dbgRegs r.slot).bkstop = false →
         TakesTrap (.bkpt gd code16) s r g (g.split r.k).mask 14 (code16.setWidth 64) 0) ∧
       (pass = true → (s.dbgRegs r.slot).bkstop = true → c.dbg.stopping = false → ∃ t g' c', exec (.bkpt gd code16) s = .next t ∧
         t.group? r.group = some g' ∧ t.ctx r.slot = some c' ∧ (t.dbgRegs r.slot).hit = 9 ∧ (c'.dbg.stopping || c'.dbg.stopped) = true ∧
         (g'.split r.k).dstopped = true ∧ (g'.split r.k).pc = (g.split r.k).pc ∧ g.SameRegs g')) ∧
  (∀ (s s1 : State) (r : SplitRef) (g : Group) (h : DWord),
     Issuing s r g → g.trap.inHandler = true → g.trap.hsplit = r.k → (g.split r.k).mask = g.trap.hmask →
       let tpc := g.trap.tpc
       let back (i : Instr) (pc : DWord) : Prop := ∃ t g', exec i s = .next t ∧ t.group? r.group = some g' ∧ g.SameRegs g' ∧
         (g'.split r.k).pc = pc ∧ (g'.split r.k).st = .ready ∧ (g'.split r.k).mask = (g.split r.k).mask ∧
         (g'.split r.k).ret = (g.split r.k).ret ∧ (g'.split r.k).div = (g.split r.k).div ∧
         g'.trap = { g.trap with inHandler := false, hsplit := 0, hmask := 0, family := 0 } ∧
         (∀ j, j ≠ r.k → (g'.split j).pc = (g.split j).pc ∧
           (g'.split j).st = if (g.split j).st = .wait .handler then .ready else (g.split j).st)
       back .rte tpc ∧
       (pcOk tpc = true → s.entered.fetch (s.cxOf r) (pcHdr tpc) = .ok h s1 → s1.ctxs = s.ctxs → hdrMaj h = 1 → hdrRsvd h = false →
         pcPos tpc ≤ hdrCount h →
           back .rteNext (if pcPos tpc < hdrCount h then mkPc (pcHdr tpc) (pcPos tpc + 1)
             else pcHdr tpc + BitVec.ofNat 64 (8 * (hdrCount h + 2)))))

/-- R85, R326, R362, R386, R387: RET with an empty return stack, LOOP with four open levels, LOOP.END and BREAKL with none, and RTE
and RTE.NEXT of a split that is not the handler's with the handler's mask are ILLEGAL (code 1 of Table 12.1). R67, R329: CALSET outside a
supervisor context is PRIV (2), and bounds of CALSET and WIDEN with the lower above the upper are FORMAT (4), as are a descriptor of ASET
or AOFF with a reserved code or a RSVD bit (R68, R69, R314, R144), a BASE of ASET off its element size, a malformed element format of CVTN
(R121, R336; a wide code never decodes), and a format block, an operand pair or a transposed register operand of MMA, MLD and MST
that R129 or R131 refuses. R133: these three in a group that is not whole and converged are CONVERGENCE (3). All are fatal: the split halts
at the instruction and no register changes. -/
def Obligations.FatalForms : Prop :=
  ∀ (s : State) (r : SplitRef) (g : Group) (gd : Guard) (u v : SReg) (d a : AReg) (x : VReg) (y : Src) (fmt : BitVec 8) (disp : BitVec 32)
    (ty : FTy) (rnd : Rnd) (sat : Bool) (c : Context) (o : MmaOp) (l : MldOp) (m : MstOp),
    Issuing s r g → s.ctx r.slot = some c →
      let src := s.reads r g
      let sp := g.split r.k
      let low (n : SReg) (k : Nat) : Int := ((src.s n.toNat).extractLsb' k 32).toInt
      let block := src.s (u.toNat + 3) ++ src.s (u.toNat + 2) ++ src.s (u.toNat + 1) ++ src.s u.toNat
      let whole := g.ctl.live = Mask.full ∧ sp.mask = Mask.full
      let fb (n : SReg) : Option FmtBlock := fmtBlock (pairBits src n)
      let sps (n : SReg) : Option SpPair := spPair (pairBits src n)
      (sp.ret.chip = [] → HaltsAt (.ret gd) s r g 1) ∧
      (sp.openLevels = 4 → HaltsAt (.loop u disp) s r g 1) ∧
      (sp.innermost = none → HaltsAt .loopEnd s r g 1 ∧ HaltsAt (.breakl gd) s r g 1) ∧
      (g.trap.inHandler = false ∨ g.trap.hsplit ≠ r.k ∨ sp.mask ≠ g.trap.hmask → HaltsAt .rte s r g 1 ∧ HaltsAt .rteNext s r g 1) ∧
      (src.passes gd = true → arBad block = true ∨ arMisbased block = true → HaltsAt (.aset gd d u) s r g 4) ∧
      (src.passes gd = true → arBad (src.a a.toNat) = true → HaltsAt (.aoff gd d a u) s r g 4) ∧
      ((∀ nf, elemFmt fmt ≠ some (.narrow nf)) → HaltsAt (.cvtn ⟨gd, x, y, ty, fmt, rnd, sat⟩) s r g 4) ∧
      (src.passes gd = true → c.sup = false → HaltsAt (.calset gd x u) s r g 2) ∧
      (src.passes gd = true → c.sup = true → low u 32 < low u 0 → HaltsAt (.calset gd x u) s r g 4) ∧
      (low v 0 < low u 0 → HaltsAt (.widenTrap gd x u v) s r g 4 ∧ HaltsAt (.widenClamp gd x u v) s r g 4) ∧
      (src.passes o.g = true →
        (¬whole → HaltsAt (.mma o) s r g 3 ∧ HaltsAt (.mmaZ o) s r g 3) ∧
        (whole → (∀ f, fb o.f = some f → MOperand.parse src f.tra o.a = none ∨ MOperand.parse src f.trb o.b = none) →
          HaltsAt (.mma o) s r g 4 ∧ HaltsAt (.mmaZ o) s r g 4)) ∧
      (src.passes l.g = true → (¬whole → HaltsAt (.mld l) s r g 3) ∧
        (whole → (fb l.f).isNone = true ∨ sps l.a = none → HaltsAt (.mld l) s r g 4)) ∧
      (src.passes m.g = true → (¬whole → HaltsAt (.mst m) s r g 3 ∧ HaltsAt (.mstSum m) s r g 3) ∧
        (whole → (fb m.f).isNone = true ∨ sps m.a = none → HaltsAt (.mst m) s r g 4 ∧ HaltsAt (.mstSum m) s r g 4))

/-! ## System instructions -/

/-- R55, R349, R363, R370, R395: NOP has no effect; SRD, GTIMER.GET, MERID and MERID.DEV read their registers into a uniform
register, which keeps its value when the guard fails, and SRD of a per-lane register into the active lanes of a vector
register. Table 3.2, R55: what SRD reads: each special register has its own number. -/
def Obligations.SystemReads : Prop :=
  (∀ (s : State) (r : SplitRef) (g : Group) (c : Context) (gd : Guard) (u : SReg) (d : VReg) (n : BitVec 8),
     Issuing s r g → s.ctx r.slot = some c →
       let src := s.reads r g
       let reads (i : Instr) (y : DWord) : Prop := u.toNat < g.sregs.length →
         Effect i s r g { s := [u.toNat] } (fun g' => g'.s u.toNat = if src.passes gd then y else g.s u.toNat)
       Effect (.nop gd) s r g {} (fun _ => True) ∧
       reads (.srd gd (.uni u n)) (specialVal s r g n) ∧
       reads (.gtimerGet gd u) (BitVec.ofNat 64 src.trap.gtimer) ∧
       reads (.merid gd u) (s.meridian + c.merOff) ∧
       reads (.meridDev gd u) s.meridian ∧
       (d.toNat < g.vregs.length →
         Effect (.srd gd (.vec d n)) s r g { v := [d.toNat] } (fun g' => ∀ j, j < 32 → g'.v d.toNat j =
           if Mask.has (src.active r.k gd) j then (if n = 0 then BitVec.ofNat 32 j else regGet 0 g.ctl.lorigin j) else g.v d.toNat j))) ∧
  (∀ (s : State) (r : SplitRef) (g : Group) (c : Context), s.ctx r.slot = some c →
     specialVal s r g 0x01 = BitVec.ofNat 64 g.ctl.groupIdx ∧ specialVal s r g 0x02 = BitVec.ofNat 64 g.ctl.role ∧
     specialVal s r g 0x03 = BitVec.ofNat 64 g.ctl.ganginst ∧ specialVal s r g 0x04 = BitVec.ofNat 64 r.lcid ∧
     specialVal s r g 0x05 = BitVec.ofNat 64 (c.lc r.lcid).dieGrp ∧ specialVal s r g 0x06 = BitVec.ofNat 64 g.ctl.rank ∧
     specialVal s r g 0x07 = BitVec.ofNat 64 g.ctl.nranks ∧
     (∀ k : Nat, k < 4 → specialVal s r g (BitVec.ofNat 8 (9 + k)) =
       match g.cohortOf k with
       | some n => BitVec.ofNat 64 (256 + n)
       | none => 0) ∧
     specialVal s r g 0x10 = g.viol.setWidth 64 ∧
     specialVal s r g 0x11 = g.fflags ∧ specialVal s r g 0x12 = g.trap.tvec ∧ specialVal s r g 0x13 = g.trap.tpc ∧
     specialVal s r g 0x14 = g.trap.tmask.setWidth 64 ∧ specialVal s r g 0x15 = g.trap.tcause ∧
     specialVal s r g 0x16 = g.trap.tval ∧ specialVal s r g 0x17 = g.ctl.spillBase ∧ specialVal s r g 0x18 = c.ctxclk ∧
     specialVal s r g 0x19 = (c.lc r.lcid).tags ∧ specialVal s r g 0x1A = s.pkg.ready)

/-- R55, R268, R349, R399: SWR writes VIOLMASK, FFLAGS, TVEC or TPC, whose RSVD bits stay zero, and nothing else; GTIMER writes the
timer, and a TIMER that was pending is gone. Nothing is written when the guard fails. R309, R402: TRACEMARK puts a MARK packet with its
register's value into the stream of its context while EN and MK are set, and does nothing else. -/
def Obligations.SystemWrites : Prop :=
  (∀ (s : State) (r : SplitRef) (g : Group) (gd : Guard) (a : SReg) (n : BitVec 8),
    Issuing s r g →
      let src := s.reads r g
      let x := src.s a.toNat
      (src.passes gd = true →
        Effect (.swr gd 0x10 a) s r g { viol := true } (fun g' => g'.viol = x.extractLsb' 0 32) ∧
        Effect (.swr gd 0x11 a) s r g { flags := true } (fun g' => g'.fflags = x &&& 0x1F1F) ∧
        Effect (.swr gd 0x12 a) s r g { trap := true } (fun g' => g'.trap = { g.trap with tvec := x &&& ~~~6 }) ∧
        Effect (.swr gd 0x13 a) s r g { trap := true } (fun g' => g'.trap = { g.trap with tpc := x &&& ~~~7 }) ∧
        Effect (.gtimer gd a) s r g { trap := true }
          (fun g' => g'.trap = { g.trap with gtimer := x.toNat, tpend := false, tdue := false, tsplit := none })) ∧
      (src.passes gd = false →
        Effect (.swr gd n a) s r g {} (fun _ => True) ∧ Effect (.gtimer gd a) s r g {} (fun _ => True))) ∧
  ∀ (s : State) (r : SplitRef) (g : Group) (gd : Guard) (a : SReg),
    Issuing s r g →
      let die := s.dieOf r.slot r.lcid
      let regs (t : State) : SlotRegs := (t.die die).slot r.slot
      let on := (s.reads r g).passes gd && traceOn (regs s).trace && (regs s).trace.base.getLsbD 5
      (on = true → die < s.dies.length → r.slot < (s.die die).slots.length →
        ∃ t g', exec (.tracemark gd a) s = .next t ∧ t.group? r.group = some g' ∧
          g.Keeps g' r.k {} ∧ WentOn (g.split r.k) (g'.split r.k) ∧ SameMemory s t ∧
          (regs t).tickPkts = (regs s).tickPkts ++
            [{ type := 5, r := r, hdr := pcHdr (g.split r.k).pc, pos := pcPos (g.split r.k).pc, w := (s.reads r g).s a.toNat }]) ∧
      (on = false → Effect (.tracemark gd a) s r g {} (fun _ => True))

/-- R254, R277, R372, R407: YIELD ends its clause, and its split is READY at the next header. PARK begins a park of its context, or joins
one that is in progress, and its split waits at it; with a failing guard it does nothing. -/
def Obligations.YieldAndPark : Prop :=
  ∀ (s : State) (r : SplitRef) (g : Group) (c : Context) (gd : Guard),
    Issuing s r g → s.ctx r.slot = some c →
      let sp := g.split r.k
      let pass := (s.reads r g).passes gd
      let busy := (s.parkRegs c.joinDie r.slot).busy
      Jumps .yield s r g sp.nextHdr sp.mask sp.ret sp.div sp.loops ∧
      (pass = false → Effect (.park gd) s r g {} (fun _ => True)) ∧
      (pass = true → (∀ r' g', r'.slot = r.slot → s.group? r' = some g' → g'.timerPends = false) →
        (c.park = .none → c.destroying = false → busy = false → Waits (.park gd) s r g .park ∧
          ∃ t c', exec (.park gd) s = .next t ∧ t.ctx r.slot = some c' ∧ c'.park = .stopping ∧ c'.parkSrc = 2 ∧
            (c.joinDie < s.dies.length → r.slot < (s.die c.joinDie).slots.length →
              (t.parkRegs c.joinDie r.slot).busy = true ∧ (t.parkRegs c.joinDie r.slot).status = 0 ∧
              (t.parkRegs c.joinDie r.slot).src = 2)) ∧
        (c.park ≠ .none → Waits (.park gd) s r g .park))

/-- A value lies inside a caliper (R56). -/
def Covers (c : Caliper) (x : Word) : Prop := ∀ iv, c = some iv → iv.lo ≤ x.toInt ∧ x.toInt ≤ iv.hi

/-- R56: every live lane's value of every register lies inside the register's group caliper, and every lane of a split's mask inside
the split's view of it. -/
def CaliperInvariant (g : Group) : Prop :=
  ∀ n j, j < 32 → (Mask.has g.ctl.live j = true → Covers (g.cal n) (g.v n j)) ∧
    ∀ k, Mask.has (g.split k).mask j = true → Covers (g.view k n) (g.v n j)

/-- The lanes of a split are live and in no other split. -/
def LanesApart (g : Group) : Prop :=
  ∀ k j, Mask.has (g.split k).mask j = true → Mask.has g.ctl.live j = true ∧ ∀ i, i ≠ k → Mask.has (g.split i).mask j = false

/-- R56 to R58, R64: the integer, logic, shift, bit-field and move instructions of `stays` and `signedStays`, in every operand form, type, guard
and mask, keep the caliper invariant; so do WIDEN.CLAMP and WIDEN.TRAP that complete, SRD of a per-lane register, and BRC, which refines (R65,
R66). In a group of one split whose live lanes are all active, IADD, ISUB and MOVI leave the interval of Table 3.4 in the group caliper and in
the split's view. Not said here: instructions whose result is unknown to a caliper (floating point, cross-lane, memory), and what a long-latency
instruction leaves at its issue and at its completion (R60: `Opens`, Obligations.Completion). -/
def Obligations.CaliperInvariantKept : Prop :=
  ∀ (s : State) (r : SplitRef) (g : Group) (gd : Guard) (d : Dst) (a b c : Src) (ty : IntTy) (sat : Bool) (imm : BitVec 32) (k : BitVec 5)
    (p : PSrc),
    Issuing s r g → g.settled r.k → LanesApart g → dstExists g ty.wide d → dstExists g false d →
      let keeps (i : Instr) : Prop := ∃ t g', exec i s = .next t ∧ t.group? r.group = some g' ∧ CaliperInvariant g'
      let stays : List Instr := [.iadd ⟨gd, d, a, b, ty, sat⟩, .isub ⟨gd, d, a, b, ty, sat⟩, .imul ⟨gd, d, a, b, ty, sat⟩,
        .imulh ⟨gd, d, a, b, ty, false⟩, .imad ⟨gd, d, a, b, c, ty, sat⟩, .imin ⟨gd, d, a, b, ty, false⟩, .imax ⟨gd, d, a, b, ty, false⟩,
        .ineg ⟨gd, d, a, ty, sat⟩, .and ⟨gd, d, a, b, ty, false⟩, .or ⟨gd, d, a, b, ty, false⟩, .xor ⟨gd, d, a, b, ty, false⟩,
        .andn ⟨gd, d, a, b, ty, false⟩, .not ⟨gd, d, a, ty, false⟩, .shl ⟨gd, d, a, b, ty, false⟩, .shr ⟨gd, d, a, b, ty, false⟩,
        .bfx ⟨gd, d, a, b, c, ty, false⟩, .bfi ⟨gd, d, a, b, c, ty, false⟩, .popc ⟨gd, d, a, ty, false⟩, .clz ⟨gd, d, a, ty, false⟩,
        .brev ⟨gd, d, a, ty, false⟩, .lea ⟨gd, d, a, b, k, ty, sat⟩, .sel ⟨gd, d, a, b, p, ty⟩, .mov gd (.reg d a ty), .movi gd d imm]
      let signedStays : List Instr := [.shra ⟨gd, d, a, b, ty, false⟩, .iabs ⟨gd, d, a, ty, sat⟩]
      (CaliperInvariant g → (∀ i ∈ stays, keeps i) ∧ (ty.signed = true → ∀ i ∈ signedStays, keeps i)) ∧
      (∀ (v x : VReg) (u w : SReg) (n : BitVec 8) (cond : Cond) (disp : BitVec 24) (s1 : State) (k2 : Nat),
        CaliperInvariant g → v.toNat < g.vregs.length →
        let src := s.reads r g
        let act := src.active r.k gd
        let lo := ((src.s u.toNat).extractLsb' 0 32).toInt
        let hi := ((src.s w.toNat).extractLsb' 0 32).toInt
        let taken := Mask.ofFn (fun j => Mask.has act j && condTrue 32 (src.v x.toNat j) (b.word src j) cond)
        keeps (.srd gd (.vec v n)) ∧
        (lo ≤ hi → keeps (.widenClamp gd v u w)) ∧
        (lo ≤ hi → (∀ j, Mask.has act j = true → lo ≤ (src.v v.toNat j).toInt ∧ (src.v v.toNat j).toInt ≤ hi) →
          keeps (.widenTrap gd v u w)) ∧
        ((g.split r.k).back < 63 ∨ (g.split r.k).div.depth = 0 →
          taken = (g.split r.k).mask ∨ taken = 0 ∨ Splits s s1 r g k2 ∨ ((g.split r.k).back < 63 ∧ FullTable g r.k) →
          keeps (.brc gd cond x b disp))) ∧
      ∀ (n x y : VReg) (p q : Interval), g.onlySplit r.k = true → (g.split r.k).mask = g.ctl.live → g.ctl.live ≠ 0 →
        n.toNat < g.vregs.length → n.toNat < g.cals.length →
        g.view r.k x.toNat = some p → g.view r.k y.toNat = some q →
        p.lo ≤ p.hi → q.lo ≤ q.hi →
        let leaves (i : Instr) (lo hi : Int) : Prop := -2 ^ 31 ≤ lo → hi ≤ 2 ^ 31 - 1 →
          ∃ t g', exec i s = .next t ∧ t.group? r.group = some g' ∧ g'.cal n.toNat = some ⟨lo, hi⟩ ∧ g'.view r.k n.toNat = some ⟨lo, hi⟩
        leaves (.iadd ⟨.always, .v n, .v x, .v y, .i32, false⟩) (p.lo + q.lo) (p.hi + q.hi) ∧
        leaves (.isub ⟨.always, .v n, .v x, .v y, .i32, false⟩) (p.lo - q.hi) (p.hi - q.lo) ∧
        leaves (.movi .always (.v n) imm) imm.toInt imm.toInt

/-! ## Memory -/

/-- R229, R355 to R359: LD and LDP complete where their descriptor, indices and addresses are accepted and every lane's
elements can be read: the lanes' values open, a lane without an access reading zero; VIOLMASK holds the violating lanes. `s1`
is the state after the accesses, which change no register. R355 to R357: LDU completes in the same way with one index and a
uniform destination, extended to 64 bits. R7, R119, R146, R151: a load on path F, and one on another global path that carries FR or is an acquire
or SC, answers of a range in one page of a stack the bytes at the translated address, lowest byte first, with the writes of its group and logical
core that are not performed yet laid over them (R241); the element is their bits. -/
def Obligations.Loads : Prop :=
  (∀ (s s1 : State) (r : SplitRef) (g g1 : Group) (ptr : Bool) (o : MemV) (c : Checked) (vals : List (Nat × List Nat)),
     Issuing s r g →
       let src := s.reads r g
       let a := src.a o.arr.toNat
       let act := src.active r.k o.g
       let n := NElem.count o.n
       let k := eszBits (arEsz a)
       let fp := if ptr then none else footprint a (src.view r.k o.x.toNat) (offInt o.off) n
       let s0 := s.entered.sample r fp
       let dests := loadDests o.d.toNat act o.sx n k vals
       s.codeAt r.slot (g.split r.k) = none → arBad a = false → (o.sx = true → arEsz a < 2) → (ptr = true → arEsz a < 5) → blockBad g o.d (arEsz a) n = false →
       (if ptr then pointerCheck a act false (offInt o.off) n (fun j => src.vPair o.x.toNat j)
         else arrayCheck a (src.view r.k o.x.toNat) act false (offInt o.off) n (fun j => (src.v o.x.toNat j).toInt)) = .ok c →
       s0.laneChecks r (g.split r.k) .read ⟨true, false⟩ (k / 8 * n) (c.elems a n) (s0.checked r c) = none →
       ((s0.reserveSpan r o.fr fp).before r o.ord o.scope).loadLanes (s0.cxOf r) (isGeneric o.ord o.fr) (accessHint o.rc a)
         (c.elems a n) [] [] = .ok vals s1 →
       Still s1 r g1 →
         EffectAfter (if ptr then .ldp o else .ld o) s s1 r g1 { v := dests.map (fun d => d.reg), viol := true, long := true }
           (fun g' => Opens g1 g' r.k .load o.la dests [] 0 ∧ g'.viol = c.viol)) ∧
  (∀ (s s1 : State) (r : SplitRef) (g g1 : Group) (o : MemU) (c : Checked) (vals : List (Nat × List Nat)),
     Issuing s r g →
       let src := s.reads r g
       let a := src.a o.arr.toNat
       let k := eszBits (arEsz a)
       let x := ((src.s o.x.toNat).extractLsb' 0 32).toInt
       let fp := footprint a (exactCal x) (offInt o.off) 1
       let s0 := s.entered.sample r fp
       let y := match vals with
         | (_, z :: _) :: _ => z
         | _ => 0
       s.codeAt r.slot (g.split r.k) = none →
       (src.passes o.g = false → Effect (.ldu o) s r g {} (fun _ => True)) ∧
       (src.passes o.g = true → arBad a = false → (o.sx = true → arEsz a < 2) → arEsz a ≠ 4 →
         arrayCheck a (exactCal x) 1 false (offInt o.off) 1 (fun _ => x) = .ok c →
         s0.laneChecks r (g.split r.k) .read ⟨true, false⟩ (k / 8) (c.elems a 1) (s0.checked r c) = none →
         ((s0.reserveSpan r o.fr fp).before r o.ord o.scope).loadLanes (s0.cxOf r) (isGeneric o.ord o.fr) (accessHint o.rc a)
           (c.elems a 1) [] [] = .ok vals s1 →
         Still s1 r g1 →
           EffectAfter (.ldu o) s s1 r g1 { viol := true, long := true }
             (fun g' => Opens g1 g' r.k .load o.la [] [.s o.d.toNat (lduValue o.sx k y)] 0 ∧ g'.viol = c.viol))) ∧
  (∀ (s s1 : State) (cx : Cx) (c : Context) (e : Elem) (path va pa cls hint j : Nat) (generic : Bool), s.ctx cx.slot = some c →
     placeOf c cx.lcid e.addr = some (.global path va) → (generic = false ∨ path = 1) →
     s.transRange cx ⟨e.addr, va, e.n, .read, e.packed, false⟩ = .ok [(.phys pa cls, e.n)] s1 →
       let u := s1.pullRange pa e.n
       let byte (i : Nat) : Byte := forward (s.ownWrites cx) (.phys (pa + i)) (Cells.get u.mem (pa + i))
       u.eccOf pa e.n = none →
         ∃ s2, s.loadElem cx generic hint e = .ok ((List.range e.n).map byte) s2 ∧ s2.mem = u.mem ∧
           s.loadLanes cx generic hint [(j, [e])] [] [] =
             .ok [(j, [leNat ((List.range e.n).map byte) / 2 ^ e.bit % 2 ^ e.k])] s2) ∧
  (∀ (ord : Ord) (fr : Bool), fr = true ∨ ord = .acq ∨ ord = .sc → isGeneric ord fr = false)

/-- R229, R396 to R398: ST and STP complete where every check and translation succeeds and the group's store queue has room: their bytes
enter the queue, and no byte of memory changes until it drains. `s1` is the state after the translations. R396 to R398: STU in the same way,
with one index and the low bits of a uniform register. R82: a store that finds the queue full stands at its instruction with nothing changed.
How many stores a queue holds is free (log 8), and that an SC store empties its queue at its scope at once, where R229 only orders its group's
accesses, is the model's choice (log 24). -/
def Obligations.Stores : Prop :=
  (∀ (s s1 : State) (r : SplitRef) (g g1 : Group) (ptr : Bool) (o : MemV) (c : Checked) (w : List ByteWr × List Nat),
     Issuing s r g →
       let src := s.reads r g
       let a := src.a o.arr.toNat
       let act := src.active r.k o.g
       let n := NElem.count o.n
       let k := eszBits (arEsz a)
       let s0 := s.entered.sample r (if ptr then none else footprint a (src.view r.k o.x.toNat) (offInt o.off) n)
       let es := (c.elems a n).flatMap (fun l => l.2.zipIdx.map (fun e => (e.1, storeValue src o.d.toNat l.1 e.2 k)))
       s.codeAt r.slot (g.split r.k) = none → arBad a = false → (ptr = true → arEsz a < 5) → blockBad g o.d (arEsz a) n = false →
       (if ptr then pointerCheck a act true (offInt o.off) n (fun j => src.vPair o.x.toNat j)
         else arrayCheck a (src.view r.k o.x.toNat) act true (offInt o.off) n (fun j => (src.v o.x.toNat j).toInt)) = .ok c →
       s0.laneChecks r (g.split r.k) .write ⟨false, true⟩ (k / 8 * n) (c.elems a n) (s0.checked r c) = none →
       (g.queueFull = true → ∃ t, exec (if ptr then .stp o else .st o) s = .next t ∧ SameMemory s t ∧
         SplitComes t r g (fun x => x.st = (g.split r.k).st)) ∧
       (g.queueFull = false →
       ((s0.before r o.ord o.scope .write).transElems (s0.cxOf r) .write (es.map (fun e => e.1))).bind (fun _ s2 =>
         s2.storeElems (s2.cxOf r) (accessHint o.rc a) es [] []) = .ok w s1 →
       Still s1 r g1 →
         (o.ord ≠ .sc → EffectAfter (if ptr then .stp o else .st o) s s1 r g1 { viol := true, stores := true }
           (fun g' => g'.storeQ = (g1.enqueue w.1 w.2).storeQ ∧ g'.viol = c.viol)) ∧
         (o.ord = .sc → ∃ t g', exec (if ptr then .stp o else .st o) s = .next t ∧ t.group? r.group = some g' ∧
           (o.scope ≠ .group → g'.storeQ = [])))) ∧
  (∀ (s s1 : State) (r : SplitRef) (g g1 : Group) (o : MemU) (c : Checked) (w : List ByteWr × List Nat),
     Issuing s r g →
       let src := s.reads r g
       let a := src.a o.arr.toNat
       let k := eszBits (arEsz a)
       let x := ((src.s o.x.toNat).extractLsb' 0 32).toInt
       let s0 := s.entered.sample r (footprint a (exactCal x) (offInt o.off) 1)
       let es := (c.elems a 1).flatMap (fun l => l.2.map (fun e => (e, (src.s o.d.toNat).toNat)))
       s.codeAt r.slot (g.split r.k) = none →
       (src.passes o.g = false → Effect (.stu o) s r g {} (fun _ => True)) ∧
       (src.passes o.g = true → arBad a = false → arEsz a ≠ 4 →
         arrayCheck a (exactCal x) 1 true (offInt o.off) 1 (fun _ => x) = .ok c →
         s0.laneChecks r (g.split r.k) .write ⟨false, true⟩ (k / 8) (c.elems a 1) (s0.checked r c) = none →
         (g.queueFull = true → ∃ t, exec (.stu o) s = .next t ∧ SameMemory s t ∧ SplitComes t r g (fun x => x.st = (g.split r.k).st)) ∧
         (g.queueFull = false →
         ((s0.before r o.ord o.scope .write).transElems (s0.cxOf r) .write (es.map (fun e => e.1))).bind (fun _ s2 =>
           s2.storeElems (s2.cxOf r) (accessHint o.rc a) es [] []) = .ok w s1 →
         Still s1 r g1 →
           (o.ord ≠ .sc → EffectAfter (.stu o) s s1 r g1 { viol := true, stores := true }
             (fun g' => g'.storeQ = (g1.enqueue w.1 w.2).storeQ ∧ g'.viol = c.viol)) ∧
           (o.ord = .sc → ∃ t g', exec (.stu o) s = .next t ∧ t.group? r.group = some g' ∧ (o.scope ≠ .group → g'.storeQ = [])))))

/-- R241, R147: writes that are performed change exactly the bits they name of the bytes they name, in their order; every other byte of the
stacks reads as before, and memory keeps its canonical form. R7, R119: a store to a range that lies in one page of a stack writes its bytes,
lowest first, at the translated address; the bytes of an element of whole bytes are its value, lowest byte first, every bit changed. R241,
R228, R237: a part of the oldest store of a group leaves its queue: the writes in one aligned 16-byte chunk of it (that this is what goes at
once is the model's choice, log 37), those to the scratchpad performed and those to the stacks at the end of its logical core's order, where
they are read but not yet performed; a flush leaves neither queue with a store. How many stores a queue holds is free (log 8). -/
def Obligations.PerformedWritesAndStoreQueue : Prop :=
  (∀ (s : State) (slot : Nat) (ws : List ByteWr), s.MemoryOk →
     (s.putAll slot ws).MemoryOk ∧
     ∀ a, Cells.get (s.putAll slot ws).mem a = if a < Config.physBytes then forward ws (.phys a) (Cells.get s.mem a) else Cells.get s.mem a) ∧
  ((∀ (s s1 : State) (cx : Cx) (addr : DWord) (path va pa cls hint : Nat) (packed : Bool) (bytes : List (Byte × Byte)),
     s.transRange cx ⟨addr, va, bytes.length, .write, packed, false⟩ = .ok [(.phys pa cls, bytes.length)] s1 →
       ∃ s2, s.storePlace cx addr bytes packed hint (.global path va) =
           .ok (bytes.zipIdx.map (fun x => ⟨.phys (pa + x.2), x.1.1, x.1.2⟩), linesOf va bytes.length) s2 ∧
         s2.mem = (s1.pullRange pa bytes.length).mem) ∧
   ∀ (addr : DWord) (n x i : Nat), i < n →
     (Elem.plain addr n).addr = addr ∧ ((Elem.plain addr n).bytes x).length = n ∧
       ((Elem.plain addr n).bytes x)[i]? = some (BitVec.ofNat 8 (x / 256 ^ i), 0xFF)) ∧
  (∀ (s : State) (r : GroupRef) (g : Group) (e : StoreEnt) (es : List StoreEnt), s.group? r = some g → s.clocked = true →
     r.lcid < ((s.ctx r.slot).map (fun c => c.lcs.length)).getD 0 →
       (g.storeQ = e :: es → e.wr ≠ [] → s.ScratchOk →
         ∃ t g' c, exec (.storeQueueDrain r) s = .next t ∧ t.group? r = some g' ∧ writesIn c e.wr ≠ [] ∧
           (let rest := e.wr.filter (fun w => w.loc.chunk != c)
            g'.storeQ = if rest = [] then es else { e with wr := rest } :: es) ∧
           t.mem = s.mem ∧ (t.lc r.slot r.lcid).leaving = (s.lc r.slot r.lcid).leaving ++ (writesIn c e.wr).filter isPhys ∧
           ∀ a, Cells.get (t.lc r.slot r.lcid).scratch a =
             forward (writesIn c e.wr) (.scratch r.lcid a) (Cells.get (s.lc r.slot r.lcid).scratch a)) ∧
       (∃ g', (s.flush r).group? r = some g' ∧ g'.storeQ = [] ∧ ((s.flush r).lc r.slot r.lcid).outbound = []))

/-- The scratchpad accesses of a lane: the lane and its first byte. -/
def spFirst (src : Group) (act : Mask) (x : VReg) (off : BitVec 8) : List (Nat × Int) :=
  act.lanes.map (fun j => (j, ((src.v x.toNat j).toNat : Int) + off.toInt))

/-- R356, R357, R396: LDS reads and STS stores `n` elements of its size upward from each lane's offset plus its displacement,
where each is aligned to the lesser of 16 and the whole, and lies in the scratchpad, and a load meets no uncorrectable soft
error. A load sees the group's earlier stores. R74, R346, R394: SPILL puts the register's active lanes and its view into its
slot, through the store queue; FILL opens with them, where no comparator meets the access. A lane outside a known interval is
CALIPER. -/
def Obligations.ScratchpadAndSpill : Prop :=
  (∀ (s : State) (r : SplitRef) (g g0 : Group) (o : MemS),
     Issuing s r g → (s.ctx r.slot).isSome = true →
       let src := s.reads r g
       let act := src.active r.k o.g
       let n := NElem.count o.n
       let w := o.size.bytes
       let ls := spFirst src act o.x o.off
       let s0 := s.entered.before r o.ord o.scope
       let s1 := s.entered.before r o.ord o.scope .write
       let byte (a : Nat) : Byte := forward (s0.ownWrites (s.cxOf r)) (.scratch r.lcid a) (Cells.get (s0.lc r.slot r.lcid).scratch a)
       let value (first : Int) (e : Nat) : Nat := leNat ((List.range w).map (fun i => byte (first.toNat + e * w + i)))
       let dests := loadDests o.d.toNat act o.sx n (8 * w) (ls.map (fun l => (l.1, (List.range n).map (value l.2))))
       let wr := ls.flatMap (fun l => (List.range n).flatMap (fun e => (List.range w).map (fun i =>
         (⟨.scratch r.lcid (l.2.toNat + e * w + i), BitVec.ofNat 8 (storeValue src o.d.toNat l.1 e (8 * w) / 256 ^ i), 0xFF⟩ : ByteWr))))
       (∀ l ∈ ls, 0 ≤ l.2 ∧ l.2 % (min (w * n) 16 : Nat) = 0 ∧ l.2 + w * n ≤ Config.scratchBytes) →
       Still s0 r g0 → Still s1 r g0 →
         ((∀ l ∈ ls, s0.softScratch r.slot r.lcid l.2.toNat (w * n) = false) →
           EffectAfter (.lds o) s s0 r g0 { v := dests.map (fun d => d.reg), long := true }
             (fun g' => Opens g0 g' r.k .load o.la dests [] 0)) ∧
         (o.ord ≠ .sc → act ≠ 0 → g.queueFull = false → EffectAfter (.sts o) s s1 r g0 { stores := true }
           (fun g' => g'.storeQ = g0.storeQ ++ [⟨wr, [], none⟩]))) ∧
  (∀ (s s1 s2 s3 : State) (r : SplitRef) (g g1 : Group) (o : SpillOp) (ps : List (TRes × Nat)) (b : List Byte),
     Issuing s r g →
       let src := s.reads r g
       let act := src.active r.k o.g
       let addr := g.ctl.spillBase + BitVec.ofNat 64 (0x20000 + o.k.toNat * 0x100)
       let view := src.view r.k o.d.toNat
       let bytes := laneIds.flatMap (fun j => (natLe 4 (src.v o.d.toNat j).toNat).map (fun x =>
           (x, if Mask.has act j then (0xFF : Byte) else 0))) ++ (spillTail view).map (fun x => (x, (0xFF : Byte)))
       let va := bitsOf addr.toNat 0 57
       let lo := (BitVec.ofNat 32 (leNat ((b.drop 128).take 4))).toInt
       let hi := (BitVec.ofNat 32 (leNat ((b.drop 132).take 4))).toInt
       let tail := leNat (b.drop 136)
       let x (j : Nat) : Word := BitVec.ofNat 32 (leNat ((b.drop (4 * j)).take 4))
       let out := act &&& Mask.ofFn (fun j => decide ((x j).toInt < lo) || decide (hi < (x j).toInt))
       (act = 0 → Effect (.spill o) s r g {} (fun _ => True)) ∧
       let meets (k : Watched) : Prop := s.entered.watchStop r (g.split r.k) k (spillWatch addr act) s.entered ≠ none
       (act ≠ 0 → ¬meets ⟨false, true⟩ → g.queueFull = false → addrPath addr ≤ 1 → bitsOf addr.toNat 57 3 = 0 →
         (s.entered.asking r .write .plain .group).transRange (s.cxOf r) ⟨addr, va, 256, .write, false, true⟩ = .ok ps s1 →
         s2 = (if hasRemote ps then s1.drainAll r.group else s1) →
         let q : VReq := ⟨addr, va, 256, .write, false, true⟩
         (s2.sendPieces (s1.cxOf r) q ps bytes).bind (fun _ y => .ok () ((y.touchPieces 0 ps).farDrop (s1.cxOf r) q ps)) = .ok () s3 →
         Still s3 r g1 →
           EffectAfter (.spill o) s s3 r g1 { stores := true }
             (fun g' => g'.storeQ = (g1.enqueue ((pieceWrites ps bytes).filter (fun w => w.bits != 0)) (linesOf va 256)).storeQ)) ∧
       (¬meets ⟨true, false⟩ → (s.entered.asking r .read .plain .group).spillRead (s.cxOf r) addr 256 = .ok b s1 → Still s1 r g1 → tail ≤ 1 →
         (tail = 1 → lo ≤ hi ∧ out = 0) →
           EffectAfter (.fill o) s s1 r g1 { v := [o.d.toNat], long := true }
             (fun g' => Opens g1 g' r.k .load o.la
               [⟨o.d.toNat, act, perLane x, if tail = 1 then some ⟨lo, hi⟩ else none, false⟩] [] 0)) ∧
       (¬meets ⟨true, false⟩ → (s.entered.asking r .read .plain .group).spillRead (s.cxOf r) addr 256 = .ok b s1 →
         s1.ctxs = s.ctxs → s1.mem = s.mem → g.mayTrap → tail = 1 → lo ≤ hi → out ≠ 0 →
           TakesTrap (.fill o) s r g (g.active r.k o.g) 6 (out.setWidth 64) 0))

/-- R73, R348, R360, R379: LDLINES opens with the lines of its footprint and q6 true, or with q6 false and nothing read; GSHUF
opens with the bytes its block holds; PREF changes no register, and no byte but those of moving pages, which it pulls. N of
LDLINES and q6 follow log 18. -/
def Obligations.Footprints : Prop :=
  ∀ (s s1 : State) (r : SplitRef) (g g1 : Group) (o : LdlinesOp) (h : GshufOp) (p : PrefOp) (f : Footprint) (ls : List Lanes) (c : Checked),
    Issuing s r g →
      let src := s.reads r g
      let a := src.a o.arr.toNat
      let n := o.n1.toNat + 1
      let fp := footprint a (src.view r.k o.x.toNat) (offInt o.off) (NElem.count o.n)
      let lines := List.range f.lines
      let elems := lines.flatMap (fun i => lineElems (lineSpan a f i).1 (lineSpan a f i).2)
      let refused := linesRefused s.entered r elems = true
      let dests : List VecDest := (List.range n).map (fun i => ⟨o.d.toNat + i, Mask.full, regGet zeroLanes ls i, none, true⟩)
      let b := src.a h.arr.toNat
      let view := src.view r.k h.x.toNat
      let width := eszBits (arEsz b)
      let block := h.d.toNat + elemRegs width
      let act := src.active r.k h.g
      let first := ((footprint b view (offInt h.off) 1).map (fun y => y.line0)).getD 0
      let vals : List (Nat × List Nat) := c.live.lanes.map (fun j =>
        let bit := elemBit b (c.idx j).toNat
        (j, [leNat ((List.range ((bit % 8 + width + 7) / 8)).map (fun i => blockByte src block (bit / 8 - first + i)))
          / 2 ^ (bit % 8) % 2 ^ width]))
      let shuffled : List VecDest := loadDests h.d.toNat act false 1 width vals
      (src.passes o.g = true → arBad a = false →
        (fp = none ∨ fp = some f ∧ (n < f.lines ∨ refused) →
          EffectAfter (.ldlines o) s s r g { viol := true, long := true }
            (fun g' => Opens g g' r.k .load o.la [] [.q 6 false] 0 ∧ g'.viol = 0)) ∧
        (fp = some f → f.lines ≤ n → ¬refused →
          s.entered.watchStop r (g.split r.k) ⟨true, false⟩ (watchList [(0, elems)]) s.entered = none →
          (((s.entered.sample r fp).reserveSpan r o.fr fp).before r o.ord o.scope).readLines (s.cxOf r) (isGeneric o.ord o.fr) (accessHint o.rc a) a f lines []
            = .ok ls s1 →
          Still s1 r g1 →
            EffectAfter (.ldlines o) s s1 r g1 { v := dests.map (fun d => d.reg), viol := true, long := true, ovr := true }
              (fun g' => Opens g1 g' r.k .load o.la dests [.q 6 true] 0 ∧ g'.viol = 0))) ∧
      (arBad b = false → (arEsz b = 3 ∨ arEsz b = 4 → h.d.getLsbD 0 = false) → block + h.n1.toNat + 1 ≤ g.ctl.budget →
        view.isSome = true → (∀ y, footprint b view (offInt h.off) 1 = some y → y.lines ≤ h.n1.toNat + 1) →
        arrayCheck b view act false (offInt h.off) 1 (fun j => (src.v h.x.toNat j).toInt) = .ok c →
        s.codeAt r.slot (g.split r.k) = none →
          EffectAfter (.gshuf h) s (s.entered.sample r (footprint b view (offInt h.off) 1)) r g
            { v := shuffled.map (fun d => d.reg), viol := true, long := true }
            (fun g' => Opens g g' r.k .alu h.la shuffled [] 0 ∧ g'.viol = c.viol)) ∧
      (arBad (src.a p.arr.toNat) = false → ∃ t g', exec (.pref p) s = .next t ∧ t.group? r.group = some g' ∧ g.Keeps g' r.k {} ∧
        WentOn (g.split r.k) (g'.split r.k) ∧ (∀ pa, s.movePage (pa / 65536) = none → Cells.get t.mem pa = Cells.get s.mem pa) ∧
        (∀ k l, (t.lc k l).scratch = (s.lc k l).scratch) ∧ ∀ y, y ≠ r.group → t.group? y = s.group? y)

/-- Table 16.2 on two N-bit integers (R316): the operations of ATOM and RED. -/
def atomTable (w : Nat) (signed : Bool) (op : AtomOp) (old v : BitVec w) : BitVec w :=
  match op with
  | .add => old + v
  | .min => if (if signed then v.slt old else v.ult old) then v else old
  | .max => if (if signed then old.slt v else old.ult v) then v else old
  | .and => old &&& v
  | .or => old ||| v
  | .xor => old ^^^ v
  | .exch => v
  | .inc => if v.ule old then 0 else old + 1
  | .dec => if old = 0 ∨ v.ult old then v else old - 1

/-- Table 16.2, R142, R237: the integer operations, and one indivisible operation on a scratchpad place: it answers the old
value and leaves the new one there, and no other byte changes. R229, R316, R317, R331, R383: ATOM and CAS open with the values
that their lanes' operations read, each made once (those of a peer's memory first), in ascending lane order, and RED with none;
each is made after the group's earlier stores. `s1` is the state after the operations. -/
def Obligations.Atomics : Prop :=
  ((∀ (op : AtomOp) (a b : BitVec 32), atomApply .i32 op a.toNat b.toNat = (atomTable 32 true op a b).toNat ∧
     atomApply .ui32 op a.toNat b.toNat = (atomTable 32 false op a b).toNat) ∧
   (∀ (op : AtomOp) (a b : BitVec 64), atomApply .i64 op a.toNat b.toNat = (atomTable 64 true op a b).toNat ∧
     atomApply .ui64 op a.toNat b.toNat = (atomTable 64 false op a b).toNat) ∧
   ∀ (s : State) (cx : Cx) (c : Context) (addr : DWord) (hint size lane lcid off : Nat) (op : RmwOp) (x : Nat),
     s.ctx cx.slot = some c → placeOf c cx.lcid addr = some (.scratch lcid off) → lcid < c.lcs.length →
     s.softScratch cx.slot lcid off size = false → s.ScratchOk →
       let old := leNat (Cells.read (s.lc cx.slot lcid).scratch off size)
       op.f old = some x →
         ∃ t, s.rmw cx hint addr size lane op = .ok old t ∧ t.mem = s.mem ∧
           ∀ a, Cells.get (t.lc cx.slot lcid).scratch a =
             if off ≤ a ∧ a < off + size then BitVec.ofNat 8 (x / 256 ^ (a - off)) else Cells.get (s.lc cx.slot lcid).scratch a) ∧
  (∀ (s s1 : State) (r : SplitRef) (g g1 : Group) (o : AtomInstr) (cas : CasOp) (c : Checked) (vals : List (Nat × List Nat)),
     Issuing s r g →
       let src := s.reads r g
       let runs (i : RmwInstr) : Prop :=
         let a := src.a i.arr.toNat
         let act := src.active r.k i.g
         let view := src.view r.k i.x.toNat
         let s0 := s.entered.sample r (footprint a view 0 1)
         let es := (c.elems a 1).flatMap (fun l => l.2.map (fun e => (l.1, e)))
         s.codeAt r.slot (g.split r.k) = none ∧ arBad a = false ∧ arEsz a = (if i.size = 8 then 3 else 2) ∧
         arrayCheck a view act true 0 1 (fun j => (src.v i.x.toNat j).toInt) = .ok c ∧
         s0.laneChecks r (g.split r.k) .atomic i.kind 0 (c.elems a 1) (s0.checked r c) = none ∧
         (((s0.asking r .atomic i.ord i.scope).flush r.group).transElems (s0.cxOf r) .atomic (es.map (fun e => e.2))).bind (fun _ s2 =>
           s2.rmwAll (s0.cxOf r) (accessHint .fromArray a) i.size (i.op src) es) = .ok vals s1 ∧
         Still s1 r g1
       let opens (i : Instr) (gd : Guard) (la : LA) (d : VReg) (size : Nat) : Prop :=
         let dests := loadDests d.toNat (src.active r.k gd) false 1 (8 * size) vals
         EffectAfter i s s1 r g1 { v := dests.map (fun d => d.reg), viol := true, long := true }
           (fun g' => Opens g1 g' r.k .load la dests [] 0 ∧ g'.viol = c.viol)
       (runs (atomInstr o true) → opens (.atom o) o.g o.la o.d (atomBytes o.ty)) ∧
       (runs (atomInstr o false) → EffectAfter (.red o) s s1 r g1 { viol := true } (fun g' => g'.viol = c.viol)) ∧
       (runs (casInstr cas) → opens (.cas cas) cas.g cas.la cas.d (if cas.ty.wide then 8 else 4)))

/-- R200, R229, R230, R345, R380: a fence that is a release at die scope or wider, and FENCE.ENG.REL, perform every store of the group and
its logical core, at once, and its MMAs have then read their operands; R230 only orders these accesses, and that the fence performs them
there and then is the model's reading (log 24). A fence that only acquires waits for the reads. PUBLISH records a flip that waits for the
shadow records the engines have started. -/
def Obligations.FencesPublish : Prop :=
  ∀ (s s1 s2 : State) (r : SplitRef) (g g1 : Group) (gd : Guard) (ord : Ord) (scope : Scope) (a : SOrN) (p : DWord × DWord × Nat),
    Issuing s r g →
      let src := s.reads r g
      let acquired := if scope = .group then s.entered else s.entered.readsDone r.group
      let released := acquired.releaseAt r.group scope
      let flushed := (s.entered.readsDone r.group).flush r.group
      let buf := match a with
        | .s u => (src.s u.toNat).toNat % 256
        | .n k => k.toNat
      (src.passes gd = false → Effect (.fence gd ord scope) s r g {} (fun _ => True) ∧
        Effect (.fenceEngRel gd scope) s r g {} (fun _ => True) ∧ Effect (.publish gd a scope) s r g {} (fun _ => True)) ∧
      (src.passes gd = true →
        (ord = .plain ∨ ord = .acq → Still acquired r g1 → EffectAfter (.fence gd ord scope) s acquired r g1 {} (fun _ => True)) ∧
        (ord = .rel ∨ ord = .acqrel ∨ ord = .sc → Still released r g1 →
          EffectAfter (.fence gd ord scope) s released r g1 {} (fun g' => scope ≠ .group → g'.storeQ = [])) ∧
        (Still flushed r g1 → EffectAfter (.fenceEngRel gd scope) s flushed r g1 {} (fun g' => g'.storeQ = [])) ∧
        (s.entered.pubBuffer (s.cxOf r) buf = .ok (some p) s1 →
          s2 = (s1.releaseAt r.group scope).modCtx r.slot (fun c => { c with flips := c.flips ++ [⟨buf, r.group, scope, c.shadowsOf buf⟩] }) →
          Still s2 r g1 → EffectAfter (.publish gd a scope) s s2 r g1 {} (fun _ => True)))

/-! ## Copies, handles, tags and barriers -/

/-- R179 to R182, R333, R334: an accepted CPA adds one copy for each active lane to its engine and to that lane's open batch; CPSEAL
seals the open batches of its lanes while each has fewer than 8 sealed, CPWAIT goes on when each has at most N, and else they
wait. -/
def Obligations.Copies : Prop :=
  ∀ (s : State) (r : SplitRef) (g g1 : Group) (o : CpaOp) (gd : Guard) (n : BitVec 3) (c : Checked),
    Issuing s r g →
      let src := s.reads r g
      let a := src.a o.arr.toNat
      let act := src.active r.k o.g
      let size := 4 * 2 ^ o.size.toNat
      let w := eszBits (arEsz a) / 8
      let view := src.view r.k o.x.toNat
      let valid (j : Nat) : Nat := (src.v (o.d.toNat + 1) j).toNat
      let dst (j : Nat) : Nat := (src.v o.d.toNat j).toNat
      let s0 := s.entered.sample r (footprint a view (offInt o.off) (size / w))
      let srcs := (c.live.lanes.filter (fun j => valid j != 0)).map (fun j => (j, (arrayElem a (c.idx j).toNat).addr))
      let first := (s.lc r.slot r.lcid).nextCpa
      let copies : List CpaCopy := act.lanes.zipIdx.map (fun x =>
        { num := first + x.2, gh := r.gh, lane := x.1, size := size, valid := valid x.1
          src := ((srcs.find? (fun y => y.1 == x.1)).map (fun y => y.2)).getD 0
          dst := dst x.1, zero := (srcs.find? (fun y => y.1 == x.1)).isNone, split := r.k, recNum := g.ctl.recNum
          ganginst := g.ctl.ganginst, role := g.ctl.role, hint := accessHint o.rc a, units := []
          faulted := false, fail := none, failed := false })
      let s1 := (s0.checked r c).addCopies r copies
      let lanes := src.active r.k gd
      let sealedOf (j : Nat) : Nat := (regGet Batch.none g.batches j).sealed.length
      (arBad a = false → arEsz a ≤ 4 → w ≤ size →
        cpaCheck a view act (offInt o.off) (size / w) (fun j => (src.v o.x.toNat j).toInt) valid w = .ok c →
        s.codeAt r.slot (g.split r.k) = none → cpaFault s0 r act size valid dst srcs = none → s1.group? r.group = some g1 →
          EffectAfter (.cpa o) s s1 r g1 {} (fun g' => g'.viol = c.viol ∧
            (∀ j, j < g.batches.length → j < 32 → (regGet Batch.none g'.batches j).current =
              (regGet Batch.none g.batches j).current ++ (copies.filter (fun x => x.lane == j)).map (fun x => x.num)))) ∧
      ((∀ j ∈ lanes.lanes, sealedOf j < 8) →
        EffectAfter (.cpseal gd) s s r g { batch := true } (fun g' => ∀ j, j < g.batches.length → j < 32 →
          regGet Batch.none g'.batches j =
            if Mask.has lanes j then (regGet Batch.none g.batches j).close else regGet Batch.none g.batches j)) ∧
      ((∃ j ∈ lanes.lanes, 8 ≤ sealedOf j) → Waits (.cpseal gd) s r g (.batch lanes 8 true)) ∧
      ((∀ j ∈ lanes.lanes, sealedOf j ≤ n.toNat) → EffectAfter (.cpwait gd n) s s r g {} (fun _ => True)) ∧
      ((∃ j ∈ lanes.lanes, n.toNat < sealedOf j) → Waits (.cpwait gd n) s r g (.batch lanes n.toNat false))

/-- R189, R280, R353: KICK takes the lowest free entry: its generation rises by one, it is PENDING with N records, which join
the engine as they stand in the scratchpad, and the handle names it; with no free entry the split waits. A list off 64 bytes is
ALIGN. The first generation number rests on log 3; the statement holds for every one. R193, R194, R350: HWAIT goes on when its
handle is DONE or CANCELLED, waits while it is PENDING, and is ACCESS, fatal, when it has FAILED; HTEST reads the state's code;
a handle that names no entry reads as DONE. HCANCEL makes a handle CANCELLED, but one that is DONE, which it leaves. R400:
TAGWAIT.ANY and TAGWAIT.ALL go on when a tag of their mask, or every one, is set (ANY with an empty mask too), and else wait;
TAGFIND answers the lowest set tag of its mask, or 64. -/
def Obligations.KickHandlesTags : Prop :=
  (∀ (s : State) (r : SplitRef) (g : Group) (c : Context) (gd : Guard) (d : HReg) (a : SReg) (n : BitVec 8) (e : Nat),
     Issuing s r g → s.ctx r.slot = some c → r.lcid < 1024 →
       let src := s.reads r g
       let off := (src.s a.toNat).toNat
       let gen := ((c.lc r.lcid).kick e).gen + 1
       let s1 := s.modLc r.slot r.lcid (fun l =>
         { l with
           kicks := regSet l.kicks e ⟨gen, .pending, n.toNat, off, 0, g.ctl.ganginst, g.ctl.recNum, r.gh, g.ctl.role⟩
           engine := l.engine ++ (List.range n.toNat).map (fun i => kickRec (c.lc r.lcid).scratch e i (off + 64 * i)) })
       (src.passes gd = false → Effect (.kick gd d a n) s r g {} (fun _ => True)) ∧
       (src.passes gd = true → off % 64 = 0 → off + 64 * n.toNat ≤ Config.scratchBytes →
         (c.freeKick r.lcid = some e → d.toNat < g.hregs.length →
           EffectAfter (.kick gd d a n) s s1 r g { h := [d.toNat] } (fun g' =>
             (g'.h d.toNat).toNat = 2 ^ 63 + r.lcid * 2 ^ 40 + e * 2 ^ 32 + gen.toNat)) ∧
         (c.freeKick r.lcid = none → Waits (.kick gd d a n) s r g .kick)) ∧
       (src.passes gd = true → g.mayTrap → off % 64 ≠ 0 →
         TakesTrap (.kick gd d a n) s r g (g.split r.k).mask 7 (src.s a.toNat) 0)) ∧
  (∀ (s : State) (r : SplitRef) (g : Group) (gd : Guard) (h : HReg) (u : SReg),
     Issuing s r g → (s.reads r g).passes gd = true →
       let x := (s.reads r g).h h.toNat
       let st := s.handleSt r.slot x
       (st = .done ∨ st = .cancelled → EffectAfter (.hwait gd h) s s r g {} (fun _ => True)) ∧
       (st = .pending → Waits (.hwait gd h) s r g (.handle x 0)) ∧
       (st = .failed → HaltsAt (.hwait gd h) s r g 8) ∧
       (u.toNat < g.sregs.length → EffectAfter (.htest gd u h) s s r g { s := [u.toNat] } (fun g' => g'.s u.toNat =
         match st with
         | .done => 0
         | .pending => 1
         | .cancelled => 2
         | .failed => 3)) ∧
       (x.getLsbD 63 = false → st = .done) ∧
       (st = .done → EffectAfter (.hcancel gd h) s s r g {} (fun _ => True)) ∧
       (st ≠ .done →
         let s1 := s.entered.cancelKick r.slot (handleLcid x) (handleEntry x)
         s1.handleSt r.slot x = .cancelled ∧
           ∀ g1, Still s1 r g1 → EffectAfter (.hcancel gd h) s s1 r g1 {} (fun _ => True))) ∧
  (∀ (s : State) (r : SplitRef) (g : Group) (gd : Guard) (a u : SReg),
     Issuing s r g → (s.reads r g).passes gd = true →
       let x := (s.reads r g).s a.toNat
       let tags := (s.lc r.slot r.lcid).tags
       (x = 0 ∨ tags &&& x ≠ 0 → EffectAfter (.tagwaitAny gd a) s s r g {} (fun _ => True)) ∧
       (x ≠ 0 → tags &&& x = 0 → Waits (.tagwaitAny gd a) s r g (.tag x false)) ∧
       (tags &&& x = x → EffectAfter (.tagwaitAll gd a) s s r g {} (fun _ => True)) ∧
       (tags &&& x ≠ x → Waits (.tagwaitAll gd a) s r g (.tag x true)) ∧
       (u.toNat < g.sregs.length → EffectAfter (.tagfind gd u a) s s r g { s := [u.toNat] } (fun g' =>
         ((tags &&& x = 0 ∧ g'.s u.toNat = 64) ∨
           ∃ t, t < 64 ∧ g'.s u.toNat = BitVec.ofNat 64 t ∧ (tags &&& x).getLsbD t = true ∧ ∀ i, i < t → (tags &&& x).getLsbD i = false))))

/-- R195, R196, R401: the transaction-barrier instructions act on the four words at their offset: TBINIT sets them, the others
add to BYTES or take one from ARR, and an update that leaves both zero completes the phase: GEN rises and ARR starts again.
TBWAIT goes on when its phase is complete, and else waits. `s0` holds the group's earlier stores to the scratchpad. An arrival is a release
at CORE scope (R196, R401), which orders the group's earlier stores alone (R234): that all of them are performed as it arrives, at DEVICE
scope (`s1`), is the model's choice (log 24). R401: an offset beyond the scratchpad is ACCESS, fatal, one that is no multiple of 16 is ALIGN,
both with the register in TVAL, and a TBINIT of count 0 is FORMAT. A barrier with an uncorrectable soft error is
ECC (Table 12.6). Table 8.4: the words of a barrier lie
at its offset, and what is put there is read back; no other byte changes. -/
def Obligations.TransactionBarriers : Prop :=
  (∀ (s : State) (r : SplitRef) (g g0 g1 : Group) (gd : Guard) (a b : SReg),
     Issuing s r g → (s.reads r g).passes gd = true →
       let src := s.reads r g
       let off := (src.s a.toNat).toNat
       let y : BitVec 32 := (src.s b.toNat).extractLsb' 0 32
       let s0 := s.entered.drainAll r.group
       let old := (s0.lc r.slot r.lcid).tbar off
       let leaves (i : Instr) (x : State) (h : Group) (new : TBar) : Prop :=
         EffectAfter i s (x.modLc r.slot r.lcid (fun l => l.setTbar off new)) r (h.wrote [off]) {} (fun _ => True)
       let s1 := s0.releaseAt r.group .device
       let held := (s1.lc r.slot r.lcid).tbar off
       let settled (x : TBar) : TBar := if x.arr = 0 ∧ x.bytes = 0 then ⟨x.gen + 1, x.again, 0, x.again⟩ else x
       off < Config.scratchBytes → off % 16 = 0 → s0.softScratch r.slot r.lcid off 16 = false → Still s0 r g0 →
         (y ≠ 0 → leaves (.tbinit gd a b) s0 g0 ⟨0, y, 0, y⟩) ∧
         (Still s1 r g1 →
           leaves (.tbarrive gd a) s1 g1 (settled ⟨held.gen, held.arr - 1, held.bytes, held.again⟩) ∧
           leaves (.tbarriveTx gd a b) s1 g1 (settled ⟨held.gen, held.arr - 1, held.bytes + y, held.again⟩)) ∧
         leaves (.tbexpect gd a b) s0 g0 (settled ⟨old.gen, old.arr, old.bytes + y, old.again⟩) ∧
         ((old.gen - y - 1).toNat < 2 ^ 31 → EffectAfter (.tbwait gd a b) s s0 r g0 {} (fun _ => True)) ∧
         (2 ^ 31 ≤ (old.gen - y - 1).toNat → ∃ t g', exec (.tbwait gd a b) s = .next t ∧ t.group? r.group = some g' ∧
           (g'.split r.k).st = .wait (.barrier off y) ∧ (g'.split r.k).pc = (g0.split r.k).pc)) ∧
  (∀ (s : State) (r : SplitRef) (g : Group) (gd : Guard) (a b : SReg),
     Issuing s r g → (s.reads r g).passes gd = true →
       let off := ((s.reads r g).s a.toNat).toNat
       let soft := (s.entered.drainAll r.group).softScratch r.slot r.lcid off 16
       (∀ i ∈ [Instr.tbinit gd a b, .tbarrive gd a, .tbarriveTx gd a b, .tbexpect gd a b, .tbwait gd a b],
         (Config.scratchBytes ≤ off → HaltsAt i s r g 8) ∧
         (off < Config.scratchBytes → off % 16 ≠ 0 → g.mayTrap → TakesTrap i s r g (g.split r.k).mask 7 ((s.reads r g).s a.toNat) 0) ∧
         (off < Config.scratchBytes → off % 16 = 0 → soft = true → HaltsAt i s r g 16)) ∧
       (off < Config.scratchBytes → off % 16 = 0 → soft = false → ((s.reads r g).s b.toNat).extractLsb' 0 32 = 0 →
         ∃ t g', exec (.tbinit gd a b) s = .next t ∧ t.group? r.group = some g' ∧ (g'.split r.k).st = .halted ∧
           (g'.split r.k).pc = (g.split r.k).pc)) ∧
  (∀ (l : LogicalCore) (off : Nat) (b : TBar), Memory.wf l.scratch = true → (l.setTbar off b).tbar off = b ∧
     ∀ a, a < off ∨ off + 16 ≤ a → Cells.get (l.setTbar off b).scratch a = Cells.get l.scratch a)

/-! ## The matrix unit -/

/-- R126 to R135, R364, R365, R368, R369: in a group with every lane live and converged, MMA, MMA.Z and MLD with an accepted
format block and operands open with their results (those of MMA as the scratchpad stands; it reads until it completes, R134);
MST opens with its rows, and no other byte, in the store queue, from which they reach the scratchpad before it completes, or stalls while that
is full (R82; log 8). NaN flags and rounding of narrow formats follow log 27. -/
def Obligations.Matrix : Prop :=
  ∀ (s : State) (r : SplitRef) (g g0 : Group) (o : MmaOp) (l : MldOp) (m : MstOp) (fb : FmtBlock) (a b : MOp) (p : SpPair) (sum z : Bool),
    Issuing s r g → g.ctl.live = Mask.full → (g.split r.k).mask = Mask.full →
      let src := s.reads r g
      let s0 := s.entered.drainAll r.group
      let sp := (s0.lc r.slot r.lcid).scratch
      let cell (i j : Nat) : Nat × Nat × Flags := mmaCell fb (mmaTerms sp src fb z o.d.toNat a b i j)
      let table (f : Nat → Nat → Nat) : List (List Nat) := (List.range 32).map (fun i => (List.range 32).map (f i))
      let dests := rowDests o.d.toNat (table (fun i j => (cell i j).1)) ++
        (if fb.acc then rowDests (o.d.toNat + 32) (table (fun i j => (cell i j).2.1)) else [])
      let flags (f : Nat → Nat → Flags) : Flags :=
        (List.range 32).foldl (fun x i => (List.range 32).foldl (fun y j => y ||| f i j) x) 0
      let aRows : Nat × Nat := match a with
        | .regs _ => (32, fb.a.slice)
        | .sp _ => if fb.tra then (fb.a.slice, 32) else (32, fb.a.slice)
      let bRows : Nat × Nat := match b with
        | .regs _ => (fb.a.slice, 32)
        | .sp _ => if fb.trb then (32, fb.a.slice) else (fb.a.slice, 32)
      let f := if l.opB then fb.b else fb.a
      let rows := if l.opB then !fb.trb else fb.tra
      let loaded : List VecDest := (List.range f.blockRegs).map (fun q => ⟨l.d.toNat + q, Mask.full,
        perLane (fun i => blockWord f (fun k => if rows then spCode sp p f k i else spCode sp p f i k) q), none, false⟩)
      let stored (i j : Nat) : Nat × Flags :=
        mstCell fb.a fb.rnd fb.satf sum (src.v (m.d.toNat + i) j).toNat (if sum then (src.v (m.d.toNat + 32 + i) j).toNat else 0)
      let row (q : Nat) : List Nat := (List.range 32).map (fun c => (if fb.tra then stored c q else stored q c).1)
      let wr := (List.range 32).flatMap (fun q => rowWrites p fb.a q (row q))
      (Still s0 r g0 →
        (src.passes o.g = true → fmtBlock (pairBits src o.f) = some fb → MOperand.parse src fb.tra o.a = some a →
          MOperand.parse src fb.trb o.b = some b → a.beyond fb.a fb.tra = none → b.beyond fb.b (!fb.trb) = none →
          gridBeyond fb.geom fb.aoff fb.apitch aRows.1 aRows.2 = none → gridBeyond fb.geom fb.boff fb.bpitch bRows.1 bRows.2 = none →
          s.softBytes r (a.bytes fb.a fb.tra ++ b.bytes fb.b (!fb.trb) ++ gridBytes fb.geom fb.aoff fb.apitch aRows.1 aRows.2 ++
            gridBytes fb.geom fb.boff fb.bpitch bRows.1 bRows.2) = false →
            EffectAfter (if z then .mmaZ o else .mma o) s s0 r g0 (longWrites dests)
              (fun g' => Opens g0 g' r.k .matrix o.la dests [] (flags (fun i j => (cell i j).2.2))
                (some ⟨z, o, src.vregs, src.sregs, sp, [], none⟩))) ∧
        (src.passes l.g = true → fmtBlock (pairBits src l.f) = some fb → spPair (pairBits src l.a) = some p →
          MOp.beyond f rows (.sp p) = none → s.softBytes r ((MOp.sp p).bytes f rows) = false →
            EffectAfter (.mld l) s s0 r g0 (longWrites loaded) (fun g' => Opens g0 g' r.k .matrix l.la loaded [] 0))) ∧
        (src.passes m.g = true → fmtBlock (pairBits src m.f) = some fb → spPair (pairBits src m.a) = some p →
          firstBeyond p 32 (rowBytes fb.a 32) = none →
            let i := if sum then Instr.mstSum m else .mst m
            (g.queueFull = false → EffectAfter i s s r g { long := true, stores := true }
              (fun g' => Opens g g' r.k .matrix m.la [] [] (flags (fun i j => (if fb.tra then stored j i else stored i j).2)) ∧
                g'.storeQ = g.storeQ ++ [⟨wr.map (fun w => ⟨.scratch r.lcid w.1, w.2, 0xFF⟩), [], some g.nextId⟩])) ∧
            (g.queueFull = true → ∃ t, exec i s = .next t ∧ SameMemory s t ∧ SplitComes t r g (fun x => x.st = (g.split r.k).st)))

/-! ## Posts, gangs, scopes and cohorts -/

/-- R206, R222, R376 to R378: a POST to a port of the context sends its message, which holds the scope of its instance, and
waits for the answer, and one to another rank leaves on a port of its peer-table entry; a POSTQ answers true once its message
is enqueued or has left, or false when the port is full (a port enqueues one message a cycle, R19); both are made after the
group's earlier stores. A malformed port word is FORMAT. R213, R219, R354, R373: PATLOAD loads a well-formed image of a bank
and LAUNCH emits a gang record, each after the group's earlier stores. -/
def Obligations.PostsAndLaunches : Prop :=
  (∀ (s s1 : State) (r : SplitRef) (g g1 : Group) (c : Context) (gd : Guard) (d : PReg) (a : SReg) (b : SOrH)
     (entry : List Byte) (up : Nat),
     Issuing s r g → s.ctx r.slot = some c → (s.reads r g).passes gd = true →
       let src := s.reads r g
       let w := src.s a.toNat
       let port := w.toNat % 4096
       let rank := w.toNat / 2 ^ 16 % 4096
       let payload := match b with
         | .s u => src.s u.toNat
         | .h u => src.h u.toNat
       let s0 := s.entered.releaseAt r.group .device
       let hold := c.scopeOf g
       let m : Msg := ⟨payload, hold⟩
       (portWordBad w = true → HaltsAt (.post gd a b) s r g 4 ∧ (c.joinBusy r.group = false → HaltsAt (.postq gd d a b) s r g 4)) ∧
       (portWordBad w = false → w.getLsbD 28 = false ∨ rank = src.ctl.rank ∧ rank < src.ctl.nranks → Still s0 r g1 →
         (∃ t g' c', exec (.post gd a b) s = .next t ∧ t.group? r.group = some g' ∧ t.ctx r.slot = some c' ∧
           (g'.split r.k).st = .wait .answer ∧ (g'.split r.k).pc = (g1.split r.k).pc ∧
           c'.transit = c.transit ++ [.post r port m]) ∧
         (c.joinBusy r.group = false → d = 7 ∨ d.toNat < g1.qregs.length →
           ((c.bank (port / 256)).full (port % 256) = true →
             EffectAfter (.postq gd d a b) s s0 r g1 { q := [d.toNat] } (fun g' => g'.q d.toNat = decide (d = 7))) ∧
           ((c.bank (port / 256)).full (port % 256) = false → port ∉ c.enqd → c.heldFor port = false →
             EffectAfter (.postq gd d a b) s (s0.modCtx r.slot (fun x => (x.enqueue port m).hold hold)) r g1 { q := [d.toNat] }
               (fun g' => g'.q d.toNat = true)))) ∧
       (portWordBad w = false → w.getLsbD 28 = true →
         rank < src.ctl.nranks → rank ≠ src.ctl.rank →
           s.entered.readRecord (s.cxOf r) (src.ctl.peers + BitVec.ofNat 64 (16 + 16 * rank)) 16 = .ok entry s1 →
           peerEntryRsvd (leNat entry) = false → upPort s1 (leNat entry) = some up →
             let s2 := (s1.releaseAt r.group .system).sendFlit up rank (.post src.ctl.rank port payload)
             Still s2 r g1 → EffectAfter (.post gd a b) s s2 r g1 {} (fun _ => True) ∧
               (c.joinBusy r.group = false → d = 7 ∨ d.toNat < g1.qregs.length →
                 EffectAfter (.postq gd d a b) s s2 r g1 { q := [d.toNat] } (fun g' => g'.q d.toNat = true)))) ∧
  (∀ (s s1 : State) (r : SplitRef) (g g1 : Group) (c : Context) (gd : Guard) (a b : SReg) (bank : BitVec 4) (n : BitVec 8)
     (image desc : List Byte),
     Issuing s r g → s.ctx r.slot = some c → (s.reads r g).passes gd = true →
       let src := s.reads r g
       let addr := src.s a.toNat
       let s0 := s.entered.releaseAt r.group .device
       (c.joinBusy r.group = false → addr.extractLsb' 0 6 = 0 → addrPath addr ≤ 2 → addr.extractLsb' 57 3 = 0 →
         s0.readRecord (s.cxOf r) addr 4096 = .ok image s1 → imageFault image = none → Still s1 r g1 →
           (∃ t g', exec (.patload gd a bank) s = .next t ∧ t.group? r.group = some g' ∧ t.mem = s1.mem ∧
             ∃ c', t.ctx r.slot = some c' ∧ c'.bank bank.toNat = (((s1.ctx r.slot).getD c).loadBank s.cycles bank.toNat image).bank bank.toNat)) ∧
       (addr.extractLsb' 0 8 = 0 → addrPath addr = 0 ∨ addrPath addr = 2 → addr.extractLsb' 57 3 = 0 →
         s0.readRecord (s.cxOf r) addr 8 = .ok desc s1 →
           let own := match s1.ctx r.slot with
             | some x => x.scopeOf g
             | none => none
           let word : DWord := BitVec.ofNat 64 (leNat desc)
           let s2 := s1.emitRecord r.slot ⟨addr, (List.range n.toNat).map (fun i => src.s (b.toNat + i)), dwScope word own, dwPrio word,
             true, 0, false⟩
           Still s2 r g1 → EffectAfter (.launch gd a b n) s s2 r g1 {} (fun _ => True)))

/-- R221, R223, R225, R347: FSOPEN opens a FREE, DONE or ERROR scope below a live parent, counting in it; FSCLOSE of an OPEN
scope with members closes it; FSWAIT goes on at DONE or ERROR and waits at OPEN or CLOSED. A FREE scope is GANG for the last
two. R46, R318, R319: BAR and BARARR arrive with the active lanes: the phase stays open until every live lane has arrived;
BARARR answers the phase; BAR and BARWAIT go on when their phase is complete and else wait. A second arrival of a lane is GANG.
-/
def Obligations.ScopesAndCohorts : Prop :=
  (∀ (s : State) (r : SplitRef) (g : Group) (c : Context) (gd : Guard) (a : SReg) (x : SOrN),
     Issuing s r g → s.ctx r.slot = some c → (s.reads r g).passes gd = true → c.joinBusy r.group = false →
       let src := s.reads r g
       let w := src.s a.toNat
       let n := w.toNat % 256
       let par := w.toNat / 256 % 256
       let live (k : Nat) : Prop := (c.scope k).st = .open ∨ (c.scope k).st = .closed
       let hasPar := w.getLsbD 16
       let depth := if hasPar then (c.scope par).depth + 1 else 1
       let k := match x with
         | .s u => (src.s u.toNat).toNat % 256
         | .n y => y.toNat
       (w.extractLsb' 30 2 = 0 → ¬live n → (hasPar = true → par ≠ n ∧ live par) → depth ≤ 8 →
         EffectAfter (.fsopen gd a) s (s.modCtx r.slot (fun y => (y.modScope n (fun _ =>
           ⟨w.extractLsb' 32 32, 0, 0, w.toNat / 2 ^ 18 % 4096, w.getLsbD 17, hasPar, par, depth, .open⟩)).hold
             (if hasPar then some par else none))) r g {} (fun _ => True)) ∧
       ((c.scope k).st = .open → 0 < (c.scope k).live →
         EffectAfter (.fsclose gd x) s (s.modCtx r.slot (fun y => y.modScope k (fun z => { z with st := .closed }))) r g {} (fun _ => True)) ∧
       ((c.scope k).st = .done ∨ (c.scope k).st = .error → EffectAfter (.fswait gd x) s s r g {} (fun _ => True)) ∧
       (live k → Waits (.fswait gd x) s r g (.scope k)) ∧
       ((c.scope k).st = .free → HaltsAt (.fsclose gd x) s r g 18 ∧ HaltsAt (.fswait gd x) s r g 18)) ∧
  (∀ (s : State) (r : SplitRef) (g g0 : Group) (c : Context) (gi : GangInst) (gd : Guard) (k : BitVec 2) (d b : SReg) (n : Nat),
     Issuing s r g → s.ctx r.slot = some c → g.cohortOf k.toNat = some n → c.inst? g.ctl.recNum g.ctl.ganginst = some gi →
     n < gi.cohorts.length → k.toNat < g.ctl.arrived.length →
       let src := s.reads r g
       let act := src.active r.k gd
       let co := regGet ⟨0, 0, 0⟩ gi.cohorts n
       let s0 := s.entered.releaseAt r.group (c.cohortScope g n r.lcid)
       let cohortIn (t : State) : Option Cohort := (t.ctx r.slot).map (fun y => y.cohort g.ctl.recNum g.ctl.ganginst n)
       Still s0 r g0 →
         (act &&& g.arrivedIn k.toNat ≠ 0 → HaltsAt (.bar gd k) s r g 18 ∧ HaltsAt (.bararr gd d k) s r g 18) ∧
         (act &&& g.arrivedIn k.toNat = 0 → 0 < co.live → co.arrived + maskCount act < co.live →
           (∃ t g', exec (.bar gd k) s = .next t ∧ t.group? r.group = some g' ∧
             cohortIn t = some { co with arrived := co.arrived + maskCount act } ∧
             (act ≠ 0 → (g'.split r.k).st = .wait (.cohort n co.phase) ∧ (g'.split r.k).pc = (g0.split r.k).pc) ∧
             g'.arrivedIn k.toNat = g.arrivedIn k.toNat ||| act) ∧
           (d.toNat < g0.sregs.length → ∃ t g', exec (.bararr gd d k) s = .next t ∧ t.group? r.group = some g' ∧
             cohortIn t = some { co with arrived := co.arrived + maskCount act } ∧ g'.s d.toNat = co.phase.setWidth 64 ∧
             WentOn (g0.split r.k) (g'.split r.k))) ∧
         (act &&& g.arrivedIn k.toNat = 0 → act ≠ 0 → co.arrived + maskCount act = co.live →
           (∃ t g', exec (.bar gd k) s = .next t ∧ t.group? r.group = some g' ∧
             cohortIn t = some { co with phase := co.phase + 1, arrived := 0 } ∧ g'.arrivedIn k.toNat = 0 ∧
             WentOn (g0.split r.k) (g'.split r.k)) ∧
           (d.toNat < g0.sregs.length → ∃ t g', exec (.bararr gd d k) s = .next t ∧ t.group? r.group = some g' ∧
             cohortIn t = some { co with phase := co.phase + 1, arrived := 0 } ∧ g'.arrivedIn k.toNat = 0 ∧
             g'.s d.toNat = co.phase.setWidth 64 ∧ WentOn (g0.split r.k) (g'.split r.k))) ∧
         (src.passes gd = true →
           ((co.phase - (src.s b.toNat).extractLsb' 0 32 - 1).toNat < 2 ^ 31 → EffectAfter (.barwait gd k b) s s r g {} (fun _ => True)) ∧
           (2 ^ 31 ≤ (co.phase - (src.s b.toNat).extractLsb' 0 32 - 1).toNat →
             Waits (.barwait gd k b) s r g (.cohort n ((src.s b.toNat).extractLsb' 0 32)))))

/-- R47 to R49, R385: a REGROUP of a split that does not hold every live lane, or holds a divergence stack, is CONVERGENCE; members on other
logical cores, of another budget or of other cohorts are GANG; a member that is not the last waits at the rendezvous. Where the only member
reaches it, its live lanes fill the lanes from 0 up, those with the predicate first, and the split goes on with them. Where the last of
several members reaches it, the live lanes of all, in the order of the members and their lanes, fill the members' lanes in that order, those
with the predicate first; a member left without one retires. Who is a member is the model's reading (log 19). -/
def Obligations.Regroup : Prop :=
  ∀ (s : State) (r : SplitRef) (g : Group) (c : Context) (la : LA) (k : BitVec 2) (p : PReg) (n : Nat),
    Issuing s r g → s.ctx r.slot = some c → g.cohortOf k.toNat = some n →
      let ms := c.members g.ctl.recNum g.ctl.ganginst n
      let fits (x : GroupRef × Group) : Prop :=
        x.1.lcid = r.lcid ∧ x.2.ctl.budget = g.ctl.budget ∧ x.2.ctl.cohorts = g.ctl.cohorts
      ((g.split r.k).mask ≠ g.ctl.live ∨ (g.split r.k).div.depth ≠ 0 → HaltsAt (.regroup la k p) s r g 3) ∧
      ((g.split r.k).mask = g.ctl.live → (g.split r.k).div.depth = 0 → (∃ x ∈ ms, ¬fits x) → HaltsAt (.regroup la k p) s r g 18) ∧
      ((g.split r.k).mask = g.ctl.live → (g.split r.k).div.depth = 0 → (∀ x ∈ ms, fits x) →
        (∃ x ∈ ms, x.1 ≠ r.group ∧ x.2.ctl.retired = false ∧ x.2.atRegroup = none) →
          Waits (.regroup la k p) s r g (.regroup k.toNat p)) ∧
      (ms = [(r.group, g)] → r.k < 4 → g.ctl.live ≠ 0 → g.ctl.retired = false → (g.split r.k).mask = g.ctl.live → (g.split r.k).div.depth = 0 →
        (∀ j, j ≠ r.k → (g.split j).st = .free) → (g.split r.k).clause.isSome = true → g.inflight = [] →
        (∀ b ∈ g.batches, b.current = [] ∧ b.sealed = []) →
          let yes := g.ctl.live &&& g.p p.toNat
          let order := yes.lanes ++ (g.ctl.live &&& ~~~yes).lanes ++ (~~~g.ctl.live).lanes
          ∃ t g', exec (.regroup la k p) s = .next t ∧ t.group? r.group = some g' ∧
            (∀ n, n < g.vregs.length → ∀ j, j < 32 → g'.v n j = g.v n (regGet 0 order j)) ∧
            (∀ j, j < 32 → Mask.has g'.ctl.live j = decide (j < maskCount g.ctl.live)) ∧
            (g'.split r.k).st = .ready ∧ (g'.split r.k).mask = g'.ctl.live ∧ (g'.split r.k).pc = (g.split r.k).nextHdr ∧ SameMemory s t) ∧
      ∀ (at_ : GroupRef → Nat × PReg), at_ r.group = (r.k, p) → r.k < 4 → (r.group, g) ∈ ms → (ms.map (fun x => x.1)).Nodup →
        (g.split r.k).mask = g.ctl.live → (g.split r.k).div.depth = 0 →
        (∀ x ∈ ms, fits x ∧ s.group? x.1 = some x.2 ∧ x.2.inflight = [] ∧ (∀ b ∈ x.2.batches, b.current = [] ∧ b.sealed = []) ∧
          (x.1 ≠ r.group → (at_ x.1).1 < 4 ∧ (x.2.split (at_ x.1).1).st = .wait (.regroup k.toNat (at_ x.1).2)) ∧
          ∀ j, j ≠ (at_ x.1).1 → (x.2.split j).st = .free) →
          let lanes (f : (GroupRef × Group) → Nat → Bool) : List ((GroupRef × Group) × Nat) :=
            ms.flatMap (fun x => (laneIds.filter (f x)).map (fun j => (x, j)))
          let live (x : GroupRef × Group) (j : Nat) : Bool := Mask.has x.2.ctl.live j
          let yes (x : GroupRef × Group) (j : Nat) : Bool := Mask.has (x.2.p (at_ x.1).2.toNat) j
          let order := lanes (fun x j => live x j && yes x j) ++ lanes (fun x j => live x j && !yes x j) ++ lanes (fun x j => !live x j)
          let total := (lanes live).length
          ∃ t, exec (.regroup la k p) s = .next t ∧ ∀ i x, ms[i]? = some x → ∃ g', t.group? x.1 = some g' ∧
            (∀ j, j < 32 → Mask.has g'.ctl.live j = decide (32 * i + j < total)) ∧
            (∀ m j y, m < x.2.vregs.length → j < 32 → order[32 * i + j]? = some y → g'.v m j = y.1.2.v m y.2) ∧
            (32 * i < total → (g'.split (at_ x.1).1).st = .ready ∧ (g'.split (at_ x.1).1).mask = g'.ctl.live) ∧
            (total ≤ 32 * i → g'.ctl.retired = true)

/-! ## Machine events -/

/-- Event `i` acts on one group: exec answers a next state in which the group satisfies `P`, and nothing outside it has changed. -/
def Alters (i : Instr) (s : State) (r : GroupRef) (P : Group → Prop) : Prop :=
  ∃ t g', exec i s = .next t ∧ t.group? r = some g' ∧ P g' ∧ OnlyGroup s t r

/-- R77, R79: the split that its quadrant chooses enters the clause at its PC when the conditions of its header hold, and is
READY again while they do not; a selected handle that failed halts it with ACCESS. A PC that R76 forbids, a header word of another major and a
position above its COUNT are TARGET, a header with a reserved bit set is ILLEGAL (R78): the split halts with POS zero in its PC and in TPC, and
TVAL holds that address for TARGET and the header for ILLEGAL. With another READY split at the same header and equal stack
state it merges first (R33). R254, R268: a split READY for 16,384 core cycles is boosted; a group whose deadline has passed has
its TIMER pending. -/
def Obligations.ClauseStart : Prop :=
  (∀ (s s1 : State) (r : SplitRef) (g : Group) (h : DWord) (j : Nat), s.group? r.group = some g →
     s.chosen r.slot r.lcid g.ctl.quad = some r →
       let sp := g.split r.k
       let bad (tval : DWord) : Prop := ∃ t g', exec (.clauseStart r) s = .next t ∧ t.group? r.group = some g' ∧ g.SameRegs g' ∧
         (g'.split r.k).st = .halted ∧ (g'.split r.k).mask = sp.mask ∧ (g'.split r.k).pc = atPosZero sp.pc ∧
         g'.trap.tpc = atPosZero sp.pc ∧ g'.trap.tval = tval
       (g.meeting r.k = [] → pcOk sp.pc = true → s.fetch (s.cxOf r) (pcHdr sp.pc) = .ok h s1 → s1.group? r.group = some g →
         (hdrMaj h ≠ 1 → bad (atPosZero sp.pc)) ∧
         (hdrMaj h = 1 → hdrRsvd h = true → bad h) ∧
         (hdrMaj h = 1 → hdrRsvd h = false → hdrCount h < pcPos sp.pc → bad (atPosZero sp.pc)) ∧
         (hdrMaj h = 1 → hdrRsvd h = false → pcPos sp.pc = 0 → s1.handleFailed r.slot g h = true →
           ∃ t, exec (.clauseStart r) s = .next t ∧ SplitComes t r g (fun x => x.st = .halted)) ∧
         (hdrMaj h = 1 → hdrRsvd h = false → pcPos sp.pc ≤ hdrCount h →
           (pcPos sp.pc = 0 → s1.handleFailed r.slot g h = false ∧ s1.hdrMet r g h = true) →
           ∃ t g', exec (.clauseStart r) s = .next t ∧ t.group? r.group = some g' ∧ OnlyGroup s1 t r.group ∧ g.SameRegs g' ∧
             g'.split r.k = { sp with
               st := .issuing, clause := some ⟨h, hdrClasses h, hdrCount h, hdrYield h⟩, age := none, boosted := false, yielded := false } ∧
             ∀ k, k ≠ r.k → g'.split k = g.split k) ∧
         (hdrMaj h = 1 → hdrRsvd h = false → pcPos sp.pc = 0 → s1.handleFailed r.slot g h = false → s1.hdrMet r g h = false →
           ∃ t g', exec (.clauseStart r) s = .next t ∧ t.group? r.group = some g' ∧ OnlyGroup s1 t r.group ∧
             g'.split r.k = { sp with st := .ready, age := none })) ∧
       (g.meeting r.k = [] → pcOk sp.pc = false → bad (atPosZero sp.pc)) ∧
       (g.meeting r.k = [j] → g.splits.length = 4 → ∃ t g', exec (.clauseStart r) s = .next t ∧ t.group? r.group = some g' ∧
         (g'.split (min r.k j)).mask = sp.mask ||| (g.split j).mask ∧ (g'.split (max r.k j)).st = .free)) ∧
  (∀ (s : State) (r : SplitRef) (g : Group) (a : Nat), s.group? r.group = some g → s.clocked = true →
     ((g.split r.k).age = some a → (g.split r.k).st = .ready → a + 16384 ≤ s.cycles →
       Alters (.issueAgeBoost r) s r.group (fun g' => g'.split r.k = { g.split r.k with boosted := true } ∧ g.SameRegs g' ∧
         ∀ j, j ≠ r.k → g'.split j = g.split j)) ∧
     (g.trap.tdue = true →
       Alters (.timerExpiry r.group) s r.group (fun g' => g' = { g with trap := { g.trap with tdue := false, tpend := true } })))

/-- R269 to R271, R303 to R306: a halt or a debug stop that has reached a split stops it where it stands; HALTREL retires the
instance held under its number; the STOP and HALT bits reach every split of the context, and RESUME lets those go that stopped.
What is held during a stop and the skid bounds of whole contexts are the model's reading (log 10, 14). -/
def Obligations.HaltAndDebug : Prop :=
  ∀ (s : State) (r : SplitRef) (g : Group) (c : Context) (die : Nat) (seq : BitVec 32) (i : GangInst),
    s.group? r.group = some g → s.ctx r.slot = some c → s.clocked = true → r.k < 4 → c.joinDie < s.dies.length →
    r.slot < (s.die c.joinDie).slots.length →
      let sp := g.split r.k
      (sp.skid.isSome = true → sp.st ≠ .halted → sp.st ≠ .free → ∃ t, exec (.haltPropagation r) s = .next t ∧
        SplitComes t r g (fun x => x.st = .halted ∧ x.skid = none)) ∧
      (sp.dskid.isSome = true → ∃ t, exec (.debugStopPropagation r) s = .next t ∧ SameMemory s t ∧
        SplitComes t r g (fun x => x.st = sp.st ∧ x.dstopped = true ∧ x.dskid = none)) ∧
      (c.joinDie = die →
        (c.insts.find? (fun x => x.halt == .held seq) = some i → ∃ t c', exec (.haltrel die r.slot seq) s = .next t ∧
          t.ctx r.slot = some c' ∧ c'.inst? i.recNum i.inst = none ∧ c'.groupsOf i.recNum i.inst = []) ∧
        ((∀ x ∈ c.insts, x.halt ≠ .held seq) → exec (.haltrel die r.slot seq) s = .next s) ∧
        (c.park ≠ .captured → c.dbg.stopping = false → c.dbg.stopped = false → ∃ t c', exec (.debugStop die r.slot) s = .next t ∧
          t.ctx r.slot = some c' ∧ (t.dbgRegs r.slot).hit = 10 ∧ (c'.dbg.stopping || c'.dbg.stopped) = true ∧ SameMemory s t ∧
          (sp.inUse = true → sp.st ≠ .halted → SplitComes t r g (fun x => x.st = sp.st ∧
            x.dskid = some (if s.dieOf r.slot r.lcid = die then (64, 8) else (256, 16))))) ∧
        (c.dbg.stopped = true → c.dbg.held = [] → ∃ t c', exec (.debugResume die r.slot) s = .next t ∧ t.ctx r.slot = some c' ∧
          c'.dbg.stopped = false ∧ SameMemory s t ∧
          (sp.dstopped = true → SplitComes t r g (fun x => x.dstopped = false ∧ x.exempt = true ∧
            x.st = if sp.st = .issuing then .ready else sp.st))) ∧
        (c.park ≠ .captured → c.haltSpreads = false → ∃ t c', exec (.contextHalt die r.slot) s = .next t ∧ t.ctx r.slot = some c' ∧
          c'.halting = true ∧ (∀ x ∈ c.insts, ∃ y, c'.inst? x.recNum x.inst = some y ∧ y.error = true ∧ y.halt ≠ .none) ∧
          ((c.instOf g).isSome = true → sp.inUse = true → SplitComes t r g (fun x => x.st = .halted ∨ x.skid.isSome = true))))

/-- R206, R208, R377: a POST that reaches its bank is enqueued and its split goes on; at a full STALL port it waits there, and
at a full TRAP port, or a TRYONLY port, PORTFULL is taken and the split is READY at its handler. A message of another source is
enqueued, or goes to the overflow of its bank, of 32 messages; beyond them the context halts. The order of arrivals is the
model's reading (log 22). R210, R211: a bank cycle takes four core cycles; in its first the pattern chosen of those that are ready
fires: it takes its messages from its ports, the round-robin pointer stands after it, and a gang record with their payloads
joins its queue; a firing whose descriptor cannot be read follows log 22. At its last, which does not come before the freed ports are filled
(R208; log 22), the patterns that are not ready leave every owed set. -/
def Obligations.BankEvents : Prop :=
  (∀ (s : State) (r : SplitRef) (g : Group) (c : Context) (n p : Nat) (m : Msg) (src : PostSrc),
     s.ctx r.slot = some c → s.clocked = true → c.mayArrive n = true → p / 256 < c.banks.length →
     p % 256 < (c.bank (p / 256)).queues.length →
       let b := c.bank (p / 256)
       let full := b.full (p % 256)
       let policy := wordPolicy (b.word (p % 256))
       let left := c.transit.take n ++ c.transit.drop (n + 1)
       let arrives (P : State → Context → Prop) : Prop := ∃ t c', exec (.messageArrival r.slot n) s = .next t ∧
         t.ctx r.slot = some c' ∧ P t c'
       let queued (x : Context) : Prop := (x.bank (p / 256)).queue (p % 256) = b.queue (p % 256) ++ [m] ∧ x.transit = left
       (c.transit[n]? = some (.post r p m) → s.group? r.group = some g → (g.split r.k).st = .wait .answer →
         (full = false → policy ≠ 2 → arrives (fun t c' => queued c' ∧ SameMemory s t ∧
           (∀ k, m.hold = some k → k < c.scopes.length → (c'.scope k).live = (c.scope k).live + 1) ∧
           ∃ g', t.group? r.group = some g' ∧ g.SameRegs g' ∧ (g'.split r.k).st = .ready ∧ (g'.split r.k).pc = (g.split r.k).afterPc ∧
             (g'.split r.k).mask = (g.split r.k).mask)) ∧
         (full = true → policy = 0 → arrives (fun t c' => c'.waiting = c.waiting ++ [(p, r, m)] ∧ c'.transit = left ∧ SameMemory s t ∧
           SplitComes t r g (fun x => x.st = .wait (.port m.payload p)))) ∧
         (full = true ∧ policy = 1 ∨ policy = 2 → g.mayTrap → arrives (fun t _ => ∃ g', t.group? r.group = some g' ∧
           TrapEntered s t g g' r.k (g.split r.k).mask 11 (BitVec.ofNat 64 (p + if policy = 2 then 4096 else 0)) .ready))) ∧
       (c.transit[n]? = some (.ext src p m) ∨ c.transit[n]? = some (.held src p m) →
         (full = false → arrives (fun t c' => queued c' ∧ SameMemory s t)) ∧
         (full = true → b.overflow.length < 32 → arrives (fun t c' =>
           (c'.bank (p / 256)).overflow = b.overflow ++ [(p % 256, m)] ∧ c'.transit = left ∧ SameMemory s t)) ∧
         (full = true → 32 ≤ b.overflow.length → arrives (fun _ c' => c'.halting = true ∧ c'.transit = left)))) ∧
  (∀ (s s1 : State) (slot n f : Nat) (c : Context) (bytes : List Byte),
     s.ctx slot = some c → s.joinRuns c = true → n < c.banks.length → (c.bank n).idle = true →
       let b := c.bank n
       let ready := s.readyPatterns slot n b
       let needs := patNeeds (b.pattern f)
       let w : DWord := BitVec.ofNat 64 (leNat bytes)
       (ready = [] → ∃ t c', exec (.bankCycle slot n) s = .next t ∧ t.ctx slot = some c' ∧ SameMemory s t ∧
         c'.bank n = { b with left := 4 } ∧ c'.records = c.records ∧ c'.groups = c.groups) ∧
       (b.choose ready = some f → b.failed.getLsbD f = false → bitsOf w.toNat 11 2 = 0 →
         s.readRecord (s.joinCx slot (.fire slot n f)) (BitVec.ofNat 64 (patGang (b.pattern f))) 8 = .ok bytes s1 → s1.ctxs = s.ctxs →
           ∃ t c' e, exec (.bankCycle slot n) s = .next t ∧ t.ctx slot = some c' ∧ (c'.bank n).rrptr = (f + 1) % 64 ∧
             c'.records = c.records ++ [e] ∧ e.descAddr = BitVec.ofNat 64 (patGang (b.pattern f)) ∧
             e.payloads = (b.consumed f).map (fun m => m.payload) ∧ e.pattern = 64 * n + f ∧ e.prio = bitsOf w.toNat 0 3 ∧
             e.scope = none ∧ e.queued = true ∧ e.launched = false ∧
             ((needs.map (fun x => x.1)).Nodup → b.overflow = [] → c.waiting = [] →
               ∀ x ∈ needs, (c'.bank n).queue x.1 = (b.queue x.1).drop x.2))) ∧
  (∀ (s : State) (slot n : Nat) (c : Context), s.ctx slot = some c → n < c.banks.length →
     let b := c.bank n
     let ready := s.readyPatterns slot n b
     ∃ c', (s.bankTicks slot).ctx slot = some c' ∧
       (1 < b.left → c'.bank n = { b with left := b.left - 1 }) ∧
       (b.left = 1 → b.refills = true → c'.bank n = b) ∧
       (b.left = 1 → b.refills = false → c'.bank n =
         { b with owed := b.owed.map (fun w => w &&& ready.foldl (fun x i => x ||| BitVec.ofNat 64 (2 ^ i)) 0), left := 0 }))

/-- R216 to R218, R248 to R252, R247: a gang record at the head of its queue, or one that is served, takes its descriptor, or retires with
ERROR when it is malformed or its start has failed; the record of a created context's root gang takes its PRIO first (that this record waits
in its queue as one that reads doubleword 0 is the model's choice, log 48); one that has it places its next instance, whose bind records
join the list; a head that has waited 2 ms starves; the first bind record of a die starts its groups, which become eligible with the last;
an instance whose groups have ended and whose work is performed retires, or is held when a halt ended it under HOLD. R25, Table 2.2: the
group that a bind record starts: zeros but for s0 to s31, which hold the payloads, one split READY at the role's entry with every lane,
calipers [0, 0], LORIGIN the gang-wide lane number, SBASE its spill slots. -/
def Obligations.GangServiceAndGroups : Prop :=
  (∀ (s s1 s2 : State) (slot n : Nat) (c : Context) (r : GangRec) (d : List Byte) (p : Places) (pr : Nat × Nat) (tab : List (List Nat))
     (t0 : Nat) (b : Bind) (bs : List Bind) (i : GangInst), s.ctx slot = some c →
       let after (e : Instr) (P : State → Context → Prop) : Prop := ∃ t c', exec e s = .next t ∧ t.ctx slot = some c' ∧ P t c'
       ((s.recordReads slot c).find? (fun x => x.num == n) = some r → r.failed = false → r.launching = false →
         s.startRead slot n r.descAddr 256 = (.ok d, s1) → s1.ctxs = s.ctxs →
           (descMalformed (descNum d) = false → c.descUnnamed (descNum d) = false → dgInstances (descNum d) ≠ 0 → dgTotal (descNum d) ≠ 0 →
             (c.usable (descNum d)).isEmpty = false → dgSpmd (descNum d) = false →
               after (.gangRecordTake slot n) (fun _ c' => ∃ x, c'.record? n = some x ∧ x.desc = some d ∧ x.next = 0 ∧
                 x.last = dgInstances (descNum d) ∧ x.queued = true ∧ c'.groups = c.groups)) ∧
           (descMalformed (descNum d) = true → (∀ x ∈ c.records, x.num = n → x.running = 0) →
             after (.gangRecordTake slot n) (fun _ c' => c'.record? n = none))) ∧
       ((s.recordReads slot c).find? (fun x => x.num == n) = some r →
         (r.failed = true → (∀ x ∈ c.records, x.num = n → x.running = 0) →
           after (.gangRecordTake slot n) (fun _ c' => c'.record? n = none)) ∧
         (r.failed = false → r.launching = true → s.startRead slot n r.descAddr 8 = (.ok d, s1) → s1.ctxs = s.ctxs →
           c.record? n = some r → after (.gangRecordTake slot n) (fun _ c' =>
             c'.record? n = some { r with prio := leNat d % 8, launching := false, headAt := none }))) ∧
       (s.serves slot c = some r → r.num = n → r.desc = some d → c.placeNow r = some p →
         s.readPeers slot r (descNum d) = (.ok pr, s1) → s1.cohortTable slot r (descNum d) = (.ok tab, s2) → s2.ctxs = s.ctxs →
           after (.instancePlacement slot n) (fun _ c' => c'.binds = c.binds ++ mkBinds s.nextBind r (descNum d) p tab pr.1 pr.2 ∧
             c'.groups = c.groups ∧ ∃ x, c'.insts = c.insts ++ [x] ∧ x.recNum = n ∧ x.inst = r.next ∧ x.scope = r.scope ∧
               x.lcids = p.map (fun y => y.1) ∧ x.cohorts = tab.map (fun m => ⟨32 * m.length, 0, 0⟩) ∧ x.halt = .none ∧ x.binding = true)) ∧
       (s.clocked = true → c.record? n = some r → r.headAt = some t0 → r.queued = true → c.isHead r = true → t0 + 5000000 ≤ s.tickNow →
         after (.queueHeadStarvation slot n) (fun _ c' => c'.record? n = some { r with starving := true })) ∧
       (s.clocked = true → c.destroying = false → c.binds = b :: bs → s.bindFirst c b = true →
         after (.bindRecordDispatch slot) (fun t c' => c'.binds = bs ∧
           (b.last = false → ∀ k, k < b.gcount → t.group? (b.ref slot k) = some (b.group k)) ∧
           (b.last = true → c.inst? b.recNum b.inst = some i → i.halt = .none → ∀ k, k < b.gcount →
             t.group? (b.ref slot k) = some { b.group k with ctl := { (b.group k).ctl with eligible := true } }))) ∧
       (s.clocked = true → c.inst? i.recNum i.inst = some i → c.instQuiet i = true → c.dbg.stopping = false → c.dbg.stopped = false →
         (i.halt = .none ∨ i.halt = .spreading ∧ s.holds slot = false →
           after (.instanceRetirement slot i.recNum i.inst) (fun _ c' =>
             c'.inst? i.recNum i.inst = none ∧ c'.groupsOf i.recNum i.inst = [])) ∧
         (i.halt = .spreading → s.holds slot = true →
           after (.instanceRetirement slot i.recNum i.inst) (fun _ c' =>
             c'.inst? i.recNum i.inst = some { i with halt := .held i.seq })))) ∧
  (∀ (b : Bind) (i : Nat),
     let g := b.group i
     (∀ n j, g.v n j = 0) ∧ (∀ n, g.s n = if n < 32 then regGet 0 b.payloads n else 0) ∧
     (∀ n, n < 7 → g.p n = 0 ∧ g.q n = false) ∧ (∀ n, g.a n = 0 ∧ g.h n = 0) ∧ (∀ n, n < b.budget → g.cal n = some ⟨0, 0⟩) ∧
     g.viol = 0 ∧ g.fflags = 0 ∧ g.trap.tvec = 0 ∧ g.trap.gtimer = 0 ∧ g.trap.inHandler = false ∧ g.ctl.live = Mask.full ∧
     (g.split 0).st = .ready ∧ (g.split 0).pc = b.pc ∧ (g.split 0).mask = Mask.full ∧ (∀ k, 0 < k → (g.split k).st = .free) ∧
     (∀ j, j < 32 → regGet 0 g.ctl.lorigin j = BitVec.ofNat 32 ((b.firstNum + i) * 32 + j)) ∧
     g.ctl.spillBase = b.spill + BitVec.ofNat 64 ((b.inst * b.total + b.firstNum + i) * 0x30000))

/-- The scratchpad of a logical core in a state. -/
def scratchOf (s : State) (slot lcid a : Nat) : Byte := Cells.get (s.lc slot lcid).scratch a

/-- R180, R183 to R185, R189 to R191, R200, R203: a copy's units that have not been performed yet are performed at the scratchpad, zeros
beyond its valid bytes; a record starts with its tag cleared, or fails when it is malformed or an uncorrectable error stands where it is
read; a completed record (one whose barrier's update meets no ECC) sets its bit of its entry, which is DONE with the last, settles its
barrier and makes its post; a failure leaves its entry FAILED; a PUBLISH whose shadow records have ended flips. What a failed unit leaves is
free (log 24). -/
def Obligations.EngineEvents : Prop :=
  ∀ (s s1 : State) (slot lcid n e idx : Nat) (c : Context) (cp : CpaCopy) (bytes : List Byte) (x : EngRec) (tg : Nat)
    (why : Cause × DWord) (fl : Flip), s.ctx slot = some c → s.ScratchOk → s.clocked = true → c.dbg.stopping = false → c.dbg.stopped = false →
      let l := s.lc slot lcid
      let k := l.kick e
      let rec_ := copyRec x.bytes
      let lay := layoutOf x.layout
      let full := k.doneMask ||| BitVec.ofNat 16 (2 ^ idx)
      let bar := l.tbar rec_.tb
      let less := bar.bytes - BitVec.ofNat 32 (recCount rec_ lay)
      let who : Waiter := .cpa slot lcid n
      let sp := s.performAll slot lcid
      (l.cpas.find? (fun y => y.num == n) = some cp → cp.faulted = false → cp.fail = none → cp.failed = false →
        c.dbg.has (.cpaCopyCompletion slot lcid n) = false →
        let open_ (a : Nat) : Prop := cp.dst ≤ a ∧ a < cp.dst + cp.size ∧ (a - cp.dst) / 16 ∉ cp.units
        (cp.zero = true → ∃ t, exec (.cpaCopyCompletion slot lcid n) s = .next t ∧ t.mem = s.mem ∧
          (∀ a, (open_ a → scratchOf t slot lcid a = 0) ∧ (¬open_ a → scratchOf t slot lcid a = scratchOf s slot lcid a)) ∧
          ∀ y ∈ (t.lc slot lcid).cpas, y.num ≠ n) ∧
        (cp.zero = false → sp.engRead (sp.engCx who slot lcid) .eread cp.hint cp.src cp.valid = .ok bytes s1 →
          s1.ctx slot = sp.ctx slot →
            ∃ t, exec (.cpaCopyCompletion slot lcid n) s = .next t ∧
              (∀ a, (open_ a → scratchOf t slot lcid a = (bytes[a - cp.dst]?).getD 0) ∧
                (¬open_ a → scratchOf t slot lcid a = scratchOf s1 slot lcid a)) ∧
              ∀ y ∈ (t.lc slot lcid).cpas, y.num ≠ n)) ∧
      (l.nextStart.map (fun y => (y.entry, y.idx)) = some (e, idx) → s.engineStarts slot lcid = true →
        (l.loadKick s.freeCtr e).engRec? e idx = some x →
          let unreadable : Prop := l.nextStart.map (fun y => y.loaded) = some false ∧
            ∃ y ∈ (l.loadKick s.freeCtr e).engine, y.entry = e ∧ s.recordEcc slot lcid y = true
          (unreadable →
            ∃ t, exec (.recordStart slot lcid e idx) s = .next t ∧ (∀ a, scratchOf t slot lcid a = scratchOf s slot lcid a) ∧
              (t.lc slot lcid).engRec? e idx = some (if s.recordEcc slot lcid x then { x with fail := some (.ecc, 0) } else x) ∧
              (t.lc slot lcid).tags = l.tags) ∧
          (¬unreadable → recordBad rec_ lay = false → recordForbidden rec_ lay = none → (l.loadKick s.freeCtr e).takeTag rec_ = some tg →
            ∃ t, exec (.recordStart slot lcid e idx) s = .next t ∧ (∀ a, scratchOf t slot lcid a = scratchOf s slot lcid a) ∧
              (t.lc slot lcid).engRec? e idx = some { x with started := true, tag := tg } ∧
              (t.lc slot lcid).tags = l.tags &&& ~~~BitVec.ofNat 64 (2 ^ tg)) ∧
          (¬unreadable → recordBad rec_ lay = true →
            ∃ t, exec (.recordStart slot lcid e idx) s = .next t ∧ (∀ a, scratchOf t slot lcid a = scratchOf s slot lcid a) ∧
              (t.lc slot lcid).engRec? e idx = some { x with fail := some (.format, 0) } ∧ (t.lc slot lcid).tags = l.tags)) ∧
      (l.engRec? e idx = some x → x.ready = true → rec_.tben = true → s.softScratch slot lcid rec_.tb 16 = true →
        c.dbg.has (.recordCompletion slot lcid e idx) = false →
          ∃ t, exec (.recordCompletion slot lcid e idx) s = .next t ∧ (∀ a, scratchOf t slot lcid a = scratchOf s slot lcid a) ∧
            (t.lc slot lcid).engRec? e idx = some { x with fail := some (.ecc, 0) } ∧ (t.lc slot lcid).kick e = k) ∧
      (l.engRec? e idx = some x → x.ready = true → e < l.kicks.length → (rec_.tben = true → s.softScratch slot lcid rec_.tb 16 = false) →
        ∃ t c', exec (.recordCompletion slot lcid e idx) s = .next t ∧ t.ctx slot = some c' ∧ t.mem = s.mem ∧
          (t.lc slot lcid).engRec? e idx = none ∧
          (t.lc slot lcid).kick e =
            { k with doneMask := full, st := if k.st = .pending ∧ full.toNat = 2 ^ k.count - 1 then .done else k.st } ∧
          ((∀ y ∈ l.engine, y.started = true → y.tag = x.tag → y.entry = e ∧ y.idx = idx) → x.tag < 64 →
            (t.lc slot lcid).tags = l.tags ||| BitVec.ofNat 64 (2 ^ x.tag)) ∧
          (rec_.tben = false → ∀ a, scratchOf t slot lcid a = scratchOf s slot lcid a) ∧
          (rec_.tben = true → (t.lc slot lcid).tbar rec_.tb =
            if bar.arr = 0 ∧ less = 0 then ⟨bar.gen + 1, bar.again, 0, bar.again⟩ else ⟨bar.gen, bar.arr, less, bar.again⟩) ∧
          (rec_.pen = false → c'.transit = c.transit) ∧
          (rec_.pen = true → c'.transit = c.transit ++ [.ext (.engine lcid) rec_.port
            ⟨rec_.payload, (c.inst? k.recNum k.ganginst).bind (fun y => y.scope)⟩])) ∧
      (l.engRec? e idx = some x → x.fail = some why → x.started = false → e < l.kicks.length →
        c.dbg.has (.recordFailure (.record slot lcid e idx)) = false →
          ∃ t, exec (.recordFailure (.record slot lcid e idx)) s = .next t ∧ ((t.lc slot lcid).kick e).st = .failed ∧
            (t.lc slot lcid).engRec? e idx = none) ∧
      (l.cpas.find? (fun y => y.num == n) = some cp → cp.fail = some why →
        c.dbg.has (.recordFailure (.cpa slot lcid n)) = false →
          ∃ t, exec (.recordFailure (.cpa slot lcid n)) s = .next t ∧
            ∀ y ∈ (t.lc slot lcid).cpas, y.num = n → y.failed = true ∧ y.fail = none) ∧
      (c.flips[idx]? = some fl → (∀ y ∈ c.flips.take idx, y.buf ≠ fl.buf) → (∀ y ∈ fl.records, c.shadowEnded y = true) →
        ∃ t c', exec (.publishFlip slot idx) s = .next t ∧ t.ctx slot = some c' ∧ SameMemory s t ∧ c'.flips = c.flips.eraseIdx idx ∧
          ∀ j, j < 256 → c'.fronts.getLsbD j = xor (c.fronts.getLsbD j) (decide (j = fl.buf)))

/-- R255 to R258: SWITCH_OUT takes a switch set off its working cores, with no instruction in flight and no store queued in it;
SWITCH_IN puts a waiting set on free working cores of its die; a slice's end dates the next and counts in the turn of every
context that held cores, until each of a class has had its turn; PREEMPTION switches out the sets chosen for a record. Which
die and core a logical core takes is free; the turns are the model's reading (log 15). -/
def Obligations.Scheduling : Prop :=
  ∀ (s : State) (slot lcid die n : Nat) (c : Context) (v : List Cand), s.ctx slot = some c → s.clocked = true →
    let l := c.switchSet lcid
    let d := c.setDie l
    (c.scheduled = true → c.setOut l = false → c.setHalting l = false → ∃ t, exec (.switchOut slot lcid) s = .next t ∧
      (∀ k ∈ l, (t.lc slot k).placed = none) ∧
      (∀ k ∈ l, ∀ p, (s.lc slot k).placed = some p → ((t.die p.1).core p.2).holds = none) ∧
      ∀ r g, r.slot = slot → r.lcid ∈ l → s.group? r = some g → ∃ g', t.group? r = some g' ∧ g'.inflight = [] ∧ g'.storeQ = []) ∧
    (c.setWaits l = true → c.setOut l = true → c.setHalting l = false → l.length ≤ (s.freeCores d).length → d < s.dies.length →
      (s.die d).cores.length = 26 → ∃ t, exec (.switchIn slot lcid) s = .next t ∧ SameMemory s t ∧
        ∀ k ∈ l, ∃ core, core ∈ s.freeCores d ∧ (t.lc slot k).placed = some (d, core) ∧ ((t.die d).core core).holds = some (slot, k)) ∧
    (s.sliceDue die = true → s.dieHalting die = false → ∃ t, exec (.sliceEnd die) s = .next t ∧ (t.die die).sliceTick = s.tickNow ∧
      ((∀ j x, s.ctx j = some x → ∀ y ∈ x.setFirsts.map x.switchSet, x.setWaits y = false) → ∀ j x, s.ctx j = some x → j < 8 →
        let use1 (k : Nat) : Nat := (s.die die).used k +
          if (s.residentSets die).any (fun z => z.1 == k && z.2.1.setHolds z.2.2) then 1 else 0
        let turnLeft (k : Nat) : Prop := k < 8 ∧ ∃ y, s.ctx k = some y ∧ y.cls = x.cls ∧ y.scheduled = true ∧ use1 k < y.weight ∧
          ∃ z ∈ y.setFirsts.map y.switchSet, y.setDie z = die ∧ y.setHolds z = true
        ((∃ k, turnLeft k) → (t.die die).used j = use1 j) ∧ ((∀ k, ¬turnLeft k) → (t.die die).used j = 0))) ∧
    ((c.recordSets n).findSome? (fun y => s.preemptFor c y) = some v → ∃ t, exec (.preemption slot n) s = .next t ∧
      ∀ x ∈ v, ∀ k ∈ x.set, (t.lc x.slot k).placed = none)

/-- Where a walk stops at a table pointer of a level: V clear, then a RSVD field that is not zero (Table 7.2, R169). -/
def pointerStop (level : Nat) (e : DWord) : Option (Nat × Nat) :=
  if bitsOf e.toNat 0 1 = 0 then some (level, 0)
  else if bitsOf e.toNat 39 25 ≠ 0 ∨ bitsOf e.toNat 1 12 ≠ 0 then some (level, 2) else none

/-- Where it stops at a PTE: V clear, then a reserved code or a RSVD field that is not zero (Table 7.3, R164, R169). -/
def leafStop (e : DWord) : Option (Nat × Nat) :=
  let x := e.toNat
  if bitsOf x 0 1 = 0 then some (0, 0)
  else if bitsOf x 60 3 ≠ 0 ∨ bitsOf x 9 7 ≠ 0 ∨ bitsOf x 1 3 ≠ 0 ∨ bitsOf x 54 2 = 3 ∨ 14 ≤ bitsOf x 56 4 then some (0, 2)
  else if bitsOf x 63 1 = 0 then (if bitsOf x 39 12 ≠ 0 then some (0, 2) else none)
  else if bitsOf x 54 2 ≠ 0 ∨ bitsOf x 56 4 ≠ 0 ∨ bitsOf x 51 1 ≠ 0 ∨ bitsOf x 6 1 ≠ 0 then some (0, 2) else none

/-- One entry of a walk, as it stands once what a page in motion owes it is pulled: its ECC, its failure, or what follows. -/
def walkEntry (s : State) (pa : Nat) (stop : DWord → Option (Nat × Nat)) (go : DWord → WalkRes) : WalkRes :=
  let u := s.pullRange pa 8
  match u.eccOf pa 8 with
  | some x => .ecc x
  | none =>
    match stop (u.read64 pa) with
    | some f => .fault f.1 f.2
    | none => go (u.read64 pa)

/-- A walk, its four levels written out (Table 7.1). -/
def walkRule (s : State) (root va : Nat) : WalkRes :=
  let next (e : DWord) : Nat := bitsOf e.toNat 13 26 * 8192
  walkEntry s (root + 8 * bitsOf va 46 11) (pointerStop 3) (fun e3 =>
    walkEntry s (next e3 + 8 * bitsOf va 36 10) (pointerStop 2) (fun e2 =>
      walkEntry s (next e2 + 8 * bitsOf va 26 10) (pointerStop 1) (fun e1 =>
        let pa := next e1 + 8 * bitsOf va 16 10
        walkEntry s pa leafStop (fun e0 => .pte pa e0))))

/-- R162 to R164, R169, Tables 7.1 to 7.3: a walk reads one entry of each level, from 3 down, and stops with its LEVEL and REASON at the
first that is not valid or is ill-formed (which PTEs with RMT set are ill-formed: log 28; a NEXT beyond the stacks or in a compressed region
is read as it stands, and what a page in motion owes an entry is pulled before it is read: log 51); FRAME is tested next, then the
permissions (a fetch without X is ACCESS), then a free frame; an accepted PTE gives the address and gets AC, and D for a write (R165). R155,
R168, R171, R174 to R178, R152: REPLAY frees a fault queue entry and lets its split walk again, FAIL makes it ACCESS; an invalidation drops
every translation of its range once started and completed; a page move names its destination and ends with TIER 0 (the frame of a move is
the one pushed first, and a frame that holds a page table and a page that an instruction in progress has translated are not moved, log 51);
pulled units hold the source's bytes; the policy pass, the halving of pin counts, L2CFG and UNPIN act on their die. -/
def Obligations.TranslationEvents : Prop :=
  ∀ (s : State) (die idx : Nat) (e : FaultEnt) (r : SplitRef) (g : Group) (va : DWord) (act : Mask) (x : Bool) (npages ctx first : Nat)
    (slot vpage stack unit pa f : Nat) (fs : List Nat) (pte value : DWord) (m : MovePage), s.MemoryOk → s.clocked = true → die < s.dies.length →
      let d := s.die die
      let d2 := (stackDie stack).1
      let does (i : Instr) (P : State → Prop) : Prop := ∃ t, exec i s = .next t ∧ P t
      (∀ root va', walk s root va' = walkRule s root va') ∧
      (let x := pte.toNat
       let frame := bitsOf x 16 23
       let stack1 := bitsOf x 35 4
       let hs := frame * 65536 / (36 * 2 ^ 30)
       (pteRmt pte = true → frameFault s pte = none) ∧
       (pteRmt pte = false → bitsOf x 54 2 = 1 → frameFault s pte =
         if stack1 < 12 ∧ ∃ y ∈ (s.tier stack1).records, y.idx = bitsOf x 16 19 then none else some 2) ∧
       (pteRmt pte = false → bitsOf x 54 2 ≠ 1 → frameFault s pte =
         if 432 * 2 ^ 30 ≤ frame * 65536 ∨ (2 ^ 26 * (s.tier hs).start ≤ frame * 65536 - hs * (36 * 2 ^ 30) ∧
           frame * 65536 - hs * (36 * 2 ^ 30) < 2 ^ 26 * ((s.tier hs).start + (s.tier hs).size)) then some 3 else none) ∧
       ∀ (p : Port) (a : Acc) (va' : Nat), s.tlbFind p slot (va' / 65536) = none →
         let ans := s.translate p slot va' a
         let w := (walkReads s va' 3 (s.rootOf slot)).foldl (fun acc y => acc.homeAccess y 8 false) s
         (∀ y, walk w (w.rootOf slot) va' = .ecc y → ans.1 = .ecc y) ∧
         (∀ l why, walk w (w.rootOf slot) va' = .fault l why → ans.1 = .fault l why) ∧
         (walk w (w.rootOf slot) va' = .pte pa pte →
           (∀ why, frameFault w pte = some why → ans.1 = .fault 0 why) ∧
           (frameFault w pte = none → permits a pte = false → ans.1 = if a = .fetch then .noX else .fault 0 1) ∧
           (frameFault w pte = none → permits a pte = true → bitsOf x 54 2 = 1 → (w.die (stackDie stack1).1).moves.length < 64 →
             (w.tier stack1).frames = [] → ans.1 = .fault 0 4) ∧
           (frameFault w pte = none → permits a pte = true → bitsOf x 54 2 ≠ 1 →
             ans.1 = (if pteRmt pte then .remote (bitsOf x 39 12) (frame * 65536 + va' % 65536)
               else .phys (frame * 65536 + va' % 65536) (bitsOf x 52 2)) ∧
             (pa + 8 ≤ Config.physBytes → a.writes = false ∨ pteD pte = true ∨
                 (((w.die (w.joinDie slot)).slot slot).dlog.base.getLsbD 4 = false) →
               ans.2.read64 pa = pte ||| 0x80 ||| (if a.writes then 0x100 else 0))))) ∧
      (regGet none d.faults idx = some e → e.waiters = [.split r] → s.group? r.group = some g → (g.split r.k).st = .wait (.fault va act x) →
        does (.fqrespReplay die idx) (fun t => regGet none (t.die die).faults idx = none ∧ SameMemory s t ∧
          SplitComes t r g (fun y => y.st = .ready ∧ y.replay = true)) ∧
        does (.fqrespFail die idx) (fun t => regGet none (t.die die).faults idx = none ∧ SplitComes t r g (fun y => y.st = .halted))) ∧
      (d.xlRun = none → does (.xlinvCommand die npages ctx) (fun t => SameMemory s t ∧
        (t.die die).xlRun = some (bitsOf d.xlinva.toNat 16 41, npages % 65536, ctx % 8))) ∧
      (d.xlRun = some (first, npages, slot) → s.remotePending slot = false →
        does (.xlinvCompletion die) (fun t => (t.die die).xlRun = none ∧
          (∀ y ∈ t.dies, (∀ z ∈ y.tlb, z.inRange slot first npages = false) ∧
            ∀ k ∈ y.cores, ∀ z ∈ k.tlb, z.inRange slot first npages = false) ∧
          ∀ r' g', r'.slot = slot → s.group? r' = some g' → ∃ g'', t.group? r' = some g'' ∧ g''.storeQ = [])) ∧
      ((s.ctx slot).isSome = true → stack < 12 → s.pageHeld slot vpage = false →
        let s0 := s.flushCtx slot
        walk s0 (s0.rootOf slot) (vpage * 65536) = .pte pa pte → frameFault s0 pte = none →
        pteRmt pte = false → pteTier pte = 0 → pteContig pte = false → pteFrame pte / framesPerStack ≠ stack → hintAllows pte stack = true →
        s0.tableFrame (pteFrame pte) = false →
        (s0.die d2).moves.length < 64 → (s0.tier stack).frames = f :: fs → pa + 8 ≤ Config.physBytes → f < 2 ^ 23 →
          does (.pageMoveStart slot vpage stack) (fun t => pteTier (t.read64 pa) = 2 ∧ pteFrame (t.read64 pa) = f ∧
            (t.tier stack).frames = fs ∧ (t.die d2).moves.getLast? = some ⟨slot, vpage, pa, some (pteFrame pte), 0, f, []⟩ ∧
            ∀ y ∈ t.dies, ∀ z ∈ y.tlb, z.inRange slot vpage 1 = false)) ∧
      (d.moves[idx]? = some m → homeDie (m.dst * 65536) = die → m.dst * 65536 + 65536 ≤ Config.physBytes →
        (unit < m.units → m.pulled.contains unit = false →
          does (.backgroundPull die idx unit) (fun t => (t.die die).moves[idx]? = some { m with pulled := m.pulled ++ [unit] } ∧
            ∀ i b, i < m.unit → (s.moveSource m unit)[i]? = some b → Cells.get t.mem (m.dst * 65536 + unit * m.unit + i) = b)) ∧
        ((∀ u, u < m.units → m.pulled.contains u = true) →
          let s0 := s.pullRange m.pte 8
          let e := s0.read64 m.pte
          does (.pageMoveCompletion die idx) (fun t => (t.die die).moves = (s0.die die).moves.eraseIdx idx ∧
            (m.pte + 8 ≤ Config.physBytes → pteV e = true → pteTier e = 2 → pteFrame e = m.dst →
              pteTier (t.read64 m.pte) = 0 ∧ pteFrame (t.read64 m.pte) = m.dst)))) ∧
      (s.dueAt d.passTick = true → does (.placementPolicyPass die) (fun t => (t.die die).samples = [] ∧ (t.die die).passTick = s.tickNow)) ∧
      (s.dueAt d.passTick = true → ∀ c t', s.ctx slot = some c → walk s (s.rootOf slot) (vpage * 65536) = .pte pa pte →
        ptePhint pte = 0 → homeDie (pteFrame pte * 65536) = die → (d.samples.map (fun y => (y.1, y.2.1))).dedup = [(vpage, slot)] →
        (mainGroup (d.samples.map (fun y => y.2.2))).bind c.dieOfGrp = some t' → t' ≠ die →
        (List.range 12).find? (fun hs => (stackDie hs).1 == t' && decide (1024 < (s.tier hs).frames.length)) = some stack →
          ∃ u, exec (.pageMoveStart slot vpage stack) s = .next u ∧ does (.placementPolicyPass die) (fun t =>
            t = u.modDie die (fun y => { y with samples := [], passTick := s.tickNow }))) ∧
      (s.dueAt d.halveTick = true → does (.pinCountHalving die) (fun t => SameMemory s t ∧
        (t.die die).l2 = d.l2.map (fun y => { y with
          count := y.count / 2, pinned := y.pinned && decide (l2PinThr d.l2cfg / 2 ≤ y.count / 2) }))) ∧
      ((∀ k, k < 4 → 1 ≤ l2Quota value k ∧ l2Quota value k ≤ 16) → l2PinWays value ≤ 4 →
        does (.l2cfgWrite die value) (fun t => SameMemory s t ∧ (t.die die).l2cfg = value &&& 0x0000FF071F1F1F1F)) ∧
      ((∃ k, k < 4 ∧ (l2Quota value k = 0 ∨ 16 < l2Quota value k)) ∨ 4 < l2PinWays value → exec (.l2cfgWrite die value) s = .next s) ∧
      does (.unpin die) (fun t => SameMemory s t ∧ (t.die die).l2 = d.l2.map (fun y => { y with pinned := false }))

/-- R172, R173, Table 7.7: commands, frames and regions of a compressed tier; a record keeps the poison of its block (R161).
STATUS 3 is a stack with no record index left. That the new record takes the lowest free index is the model's choice (log 51); which frames
may be compressed is its reading (log 21). -/
def Obligations.TierEvents : Prop :=
  ∀ (s : State) (die j hs arg i n : Nat) (value : DWord), s.clocked = true → tierStack die j = some hs → die < s.dies.length →
    j < (s.die die).tiers.length →
      let t0 := s.tier hs
      let becomes (e : Instr) (x : Tier) : Prop := ∃ t, exec e s = .next t ∧ t.tier hs = x ∧ t.mem = s.mem ∧ t.ctxs = s.ctxs ∧ t.pkg = s.pkg
      let block := s.read (arg * 65536) 65536
      let bad := (s.lostSectors.filter (fun k => k / 2048 == arg)).map (fun k => k % 2048)
      let size := bitsOf value.toNat 32 16
      let start := bitsOf value.toNat 0 10
      (arg < 2 ^ 23 → t0.run = none → becomes (.compressFrame die j arg) { t0 with op := 1, arg := arg, run := some (1, arg) } ∧
        becomes (.freeRecord die j arg) { t0 with op := 2, arg := arg, run := some (2, arg) }) ∧
      (t0.run = some (1, arg) → s.compressible hs arg = true → n = frameGranules block →
        (n ≤ t0.granules → i < 2 ^ 19 → i ≤ t0.records.length → (∀ x ∈ t0.records, x.idx ≠ i) → (∀ k, k < i → ∃ x ∈ t0.records, x.idx = k) →
          becomes (.tierCommandCompletion die j) { t0 with
            run := none, status := 0, result := hs * 2 ^ 19 + i, granules := t0.granules - n, records := t0.records ++ [⟨i, block, n, bad⟩] }) ∧
        (n ≤ t0.granules → (∀ k, k < 2 ^ 19 → ∃ x ∈ t0.records, x.idx = k) →
          becomes (.tierCommandCompletion die j) { t0 with run := none, status := 3 }) ∧
        (t0.granules < n → becomes (.tierCommandCompletion die j) { t0 with run := none, status := 2 })) ∧
      (t0.run = some (1, arg) → s.compressible hs arg = false →
        becomes (.tierCommandCompletion die j) { t0 with run := none, status := 1 }) ∧
      (t0.run = some (2, hs * 2 ^ 19 + i) → i < 2 ^ 19 → hs < 12 →
        (∀ b, t0.records.find? (fun x => x.idx == i) = some b → s.recordMoving (hs * 2 ^ 19 + i) = false →
          becomes (.tierCommandCompletion die j) { t0 with
            run := none, status := 0, granules := t0.granules + b.gran, records := t0.records.filter (fun x => x.idx != i) }) ∧
        ((∀ x ∈ t0.records, x.idx ≠ i) → becomes (.tierCommandCompletion die j) { t0 with run := none, status := 4 })) ∧
      (arg < 2 ^ 23 →
        (arg / framesPerStack = hs → s.inRegion (arg * 65536) = false → t0.frames.length < 65536 →
          becomes (.framePush die j arg) { t0 with frames := t0.frames ++ [arg] }) ∧
        (arg / framesPerStack ≠ hs ∨ s.inRegion (arg * 65536) = true → exec (.framePush die j arg) s = .next s)) ∧
      (t0.records = [] → start + size ≤ stackUnits → t0.frames = [] →
        becomes (.tierRegionWrite die j value) { t0 with size := size, start := start, granules := size * 2 ^ 26 / 128 }) ∧
      (t0.records ≠ [] ∨ stackUnits < start + size → exec (.tierRegionWrite die j value) s = .next s)

/-- R214, R245, R281, R296: what reaches the device from the host and over the links: posts to ports that accept them, accesses
of the host and of peers to the stacks, answers, drains and resumes. A port that does not accept a post drops it with event
0x06, and an access of the host that the device refuses is answered as Unsupported Request. R174 to R176: an access to a page in motion, of the
host and of a peer as of any other agent, pulls the unit it touches first: it meets the bytes at their home of that instant. READY bits,
refusals and what a host's read of an uncorrectable sector answers follow the model's reading (log 25). -/
def Obligations.HostAndLinks : Prop :=
  ∀ (s : State) (off n port rank src txn pa slot line : Nat) (secs : BitVec 4) (bytes : List Byte) (c : Context) (payload : DWord)
    (bits : List Byte),
    s.MemoryOk → s.clocked = true →
      let does (i : Instr) (P : State → Prop) : Prop := ∃ t, exec i s = .next t ∧ P t
      let p := off % 0x8000 / 8
      let word (x : Context) (k : Nat) : DWord := (x.bank (k / 256)).word (k % 256)
      let at_ := s.pkg.wbase.toNat + off
      let sent (i : Instr) (f : Flit) : Prop := does i (fun t => t.ctxs = s.ctxs ∧ t.linkOut = s.linkOut ++ [.flit port src f])
      (s.readyBit 1 = true → bytes.length = 8 → off % 8 = 0 → s.openCtx (off / 0x8000) = some c →
        (wordHost (word c p) = true → does (.mailboxWrite off bytes) (fun t => t.mem = s.mem ∧ ∃ c', t.ctx (off / 0x8000) = some c' ∧
          c'.transit = c.transit ++ [.ext .host p ⟨BitVec.ofNat 64 (leNat bytes), none⟩])) ∧
        (wordHost (word c p) = false → c.joinDie < s.dies.length → 6 < (s.die c.joinDie).counts.length →
          does (.mailboxWrite off bytes) (fun t => t.ctxs = s.ctxs ∧
            ((t.die c.joinDie).count 6).count = ((s.die c.joinDie).count 6).count + 1))) ∧
      (∀ wr, (s.homeAccess pa n wr).mem = (s.pullRange pa n).mem) ∧
      (0 < n → pa % 128 + n ≤ 128 →
        (s.movePage (pa / 65536) = none → s.pullRange pa n = s) ∧
        ∀ m, s.movePage (pa / 65536) = some m → pa / 65536 * 65536 + 65536 ≤ Config.physBytes →
          let unit := pa % 65536 / m.unit
          let u := s.pullRange pa n
          (s.moveSource m unit).length = m.unit →
            u.read pa n = s.homeRead pa n ∧ (∀ a, a / m.unit ≠ pa / m.unit → Cells.get u.mem a = Cells.get s.mem a) ∧
            ∃ m', u.movePage (pa / 65536) = some m' ∧ m'.pulled.contains unit = true) ∧
      (off + bytes.length ≤ 2 ^ s.pkg.bar4Log →
        (s.hostOk at_ bytes.length = true → does (.hostBar4Access off n (some bytes)) (fun t => t.ctxs = s.ctxs ∧ t.hostOut = s.hostOut ∧
          ∀ a, Cells.get t.mem a = if at_ ≤ a ∧ a < at_ + bytes.length then (bytes[a - at_]?).getD 0
            else Cells.get (s.pullRange at_ bytes.length).mem a)) ∧
        (s.hostOk at_ bytes.length = false →
          exec (.hostBar4Access off n (some bytes)) s = .next { s with hostOut := s.hostOut ++ [.unsupported off] })) ∧
      (off + n ≤ 2 ^ s.pkg.bar4Log →
        let u := s.homeAccess at_ n false
        (s.hostOk at_ n = false → exec (.hostBar4Access off n none) s = .next { s with hostOut := s.hostOut ++ [.unsupported off] }) ∧
        (s.hostOk at_ n = true → does (.hostBar4Access off n none) (fun t => t.mem = u.mem ∧ t.ctxs = s.ctxs ∧
          (u.eccOf at_ n = none → t.hostOut = s.hostOut ++ [.read off (u.read at_ n)]) ∧
          (u.eccOf at_ n ≠ none → t.hostOut.getLast? = some (.uncorrectable off))))) ∧
      (port < 16 → does (.linkPortDown port) (fun t => t.pkg.linkDown.getLsbD port = true ∧ t.mem = s.mem ∧
        ∀ k x, s.ctx k = some x → ∃ y, t.ctx k = some y ∧ y.drains = x.drains.filter (fun q => q != port))) ∧
      (s.ctx slot = some c → port ∈ c.drains → s.drainLate c = true → port < 16 → does (.drainTimeout port slot) (fun t =>
        t.pkg.linkDown.getLsbD port = true ∧ ∃ y, t.ctx slot = some y ∧ y.drains = c.drains.filter (fun q => q != port))) ∧
      (s.portUp port = true →
        (s.rankSlot rank = some slot → s.openCtx slot = some c → wordPeer (word c n) = true →
          does (.ringusFlitArrival port rank (.post src n payload)) (fun t => t.mem = s.mem ∧ ∃ c', t.ctx slot = some c' ∧
            c'.transit = c.transit ++ [.ext (.link port) n ⟨payload, none⟩])) ∧
        (s.pkg.holds.contains (port, src) = false → s.rankSlot rank = some slot →
          (let asked := (List.range 4).filter (fun k => secs.getLsbD k)
           let at1 := 128 * line
           let u := s.homeAccess at1 128 false
           (s.admits src at1 128 true false = true → (∀ k ∈ asked, u.eccOf (at1 + 32 * k) 32 = none) →
             sent (.ringusFlitArrival port rank (.read src line secs txn)) (.reply rank txn ((List.range 4).flatMap (fun k =>
               if k ∈ asked then u.read (at1 + 32 * k) 32 else List.replicate 32 0)))) ∧
           (∀ e, s.admits src at1 128 true false = true → asked.findSome? (fun k => u.eccOf (at1 + 32 * k) 32) = some e →
             sent (.ringusFlitArrival port rank (.read src line secs txn)) (.ecc rank (e.tval.toNat / 32) txn)) ∧
           (s.admits src at1 128 true false = false →
             sent (.ringusFlitArrival port rank (.read src line secs txn)) (.refuse rank txn))) ∧
          (s.admits src pa bytes.length false true = true → bits.length = bytes.length → pa + bytes.length ≤ Config.physBytes →
            sent (.ringusFlitArrival port rank (.write src pa bytes bits txn)) (.reply rank txn []) ∧
            does (.ringusFlitArrival port rank (.write src pa bytes bits txn)) (fun t => ∀ a, Cells.get t.mem a =
              let old := Cells.get (s.pullRange pa bytes.length).mem a
              if pa ≤ a ∧ a < pa + bytes.length then
                (old &&& ~~~(bits[a - pa]?).getD 0) ||| ((bytes[a - pa]?).getD 0 &&& (bits[a - pa]?).getD 0)
              else old))) ∧
        ((∀ x ∈ s.pkg.remote, x.txn = txn → x.rank = src → s.isRank x.who.slot rank = true → ∀ k l y u z, x.who ≠ .pref k l y u z) →
          does (.ringusFlitArrival port rank (.reply src txn bytes)) (fun t => t.ctxs = s.ctxs ∧ t.mem = s.mem ∧
            (∀ x ∈ t.pkg.remote, x.txn = txn → x.rank = src → s.isRank x.who.slot rank = true → x.reply = some (.bytes bytes)) ∧
            ∀ x ∈ s.pkg.remote, s.isRank x.who.slot rank = false → x ∈ t.pkg.remote)) ∧
        ((∀ x ∈ s.pkg.remote, s.isRank x.who.slot rank = false) →
          exec (.ringusFlitArrival port rank (.reply src txn bytes)) s = .next s) ∧
        does (.drainRequestArrival port rank) (fun t => (port, rank) ∈ t.pkg.holds ∧ t.ctxs = s.ctxs ∧
          t.linkOut = s.linkOut ++ [.drainMarker port]) ∧
        (s.ctx slot = some c → does (.drainMarkerArrival port slot) (fun t => t.mem = s.mem ∧ t.pkg = s.pkg ∧
          ∃ y, t.ctx slot = some y ∧ y.drains = c.drains.filter (fun q => q != port))) ∧
        ((∃ x ∈ s.pkg.holds, x.2 = rank) → s.pkg.resumes = [] →
          let noted := s.modPkg (fun y => { y with resumes := [(port, rank)] })
          (noted.peerNames port rank = false → does (.resumeMarkerArrival port rank) (fun t => t.pkg.resumes = [(port, rank)] ∧
            t.pkg.holds = s.pkg.holds ∧ t.linkOut = s.linkOut)) ∧
          (noted.peerNames port rank = true → does (.resumeMarkerArrival port rank) (fun t => t.pkg.resumes = [] ∧
            t.pkg.holds = s.pkg.holds.filter (fun x => x.2 != rank) ∧ t.linkOut = s.linkOut ++
              (s.pkg.heldFor.filter (fun x => x.2.1 == rank)).map (fun x => .flit port rank x.2.2)))))

/-- R276 to R278, R287 to R290, R293: a park is requested on the join die and captures a quiet, drained context, whose slot is then free; a
resume restores one, which runs from RESUME_END; CREATE makes a context with the record of its root gang, unless a READY bit it needs is
clear, its record is malformed or no slot is free: that STATUS 4 goes before 2, and 2 before 1, is the model's choice (log 48), and so are
the form of the root gang's record and its failure where LAUNCH would refuse its descriptor's address; DESTROY ends one. When a park
captures and what a resume restores when is the model's reading (log 16). R161: a resume or a create that meets an uncorrectable sector does
nothing and reports a failure (which STATUS is free, log 33); DGMAP is a physical address, as the model reads it (log 53). -/
def Obligations.ContextLife : Prop :=
  ∀ (s s1 s2 : State) (die slot : Nat) (c c1 : Context) (img : List Byte) (peers : List (List Byte)) (x : Byte),
    s.MemoryOk → s.clocked = true → die < s.dies.length → slot < (s.die die).slots.length → s.ctxs.length = 8 →
      let r := s.parkRegs die slot
      let does (i : Instr) (P : State → Prop) : Prop := ∃ t, exec i s = .next t ∧ P t
      (s.ctx slot = some c → c.joinDie = die → r.busy = false → c.park = .none → c.destroying = false →
        does (.parkRequest die slot) (fun t => (t.parkRegs die slot).busy = true ∧ (t.parkRegs die slot).status = 0 ∧
          ∃ y, t.ctx slot = some y ∧ y.park = .stopping ∧ y.parkSrc = 1 ∧
            ((∀ q g, q.slot = slot → s.group? q = some g → g.timerPends = false) → t.mem = s.mem ∧ y.groups = c.groups))) ∧
      (s.ctx slot = some c → c.joinDie = die → c.park = .draining → c.drains = [] → s.stopQuiet slot c = true →
        c.copiesQuiet slot = true → c.transit = [] → s1 = ((s.releaseStop slot).arriveAll slot).endBanks slot → s1.ctx slot = some c1 →
        s1.peerCopies slot (s1.peersOf slot) = some (peers, s2) → img = s2.image slot c1 peers →
          (r.size = 0 ∨ r.size.toNat < img.length → does (.parkCapture slot) (fun t => t.mem = s.mem ∧
            (t.parkRegs die slot).busy = false ∧ (t.parkRegs die slot).status = 1 ∧ ∃ y, t.ctx slot = some y ∧ y.park = .none)) ∧
          (r.size ≠ 0 → img.length ≤ r.size.toNat → s2.MemoryOk → die < s2.dies.length → slot < (s2.die die).slots.length →
            r.addr.toNat + img.length ≤ Config.physBytes →
            does (.parkCapture slot) (fun t => t.ctx slot = none ∧ (t.parkRegs die slot).busy = false ∧
              (t.parkRegs die slot).status = 0 ∧ (t.parkRegs die slot).len = BitVec.ofNat 64 img.length ∧
              ∀ i, img[i]? = some x → Cells.get t.mem (r.addr.toNat + i) = x))) ∧
      (let first := s.homeAccess r.addr.toNat 0x1000 false
       let head := first.read r.addr.toNat 0x1000
       let len := leNat ((head.drop 8).take 8)
       let n := min len r.size.toNat - 0x1000
       let both := if n = 0 then first else first.homeAccess (r.addr.toNat + 0x1000) n false
       let whole := head ++ both.read (r.addr.toNat + 0x1000) n
       die < 8 → slot < 8 → r.busy = false →
        (∀ e, first.eccOf r.addr.toNat 0x1000 = some e → does (.resumeRequest die slot) (fun t => t.ctxs = s.ctxs ∧
          (t.parkRegs die slot).busy = false ∧ (t.parkRegs die slot).status ≠ 0)) ∧
        (first.eccOf r.addr.toNat 0x1000 = none → n = 0 ∨ both.eccOf (r.addr.toNat + 0x1000) n = none →
          (imageStatus r.size.toNat whole ≠ 0 → does (.resumeRequest die slot) (fun t => t.ctxs = s.ctxs ∧ t.mem = both.mem ∧
            (t.parkRegs die slot).busy = false ∧ (t.parkRegs die slot).status = imageStatus r.size.toNat whole)) ∧
          (imageStatus r.size.toNat whole = 0 → s.ctx slot = none → does (.resumeRequest die slot) (fun t => t.mem = both.mem ∧
            (t.parkRegs die slot).busy = true ∧ (t.parkRegs die slot).rslot = slot ∧
            ∃ y, t.ctx slot = some y ∧ y.park = .captured ∧ y.joinDie = die)))) ∧
      (s.ctx r.rslot = some c → c.joinDie = die → s.restores die slot r.rslot = true → c.park = .captured → c.insts = [] →
        does (.resumeEnd die slot) (fun t => t.mem = s.mem ∧ (t.parkRegs die slot).busy = false ∧
          t.linkOut = s.linkOut ++ s.upPorts.map (fun q => .resumeMarker q r.rslot) ∧ ∃ y, t.ctx r.rslot = some y ∧ y.park = .none ∧
            s.meridian + y.merOff = c.merOff)) ∧
      (s.pkg.cmdRun = none →
        (let u := s.homeAccess s.pkg.crec.toNat 64 false
         let b := u.read s.pkg.crec.toNat 64
         let field (i : Nat) : Nat := leNat ((b.drop i).take 8)
         let w := leNat b
         let n := w % 2 ^ 11
         let v := if n = 0 then u else u.homeAccess (field 56) (2 * n) false
         let dgs := (List.range n).map (fun i => v.readNat (field 56 + 2 * i) 2)
         let desc : DWord := BitVec.ofNat 64 (field 48)
         let ready := s.readyBit 3 && s.readyBit (4 + w / 2 ^ 12 % 8) && s.stackReady (field 32) 0x4000 &&
           s.stackReady (field 56) (max 1 (2 * n)) && u.descReady (field 32) desc
         let refused (status : Nat → Prop) : Prop := does .contextCreate (fun t => t.ctxs = s.ctxs ∧ status t.pkg.cmdStatus ∧
           t.pkg.cmdRun = some (1, s.pkg.cmdSlot))
         (∀ e, u.eccOf s.pkg.crec.toNat 64 = some e → refused (fun x => x ≠ 0)) ∧
         (u.eccOf s.pkg.crec.toNat 64 = none →
         (ready = false → refused (fun x => x = 4)) ∧
         (∀ e, ready = true → n ≠ 0 → v.eccOf (field 56) (2 * n) = some e → refused (fun x => x ≠ 0)) ∧
         (ready = true → n = 0 ∨ v.eccOf (field 56) (2 * n) = none →
         (createBad b dgs = true → refused (fun x => x = 2)) ∧
         (createBad b dgs = false → (∀ k, k < 8 → (s.ctx k).isSome = true) → refused (fun x => x = 1)) ∧
         (createBad b dgs = false → s.ctx slot = none → (∀ k, k < slot → (s.ctx k).isSome = true) → slot < 8 →
           does .contextCreate (fun t => t.mem = v.mem ∧ t.pkg.cmdStatus = 0 ∧ t.pkg.cmdRun = some (1, slot) ∧
             ∃ y e, t.ctx slot = some y ∧ y.root = field 32 ∧ y.cls = w / 2 ^ 16 % 4 ∧ y.weight = w / 2 ^ 20 % 16 + 1 ∧
               y.sup = w.testBit 24 ∧ y.joinDie = w / 2 ^ 12 % 8 ∧ y.lcs.map (fun l => l.dieGrp) = dgs ∧ y.groups = [] ∧
               y.records = [e] ∧ e.descAddr = desc ∧ e.payloads = [] ∧ e.scope = none ∧ e.queued = true ∧ e.launched = true ∧
               e.launching = true ∧ e.failed = !launchAddr desc))))) ∧
        (slot < 8 → (s.openCtx slot = some c → does (.contextDestroy slot) (fun t => t.mem = s.mem ∧
            t.ctx slot = some { c with destroying := true } ∧ t.pkg.cmdRun = some (2, slot) ∧ t.pkg.cmdStatus = 0)) ∧
          (s.openCtx slot = none → does (.contextDestroy slot) (fun t => t.ctxs = s.ctxs ∧ t.pkg.cmdRun = some (2, slot) ∧
            t.pkg.cmdStatus = 3)))) ∧
      (s.pkg.cmdRun = some (1, slot) → does .contextCommandEnd (fun t => t.ctxs = s.ctxs ∧ t.pkg.cmdRun = none ∧
        t.pkg.pend.getLsbD 2 = true)) ∧
      (s.pkg.cmdRun = some (2, slot) → s.pkg.cmdStatus = 0 → s.destroyQuiet slot = true → does .contextCommandEnd (fun t =>
        t.ctx slot = none ∧ t.mem = s.mem ∧ t.pkg.cmdRun = none ∧ t.pkg.pend.getLsbD 2 = true))

/-- R294, R295, R297, R298, R300: reset (which leaves the fuses, R1), readiness (no stack before the management block and the mailbox, no
firmware without a verified image), attestation, clock steps within the power limit (down only over it, Table 0.2), the thermal limits, the
freeze, and the meridian: a timestamp over a link that is up moves it forward to within 2 ticks,
and locks it. Clock steps under the thermal limit, the shutdown and what rises in a freeze follow the model's reading (log 25); what a step
draws, the form of versions, certificate and signature are free values (log 5); the values reset gives that no table does are the model's
(log 2: the meridian 0; log 35: stacks of zeros). -/
def Obligations.PackageEvents : Prop :=
  ∀ (s : State) (n : Nat) (tick : DWord),
    let does (i : Instr) (P : State → Prop) : Prop := ∃ t, exec i s = .next t ∧ P t
    let onlyPkg (i : Instr) (p : Package) : Prop := exec i s = .next { s with pkg := p }
    does .deviceReset (fun t => t.mem = [] ∧ t.poison = [] ∧ t.pkg = { Package.reset with ordering := s.pkg.ordering } ∧ t.dies = List.replicate 8 Die.reset ∧
      t.ctxs = List.replicate 8 none ∧ t.meridian = 0 ∧ t.hostOut = s.hostOut ∧ t.linkOut = s.linkOut) ∧
    (n < 42 → n ≠ 40 → (n = 3 → s.pkg.images ≠ [] ∧ s.pkg.fwFailed = []) →
      (12 ≤ n → n < 24 → s.readyBit 0 = true ∧ s.readyBit 1 = true) → (s.pkg.frozen = true → n = 0 ∨ n = 2 ∨ n = 41) →
     does (.functionReady n) (fun t => t.pkg.ready.getLsbD n = true ∧ t.ctxs = s.ctxs ∧ t.mem = s.mem ∧
      (s.readyBit n = false → t.pkg.pend.getLsbD 4 = true) ∧ ∀ k, k ≠ n → t.pkg.ready.getLsbD k = s.pkg.ready.getLsbD k)) ∧
    (12 ≤ n ∧ n < 24 ∧ (s.readyBit 0 = false ∨ s.readyBit 1 = false) ∨ n = 3 ∧ (s.pkg.images = [] ∨ s.pkg.fwFailed ≠ []) →
      exec (.functionReady n) s = .next s) ∧
    (s.readyBit 41 = true → onlyPkg .attestationRequest { s.pkg with attBusy := true }) ∧
    (s.pkg.attBusy = true → does .attestationReportEnd (fun t => t.pkg.attBusy = false ∧ t.ctxs = s.ctxs ∧ t.mem = s.mem ∧
      let body := s.pkg.nonce ++ (s.pkg.images ++ s.pkg.fwFailed).flatMap (fun i => i.digest) ++
        Config.versionBytes Config.fusedVersion ++ Config.certificate
      t.pkg.report = body ++ Config.attestSign body)) ∧
    (let within (k : Nat) : Prop := Config.power s.tickNow k ≤ s.pkg.pwrlim.toNat % 65536
     let holds := n = 5 ∨ n < 5 ∧ within n
     (holds → s.pkg.hot = false → n < s.pkg.pstep ∨ ¬within s.pkg.pstep → onlyPkg (.clockStep n) { s.pkg with pstep := n }) ∧
     (¬holds ∨ s.pkg.hot = true ∨ s.pkg.pstep ≤ n ∧ within s.pkg.pstep → exec (.clockStep n) s = .next s)) ∧
    onlyPkg .thermalLimit { s.pkg with hot := true, pstep := 5 } ∧
    does .thermalShutdown (fun t => t.pkg = { s.pkg with railsOff := true } ∧ t.mem = s.mem ∧
      ∀ r g, s.group? r = some g → ∃ g', t.group? r = some g' ∧ g.SameRegs g' ∧
        ∀ k, (g'.split k).st = if (g.split k).st = .free then .free else .halted) ∧
    (s.pkg.arm = false → onlyPkg .freezeArm { s.pkg with arm := true, armTick := s.meridian.toNat }) ∧
    (s.pkg.arm = true → s.pkg.frozen = false → s.pkg.frztick.toNat ≤ s.meridian.toNat → s.pkg.armTick < s.meridian.toNat →
      onlyPkg .freeze { s.pkg with frozen := true }) ∧
    (s.clocked = false ∨ s.upPorts = [] → exec (.meridianSync tick) s = .next s) ∧
    (s.clocked = true → s.upPorts ≠ [] →
      (s.pkg.mersrc = true → exec (.meridianSync tick) s =
        .next { s with linkOut := s.linkOut ++ s.upPorts.map (fun p => .timestamp p s.meridian.toNat) }) ∧
      (s.pkg.mersrc = false → 2 ≤ tick.toNat → tick.toNat + 2 < 2 ^ 64 → does (.meridianSync tick) (fun t => t.ctxs = s.ctxs ∧
        s.meridian.toNat ≤ t.meridian.toNat ∧ tick.toNat - 2 ≤ t.meridian.toNat ∧
        (t.meridian = s.meridian ∨ t.meridian.toNat ≤ tick.toNat + 2) ∧ (t.meridian.toNat ≤ tick.toNat + 2 → t.pkg.ready.getLsbD 40 = true) ∧
        t.linkOut = s.linkOut ++ s.upPorts.map (fun p => .timestamp p t.meridian.toNat))))

/-- R9, R10, R272, R275, R291, R307, R311: registers of the package and of a die: a write keeps the bits the tables name, and one to
an offset without a register is ignored; the error log is cleared, counters are read; a retried flit and a scrub are logged. That a write
before the management block is ready is ignored is the model's reading (log 25), and that a Ringus flit's retry is CD0's, under channel 108,
is too (log 36). -/
def Obligations.RegisterEvents : Prop :=
  ∀ (s : State) (die slot core code who pa w off : Nat) (v : DWord) (x : EvCount),
    let does (i : Instr) (P : State → Prop) : Prop := ∃ t, exec i s = .next t ∧ P t
    let onlyPkg (o : Nat) (p : Package) : Prop := exec (.registerWrite o v) s = .next { s with pkg := p }
    (s.readyBit 0 = true →
      onlyPkg 0x08 { s.pkg with winsel := v &&& 0x777 } ∧ onlyPkg 0x10 { s.pkg with wbase := v &&& 0x7FC0000000 } ∧
      onlyPkg 0x18 { s.pkg with nen := v &&& 0x1F, pend := s.pkg.pend &&& ~~~((v >>> 8) &&& 0x1F) } ∧
      onlyPkg 0x4000 { s.pkg with frztick := v } ∧ exec (.registerWrite 0 v) s = .next s ∧
      (off % 8 ≠ 0 → off < 0x100000 → exec (.registerWrite off v) s = .next s) ∧
      (1 ≤ w → w ≤ 3 → s.clocked = true →
        exec (.registerWrite (w * 0x100000 + 0x100) v) s = exec (.l2cfgWrite (s.windowDie w) v) s ∧
        exec (.registerWrite (w * 0x100000 + 0x30000) v) s = .next s)) ∧
    (s.readyBit 0 = false → exec (.registerWrite off v) s = .next s) ∧
    (s.clocked = true → die < s.dies.length →
      ((∀ c, s.ctx slot = some c → c.joinDie = die → ∀ i ∈ c.insts, ∀ q, i.halt ≠ .held q) → slot < (s.die die).slots.length →
        does (.faultRingConfigWrite die slot v) (fun t => SameMemory s t ∧
          ((t.die die).slot slot).fring = { ((s.die die).slot slot).fring with base := v &&& 0x7FFFFFFFDF })) ∧
      ((∃ c i q, s.ctx slot = some c ∧ c.joinDie = die ∧ i ∈ c.insts ∧ i.halt = .held q) →
        exec (.faultRingConfigWrite die slot v) s = .next s) ∧
      does (.elogClear die) (fun t => SameMemory s t ∧ (t.die die).elog = [] ∧ (t.die die).elogOvf = false ∧
        (t.die die).elogLost = 0 ∧ (t.die die).counts = (s.die die).counts) ∧
      ((s.die die).counts[code]? = some x → does (.eventCountRead die code who) (fun t => SameMemory s t ∧
        t.hostOut = s.hostOut ++ [.read (0x91000 + 32 * code) (natLe 8 x.count.toNat)] ∧
        eventRead ((t.die die).count code) 0x08 who = BitVec.ofNat 64 x.lastTick ∧
        eventRead ((t.die die).count code) 0x10 who = x.lastSeq.setWidth 64)) ∧
      (core < (s.die die).cores.length → ((s.die die).core core).leaves.length = 16 → does (.topdownTotalRead die core 0 who) (fun t => SameMemory s t ∧
        ∃ total, t.hostOut = s.hostOut ++ [.read (0xA0000 + 0x100 * core + 120) (natLe 8 total.toNat)] ∧
          total = (((s.die die).core core).leaves.take 15).foldl (fun a b => a + b) 0 ∧
          ∀ k, k < 15 → k < ((s.die die).core core).leaves.length →
            latched who ((t.die die).core core).latchAll [] k = regGet 0 ((s.die die).core core).leaves k)) ∧
      (8 < (s.die die).counts.length → does (.flitRetry die false) (fun t => SameMemory s t ∧
        ((t.die die).count 8).count = ((s.die die).count 8).count + 1 ∧ t.pkg.pend.getLsbD 3 = true ∧
        ((s.die die).elog.length < 16 → ((t.die die).elog.getLast?).map (fun y => (y.chan, y.event, y.seq)) = some (106, 8, (s.die die).seq)))) ∧
      (0 < s.dies.length → 8 < (s.die 0).counts.length → does (.flitRetry die true) (fun t => SameMemory s t ∧
        ((t.die 0).count 8).count = ((s.die 0).count 8).count + 1 ∧
        ((s.die 0).elog.length < 16 → ((t.die 0).elog.getLast?).map (fun y => (y.chan, y.event, y.seq)) = some (108, 8, (s.die 0).seq)))) ∧
      (pa < Config.physBytes → homeDie pa = die → 2 < (s.die die).counts.length → does (.scrub pa) (fun t => SameMemory s t ∧
        t.poisoned (pa / 32 * 32) 32 = true ∧ ((t.die die).count 2).count = ((s.die die).count 2).count + 1)) ∧
      (let ring (t : State) : Ring := ((t.die die).slot slot).trace
       let sz := ((ring s).base.extractLsb' 0 4).toNat
       let at_ := ((ring s).base &&& 0x7FFFFFF000).toNat + 16 * ((ring s).prod.toNat % 2 ^ (sz + 10))
       s.MemoryOk → s.syncDue die slot = true → ((s.die die).slot slot).dropped = 0 → ((ring s).prod - (ring s).cons).toNat ≠ 2 ^ (sz + 10) →
       at_ + 16 ≤ Config.physBytes →
         does (.traceSync die slot) (fun t => (ring t).prod = (ring s).prod + 1 ∧ t.read64 at_ = 1 ∧ t.read64 (at_ + 8) = s.meridian ∧
           ((t.die die).slot slot).syncAt = s.meridian.toNat)))

/-! ## Encoding, stepping, reset, the invariant -/

/-- 04 R84 to R94 and the encodings of the entries: words of the spec's own examples decode to the instructions they stand for, and
words that break a field rule (a set RSVD bit, GN 1 with GP 7, a reserved MAJ, an odd first register of a pair) are rejected. -/
def Obligations.DecodeSpecWords : Prop :=
  decode 0x8407010C00000000 = .ok (.aset .always 1 12) ∧
  decode 0x1D07050103045100 = .ok (.bfx ⟨.always, .v 5, .v 1, .s 3, .imm 4, .ui32, false⟩) ∧
  decode 0x0307280307FFFFFA = .ok (.brc .always .lt 3 (.s 7) 0xFFFFFA) ∧
  decode 0x6007020106000400 = .ok (.cvt ⟨.always, 2, .v 1, .f32, .f16, .rn, false⟩) ∧
  decode 0x9007040120002C01 = .ok (.ld ⟨.always, 0, 4, 1, 2, 0, .acq, .device, false, .fromArray, .one, true⟩) ∧
  decode 0x7007030201081002 = .ok (.shfl ⟨.always, 0, 3, 2, .imm 1, 8, .i32, .down⟩) ∧
  decode 0xC0070020300A0001 = .ok (.mmaZ ⟨.always, 0, 0, .regs 32, .regs 48, 10⟩) ∧
  decode 0xE407000012345678 = .ok (.trap .always 0x12345678) ∧
  decode 0x8407010C00000100 = .error .reservedField ∧
  decode 0x840F010C00000000 = .error .guard ∧
  decode 0x0107000000000000 = .error .reservedCode ∧
  decode 0x1007020100000300 = .error .operandRule

/-- 04 R84 to R94: decoding and encoding agree for every instruction, with every operand at every value its encoding admits.
Which K bits BFX and BFI allow is the model's reading (log 17). -/
def Obligations.DecodeOfEncode : Prop :=
  ∀ (i : Instr) (w : DWord), decode w = .ok i ↔ i.wf = true ∧ encode i = some w

/-- 04 R75, R80, R81, R85, R95, 15 R302: a step at the issue slot of a split runs the instruction that its word decodes to. A
step at an event of the agenda is that event (log 4). An instruction inside the open window of an MMA that still reads its operands meets what
that MMA has read of them (R97, R134; log 43). What the turn leaves is settled, but for a turn whose numbered events come too late in
their cycle (R274), whose deductions from a cohort come after arrivals of it (R46), or before which an event is due: that it is taken again
later is the model's choice (log 36). -/
def Obligations.StepRunsDecoded : Prop :=
  (∀ (s s1 : State) (rest : List Turn) (r : SplitRef) (g : Group) (c : Clause) (w : DWord) (i : Instr),
     let s0 : State := { s with agenda := rest }
     let sp := g.split r.k
     s.agenda = .issue r :: rest → s0.group? r.group = some g →
     sp.st = .issuing → s0.groupRuns r.group g = true → sp.unstopped = true → s0.slotFree r.group g = true →
     sp.refill = false → sp.clause = some c → g.takesTimer r.k = false → s0.soft.contains (.group r.group) = false →
     s0.fetch (s0.cxOf r) (pcWord sp.pc) = .ok w s1 → (checksArray i = true ∨ s1.codeAt r.slot sp = none) →
     (∀ b, wordClass w = some b → c.classes.getLsbD b = true) → (endsClause w = true → pcPos sp.pc = c.count) →
     decode w = .ok i → g.hazard r.k i = none → i.fitsBudget g = true →
     step s = s0.conclude (.issue r) (exec i { s1.readOpen r g i with cur := some ⟨r⟩ })) ∧
  (∀ (s : State) (r : SplitRef) (g : Group) (i : Instr), (∀ p ∈ g.inflight, p.split = r.k → p.window = none ∨ p.job = none) →
     s.readOpen r g i = s) ∧
  (∀ (s : State) (rest : List Turn) (i : Instr), s.agenda = .event i :: rest →
     let s0 : State := { s with agenda := rest }
     step s = s0.conclude (.event i) (exec i s0)) ∧
  (∀ (s t : State) (u : Turn), t.turnEnd.clash t.turnEnd.req.events = false → s.cohortLate t.turnEnd = false →
     s.dueFirst u t.turnEnd.req.events false = none → s.conclude u (.next t) = .next (s.settle t))

/-- 12 R275, 14 R292, R294, R298, Tables 6.5, 14.2, 14.4: the machine after reset: no context, every byte of the stacks zero,
nothing poisoned, no error logged, no fault pending, every READY bit clear, PWRLIM 8,000 and an L2 quota of 16 for every core.
That memory reads zero from reset on is the model's choice (log 35), and so is PSTEP 0, for which no table gives a reset value
(log 2). -/
def Obligations.ResetValues : Prop :=
  State.reset.MemoryOk ∧ (∀ pa n, State.reset.read pa n = List.replicate n 0) ∧ (∀ pa n, State.reset.poisoned pa n = false) ∧
  (∀ slot, State.reset.ctx slot = none) ∧ (∀ n, State.reset.readyBit n = false) ∧
  State.reset.pkg.winsel = 0 ∧ State.reset.pkg.wbase = 0 ∧ State.reset.pkg.nen = 0 ∧ State.reset.pkg.pend = 0 ∧
  State.reset.pkg.mersrc = false ∧ State.reset.pkg.drto = 0 ∧ State.reset.pkg.pwrlim = 8000 ∧ State.reset.pkg.pstep = 0 ∧
  State.reset.pkg.frztick = 0 ∧ State.reset.pkg.frozen = false ∧ State.reset.pkg.arm = false ∧
  ∀ d, d < 8 →
    let x := State.reset.die d
    x.l2cfg = 0x10101010 ∧ x.elog = [] ∧ x.elogOvf = false ∧ x.elogLost = 0 ∧ x.ftail = 0 ∧ x.fhead = 0 ∧
    (∀ n, n < 1024 → x.faults[n]? = some none) ∧
    (∀ code, code < 10 → x.count code = EvCount.reset) ∧
    (∀ j, j < 2 → x.tiers[j]? = some Tier.reset) ∧ (∀ slot, x.slot slot = SlotRegs.reset)

/-- R151, R160: what the stacks hold, and what a scratchpad holds (R142), stays a function of the address: whatever the state, a step keeps the
canonical form of each list of cells. The form is the model's representation (log 35). -/
def Obligations.MemoryCanonicalKept : Prop :=
  ∀ (s t : State), step s = .next t → (s.MemoryOk → t.MemoryOk) ∧ (s.ScratchOk → t.ScratchOk)

/-- R27, R29: whatever the step, the lanes of a group's splits stay live, each in one split. The group has no path on a divergence stack, which
R31 would copy into the split that a branch makes, and a split of it that waits at a REGROUP holds every live lane (R48). -/
def Obligations.SplitsStayApart : Prop :=
  ∀ (s t : State) (r : GroupRef) (c : Context) (g g' : Group), step s = .next t → s.ctx r.slot = some c → s.group? r = some g →
    (c.groups.map (fun x => x.1)).Nodup → (∀ k, (g.split k).div.chip = [] ∧ (g.split k).div.depth = 0) →
    (∀ k j p, (g.split k).st = .wait (.regroup j p) → (g.split k).mask = g.ctl.live) →
    LanesApart g → t.group? r = some g' → LanesApart g'

/-! ## Rules stated whole -/

/-- The number of one bits. -/
def popCount {n : Nat} (x : BitVec n) : Nat := ((List.range n).filter (fun i => x.getLsbD i)).length

/-- A code of a format is a NaN, and a signalling one (IEEE 754-2019). -/
def nanCode (f : BinFmt) (x : Nat) : Bool := decide (f.infBits < x % f.signBit)
def snanCode (f : BinFmt) (x : Nat) : Bool := nanCode f x && !x.testBit (f.mbits - 1)

/-- The place of a code that is no NaN in the order of numbers, −0 just below +0. -/
def codePlace (f : BinFmt) (x : Nat) : Int := if f.signBit ≤ x then -((x - f.signBit : Nat) : Int) - 1 else x

/-- Minimum and maximum of two codes, with or without .NUM (R112). -/
def minMaxRule (f : BinFmt) (isMax num : Bool) (x y : Nat) : Nat × Flags :=
  (if nanCode f x && nanCode f y then f.qnan
   else if nanCode f x then (if num then y else f.qnan)
   else if nanCode f y then (if num then x else f.qnan)
   else if isMax then (if codePlace f x < codePlace f y then y else x)
   else (if codePlace f x < codePlace f y then x else y),
   if snanCode f x || snanCode f y then flInvalid else 0)

/-- R112: FMIN and FMAX, in each lane and element: minimum and maximum, with .NUM minimumNumber and maximumNumber; −0 is less than +0;
a NaN operand gives NaN without .NUM and the other operand with it, two NaN operands give NaN; a signalling NaN raises invalid. -/
def Obligations.MinimumMaximum : Prop :=
  ∀ (gd : Guard) (d : VReg) (a b : Src) (ty : FTy) (num : Bool),
    FpCompletes (.fmin ⟨gd, d, a, b, ty, num⟩) gd d ty.wide (fun src j => perElem ty (fun e =>
      minMaxRule ty.fmt false num (ty.elem (a.fbits src ty j) e) (ty.elem (b.fbits src ty j) e))) ∧
    FpCompletes (.fmax ⟨gd, d, a, b, ty, num⟩) gd d ty.wide (fun src j => perElem ty (fun e =>
      minMaxRule ty.fmt true num (ty.elem (a.fbits src ty j) e) (ty.elem (b.fbits src ty j) e)))

/-- R370: NOP has MAJ 0x0C and every field zero, needs no class bit and does not end its clause; its word decodes to it and a word of its
major with another field set raises ILLEGAL; it has no effect, and counts as one executed instruction, guarded or not. -/
def Obligations.NopRule : Prop :=
  (∀ (s : State) (r : SplitRef) (g : Group) (gd : Guard), Issuing s r g → Effect (.nop gd) s r g {} (fun _ => True)) ∧
  decode 0x0C07000000000000 = .ok (.nop .always) ∧
  (∀ (gd : Guard) (w : DWord), encode (.nop gd) = some w →
    wordMaj w = 0x0C ∧ wordLA w = 0 ∧ wordGuard w = gd ∧ wordBits w = 0) ∧
  ∀ (s : State) (r : SplitRef) (g : Group) (c : Clause) (w : DWord), wordMaj w = 0x0C →
    wordClass w = none ∧ endsClause w = false ∧
    (wordLA w ≠ 0 ∨ wordBits w ≠ 0 → s.issueWord r g c w = .done (s.illegal r (g.split r.k).mask w))

/-- R375: POPC is SUB 0 of major 0x1C (uniform 0x3C), under the field rules of R327; its result is the number of one bits of a; of a pair
the upper word is zero; with I32 and UI32 it takes the caliper [0, 32], and every other form gives unknown, in both registers of a pair. -/
def Obligations.PopcRule : Prop :=
  decode 0x1C07020100000000 = .ok (.popc ⟨.always, .v 2, .v 1, .i32, false⟩) ∧
  (∀ (o : Un) (w : DWord), o.sat = false → encode (.popc o) = some w →
    let f := FieldsV.of (wordBits w)
    wordMaj w = (if o.d.isS then 0x3C else 0x1C) ∧ f.sub = 0 ∧ f.b = 0 ∧ f.c = 0 ∧ f.kb = false ∧ f.kc = false ∧ f.imm = false ∧
      f.rnd = 0 ∧ f.sat = false ∧ wordLA w = 0) ∧
  ∀ (s : State) (r : SplitRef) (g : Group) (gd : Guard) (d : Dst) (a : Src) (ty : IntTy),
    Issuing s r g → dstExists g ty.wide d →
      let src := s.reads r g
      let m := src.active r.k gd
      Effect (.popc ⟨gd, d, a, ty, false⟩) s r g (dstWrites ty.wide d) (fun g' =>
        dstHolds src g g' r.k gd ty (fun j => BitVec.ofNat 64 (if ty.wide then popCount (a.dword src j) else popCount (a.word src j))) d ∧
        ∀ v, d = .v v →
          (ty.wide = true → ∀ j, j < 32 → Mask.has m j = true → g'.v (v.toNat + 1) j = 0) ∧
          (ty.wide = false → g'.cal v.toNat = (g.calWrite r.k v.toNat m (some ⟨0, 32⟩)).cal v.toNat ∧
            g'.view r.k v.toNat = (g.calWrite r.k v.toNat m (some ⟨0, 32⟩)).view r.k v.toNat) ∧
          (ty.wide = true → g'.cal v.toNat = (g.calWrite r.k v.toNat m none).cal v.toNat ∧
            g'.view r.k v.toNat = (g.calWrite r.k v.toNat m none).view r.k v.toNat ∧
            g'.cal (v.toNat + 1) = (g.calWrite r.k (v.toNat + 1) m none).cal (v.toNat + 1) ∧
            g'.view r.k (v.toNat + 1) = (g.calWrite r.k (v.toNat + 1) m none).view r.k (v.toNat + 1)))
end

