-- ==== Sys2Proof/Laws/Exec.lean ====
section
/-! SUPPORT. Laws/Exec.lean: exec of each instruction and event is the meaning of its row. -/

namespace Sys2Proof.Machine

open Sys2Proof

theorem exec_aget (g : Guard) (d : SReg) (a : AReg) (s : State) :
    exec (.aget g d a) s = execAget g d a s := rfl
theorem exec_aoff (g : Guard) (d a : AReg) (b : SReg) (s : State) :
    exec (.aoff g d a b) s = execAoff g d a b s := rfl
theorem exec_aset (g : Guard) (d : AReg) (a : SReg) (s : State) :
    exec (.aset g d a) s = execAset g d a s := rfl
theorem exec_and (o : Bin) (s : State) :
    exec (.and o) s = execAnd o s := rfl
theorem exec_or (o : Bin) (s : State) :
    exec (.or o) s = execOr o s := rfl
theorem exec_xor (o : Bin) (s : State) :
    exec (.xor o) s = execXor o s := rfl
theorem exec_andn (o : Bin) (s : State) :
    exec (.andn o) s = execAndn o s := rfl
theorem exec_not (o : Un) (s : State) :
    exec (.not o) s = execNot o s := rfl
theorem exec_atom (o : AtomInstr) (s : State) :
    exec (.atom o) s = execAtom o s := rfl
theorem exec_bar (g : Guard) (k : BitVec 2) (s : State) :
    exec (.bar g k) s = execBar g k s := rfl
theorem exec_bararr (g : Guard) (d : SReg) (k : BitVec 2) (s : State) :
    exec (.bararr g d k) s = execBararr g d k s := rfl
theorem exec_barwait (g : Guard) (k : BitVec 2) (b : SReg) (s : State) :
    exec (.barwait g k b) s = execBarwait g k b s := rfl
theorem exec_bcast (o : BcastOp) (s : State) :
    exec (.bcast o) s = execBcast o s := rfl
theorem exec_bfi (o : Tern) (s : State) :
    exec (.bfi o) s = execBfi o s := rfl
theorem exec_bfx (o : Tern) (s : State) :
    exec (.bfx o) s = execBfx o s := rfl
theorem exec_bkpt (g : Guard) (code : BitVec 16) (s : State) :
    exec (.bkpt g code) s = execBkpt g code s := rfl
theorem exec_bra (g : Guard) (disp : BitVec 32) (s : State) :
    exec (.bra g disp) s = execBra g disp s := rfl
theorem exec_brc (g : Guard) (cond : Cond) (a : VReg) (b : Src) (disp : BitVec 24) (s : State) :
    exec (.brc g cond a b disp) s = execBrc g cond a b disp s := rfl
theorem exec_breakl (g : Guard) (s : State) :
    exec (.breakl g) s = execBreakl g s := rfl
theorem exec_brev (o : Un) (s : State) :
    exec (.brev o) s = execBrev o s := rfl
theorem exec_clz (o : Un) (s : State) :
    exec (.clz o) s = execClz o s := rfl
theorem exec_brx (g : Guard) (o : BrxOp) (s : State) :
    exec (.brx g o) s = execBrx g o s := rfl
theorem exec_calget (g : Guard) (d : SReg) (a : VReg) (s : State) :
    exec (.calget g d a) s = execCalget g d a s := rfl
theorem exec_calset (g : Guard) (d : VReg) (a : SReg) (s : State) :
    exec (.calset g d a) s = execCalset g d a s := rfl
theorem exec_caltop (g : Guard) (d : VReg) (s : State) :
    exec (.caltop g d) s = execCaltop g d s := rfl
theorem exec_call (g : Guard) (o : CallOp) (s : State) :
    exec (.call g o) s = execCall g o s := rfl
theorem exec_cas (o : CasOp) (s : State) :
    exec (.cas o) s = execCas o s := rfl
theorem exec_conflict (o : ConflictOp) (s : State) :
    exec (.conflict o) s = execConflict o s := rfl
theorem exec_conflictAll (o : ConflictOp) (s : State) :
    exec (.conflictAll o) s = execConflictAll o s := rfl
theorem exec_cpa (o : CpaOp) (s : State) :
    exec (.cpa o) s = execCpa o s := rfl
theorem exec_cpseal (g : Guard) (s : State) :
    exec (.cpseal g) s = execCpseal g s := rfl
theorem exec_cpwait (g : Guard) (n : BitVec 3) (s : State) :
    exec (.cpwait g n) s = execCpwait g n s := rfl
theorem exec_cvt (o : CvtOp) (s : State) :
    exec (.cvt o) s = execCvt o s := rfl
theorem exec_cvtn (o : CvtnOp) (s : State) :
    exec (.cvtn o) s = execCvtn o s := rfl
theorem exec_cvtw (o : CvtwOp) (s : State) :
    exec (.cvtw o) s = execCvtw o s := rfl
theorem exec_exit (g : Guard) (s : State) :
    exec (.exit g) s = execExit g s := rfl
theorem exec_fadd (o : FBin) (s : State) :
    exec (.fadd o) s = execFadd o s := rfl
theorem exec_fsub (o : FBin) (s : State) :
    exec (.fsub o) s = execFsub o s := rfl
theorem exec_fmul (o : FBin) (s : State) :
    exec (.fmul o) s = execFmul o s := rfl
theorem exec_ffma (o : FTern) (s : State) :
    exec (.ffma o) s = execFfma o s := rfl
theorem exec_fmin (o : FMinMax) (s : State) :
    exec (.fmin o) s = execFmin o s := rfl
theorem exec_fmax (o : FMinMax) (s : State) :
    exec (.fmax o) s = execFmax o s := rfl
theorem exec_fclass (o : FclassOp) (s : State) :
    exec (.fclass o) s = execFclass o s := rfl
theorem exec_fcmp (o : FcmpOp) (s : State) :
    exec (.fcmp o) s = execFcmp o s := rfl
theorem exec_frcp (o : SfuOp) (s : State) :
    exec (.frcp o) s = execFrcp o s := rfl
theorem exec_frsq (o : SfuOp) (s : State) :
    exec (.frsq o) s = execFrsq o s := rfl
theorem exec_fsqrt (o : SfuOp) (s : State) :
    exec (.fsqrt o) s = execFsqrt o s := rfl
theorem exec_fexp2 (o : SfuOp) (s : State) :
    exec (.fexp2 o) s = execFexp2 o s := rfl
theorem exec_flog2 (o : SfuOp) (s : State) :
    exec (.flog2 o) s = execFlog2 o s := rfl
theorem exec_fsin (o : SfuOp) (s : State) :
    exec (.fsin o) s = execFsin o s := rfl
theorem exec_fcos (o : SfuOp) (s : State) :
    exec (.fcos o) s = execFcos o s := rfl
theorem exec_ftanh (o : SfuOp) (s : State) :
    exec (.ftanh o) s = execFtanh o s := rfl
theorem exec_fence (g : Guard) (ord : Ord) (scope : Scope) (s : State) :
    exec (.fence g ord scope) s = execFence g ord scope s := rfl
theorem exec_fenceEngRel (g : Guard) (scope : Scope) (s : State) :
    exec (.fenceEngRel g scope) s = execFenceEngRel g scope s := rfl
theorem exec_fill (o : SpillOp) (s : State) :
    exec (.fill o) s = execFill o s := rfl
theorem exec_fsopen (g : Guard) (a : SReg) (s : State) :
    exec (.fsopen g a) s = execFsopen g a s := rfl
theorem exec_fsclose (g : Guard) (a : SOrN) (s : State) :
    exec (.fsclose g a) s = execFsclose g a s := rfl
theorem exec_fswait (g : Guard) (a : SOrN) (s : State) :
    exec (.fswait g a) s = execFswait g a s := rfl
theorem exec_gshuf (o : GshufOp) (s : State) :
    exec (.gshuf o) s = execGshuf o s := rfl
theorem exec_gtimer (g : Guard) (a : SReg) (s : State) :
    exec (.gtimer g a) s = execGtimer g a s := rfl
theorem exec_gtimerGet (g : Guard) (d : SReg) (s : State) :
    exec (.gtimerGet g d) s = execGtimerGet g d s := rfl
theorem exec_hwait (g : Guard) (a : HReg) (s : State) :
    exec (.hwait g a) s = execHwait g a s := rfl
theorem exec_htest (g : Guard) (d : SReg) (a : HReg) (s : State) :
    exec (.htest g d a) s = execHtest g d a s := rfl
theorem exec_hcancel (g : Guard) (a : HReg) (s : State) :
    exec (.hcancel g a) s = execHcancel g a s := rfl
theorem exec_iadd (o : Bin) (s : State) :
    exec (.iadd o) s = execIadd o s := rfl
theorem exec_isub (o : Bin) (s : State) :
    exec (.isub o) s = execIsub o s := rfl
theorem exec_imul (o : Bin) (s : State) :
    exec (.imul o) s = execImul o s := rfl
theorem exec_imulh (o : Bin) (s : State) :
    exec (.imulh o) s = execImulh o s := rfl
theorem exec_imad (o : Tern) (s : State) :
    exec (.imad o) s = execImad o s := rfl
theorem exec_imin (o : Bin) (s : State) :
    exec (.imin o) s = execImin o s := rfl
theorem exec_imax (o : Bin) (s : State) :
    exec (.imax o) s = execImax o s := rfl
theorem exec_iabs (o : Un) (s : State) :
    exec (.iabs o) s = execIabs o s := rfl
theorem exec_ineg (o : Un) (s : State) :
    exec (.ineg o) s = execIneg o s := rfl
theorem exec_icmp (o : IcmpOp) (s : State) :
    exec (.icmp o) s = execIcmp o s := rfl
theorem exec_kick (g : Guard) (d : HReg) (a : SReg) (n : BitVec 8) (s : State) :
    exec (.kick g d a n) s = execKick g d a n s := rfl
theorem exec_launch (g : Guard) (a b : SReg) (n : BitVec 8) (s : State) :
    exec (.launch g a b n) s = execLaunch g a b n s := rfl
theorem exec_ld (o : MemV) (s : State) :
    exec (.ld o) s = execLd o s := rfl
theorem exec_ldu (o : MemU) (s : State) :
    exec (.ldu o) s = execLdu o s := rfl
theorem exec_ldp (o : MemV) (s : State) :
    exec (.ldp o) s = execLdp o s := rfl
theorem exec_lds (o : MemS) (s : State) :
    exec (.lds o) s = execLds o s := rfl
theorem exec_ldlines (o : LdlinesOp) (s : State) :
    exec (.ldlines o) s = execLdlines o s := rfl
theorem exec_lea (o : LeaOp) (s : State) :
    exec (.lea o) s = execLea o s := rfl
theorem exec_loop (a : SReg) (disp : BitVec 32) (s : State) :
    exec (.loop a disp) s = execLoop a disp s := rfl
theorem exec_loopEnd (s : State) :
    exec (.loopEnd) s = execLoopEnd s := rfl
theorem exec_merid (g : Guard) (d : SReg) (s : State) :
    exec (.merid g d) s = execMerid g d s := rfl
theorem exec_meridDev (g : Guard) (d : SReg) (s : State) :
    exec (.meridDev g d) s = execMeridDev g d s := rfl
theorem exec_mld (o : MldOp) (s : State) :
    exec (.mld o) s = execMld o s := rfl
theorem exec_mma (o : MmaOp) (s : State) :
    exec (.mma o) s = execMma o s := rfl
theorem exec_mmaZ (o : MmaOp) (s : State) :
    exec (.mmaZ o) s = execMmaZ o s := rfl
theorem exec_mov (g : Guard) (o : MovOp) (s : State) :
    exec (.mov g o) s = execMov g o s := rfl
theorem exec_movi (g : Guard) (d : Dst) (imm : BitVec 32) (s : State) :
    exec (.movi g d imm) s = execMovi g d imm s := rfl
theorem exec_moviHi (g : Guard) (d : SReg) (imm : BitVec 32) (s : State) :
    exec (.moviHi g d imm) s = execMoviHi g d imm s := rfl
theorem exec_mst (o : MstOp) (s : State) :
    exec (.mst o) s = execMst o s := rfl
theorem exec_mstSum (o : MstOp) (s : State) :
    exec (.mstSum o) s = execMstSum o s := rfl
theorem exec_nop (g : Guard) (s : State) :
    exec (.nop g) s = execNop g s := rfl
theorem exec_pack (o : PackOp) (s : State) :
    exec (.pack o) s = execPack o s := rfl
theorem exec_park (g : Guard) (s : State) :
    exec (.park g) s = execPark g s := rfl
theorem exec_patload (g : Guard) (a : SReg) (bank : BitVec 4) (s : State) :
    exec (.patload g a bank) s = execPatload g a bank s := rfl
theorem exec_plop (g : Guard) (uni : Bool) (d : PReg) (o : PlopOp) (s : State) :
    exec (.plop g uni d o) s = execPlop g uni d o s := rfl
theorem exec_popc (o : Un) (s : State) :
    exec (.popc o) s = execPopc o s := rfl
theorem exec_post (g : Guard) (a : SReg) (b : SOrH) (s : State) :
    exec (.post g a b) s = execPost g a b s := rfl
theorem exec_postq (g : Guard) (d : PReg) (a : SReg) (b : SOrH) (s : State) :
    exec (.postq g d a b) s = execPostq g d a b s := rfl
theorem exec_pref (o : PrefOp) (s : State) :
    exec (.pref o) s = execPref o s := rfl
theorem exec_publish (g : Guard) (a : SOrN) (scope : Scope) (s : State) :
    exec (.publish g a scope) s = execPublish g a scope s := rfl
theorem exec_qscale (o : QscaleOp) (s : State) :
    exec (.qscale o) s = execQscale o s := rfl
theorem exec_reconv (s : State) :
    exec (.reconv) s = execReconv s := rfl
theorem exec_red (o : AtomInstr) (s : State) :
    exec (.red o) s = execRed o s := rfl
theorem exec_redux (o : ReduxOp) (s : State) :
    exec (.redux o) s = execRedux o s := rfl
theorem exec_regroup (la : LA) (k : BitVec 2) (p : PReg) (s : State) :
    exec (.regroup la k p) s = execRegroup la k p s := rfl
theorem exec_ret (g : Guard) (s : State) :
    exec (.ret g) s = execRet g s := rfl
theorem exec_rte (s : State) :
    exec (.rte) s = execRte s := rfl
theorem exec_rteNext (s : State) :
    exec (.rteNext) s = execRteNext s := rfl
theorem exec_scan (o : ScanOp) (s : State) :
    exec (.scan o) s = execScan o s := rfl
theorem exec_segred (o : SegredOp) (s : State) :
    exec (.segred o) s = execSegred o s := rfl
theorem exec_sel (o : SelOp) (s : State) :
    exec (.sel o) s = execSel o s := rfl
theorem exec_shfl (o : ShflOp) (s : State) :
    exec (.shfl o) s = execShfl o s := rfl
theorem exec_shl (o : Bin) (s : State) :
    exec (.shl o) s = execShl o s := rfl
theorem exec_shr (o : Bin) (s : State) :
    exec (.shr o) s = execShr o s := rfl
theorem exec_shra (o : Bin) (s : State) :
    exec (.shra o) s = execShra o s := rfl
theorem exec_spill (o : SpillOp) (s : State) :
    exec (.spill o) s = execSpill o s := rfl
theorem exec_srd (g : Guard) (o : SrdOp) (s : State) :
    exec (.srd g o) s = execSrd g o s := rfl
theorem exec_st (o : MemV) (s : State) :
    exec (.st o) s = execSt o s := rfl
theorem exec_stu (o : MemU) (s : State) :
    exec (.stu o) s = execStu o s := rfl
theorem exec_sts (o : MemS) (s : State) :
    exec (.sts o) s = execSts o s := rfl
theorem exec_stp (o : MemV) (s : State) :
    exec (.stp o) s = execStp o s := rfl
theorem exec_swr (g : Guard) (reg : BitVec 8) (a : SReg) (s : State) :
    exec (.swr g reg a) s = execSwr g reg a s := rfl
theorem exec_tagfind (g : Guard) (d a : SReg) (s : State) :
    exec (.tagfind g d a) s = execTagfind g d a s := rfl
theorem exec_tagwaitAny (g : Guard) (a : SReg) (s : State) :
    exec (.tagwaitAny g a) s = execTagwaitAny g a s := rfl
theorem exec_tagwaitAll (g : Guard) (a : SReg) (s : State) :
    exec (.tagwaitAll g a) s = execTagwaitAll g a s := rfl
theorem exec_tbinit (g : Guard) (a b : SReg) (s : State) :
    exec (.tbinit g a b) s = execTbinit g a b s := rfl
theorem exec_tbarrive (g : Guard) (a : SReg) (s : State) :
    exec (.tbarrive g a) s = execTbarrive g a s := rfl
theorem exec_tbarriveTx (g : Guard) (a b : SReg) (s : State) :
    exec (.tbarriveTx g a b) s = execTbarriveTx g a b s := rfl
theorem exec_tbexpect (g : Guard) (a b : SReg) (s : State) :
    exec (.tbexpect g a b) s = execTbexpect g a b s := rfl
theorem exec_tbwait (g : Guard) (a b : SReg) (s : State) :
    exec (.tbwait g a b) s = execTbwait g a b s := rfl
theorem exec_tracemark (g : Guard) (a : SReg) (s : State) :
    exec (.tracemark g a) s = execTracemark g a s := rfl
theorem exec_trap (g : Guard) (code : BitVec 32) (s : State) :
    exec (.trap g code) s = execTrap g code s := rfl
theorem exec_unpack (o : PackOp) (s : State) :
    exec (.unpack o) s = execUnpack o s := rfl
theorem exec_vote (g : Guard) (la : LA) (o : VoteOp) (s : State) :
    exec (.vote g la o) s = execVote g la o s := rfl
theorem exec_widenTrap (g : Guard) (d : VReg) (a b : SReg) (s : State) :
    exec (.widenTrap g d a b) s = execWidenTrap g d a b s := rfl
theorem exec_widenClamp (g : Guard) (d : VReg) (a b : SReg) (s : State) :
    exec (.widenClamp g d a b) s = execWidenClamp g d a b s := rfl
theorem exec_yield (s : State) :
    exec (.yield) s = execYield s := rfl
theorem exec_clauseStart (r : SplitRef) (s : State) :
    exec (.clauseStart r) s = execClauseStart r s := rfl
theorem exec_longLatencyCompletion (r : GroupRef) (n : Nat) (s : State) :
    exec (.longLatencyCompletion r n) s = execLongLatencyCompletion r n s := rfl
theorem exec_loadCompletion (r : GroupRef) (n : Nat) (s : State) :
    exec (.loadCompletion r n) s = execLoadCompletion r n s := rfl
theorem exec_matrixCompletion (r : GroupRef) (n : Nat) (s : State) :
    exec (.matrixCompletion r n) s = execMatrixCompletion r n s := rfl
theorem exec_storeQueueDrain (r : GroupRef) (s : State) :
    exec (.storeQueueDrain r) s = execStoreQueueDrain r s := rfl
theorem exec_messageArrival (slot idx : Nat) (s : State) :
    exec (.messageArrival slot idx) s = execMessageArrival slot idx s := rfl
theorem exec_bankCycle (slot bank : Nat) (s : State) :
    exec (.bankCycle slot bank) s = execBankCycle slot bank s := rfl
theorem exec_gangRecordTake (slot recNum : Nat) (s : State) :
    exec (.gangRecordTake slot recNum) s = execGangRecordTake slot recNum s := rfl
theorem exec_instancePlacement (slot recNum : Nat) (s : State) :
    exec (.instancePlacement slot recNum) s = execInstancePlacement slot recNum s := rfl
theorem exec_queueHeadStarvation (slot recNum : Nat) (s : State) :
    exec (.queueHeadStarvation slot recNum) s = execQueueHeadStarvation slot recNum s := rfl
theorem exec_bindRecordDispatch (slot : Nat) (s : State) :
    exec (.bindRecordDispatch slot) s = execBindRecordDispatch slot s := rfl
theorem exec_issueAgeBoost (r : SplitRef) (s : State) :
    exec (.issueAgeBoost r) s = execIssueAgeBoost r s := rfl
theorem exec_instanceRetirement (slot recNum inst : Nat) (s : State) :
    exec (.instanceRetirement slot recNum inst) s = execInstanceRetirement slot recNum inst s := rfl
theorem exec_cpaCopyCompletion (slot lcid n : Nat) (s : State) :
    exec (.cpaCopyCompletion slot lcid n) s = execCpaCopyCompletion slot lcid n s := rfl
theorem exec_recordStart (slot lcid entry idx : Nat) (s : State) :
    exec (.recordStart slot lcid entry idx) s = execRecordStart slot lcid entry idx s := rfl
theorem exec_recordCompletion (slot lcid entry idx : Nat) (s : State) :
    exec (.recordCompletion slot lcid entry idx) s = execRecordCompletion slot lcid entry idx s := rfl
theorem exec_recordFailure (r : EngRef) (s : State) :
    exec (.recordFailure r) s = execRecordFailure r s := rfl
theorem exec_publishFlip (slot idx : Nat) (s : State) :
    exec (.publishFlip slot idx) s = execPublishFlip slot idx s := rfl
theorem exec_timerExpiry (r : GroupRef) (s : State) :
    exec (.timerExpiry r) s = execTimerExpiry r s := rfl
theorem exec_haltPropagation (r : SplitRef) (s : State) :
    exec (.haltPropagation r) s = execHaltPropagation r s := rfl
theorem exec_haltrel (die slot : Nat) (seq : BitVec 32) (s : State) :
    exec (.haltrel die slot seq) s = execHaltrel die slot seq s := rfl
theorem exec_sliceEnd (die : Nat) (s : State) :
    exec (.sliceEnd die) s = execSliceEnd die s := rfl
theorem exec_switchOut (slot lcid : Nat) (s : State) :
    exec (.switchOut slot lcid) s = execSwitchOut slot lcid s := rfl
theorem exec_switchIn (slot lcid : Nat) (s : State) :
    exec (.switchIn slot lcid) s = execSwitchIn slot lcid s := rfl
theorem exec_preemption (slot recNum : Nat) (s : State) :
    exec (.preemption slot recNum) s = execPreemption slot recNum s := rfl
theorem exec_fqrespReplay (die index : Nat) (s : State) :
    exec (.fqrespReplay die index) s = execFqrespReplay die index s := rfl
theorem exec_fqrespFail (die index : Nat) (s : State) :
    exec (.fqrespFail die index) s = execFqrespFail die index s := rfl
theorem exec_xlinvCommand (die npages ctx : Nat) (s : State) :
    exec (.xlinvCommand die npages ctx) s = execXlinvCommand die npages ctx s := rfl
theorem exec_xlinvCompletion (die : Nat) (s : State) :
    exec (.xlinvCompletion die) s = execXlinvCompletion die s := rfl
theorem exec_compressFrame (die j : Nat) (arg : Nat) (s : State) :
    exec (.compressFrame die j arg) s = execCompressFrame die j arg s := rfl
theorem exec_freeRecord (die j : Nat) (arg : Nat) (s : State) :
    exec (.freeRecord die j arg) s = execFreeRecord die j arg s := rfl
theorem exec_tierCommandCompletion (die j : Nat) (s : State) :
    exec (.tierCommandCompletion die j) s = execTierCommandCompletion die j s := rfl
theorem exec_framePush (die j : Nat) (frame : Nat) (s : State) :
    exec (.framePush die j frame) s = execFramePush die j frame s := rfl
theorem exec_tierRegionWrite (die j : Nat) (value : DWord) (s : State) :
    exec (.tierRegionWrite die j value) s = execTierRegionWrite die j value s := rfl
theorem exec_backgroundPull (die idx unit : Nat) (s : State) :
    exec (.backgroundPull die idx unit) s = execBackgroundPull die idx unit s := rfl
theorem exec_pageMoveStart (slot : Nat) (vpage : Nat) (stack : Nat) (s : State) :
    exec (.pageMoveStart slot vpage stack) s = execPageMoveStart slot vpage stack s := rfl
theorem exec_pageMoveCompletion (die idx : Nat) (s : State) :
    exec (.pageMoveCompletion die idx) s = execPageMoveCompletion die idx s := rfl
theorem exec_placementPolicyPass (die : Nat) (s : State) :
    exec (.placementPolicyPass die) s = execPlacementPolicyPass die s := rfl
theorem exec_pinCountHalving (die : Nat) (s : State) :
    exec (.pinCountHalving die) s = execPinCountHalving die s := rfl
theorem exec_l2cfgWrite (die : Nat) (value : DWord) (s : State) :
    exec (.l2cfgWrite die value) s = execL2cfgWrite die value s := rfl
theorem exec_unpin (die : Nat) (s : State) :
    exec (.unpin die) s = execUnpin die s := rfl
theorem exec_mailboxWrite (off : Nat) (bytes : List Byte) (s : State) :
    exec (.mailboxWrite off bytes) s = execMailboxWrite off bytes s := rfl
theorem exec_hostBar4Access (off : Nat) (n : Nat) (data : Option (List Byte)) (s : State) :
    exec (.hostBar4Access off n data) s = execHostBar4Access off n data s := rfl
theorem exec_ringusFlitArrival (port rank : Nat) (f : Flit) (s : State) :
    exec (.ringusFlitArrival port rank f) s = execRingusFlitArrival port rank f s := rfl
theorem exec_drainRequestArrival (port rank : Nat) (s : State) :
    exec (.drainRequestArrival port rank) s = execDrainRequestArrival port rank s := rfl
theorem exec_drainMarkerArrival (port slot : Nat) (s : State) :
    exec (.drainMarkerArrival port slot) s = execDrainMarkerArrival port slot s := rfl
theorem exec_drainTimeout (port slot : Nat) (s : State) :
    exec (.drainTimeout port slot) s = execDrainTimeout port slot s := rfl
theorem exec_resumeMarkerArrival (port rank : Nat) (s : State) :
    exec (.resumeMarkerArrival port rank) s = execResumeMarkerArrival port rank s := rfl
theorem exec_meridianSync (tick : DWord) (s : State) :
    exec (.meridianSync tick) s = execMeridianSync tick s := rfl
theorem exec_parkRequest (die slot : Nat) (s : State) :
    exec (.parkRequest die slot) s = execParkRequest die slot s := rfl
theorem exec_parkCapture (slot : Nat) (s : State) :
    exec (.parkCapture slot) s = execParkCapture slot s := rfl
theorem exec_resumeRequest (die slot : Nat) (s : State) :
    exec (.resumeRequest die slot) s = execResumeRequest die slot s := rfl
theorem exec_contextCreate (s : State) :
    exec (.contextCreate) s = execContextCreate s := rfl
theorem exec_contextDestroy (slot : Nat) (s : State) :
    exec (.contextDestroy slot) s = execContextDestroy slot s := rfl
theorem exec_deviceReset (s : State) :
    exec (.deviceReset) s = execDeviceReset s := rfl
theorem exec_functionReady (bit : Nat) (s : State) :
    exec (.functionReady bit) s = execFunctionReady bit s := rfl
theorem exec_attestationRequest (s : State) :
    exec (.attestationRequest) s = execAttestationRequest s := rfl
theorem exec_clockStep (step : Nat) (s : State) :
    exec (.clockStep step) s = execClockStep step s := rfl
theorem exec_thermalLimit (s : State) :
    exec (.thermalLimit) s = execThermalLimit s := rfl
theorem exec_thermalShutdown (s : State) :
    exec (.thermalShutdown) s = execThermalShutdown s := rfl
theorem exec_freezeArm (s : State) :
    exec (.freezeArm) s = execFreezeArm s := rfl
theorem exec_freeze (s : State) :
    exec (.freeze) s = execFreeze s := rfl
theorem exec_debugStop (die slot : Nat) (s : State) :
    exec (.debugStop die slot) s = execDebugStop die slot s := rfl
theorem exec_debugResume (die slot : Nat) (s : State) :
    exec (.debugResume die slot) s = execDebugResume die slot s := rfl
theorem exec_contextHalt (die slot : Nat) (s : State) :
    exec (.contextHalt die slot) s = execContextHalt die slot s := rfl
theorem exec_traceSync (die slot : Nat) (s : State) :
    exec (.traceSync die slot) s = execTraceSync die slot s := rfl
theorem exec_elogClear (die : Nat) (s : State) :
    exec (.elogClear die) s = execElogClear die s := rfl
theorem exec_eventCountRead (die code requester : Nat) (s : State) :
    exec (.eventCountRead die code requester) s = execEventCountRead die code requester s := rfl
theorem exec_topdownTotalRead (die core set requester : Nat) (s : State) :
    exec (.topdownTotalRead die core set requester) s = execTopdownTotalRead die core set requester s := rfl
theorem exec_faultRingConfigWrite (die slot : Nat) (value : DWord) (s : State) :
    exec (.faultRingConfigWrite die slot value) s = execFaultRingConfigWrite die slot value s := rfl
theorem exec_registerWrite (off : Nat) (value : DWord) (s : State) :
    exec (.registerWrite off value) s = execRegisterWrite off value s := rfl
theorem exec_linkPortDown (port : Nat) (s : State) :
    exec (.linkPortDown port) s = execLinkPortDown port s := rfl
theorem exec_resumeEnd (die slot : Nat) (s : State) :
    exec (.resumeEnd die slot) s = execResumeEnd die slot s := rfl
theorem exec_contextCommandEnd (s : State) :
    exec (.contextCommandEnd) s = execContextCommandEnd s := rfl
theorem exec_attestationReportEnd (s : State) :
    exec (.attestationReportEnd) s = execAttestationReportEnd s := rfl
theorem exec_debugStopPropagation (r : SplitRef) (s : State) :
    exec (.debugStopPropagation r) s = execDebugStopPropagation r s := rfl
theorem exec_flitRetry (die : Nat) (ringus : Bool) (s : State) :
    exec (.flitRetry die ringus) s = execFlitRetry die ringus s := rfl
theorem exec_scrub (pa : Nat) (s : State) :
    exec (.scrub pa) s = execScrub pa s := rfl

end Sys2Proof.Machine
end

