-- ==== Sys2Proof/Laws/State.lean ====
section
/-! SUPPORT. Laws/State.lean: what each named update leaves as it was, field by field, for the device's state and for a group. -/

namespace Sys2Proof.Machine

open Sys2Proof

@[simp] theorem State.setCtx_mem (s : State) (k : Nat) (c : Context) : (s.setCtx k c).mem = s.mem := rfl
@[simp] theorem State.setCtx_poison (s : State) (k : Nat) (c : Context) : (s.setCtx k c).poison = s.poison := rfl
@[simp] theorem State.setCtx_soft (s : State) (k : Nat) (c : Context) : (s.setCtx k c).soft = s.soft := rfl
@[simp] theorem State.setCtx_mended (s : State) (k : Nat) (c : Context) : (s.setCtx k c).mended = s.mended := rfl
@[simp] theorem State.setCtx_req (s : State) (k : Nat) (c : Context) : (s.setCtx k c).req = s.req := rfl
@[simp] theorem State.setCtx_pkg (s : State) (k : Nat) (c : Context) : (s.setCtx k c).pkg = s.pkg := rfl
@[simp] theorem State.setCtx_dies (s : State) (k : Nat) (c : Context) : (s.setCtx k c).dies = s.dies := rfl
@[simp] theorem State.setCtx_meridian (s : State) (k : Nat) (c : Context) : (s.setCtx k c).meridian = s.meridian := rfl
@[simp] theorem State.setCtx_cycles (s : State) (k : Nat) (c : Context) : (s.setCtx k c).cycles = s.cycles := rfl
@[simp] theorem State.setCtx_cycleAcc (s : State) (k : Nat) (c : Context) : (s.setCtx k c).cycleAcc = s.cycleAcc := rfl
@[simp] theorem State.setCtx_agenda (s : State) (k : Nat) (c : Context) : (s.setCtx k c).agenda = s.agenda := rfl
@[simp] theorem State.setCtx_cur (s : State) (k : Nat) (c : Context) : (s.setCtx k c).cur = s.cur := rfl
@[simp] theorem State.setCtx_freeCtr (s : State) (k : Nat) (c : Context) : (s.setCtx k c).freeCtr = s.freeCtr := rfl
@[simp] theorem State.setCtx_hostOut (s : State) (k : Nat) (c : Context) : (s.setCtx k c).hostOut = s.hostOut := rfl
@[simp] theorem State.setCtx_linkOut (s : State) (k : Nat) (c : Context) : (s.setCtx k c).linkOut = s.linkOut := rfl
@[simp] theorem State.modCtx_mem (s : State) (k : Nat) (g : Context → Context) : (s.modCtx k g).mem = s.mem := by
  unfold State.modCtx; split <;> rfl
@[simp] theorem State.modCtx_poison (s : State) (k : Nat) (g : Context → Context) : (s.modCtx k g).poison = s.poison := by
  unfold State.modCtx; split <;> rfl
@[simp] theorem State.modCtx_soft (s : State) (k : Nat) (g : Context → Context) : (s.modCtx k g).soft = s.soft := by
  unfold State.modCtx; split <;> rfl
@[simp] theorem State.modCtx_mended (s : State) (k : Nat) (g : Context → Context) : (s.modCtx k g).mended = s.mended := by
  unfold State.modCtx; split <;> rfl
@[simp] theorem State.modCtx_req (s : State) (k : Nat) (g : Context → Context) : (s.modCtx k g).req = s.req := by
  unfold State.modCtx; split <;> rfl
@[simp] theorem State.modCtx_pkg (s : State) (k : Nat) (g : Context → Context) : (s.modCtx k g).pkg = s.pkg := by
  unfold State.modCtx; split <;> rfl
@[simp] theorem State.modCtx_dies (s : State) (k : Nat) (g : Context → Context) : (s.modCtx k g).dies = s.dies := by
  unfold State.modCtx; split <;> rfl
@[simp] theorem State.modCtx_meridian (s : State) (k : Nat) (g : Context → Context) : (s.modCtx k g).meridian = s.meridian := by
  unfold State.modCtx; split <;> rfl
@[simp] theorem State.modCtx_cycles (s : State) (k : Nat) (g : Context → Context) : (s.modCtx k g).cycles = s.cycles := by
  unfold State.modCtx; split <;> rfl
@[simp] theorem State.modCtx_cycleAcc (s : State) (k : Nat) (g : Context → Context) : (s.modCtx k g).cycleAcc = s.cycleAcc := by
  unfold State.modCtx; split <;> rfl
@[simp] theorem State.modCtx_agenda (s : State) (k : Nat) (g : Context → Context) : (s.modCtx k g).agenda = s.agenda := by
  unfold State.modCtx; split <;> rfl
@[simp] theorem State.modCtx_cur (s : State) (k : Nat) (g : Context → Context) : (s.modCtx k g).cur = s.cur := by
  unfold State.modCtx; split <;> rfl
@[simp] theorem State.modCtx_freeCtr (s : State) (k : Nat) (g : Context → Context) : (s.modCtx k g).freeCtr = s.freeCtr := by
  unfold State.modCtx; split <;> rfl
@[simp] theorem State.modCtx_hostOut (s : State) (k : Nat) (g : Context → Context) : (s.modCtx k g).hostOut = s.hostOut := by
  unfold State.modCtx; split <;> rfl
@[simp] theorem State.modCtx_linkOut (s : State) (k : Nat) (g : Context → Context) : (s.modCtx k g).linkOut = s.linkOut := by
  unfold State.modCtx; split <;> rfl
@[simp] theorem State.modGroup_mem (s : State) (r : GroupRef) (g : Group → Group) : (s.modGroup r g).mem = s.mem := by
  simp [State.modGroup]
@[simp] theorem State.modGroup_poison (s : State) (r : GroupRef) (g : Group → Group) : (s.modGroup r g).poison = s.poison := by
  simp [State.modGroup]
@[simp] theorem State.modGroup_soft (s : State) (r : GroupRef) (g : Group → Group) : (s.modGroup r g).soft = s.soft := by
  simp [State.modGroup]
@[simp] theorem State.modGroup_mended (s : State) (r : GroupRef) (g : Group → Group) : (s.modGroup r g).mended = s.mended := by
  simp [State.modGroup]
@[simp] theorem State.modGroup_req (s : State) (r : GroupRef) (g : Group → Group) : (s.modGroup r g).req = s.req := by
  simp [State.modGroup]
@[simp] theorem State.modGroup_pkg (s : State) (r : GroupRef) (g : Group → Group) : (s.modGroup r g).pkg = s.pkg := by
  simp [State.modGroup]
@[simp] theorem State.modGroup_dies (s : State) (r : GroupRef) (g : Group → Group) : (s.modGroup r g).dies = s.dies := by
  simp [State.modGroup]
@[simp] theorem State.modGroup_meridian (s : State) (r : GroupRef) (g : Group → Group) : (s.modGroup r g).meridian = s.meridian := by
  simp [State.modGroup]
@[simp] theorem State.modGroup_cycles (s : State) (r : GroupRef) (g : Group → Group) : (s.modGroup r g).cycles = s.cycles := by
  simp [State.modGroup]
@[simp] theorem State.modGroup_cycleAcc (s : State) (r : GroupRef) (g : Group → Group) : (s.modGroup r g).cycleAcc = s.cycleAcc := by
  simp [State.modGroup]
@[simp] theorem State.modGroup_agenda (s : State) (r : GroupRef) (g : Group → Group) : (s.modGroup r g).agenda = s.agenda := by
  simp [State.modGroup]
@[simp] theorem State.modGroup_cur (s : State) (r : GroupRef) (g : Group → Group) : (s.modGroup r g).cur = s.cur := by
  simp [State.modGroup]
@[simp] theorem State.modGroup_freeCtr (s : State) (r : GroupRef) (g : Group → Group) : (s.modGroup r g).freeCtr = s.freeCtr := by
  simp [State.modGroup]
@[simp] theorem State.modGroup_hostOut (s : State) (r : GroupRef) (g : Group → Group) : (s.modGroup r g).hostOut = s.hostOut := by
  simp [State.modGroup]
@[simp] theorem State.modGroup_linkOut (s : State) (r : GroupRef) (g : Group → Group) : (s.modGroup r g).linkOut = s.linkOut := by
  simp [State.modGroup]
@[simp] theorem State.setGroup_mem (s : State) (r : GroupRef) (g : Group) : (s.setGroup r g).mem = s.mem := by
  simp [State.setGroup]
@[simp] theorem State.setGroup_poison (s : State) (r : GroupRef) (g : Group) : (s.setGroup r g).poison = s.poison := by
  simp [State.setGroup]
@[simp] theorem State.setGroup_soft (s : State) (r : GroupRef) (g : Group) : (s.setGroup r g).soft = s.soft := by
  simp [State.setGroup]
@[simp] theorem State.setGroup_mended (s : State) (r : GroupRef) (g : Group) : (s.setGroup r g).mended = s.mended := by
  simp [State.setGroup]
@[simp] theorem State.setGroup_req (s : State) (r : GroupRef) (g : Group) : (s.setGroup r g).req = s.req := by
  simp [State.setGroup]
@[simp] theorem State.setGroup_pkg (s : State) (r : GroupRef) (g : Group) : (s.setGroup r g).pkg = s.pkg := by
  simp [State.setGroup]
@[simp] theorem State.setGroup_dies (s : State) (r : GroupRef) (g : Group) : (s.setGroup r g).dies = s.dies := by
  simp [State.setGroup]
@[simp] theorem State.setGroup_meridian (s : State) (r : GroupRef) (g : Group) : (s.setGroup r g).meridian = s.meridian := by
  simp [State.setGroup]
@[simp] theorem State.setGroup_cycles (s : State) (r : GroupRef) (g : Group) : (s.setGroup r g).cycles = s.cycles := by
  simp [State.setGroup]
@[simp] theorem State.setGroup_cycleAcc (s : State) (r : GroupRef) (g : Group) : (s.setGroup r g).cycleAcc = s.cycleAcc := by
  simp [State.setGroup]
@[simp] theorem State.setGroup_agenda (s : State) (r : GroupRef) (g : Group) : (s.setGroup r g).agenda = s.agenda := by
  simp [State.setGroup]
@[simp] theorem State.setGroup_cur (s : State) (r : GroupRef) (g : Group) : (s.setGroup r g).cur = s.cur := by
  simp [State.setGroup]
@[simp] theorem State.setGroup_freeCtr (s : State) (r : GroupRef) (g : Group) : (s.setGroup r g).freeCtr = s.freeCtr := by
  simp [State.setGroup]
@[simp] theorem State.setGroup_hostOut (s : State) (r : GroupRef) (g : Group) : (s.setGroup r g).hostOut = s.hostOut := by
  simp [State.setGroup]
@[simp] theorem State.setGroup_linkOut (s : State) (r : GroupRef) (g : Group) : (s.setGroup r g).linkOut = s.linkOut := by
  simp [State.setGroup]
@[simp] theorem State.modSplit_mem (s : State) (r : SplitRef) (g : Split → Split) : (s.modSplit r g).mem = s.mem := by
  simp [State.modSplit]
@[simp] theorem State.modSplit_poison (s : State) (r : SplitRef) (g : Split → Split) : (s.modSplit r g).poison = s.poison := by
  simp [State.modSplit]
@[simp] theorem State.modSplit_soft (s : State) (r : SplitRef) (g : Split → Split) : (s.modSplit r g).soft = s.soft := by
  simp [State.modSplit]
@[simp] theorem State.modSplit_mended (s : State) (r : SplitRef) (g : Split → Split) : (s.modSplit r g).mended = s.mended := by
  simp [State.modSplit]
@[simp] theorem State.modSplit_req (s : State) (r : SplitRef) (g : Split → Split) : (s.modSplit r g).req = s.req := by
  simp [State.modSplit]
@[simp] theorem State.modSplit_pkg (s : State) (r : SplitRef) (g : Split → Split) : (s.modSplit r g).pkg = s.pkg := by
  simp [State.modSplit]
@[simp] theorem State.modSplit_dies (s : State) (r : SplitRef) (g : Split → Split) : (s.modSplit r g).dies = s.dies := by
  simp [State.modSplit]
@[simp] theorem State.modSplit_meridian (s : State) (r : SplitRef) (g : Split → Split) : (s.modSplit r g).meridian = s.meridian := by
  simp [State.modSplit]
@[simp] theorem State.modSplit_cycles (s : State) (r : SplitRef) (g : Split → Split) : (s.modSplit r g).cycles = s.cycles := by
  simp [State.modSplit]
@[simp] theorem State.modSplit_cycleAcc (s : State) (r : SplitRef) (g : Split → Split) : (s.modSplit r g).cycleAcc = s.cycleAcc := by
  simp [State.modSplit]
@[simp] theorem State.modSplit_agenda (s : State) (r : SplitRef) (g : Split → Split) : (s.modSplit r g).agenda = s.agenda := by
  simp [State.modSplit]
@[simp] theorem State.modSplit_cur (s : State) (r : SplitRef) (g : Split → Split) : (s.modSplit r g).cur = s.cur := by
  simp [State.modSplit]
@[simp] theorem State.modSplit_freeCtr (s : State) (r : SplitRef) (g : Split → Split) : (s.modSplit r g).freeCtr = s.freeCtr := by
  simp [State.modSplit]
@[simp] theorem State.modSplit_hostOut (s : State) (r : SplitRef) (g : Split → Split) : (s.modSplit r g).hostOut = s.hostOut := by
  simp [State.modSplit]
@[simp] theorem State.modSplit_linkOut (s : State) (r : SplitRef) (g : Split → Split) : (s.modSplit r g).linkOut = s.linkOut := by
  simp [State.modSplit]
@[simp] theorem State.modLc_mem (s : State) (k l : Nat) (g : LogicalCore → LogicalCore) : (s.modLc k l g).mem = s.mem := by
  simp [State.modLc]
@[simp] theorem State.modLc_poison (s : State) (k l : Nat) (g : LogicalCore → LogicalCore) : (s.modLc k l g).poison = s.poison := by
  simp [State.modLc]
@[simp] theorem State.modLc_soft (s : State) (k l : Nat) (g : LogicalCore → LogicalCore) : (s.modLc k l g).soft = s.soft := by
  simp [State.modLc]
@[simp] theorem State.modLc_mended (s : State) (k l : Nat) (g : LogicalCore → LogicalCore) : (s.modLc k l g).mended = s.mended := by
  simp [State.modLc]
@[simp] theorem State.modLc_req (s : State) (k l : Nat) (g : LogicalCore → LogicalCore) : (s.modLc k l g).req = s.req := by
  simp [State.modLc]
@[simp] theorem State.modLc_pkg (s : State) (k l : Nat) (g : LogicalCore → LogicalCore) : (s.modLc k l g).pkg = s.pkg := by
  simp [State.modLc]
@[simp] theorem State.modLc_dies (s : State) (k l : Nat) (g : LogicalCore → LogicalCore) : (s.modLc k l g).dies = s.dies := by
  simp [State.modLc]
@[simp] theorem State.modLc_meridian (s : State) (k l : Nat) (g : LogicalCore → LogicalCore) : (s.modLc k l g).meridian = s.meridian := by
  simp [State.modLc]
@[simp] theorem State.modLc_cycles (s : State) (k l : Nat) (g : LogicalCore → LogicalCore) : (s.modLc k l g).cycles = s.cycles := by
  simp [State.modLc]
@[simp] theorem State.modLc_cycleAcc (s : State) (k l : Nat) (g : LogicalCore → LogicalCore) : (s.modLc k l g).cycleAcc = s.cycleAcc := by
  simp [State.modLc]
@[simp] theorem State.modLc_agenda (s : State) (k l : Nat) (g : LogicalCore → LogicalCore) : (s.modLc k l g).agenda = s.agenda := by
  simp [State.modLc]
@[simp] theorem State.modLc_cur (s : State) (k l : Nat) (g : LogicalCore → LogicalCore) : (s.modLc k l g).cur = s.cur := by
  simp [State.modLc]
@[simp] theorem State.modLc_freeCtr (s : State) (k l : Nat) (g : LogicalCore → LogicalCore) : (s.modLc k l g).freeCtr = s.freeCtr := by
  simp [State.modLc]
@[simp] theorem State.modLc_hostOut (s : State) (k l : Nat) (g : LogicalCore → LogicalCore) : (s.modLc k l g).hostOut = s.hostOut := by
  simp [State.modLc]
@[simp] theorem State.modLc_linkOut (s : State) (k l : Nat) (g : LogicalCore → LogicalCore) : (s.modLc k l g).linkOut = s.linkOut := by
  simp [State.modLc]
@[simp] theorem State.modDie_mem (s : State) (d : Nat) (g : Die → Die) : (s.modDie d g).mem = s.mem := rfl
@[simp] theorem State.modDie_poison (s : State) (d : Nat) (g : Die → Die) : (s.modDie d g).poison = s.poison := rfl
@[simp] theorem State.modDie_soft (s : State) (d : Nat) (g : Die → Die) : (s.modDie d g).soft = s.soft := rfl
@[simp] theorem State.modDie_mended (s : State) (d : Nat) (g : Die → Die) : (s.modDie d g).mended = s.mended := rfl
@[simp] theorem State.modDie_req (s : State) (d : Nat) (g : Die → Die) : (s.modDie d g).req = s.req := rfl
@[simp] theorem State.modDie_pkg (s : State) (d : Nat) (g : Die → Die) : (s.modDie d g).pkg = s.pkg := rfl
@[simp] theorem State.modDie_ctxs (s : State) (d : Nat) (g : Die → Die) : (s.modDie d g).ctxs = s.ctxs := rfl
@[simp] theorem State.modDie_meridian (s : State) (d : Nat) (g : Die → Die) : (s.modDie d g).meridian = s.meridian := rfl
@[simp] theorem State.modDie_cycles (s : State) (d : Nat) (g : Die → Die) : (s.modDie d g).cycles = s.cycles := rfl
@[simp] theorem State.modDie_cycleAcc (s : State) (d : Nat) (g : Die → Die) : (s.modDie d g).cycleAcc = s.cycleAcc := rfl
@[simp] theorem State.modDie_agenda (s : State) (d : Nat) (g : Die → Die) : (s.modDie d g).agenda = s.agenda := rfl
@[simp] theorem State.modDie_cur (s : State) (d : Nat) (g : Die → Die) : (s.modDie d g).cur = s.cur := rfl
@[simp] theorem State.modDie_freeCtr (s : State) (d : Nat) (g : Die → Die) : (s.modDie d g).freeCtr = s.freeCtr := rfl
@[simp] theorem State.modDie_hostOut (s : State) (d : Nat) (g : Die → Die) : (s.modDie d g).hostOut = s.hostOut := rfl
@[simp] theorem State.modDie_linkOut (s : State) (d : Nat) (g : Die → Die) : (s.modDie d g).linkOut = s.linkOut := rfl
@[simp] theorem State.modCore_mem (s : State) (d i : Nat) (g : Core → Core) : (s.modCore d i g).mem = s.mem := rfl
@[simp] theorem State.modCore_poison (s : State) (d i : Nat) (g : Core → Core) : (s.modCore d i g).poison = s.poison := rfl
@[simp] theorem State.modCore_soft (s : State) (d i : Nat) (g : Core → Core) : (s.modCore d i g).soft = s.soft := rfl
@[simp] theorem State.modCore_mended (s : State) (d i : Nat) (g : Core → Core) : (s.modCore d i g).mended = s.mended := rfl
@[simp] theorem State.modCore_req (s : State) (d i : Nat) (g : Core → Core) : (s.modCore d i g).req = s.req := rfl
@[simp] theorem State.modCore_pkg (s : State) (d i : Nat) (g : Core → Core) : (s.modCore d i g).pkg = s.pkg := rfl
@[simp] theorem State.modCore_ctxs (s : State) (d i : Nat) (g : Core → Core) : (s.modCore d i g).ctxs = s.ctxs := rfl
@[simp] theorem State.modCore_meridian (s : State) (d i : Nat) (g : Core → Core) : (s.modCore d i g).meridian = s.meridian := rfl
@[simp] theorem State.modCore_cycles (s : State) (d i : Nat) (g : Core → Core) : (s.modCore d i g).cycles = s.cycles := rfl
@[simp] theorem State.modCore_cycleAcc (s : State) (d i : Nat) (g : Core → Core) : (s.modCore d i g).cycleAcc = s.cycleAcc := rfl
@[simp] theorem State.modCore_agenda (s : State) (d i : Nat) (g : Core → Core) : (s.modCore d i g).agenda = s.agenda := rfl
@[simp] theorem State.modCore_cur (s : State) (d i : Nat) (g : Core → Core) : (s.modCore d i g).cur = s.cur := rfl
@[simp] theorem State.modCore_freeCtr (s : State) (d i : Nat) (g : Core → Core) : (s.modCore d i g).freeCtr = s.freeCtr := rfl
@[simp] theorem State.modCore_hostOut (s : State) (d i : Nat) (g : Core → Core) : (s.modCore d i g).hostOut = s.hostOut := rfl
@[simp] theorem State.modCore_linkOut (s : State) (d i : Nat) (g : Core → Core) : (s.modCore d i g).linkOut = s.linkOut := rfl
@[simp] theorem State.modSlotRegs_mem (s : State) (d i : Nat) (g : SlotRegs → SlotRegs) : (s.modSlotRegs d i g).mem = s.mem := rfl
@[simp] theorem State.modSlotRegs_poison (s : State) (d i : Nat) (g : SlotRegs → SlotRegs) : (s.modSlotRegs d i g).poison = s.poison := rfl
@[simp] theorem State.modSlotRegs_soft (s : State) (d i : Nat) (g : SlotRegs → SlotRegs) : (s.modSlotRegs d i g).soft = s.soft := rfl
@[simp] theorem State.modSlotRegs_mended (s : State) (d i : Nat) (g : SlotRegs → SlotRegs) : (s.modSlotRegs d i g).mended = s.mended := rfl
@[simp] theorem State.modSlotRegs_req (s : State) (d i : Nat) (g : SlotRegs → SlotRegs) : (s.modSlotRegs d i g).req = s.req := rfl
@[simp] theorem State.modSlotRegs_pkg (s : State) (d i : Nat) (g : SlotRegs → SlotRegs) : (s.modSlotRegs d i g).pkg = s.pkg := rfl
@[simp] theorem State.modSlotRegs_ctxs (s : State) (d i : Nat) (g : SlotRegs → SlotRegs) : (s.modSlotRegs d i g).ctxs = s.ctxs := rfl
@[simp] theorem State.modSlotRegs_meridian (s : State) (d i : Nat) (g : SlotRegs → SlotRegs) : (s.modSlotRegs d i g).meridian = s.meridian := rfl
@[simp] theorem State.modSlotRegs_cycles (s : State) (d i : Nat) (g : SlotRegs → SlotRegs) : (s.modSlotRegs d i g).cycles = s.cycles := rfl
@[simp] theorem State.modSlotRegs_cycleAcc (s : State) (d i : Nat) (g : SlotRegs → SlotRegs) : (s.modSlotRegs d i g).cycleAcc = s.cycleAcc := rfl
@[simp] theorem State.modSlotRegs_agenda (s : State) (d i : Nat) (g : SlotRegs → SlotRegs) : (s.modSlotRegs d i g).agenda = s.agenda := rfl
@[simp] theorem State.modSlotRegs_cur (s : State) (d i : Nat) (g : SlotRegs → SlotRegs) : (s.modSlotRegs d i g).cur = s.cur := rfl
@[simp] theorem State.modSlotRegs_freeCtr (s : State) (d i : Nat) (g : SlotRegs → SlotRegs) : (s.modSlotRegs d i g).freeCtr = s.freeCtr := rfl
@[simp] theorem State.modSlotRegs_hostOut (s : State) (d i : Nat) (g : SlotRegs → SlotRegs) : (s.modSlotRegs d i g).hostOut = s.hostOut := rfl
@[simp] theorem State.modSlotRegs_linkOut (s : State) (d i : Nat) (g : SlotRegs → SlotRegs) : (s.modSlotRegs d i g).linkOut = s.linkOut := rfl
@[simp] theorem State.modQuad_mem (s : State) (k l q : Nat) (g : Quad → Quad) : (s.modQuad k l q g).mem = s.mem := by
  unfold State.modQuad; split <;> rfl
@[simp] theorem State.modQuad_poison (s : State) (k l q : Nat) (g : Quad → Quad) : (s.modQuad k l q g).poison = s.poison := by
  unfold State.modQuad; split <;> rfl
@[simp] theorem State.modQuad_soft (s : State) (k l q : Nat) (g : Quad → Quad) : (s.modQuad k l q g).soft = s.soft := by
  unfold State.modQuad; split <;> rfl
@[simp] theorem State.modQuad_mended (s : State) (k l q : Nat) (g : Quad → Quad) : (s.modQuad k l q g).mended = s.mended := by
  unfold State.modQuad; split <;> rfl
@[simp] theorem State.modQuad_req (s : State) (k l q : Nat) (g : Quad → Quad) : (s.modQuad k l q g).req = s.req := by
  unfold State.modQuad; split <;> rfl
@[simp] theorem State.modQuad_pkg (s : State) (k l q : Nat) (g : Quad → Quad) : (s.modQuad k l q g).pkg = s.pkg := by
  unfold State.modQuad; split <;> rfl
@[simp] theorem State.modQuad_ctxs (s : State) (k l q : Nat) (g : Quad → Quad) : (s.modQuad k l q g).ctxs = s.ctxs := by
  unfold State.modQuad; split <;> rfl
@[simp] theorem State.modQuad_meridian (s : State) (k l q : Nat) (g : Quad → Quad) : (s.modQuad k l q g).meridian = s.meridian := by
  unfold State.modQuad; split <;> rfl
@[simp] theorem State.modQuad_cycles (s : State) (k l q : Nat) (g : Quad → Quad) : (s.modQuad k l q g).cycles = s.cycles := by
  unfold State.modQuad; split <;> rfl
@[simp] theorem State.modQuad_cycleAcc (s : State) (k l q : Nat) (g : Quad → Quad) : (s.modQuad k l q g).cycleAcc = s.cycleAcc := by
  unfold State.modQuad; split <;> rfl
@[simp] theorem State.modQuad_agenda (s : State) (k l q : Nat) (g : Quad → Quad) : (s.modQuad k l q g).agenda = s.agenda := by
  unfold State.modQuad; split <;> rfl
@[simp] theorem State.modQuad_cur (s : State) (k l q : Nat) (g : Quad → Quad) : (s.modQuad k l q g).cur = s.cur := by
  unfold State.modQuad; split <;> rfl
@[simp] theorem State.modQuad_freeCtr (s : State) (k l q : Nat) (g : Quad → Quad) : (s.modQuad k l q g).freeCtr = s.freeCtr := by
  unfold State.modQuad; split <;> rfl
@[simp] theorem State.modQuad_hostOut (s : State) (k l q : Nat) (g : Quad → Quad) : (s.modQuad k l q g).hostOut = s.hostOut := by
  unfold State.modQuad; split <;> rfl
@[simp] theorem State.modQuad_linkOut (s : State) (k l q : Nat) (g : Quad → Quad) : (s.modQuad k l q g).linkOut = s.linkOut := by
  unfold State.modQuad; split <;> rfl
@[simp] theorem State.insertCycle_mem (s : State) (r : SplitRef) : (s.insertCycle r).mem = s.mem := by
  unfold State.insertCycle; split <;> simp
@[simp] theorem State.insertCycle_poison (s : State) (r : SplitRef) : (s.insertCycle r).poison = s.poison := by
  unfold State.insertCycle; split <;> simp
@[simp] theorem State.insertCycle_soft (s : State) (r : SplitRef) : (s.insertCycle r).soft = s.soft := by
  unfold State.insertCycle; split <;> simp
@[simp] theorem State.insertCycle_mended (s : State) (r : SplitRef) : (s.insertCycle r).mended = s.mended := by
  unfold State.insertCycle; split <;> simp
@[simp] theorem State.insertCycle_req (s : State) (r : SplitRef) : (s.insertCycle r).req = s.req := by
  unfold State.insertCycle; split <;> simp
@[simp] theorem State.insertCycle_pkg (s : State) (r : SplitRef) : (s.insertCycle r).pkg = s.pkg := by
  unfold State.insertCycle; split <;> simp
@[simp] theorem State.insertCycle_ctxs (s : State) (r : SplitRef) : (s.insertCycle r).ctxs = s.ctxs := by
  unfold State.insertCycle; split <;> simp
@[simp] theorem State.insertCycle_meridian (s : State) (r : SplitRef) : (s.insertCycle r).meridian = s.meridian := by
  unfold State.insertCycle; split <;> simp
@[simp] theorem State.insertCycle_cycles (s : State) (r : SplitRef) : (s.insertCycle r).cycles = s.cycles := by
  unfold State.insertCycle; split <;> simp
@[simp] theorem State.insertCycle_cycleAcc (s : State) (r : SplitRef) : (s.insertCycle r).cycleAcc = s.cycleAcc := by
  unfold State.insertCycle; split <;> simp
@[simp] theorem State.insertCycle_agenda (s : State) (r : SplitRef) : (s.insertCycle r).agenda = s.agenda := by
  unfold State.insertCycle; split <;> simp
@[simp] theorem State.insertCycle_cur (s : State) (r : SplitRef) : (s.insertCycle r).cur = s.cur := by
  unfold State.insertCycle; split <;> simp
@[simp] theorem State.insertCycle_freeCtr (s : State) (r : SplitRef) : (s.insertCycle r).freeCtr = s.freeCtr := by
  unfold State.insertCycle; split <;> simp
@[simp] theorem State.insertCycle_hostOut (s : State) (r : SplitRef) : (s.insertCycle r).hostOut = s.hostOut := by
  unfold State.insertCycle; split <;> simp
@[simp] theorem State.insertCycle_linkOut (s : State) (r : SplitRef) : (s.insertCycle r).linkOut = s.linkOut := by
  unfold State.insertCycle; split <;> simp
@[simp] theorem State.advance_mem (s : State) (r : SplitRef) : (s.advance r).mem = s.mem := by
  simp [State.advance]
@[simp] theorem State.advance_poison (s : State) (r : SplitRef) : (s.advance r).poison = s.poison := by
  simp [State.advance]
@[simp] theorem State.advance_soft (s : State) (r : SplitRef) : (s.advance r).soft = s.soft := by
  simp [State.advance]
@[simp] theorem State.advance_mended (s : State) (r : SplitRef) : (s.advance r).mended = s.mended := by
  simp [State.advance]
@[simp] theorem State.advance_req (s : State) (r : SplitRef) : (s.advance r).req = s.req := by
  simp [State.advance]
@[simp] theorem State.advance_pkg (s : State) (r : SplitRef) : (s.advance r).pkg = s.pkg := by
  simp [State.advance]
@[simp] theorem State.advance_dies (s : State) (r : SplitRef) : (s.advance r).dies = s.dies := by
  simp [State.advance]
@[simp] theorem State.advance_meridian (s : State) (r : SplitRef) : (s.advance r).meridian = s.meridian := by
  simp [State.advance]
@[simp] theorem State.advance_cycles (s : State) (r : SplitRef) : (s.advance r).cycles = s.cycles := by
  simp [State.advance]
@[simp] theorem State.advance_cycleAcc (s : State) (r : SplitRef) : (s.advance r).cycleAcc = s.cycleAcc := by
  simp [State.advance]
@[simp] theorem State.advance_agenda (s : State) (r : SplitRef) : (s.advance r).agenda = s.agenda := by
  simp [State.advance]
@[simp] theorem State.advance_cur (s : State) (r : SplitRef) : (s.advance r).cur = s.cur := by
  simp [State.advance]
@[simp] theorem State.advance_freeCtr (s : State) (r : SplitRef) : (s.advance r).freeCtr = s.freeCtr := by
  simp [State.advance]
@[simp] theorem State.advance_hostOut (s : State) (r : SplitRef) : (s.advance r).hostOut = s.hostOut := by
  simp [State.advance]
@[simp] theorem State.advance_linkOut (s : State) (r : SplitRef) : (s.advance r).linkOut = s.linkOut := by
  simp [State.advance]
@[simp] theorem State.noteIssued_mem (s : State) (r : SplitRef) (q : Nat) (b : Bool) : (s.noteIssued r q b).mem = s.mem := by
  simp [State.noteIssued]
@[simp] theorem State.noteIssued_poison (s : State) (r : SplitRef) (q : Nat) (b : Bool) : (s.noteIssued r q b).poison = s.poison := by
  simp [State.noteIssued]
@[simp] theorem State.noteIssued_soft (s : State) (r : SplitRef) (q : Nat) (b : Bool) : (s.noteIssued r q b).soft = s.soft := by
  simp [State.noteIssued]
@[simp] theorem State.noteIssued_mended (s : State) (r : SplitRef) (q : Nat) (b : Bool) : (s.noteIssued r q b).mended = s.mended := by
  simp [State.noteIssued]
@[simp] theorem State.noteIssued_req (s : State) (r : SplitRef) (q : Nat) (b : Bool) : (s.noteIssued r q b).req = s.req := by
  simp [State.noteIssued]
@[simp] theorem State.noteIssued_pkg (s : State) (r : SplitRef) (q : Nat) (b : Bool) : (s.noteIssued r q b).pkg = s.pkg := by
  simp [State.noteIssued]
@[simp] theorem State.noteIssued_meridian (s : State) (r : SplitRef) (q : Nat) (b : Bool) : (s.noteIssued r q b).meridian = s.meridian := by
  simp [State.noteIssued]
@[simp] theorem State.noteIssued_cycles (s : State) (r : SplitRef) (q : Nat) (b : Bool) : (s.noteIssued r q b).cycles = s.cycles := by
  simp [State.noteIssued]
@[simp] theorem State.noteIssued_cycleAcc (s : State) (r : SplitRef) (q : Nat) (b : Bool) : (s.noteIssued r q b).cycleAcc = s.cycleAcc := by
  simp [State.noteIssued]
@[simp] theorem State.noteIssued_agenda (s : State) (r : SplitRef) (q : Nat) (b : Bool) : (s.noteIssued r q b).agenda = s.agenda := by
  simp [State.noteIssued]
@[simp] theorem State.noteIssued_cur (s : State) (r : SplitRef) (q : Nat) (b : Bool) : (s.noteIssued r q b).cur = s.cur := by
  simp [State.noteIssued]
@[simp] theorem State.noteIssued_freeCtr (s : State) (r : SplitRef) (q : Nat) (b : Bool) : (s.noteIssued r q b).freeCtr = s.freeCtr := by
  simp [State.noteIssued]
@[simp] theorem State.noteIssued_hostOut (s : State) (r : SplitRef) (q : Nat) (b : Bool) : (s.noteIssued r q b).hostOut = s.hostOut := by
  simp [State.noteIssued]
@[simp] theorem State.noteIssued_linkOut (s : State) (r : SplitRef) (q : Nat) (b : Bool) : (s.noteIssued r q b).linkOut = s.linkOut := by
  simp [State.noteIssued]
@[simp] theorem State.remoteDone_mem (s : State) (w : Waiter) : (s.remoteDone w).mem = s.mem := rfl
@[simp] theorem State.remoteDone_poison (s : State) (w : Waiter) : (s.remoteDone w).poison = s.poison := rfl
@[simp] theorem State.remoteDone_soft (s : State) (w : Waiter) : (s.remoteDone w).soft = s.soft := rfl
@[simp] theorem State.remoteDone_mended (s : State) (w : Waiter) : (s.remoteDone w).mended = s.mended := rfl
@[simp] theorem State.remoteDone_req (s : State) (w : Waiter) : (s.remoteDone w).req = s.req := rfl
@[simp] theorem State.remoteDone_dies (s : State) (w : Waiter) : (s.remoteDone w).dies = s.dies := rfl
@[simp] theorem State.remoteDone_ctxs (s : State) (w : Waiter) : (s.remoteDone w).ctxs = s.ctxs := rfl
@[simp] theorem State.remoteDone_meridian (s : State) (w : Waiter) : (s.remoteDone w).meridian = s.meridian := rfl
@[simp] theorem State.remoteDone_cycles (s : State) (w : Waiter) : (s.remoteDone w).cycles = s.cycles := rfl
@[simp] theorem State.remoteDone_cycleAcc (s : State) (w : Waiter) : (s.remoteDone w).cycleAcc = s.cycleAcc := rfl
@[simp] theorem State.remoteDone_agenda (s : State) (w : Waiter) : (s.remoteDone w).agenda = s.agenda := rfl
@[simp] theorem State.remoteDone_cur (s : State) (w : Waiter) : (s.remoteDone w).cur = s.cur := rfl
@[simp] theorem State.remoteDone_freeCtr (s : State) (w : Waiter) : (s.remoteDone w).freeCtr = s.freeCtr := rfl
@[simp] theorem State.remoteDone_hostOut (s : State) (w : Waiter) : (s.remoteDone w).hostOut = s.hostOut := rfl
@[simp] theorem State.remoteDone_linkOut (s : State) (w : Waiter) : (s.remoteDone w).linkOut = s.linkOut := rfl
@[simp] theorem State.draw_mem (s : State) : (s.draw.2).mem = s.mem := rfl
@[simp] theorem State.draw_poison (s : State) : (s.draw.2).poison = s.poison := rfl
@[simp] theorem State.draw_soft (s : State) : (s.draw.2).soft = s.soft := rfl
@[simp] theorem State.draw_mended (s : State) : (s.draw.2).mended = s.mended := rfl
@[simp] theorem State.draw_req (s : State) : (s.draw.2).req = s.req := rfl
@[simp] theorem State.draw_pkg (s : State) : (s.draw.2).pkg = s.pkg := rfl
@[simp] theorem State.draw_dies (s : State) : (s.draw.2).dies = s.dies := rfl
@[simp] theorem State.draw_ctxs (s : State) : (s.draw.2).ctxs = s.ctxs := rfl
@[simp] theorem State.draw_meridian (s : State) : (s.draw.2).meridian = s.meridian := rfl
@[simp] theorem State.draw_cycles (s : State) : (s.draw.2).cycles = s.cycles := rfl
@[simp] theorem State.draw_cycleAcc (s : State) : (s.draw.2).cycleAcc = s.cycleAcc := rfl
@[simp] theorem State.draw_agenda (s : State) : (s.draw.2).agenda = s.agenda := rfl
@[simp] theorem State.draw_cur (s : State) : (s.draw.2).cur = s.cur := rfl
@[simp] theorem State.draw_hostOut (s : State) : (s.draw.2).hostOut = s.hostOut := rfl
@[simp] theorem State.draw_linkOut (s : State) : (s.draw.2).linkOut = s.linkOut := rfl
@[simp] theorem Group.setVec_ctl (g : Group) (r : Nat) (m : Mask) (x : Lanes) : (g.setVec r m x).ctl = g.ctl := rfl
@[simp] theorem Group.setVec_trap (g : Group) (r : Nat) (m : Mask) (x : Lanes) : (g.setVec r m x).trap = g.trap := rfl
@[simp] theorem Group.setVec_cals (g : Group) (r : Nat) (m : Mask) (x : Lanes) : (g.setVec r m x).cals = g.cals := rfl
@[simp] theorem Group.setVec_sregs (g : Group) (r : Nat) (m : Mask) (x : Lanes) : (g.setVec r m x).sregs = g.sregs := rfl
@[simp] theorem Group.setVec_pregs (g : Group) (r : Nat) (m : Mask) (x : Lanes) : (g.setVec r m x).pregs = g.pregs := rfl
@[simp] theorem Group.setVec_qregs (g : Group) (r : Nat) (m : Mask) (x : Lanes) : (g.setVec r m x).qregs = g.qregs := rfl
@[simp] theorem Group.setVec_aregs (g : Group) (r : Nat) (m : Mask) (x : Lanes) : (g.setVec r m x).aregs = g.aregs := rfl
@[simp] theorem Group.setVec_hregs (g : Group) (r : Nat) (m : Mask) (x : Lanes) : (g.setVec r m x).hregs = g.hregs := rfl
@[simp] theorem Group.setVec_viol (g : Group) (r : Nat) (m : Mask) (x : Lanes) : (g.setVec r m x).viol = g.viol := rfl
@[simp] theorem Group.setVec_fflags (g : Group) (r : Nat) (m : Mask) (x : Lanes) : (g.setVec r m x).fflags = g.fflags := rfl
@[simp] theorem Group.setVec_storeQ (g : Group) (r : Nat) (m : Mask) (x : Lanes) : (g.setVec r m x).storeQ = g.storeQ := rfl
@[simp] theorem Group.setVec_inflight (g : Group) (r : Nat) (m : Mask) (x : Lanes) : (g.setVec r m x).inflight = g.inflight := rfl
@[simp] theorem Group.setVec_nextId (g : Group) (r : Nat) (m : Mask) (x : Lanes) : (g.setVec r m x).nextId = g.nextId := rfl
@[simp] theorem Group.setVec_batches (g : Group) (r : Nat) (m : Mask) (x : Lanes) : (g.setVec r m x).batches = g.batches := rfl
@[simp] theorem Group.setVec_splits (g : Group) (r : Nat) (m : Mask) (x : Lanes) : (g.setVec r m x).splits = g.splits := rfl
@[simp] theorem Group.setS_ctl (g : Group) (r : Nat) (x : DWord) : (g.setS r x).ctl = g.ctl := rfl
@[simp] theorem Group.setS_trap (g : Group) (r : Nat) (x : DWord) : (g.setS r x).trap = g.trap := rfl
@[simp] theorem Group.setS_vregs (g : Group) (r : Nat) (x : DWord) : (g.setS r x).vregs = g.vregs := rfl
@[simp] theorem Group.setS_cals (g : Group) (r : Nat) (x : DWord) : (g.setS r x).cals = g.cals := rfl
@[simp] theorem Group.setS_pregs (g : Group) (r : Nat) (x : DWord) : (g.setS r x).pregs = g.pregs := rfl
@[simp] theorem Group.setS_qregs (g : Group) (r : Nat) (x : DWord) : (g.setS r x).qregs = g.qregs := rfl
@[simp] theorem Group.setS_aregs (g : Group) (r : Nat) (x : DWord) : (g.setS r x).aregs = g.aregs := rfl
@[simp] theorem Group.setS_hregs (g : Group) (r : Nat) (x : DWord) : (g.setS r x).hregs = g.hregs := rfl
@[simp] theorem Group.setS_viol (g : Group) (r : Nat) (x : DWord) : (g.setS r x).viol = g.viol := rfl
@[simp] theorem Group.setS_fflags (g : Group) (r : Nat) (x : DWord) : (g.setS r x).fflags = g.fflags := rfl
@[simp] theorem Group.setS_storeQ (g : Group) (r : Nat) (x : DWord) : (g.setS r x).storeQ = g.storeQ := rfl
@[simp] theorem Group.setS_inflight (g : Group) (r : Nat) (x : DWord) : (g.setS r x).inflight = g.inflight := rfl
@[simp] theorem Group.setS_nextId (g : Group) (r : Nat) (x : DWord) : (g.setS r x).nextId = g.nextId := rfl
@[simp] theorem Group.setS_batches (g : Group) (r : Nat) (x : DWord) : (g.setS r x).batches = g.batches := rfl
@[simp] theorem Group.setS_splits (g : Group) (r : Nat) (x : DWord) : (g.setS r x).splits = g.splits := rfl
@[simp] theorem Group.setA_ctl (g : Group) (r : Nat) (x : BitVec 256) : (g.setA r x).ctl = g.ctl := rfl
@[simp] theorem Group.setA_trap (g : Group) (r : Nat) (x : BitVec 256) : (g.setA r x).trap = g.trap := rfl
@[simp] theorem Group.setA_vregs (g : Group) (r : Nat) (x : BitVec 256) : (g.setA r x).vregs = g.vregs := rfl
@[simp] theorem Group.setA_cals (g : Group) (r : Nat) (x : BitVec 256) : (g.setA r x).cals = g.cals := rfl
@[simp] theorem Group.setA_sregs (g : Group) (r : Nat) (x : BitVec 256) : (g.setA r x).sregs = g.sregs := rfl
@[simp] theorem Group.setA_pregs (g : Group) (r : Nat) (x : BitVec 256) : (g.setA r x).pregs = g.pregs := rfl
@[simp] theorem Group.setA_qregs (g : Group) (r : Nat) (x : BitVec 256) : (g.setA r x).qregs = g.qregs := rfl
@[simp] theorem Group.setA_hregs (g : Group) (r : Nat) (x : BitVec 256) : (g.setA r x).hregs = g.hregs := rfl
@[simp] theorem Group.setA_viol (g : Group) (r : Nat) (x : BitVec 256) : (g.setA r x).viol = g.viol := rfl
@[simp] theorem Group.setA_fflags (g : Group) (r : Nat) (x : BitVec 256) : (g.setA r x).fflags = g.fflags := rfl
@[simp] theorem Group.setA_storeQ (g : Group) (r : Nat) (x : BitVec 256) : (g.setA r x).storeQ = g.storeQ := rfl
@[simp] theorem Group.setA_inflight (g : Group) (r : Nat) (x : BitVec 256) : (g.setA r x).inflight = g.inflight := rfl
@[simp] theorem Group.setA_nextId (g : Group) (r : Nat) (x : BitVec 256) : (g.setA r x).nextId = g.nextId := rfl
@[simp] theorem Group.setA_batches (g : Group) (r : Nat) (x : BitVec 256) : (g.setA r x).batches = g.batches := rfl
@[simp] theorem Group.setA_splits (g : Group) (r : Nat) (x : BitVec 256) : (g.setA r x).splits = g.splits := rfl
@[simp] theorem Group.setH_ctl (g : Group) (r : Nat) (x : DWord) : (g.setH r x).ctl = g.ctl := rfl
@[simp] theorem Group.setH_trap (g : Group) (r : Nat) (x : DWord) : (g.setH r x).trap = g.trap := rfl
@[simp] theorem Group.setH_vregs (g : Group) (r : Nat) (x : DWord) : (g.setH r x).vregs = g.vregs := rfl
@[simp] theorem Group.setH_cals (g : Group) (r : Nat) (x : DWord) : (g.setH r x).cals = g.cals := rfl
@[simp] theorem Group.setH_sregs (g : Group) (r : Nat) (x : DWord) : (g.setH r x).sregs = g.sregs := rfl
@[simp] theorem Group.setH_pregs (g : Group) (r : Nat) (x : DWord) : (g.setH r x).pregs = g.pregs := rfl
@[simp] theorem Group.setH_qregs (g : Group) (r : Nat) (x : DWord) : (g.setH r x).qregs = g.qregs := rfl
@[simp] theorem Group.setH_aregs (g : Group) (r : Nat) (x : DWord) : (g.setH r x).aregs = g.aregs := rfl
@[simp] theorem Group.setH_viol (g : Group) (r : Nat) (x : DWord) : (g.setH r x).viol = g.viol := rfl
@[simp] theorem Group.setH_fflags (g : Group) (r : Nat) (x : DWord) : (g.setH r x).fflags = g.fflags := rfl
@[simp] theorem Group.setH_storeQ (g : Group) (r : Nat) (x : DWord) : (g.setH r x).storeQ = g.storeQ := rfl
@[simp] theorem Group.setH_inflight (g : Group) (r : Nat) (x : DWord) : (g.setH r x).inflight = g.inflight := rfl
@[simp] theorem Group.setH_nextId (g : Group) (r : Nat) (x : DWord) : (g.setH r x).nextId = g.nextId := rfl
@[simp] theorem Group.setH_batches (g : Group) (r : Nat) (x : DWord) : (g.setH r x).batches = g.batches := rfl
@[simp] theorem Group.setH_splits (g : Group) (r : Nat) (x : DWord) : (g.setH r x).splits = g.splits := rfl
@[simp] theorem Group.setP_ctl (g : Group) (r : Nat) (m x : Mask) : (g.setP r m x).ctl = g.ctl := by
  unfold Group.setP; split <;> rfl
@[simp] theorem Group.setP_trap (g : Group) (r : Nat) (m x : Mask) : (g.setP r m x).trap = g.trap := by
  unfold Group.setP; split <;> rfl
@[simp] theorem Group.setP_vregs (g : Group) (r : Nat) (m x : Mask) : (g.setP r m x).vregs = g.vregs := by
  unfold Group.setP; split <;> rfl
@[simp] theorem Group.setP_cals (g : Group) (r : Nat) (m x : Mask) : (g.setP r m x).cals = g.cals := by
  unfold Group.setP; split <;> rfl
@[simp] theorem Group.setP_sregs (g : Group) (r : Nat) (m x : Mask) : (g.setP r m x).sregs = g.sregs := by
  unfold Group.setP; split <;> rfl
@[simp] theorem Group.setP_qregs (g : Group) (r : Nat) (m x : Mask) : (g.setP r m x).qregs = g.qregs := by
  unfold Group.setP; split <;> rfl
@[simp] theorem Group.setP_aregs (g : Group) (r : Nat) (m x : Mask) : (g.setP r m x).aregs = g.aregs := by
  unfold Group.setP; split <;> rfl
@[simp] theorem Group.setP_hregs (g : Group) (r : Nat) (m x : Mask) : (g.setP r m x).hregs = g.hregs := by
  unfold Group.setP; split <;> rfl
@[simp] theorem Group.setP_viol (g : Group) (r : Nat) (m x : Mask) : (g.setP r m x).viol = g.viol := by
  unfold Group.setP; split <;> rfl
@[simp] theorem Group.setP_fflags (g : Group) (r : Nat) (m x : Mask) : (g.setP r m x).fflags = g.fflags := by
  unfold Group.setP; split <;> rfl
@[simp] theorem Group.setP_storeQ (g : Group) (r : Nat) (m x : Mask) : (g.setP r m x).storeQ = g.storeQ := by
  unfold Group.setP; split <;> rfl
@[simp] theorem Group.setP_inflight (g : Group) (r : Nat) (m x : Mask) : (g.setP r m x).inflight = g.inflight := by
  unfold Group.setP; split <;> rfl
@[simp] theorem Group.setP_nextId (g : Group) (r : Nat) (m x : Mask) : (g.setP r m x).nextId = g.nextId := by
  unfold Group.setP; split <;> rfl
@[simp] theorem Group.setP_batches (g : Group) (r : Nat) (m x : Mask) : (g.setP r m x).batches = g.batches := by
  unfold Group.setP; split <;> rfl
@[simp] theorem Group.setP_splits (g : Group) (r : Nat) (m x : Mask) : (g.setP r m x).splits = g.splits := by
  unfold Group.setP; split <;> rfl
@[simp] theorem Group.setQ_ctl (g : Group) (r : Nat) (x : Bool) : (g.setQ r x).ctl = g.ctl := by
  unfold Group.setQ; split <;> rfl
@[simp] theorem Group.setQ_trap (g : Group) (r : Nat) (x : Bool) : (g.setQ r x).trap = g.trap := by
  unfold Group.setQ; split <;> rfl
@[simp] theorem Group.setQ_vregs (g : Group) (r : Nat) (x : Bool) : (g.setQ r x).vregs = g.vregs := by
  unfold Group.setQ; split <;> rfl
@[simp] theorem Group.setQ_cals (g : Group) (r : Nat) (x : Bool) : (g.setQ r x).cals = g.cals := by
  unfold Group.setQ; split <;> rfl
@[simp] theorem Group.setQ_sregs (g : Group) (r : Nat) (x : Bool) : (g.setQ r x).sregs = g.sregs := by
  unfold Group.setQ; split <;> rfl
@[simp] theorem Group.setQ_pregs (g : Group) (r : Nat) (x : Bool) : (g.setQ r x).pregs = g.pregs := by
  unfold Group.setQ; split <;> rfl
@[simp] theorem Group.setQ_aregs (g : Group) (r : Nat) (x : Bool) : (g.setQ r x).aregs = g.aregs := by
  unfold Group.setQ; split <;> rfl
@[simp] theorem Group.setQ_hregs (g : Group) (r : Nat) (x : Bool) : (g.setQ r x).hregs = g.hregs := by
  unfold Group.setQ; split <;> rfl
@[simp] theorem Group.setQ_viol (g : Group) (r : Nat) (x : Bool) : (g.setQ r x).viol = g.viol := by
  unfold Group.setQ; split <;> rfl
@[simp] theorem Group.setQ_fflags (g : Group) (r : Nat) (x : Bool) : (g.setQ r x).fflags = g.fflags := by
  unfold Group.setQ; split <;> rfl
@[simp] theorem Group.setQ_storeQ (g : Group) (r : Nat) (x : Bool) : (g.setQ r x).storeQ = g.storeQ := by
  unfold Group.setQ; split <;> rfl
@[simp] theorem Group.setQ_inflight (g : Group) (r : Nat) (x : Bool) : (g.setQ r x).inflight = g.inflight := by
  unfold Group.setQ; split <;> rfl
@[simp] theorem Group.setQ_nextId (g : Group) (r : Nat) (x : Bool) : (g.setQ r x).nextId = g.nextId := by
  unfold Group.setQ; split <;> rfl
@[simp] theorem Group.setQ_batches (g : Group) (r : Nat) (x : Bool) : (g.setQ r x).batches = g.batches := by
  unfold Group.setQ; split <;> rfl
@[simp] theorem Group.setQ_splits (g : Group) (r : Nat) (x : Bool) : (g.setQ r x).splits = g.splits := by
  unfold Group.setQ; split <;> rfl
@[simp] theorem Group.setSplit_ctl (g : Group) (k : Nat) (sp : Split) : (g.setSplit k sp).ctl = g.ctl := rfl
@[simp] theorem Group.setSplit_trap (g : Group) (k : Nat) (sp : Split) : (g.setSplit k sp).trap = g.trap := rfl
@[simp] theorem Group.setSplit_vregs (g : Group) (k : Nat) (sp : Split) : (g.setSplit k sp).vregs = g.vregs := rfl
@[simp] theorem Group.setSplit_cals (g : Group) (k : Nat) (sp : Split) : (g.setSplit k sp).cals = g.cals := rfl
@[simp] theorem Group.setSplit_sregs (g : Group) (k : Nat) (sp : Split) : (g.setSplit k sp).sregs = g.sregs := rfl
@[simp] theorem Group.setSplit_pregs (g : Group) (k : Nat) (sp : Split) : (g.setSplit k sp).pregs = g.pregs := rfl
@[simp] theorem Group.setSplit_qregs (g : Group) (k : Nat) (sp : Split) : (g.setSplit k sp).qregs = g.qregs := rfl
@[simp] theorem Group.setSplit_aregs (g : Group) (k : Nat) (sp : Split) : (g.setSplit k sp).aregs = g.aregs := rfl
@[simp] theorem Group.setSplit_hregs (g : Group) (k : Nat) (sp : Split) : (g.setSplit k sp).hregs = g.hregs := rfl
@[simp] theorem Group.setSplit_viol (g : Group) (k : Nat) (sp : Split) : (g.setSplit k sp).viol = g.viol := rfl
@[simp] theorem Group.setSplit_fflags (g : Group) (k : Nat) (sp : Split) : (g.setSplit k sp).fflags = g.fflags := rfl
@[simp] theorem Group.setSplit_storeQ (g : Group) (k : Nat) (sp : Split) : (g.setSplit k sp).storeQ = g.storeQ := rfl
@[simp] theorem Group.setSplit_inflight (g : Group) (k : Nat) (sp : Split) : (g.setSplit k sp).inflight = g.inflight := rfl
@[simp] theorem Group.setSplit_nextId (g : Group) (k : Nat) (sp : Split) : (g.setSplit k sp).nextId = g.nextId := rfl
@[simp] theorem Group.setSplit_batches (g : Group) (k : Nat) (sp : Split) : (g.setSplit k sp).batches = g.batches := rfl
@[simp] theorem Group.modSplit_ctl (g : Group) (k : Nat) (f : Split → Split) : (g.modSplit k f).ctl = g.ctl := rfl
@[simp] theorem Group.modSplit_trap (g : Group) (k : Nat) (f : Split → Split) : (g.modSplit k f).trap = g.trap := rfl
@[simp] theorem Group.modSplit_vregs (g : Group) (k : Nat) (f : Split → Split) : (g.modSplit k f).vregs = g.vregs := rfl
@[simp] theorem Group.modSplit_cals (g : Group) (k : Nat) (f : Split → Split) : (g.modSplit k f).cals = g.cals := rfl
@[simp] theorem Group.modSplit_sregs (g : Group) (k : Nat) (f : Split → Split) : (g.modSplit k f).sregs = g.sregs := rfl
@[simp] theorem Group.modSplit_pregs (g : Group) (k : Nat) (f : Split → Split) : (g.modSplit k f).pregs = g.pregs := rfl
@[simp] theorem Group.modSplit_qregs (g : Group) (k : Nat) (f : Split → Split) : (g.modSplit k f).qregs = g.qregs := rfl
@[simp] theorem Group.modSplit_aregs (g : Group) (k : Nat) (f : Split → Split) : (g.modSplit k f).aregs = g.aregs := rfl
@[simp] theorem Group.modSplit_hregs (g : Group) (k : Nat) (f : Split → Split) : (g.modSplit k f).hregs = g.hregs := rfl
@[simp] theorem Group.modSplit_viol (g : Group) (k : Nat) (f : Split → Split) : (g.modSplit k f).viol = g.viol := rfl
@[simp] theorem Group.modSplit_fflags (g : Group) (k : Nat) (f : Split → Split) : (g.modSplit k f).fflags = g.fflags := rfl
@[simp] theorem Group.modSplit_storeQ (g : Group) (k : Nat) (f : Split → Split) : (g.modSplit k f).storeQ = g.storeQ := rfl
@[simp] theorem Group.modSplit_inflight (g : Group) (k : Nat) (f : Split → Split) : (g.modSplit k f).inflight = g.inflight := rfl
@[simp] theorem Group.modSplit_nextId (g : Group) (k : Nat) (f : Split → Split) : (g.modSplit k f).nextId = g.nextId := rfl
@[simp] theorem Group.modSplit_batches (g : Group) (k : Nat) (f : Split → Split) : (g.modSplit k f).batches = g.batches := rfl
@[simp] theorem Group.countWindows_ctl (g : Group) (k : Nat) : (g.countWindows k).ctl = g.ctl := rfl
@[simp] theorem Group.countWindows_trap (g : Group) (k : Nat) : (g.countWindows k).trap = g.trap := rfl
@[simp] theorem Group.countWindows_vregs (g : Group) (k : Nat) : (g.countWindows k).vregs = g.vregs := rfl
@[simp] theorem Group.countWindows_cals (g : Group) (k : Nat) : (g.countWindows k).cals = g.cals := rfl
@[simp] theorem Group.countWindows_sregs (g : Group) (k : Nat) : (g.countWindows k).sregs = g.sregs := rfl
@[simp] theorem Group.countWindows_pregs (g : Group) (k : Nat) : (g.countWindows k).pregs = g.pregs := rfl
@[simp] theorem Group.countWindows_qregs (g : Group) (k : Nat) : (g.countWindows k).qregs = g.qregs := rfl
@[simp] theorem Group.countWindows_aregs (g : Group) (k : Nat) : (g.countWindows k).aregs = g.aregs := rfl
@[simp] theorem Group.countWindows_hregs (g : Group) (k : Nat) : (g.countWindows k).hregs = g.hregs := rfl
@[simp] theorem Group.countWindows_viol (g : Group) (k : Nat) : (g.countWindows k).viol = g.viol := rfl
@[simp] theorem Group.countWindows_fflags (g : Group) (k : Nat) : (g.countWindows k).fflags = g.fflags := rfl
@[simp] theorem Group.countWindows_storeQ (g : Group) (k : Nat) : (g.countWindows k).storeQ = g.storeQ := rfl
@[simp] theorem Group.countWindows_nextId (g : Group) (k : Nat) : (g.countWindows k).nextId = g.nextId := rfl
@[simp] theorem Group.countWindows_batches (g : Group) (k : Nat) : (g.countWindows k).batches = g.batches := rfl
@[simp] theorem Group.countWindows_splits (g : Group) (k : Nat) : (g.countWindows k).splits = g.splits := rfl
@[simp] theorem Group.closeWindows_ctl (g : Group) (k : Nat) : (g.closeWindows k).ctl = g.ctl := rfl
@[simp] theorem Group.closeWindows_trap (g : Group) (k : Nat) : (g.closeWindows k).trap = g.trap := rfl
@[simp] theorem Group.closeWindows_vregs (g : Group) (k : Nat) : (g.closeWindows k).vregs = g.vregs := rfl
@[simp] theorem Group.closeWindows_cals (g : Group) (k : Nat) : (g.closeWindows k).cals = g.cals := rfl
@[simp] theorem Group.closeWindows_sregs (g : Group) (k : Nat) : (g.closeWindows k).sregs = g.sregs := rfl
@[simp] theorem Group.closeWindows_pregs (g : Group) (k : Nat) : (g.closeWindows k).pregs = g.pregs := rfl
@[simp] theorem Group.closeWindows_qregs (g : Group) (k : Nat) : (g.closeWindows k).qregs = g.qregs := rfl
@[simp] theorem Group.closeWindows_aregs (g : Group) (k : Nat) : (g.closeWindows k).aregs = g.aregs := rfl
@[simp] theorem Group.closeWindows_hregs (g : Group) (k : Nat) : (g.closeWindows k).hregs = g.hregs := rfl
@[simp] theorem Group.closeWindows_viol (g : Group) (k : Nat) : (g.closeWindows k).viol = g.viol := rfl
@[simp] theorem Group.closeWindows_fflags (g : Group) (k : Nat) : (g.closeWindows k).fflags = g.fflags := rfl
@[simp] theorem Group.closeWindows_storeQ (g : Group) (k : Nat) : (g.closeWindows k).storeQ = g.storeQ := rfl
@[simp] theorem Group.closeWindows_nextId (g : Group) (k : Nat) : (g.closeWindows k).nextId = g.nextId := rfl
@[simp] theorem Group.closeWindows_batches (g : Group) (k : Nat) : (g.closeWindows k).batches = g.batches := rfl
@[simp] theorem Group.closeWindows_splits (g : Group) (k : Nat) : (g.closeWindows k).splits = g.splits := rfl
@[simp] theorem Group.accrue_ctl (g : Group) (x : Flags) : (g.accrue x).ctl = g.ctl := rfl
@[simp] theorem Group.accrue_trap (g : Group) (x : Flags) : (g.accrue x).trap = g.trap := rfl
@[simp] theorem Group.accrue_vregs (g : Group) (x : Flags) : (g.accrue x).vregs = g.vregs := rfl
@[simp] theorem Group.accrue_cals (g : Group) (x : Flags) : (g.accrue x).cals = g.cals := rfl
@[simp] theorem Group.accrue_sregs (g : Group) (x : Flags) : (g.accrue x).sregs = g.sregs := rfl
@[simp] theorem Group.accrue_pregs (g : Group) (x : Flags) : (g.accrue x).pregs = g.pregs := rfl
@[simp] theorem Group.accrue_qregs (g : Group) (x : Flags) : (g.accrue x).qregs = g.qregs := rfl
@[simp] theorem Group.accrue_aregs (g : Group) (x : Flags) : (g.accrue x).aregs = g.aregs := rfl
@[simp] theorem Group.accrue_hregs (g : Group) (x : Flags) : (g.accrue x).hregs = g.hregs := rfl
@[simp] theorem Group.accrue_viol (g : Group) (x : Flags) : (g.accrue x).viol = g.viol := rfl
@[simp] theorem Group.accrue_storeQ (g : Group) (x : Flags) : (g.accrue x).storeQ = g.storeQ := rfl
@[simp] theorem Group.accrue_inflight (g : Group) (x : Flags) : (g.accrue x).inflight = g.inflight := rfl
@[simp] theorem Group.accrue_nextId (g : Group) (x : Flags) : (g.accrue x).nextId = g.nextId := rfl
@[simp] theorem Group.accrue_batches (g : Group) (x : Flags) : (g.accrue x).batches = g.batches := rfl
@[simp] theorem Group.accrue_splits (g : Group) (x : Flags) : (g.accrue x).splits = g.splits := rfl
@[simp] theorem Group.calReset_ctl (g : Group) (r : Nat) (c : Caliper) : (g.calReset r c).ctl = g.ctl := rfl
@[simp] theorem Group.calReset_trap (g : Group) (r : Nat) (c : Caliper) : (g.calReset r c).trap = g.trap := rfl
@[simp] theorem Group.calReset_vregs (g : Group) (r : Nat) (c : Caliper) : (g.calReset r c).vregs = g.vregs := rfl
@[simp] theorem Group.calReset_sregs (g : Group) (r : Nat) (c : Caliper) : (g.calReset r c).sregs = g.sregs := rfl
@[simp] theorem Group.calReset_pregs (g : Group) (r : Nat) (c : Caliper) : (g.calReset r c).pregs = g.pregs := rfl
@[simp] theorem Group.calReset_qregs (g : Group) (r : Nat) (c : Caliper) : (g.calReset r c).qregs = g.qregs := rfl
@[simp] theorem Group.calReset_aregs (g : Group) (r : Nat) (c : Caliper) : (g.calReset r c).aregs = g.aregs := rfl
@[simp] theorem Group.calReset_hregs (g : Group) (r : Nat) (c : Caliper) : (g.calReset r c).hregs = g.hregs := rfl
@[simp] theorem Group.calReset_viol (g : Group) (r : Nat) (c : Caliper) : (g.calReset r c).viol = g.viol := rfl
@[simp] theorem Group.calReset_fflags (g : Group) (r : Nat) (c : Caliper) : (g.calReset r c).fflags = g.fflags := rfl
@[simp] theorem Group.calReset_storeQ (g : Group) (r : Nat) (c : Caliper) : (g.calReset r c).storeQ = g.storeQ := rfl
@[simp] theorem Group.calReset_inflight (g : Group) (r : Nat) (c : Caliper) : (g.calReset r c).inflight = g.inflight := rfl
@[simp] theorem Group.calReset_nextId (g : Group) (r : Nat) (c : Caliper) : (g.calReset r c).nextId = g.nextId := rfl
@[simp] theorem Group.calReset_batches (g : Group) (r : Nat) (c : Caliper) : (g.calReset r c).batches = g.batches := rfl
@[simp] theorem Group.calWrite_ctl (g : Group) (k r : Nat) (m : Mask) (c : Caliper) : (g.calWrite k r m c).ctl = g.ctl := by
  unfold Group.calWrite; split <;> rfl
@[simp] theorem Group.calWrite_trap (g : Group) (k r : Nat) (m : Mask) (c : Caliper) : (g.calWrite k r m c).trap = g.trap := by
  unfold Group.calWrite; split <;> rfl
@[simp] theorem Group.calWrite_vregs (g : Group) (k r : Nat) (m : Mask) (c : Caliper) : (g.calWrite k r m c).vregs = g.vregs := by
  unfold Group.calWrite; split <;> rfl
@[simp] theorem Group.calWrite_sregs (g : Group) (k r : Nat) (m : Mask) (c : Caliper) : (g.calWrite k r m c).sregs = g.sregs := by
  unfold Group.calWrite; split <;> rfl
@[simp] theorem Group.calWrite_pregs (g : Group) (k r : Nat) (m : Mask) (c : Caliper) : (g.calWrite k r m c).pregs = g.pregs := by
  unfold Group.calWrite; split <;> rfl
@[simp] theorem Group.calWrite_qregs (g : Group) (k r : Nat) (m : Mask) (c : Caliper) : (g.calWrite k r m c).qregs = g.qregs := by
  unfold Group.calWrite; split <;> rfl
@[simp] theorem Group.calWrite_aregs (g : Group) (k r : Nat) (m : Mask) (c : Caliper) : (g.calWrite k r m c).aregs = g.aregs := by
  unfold Group.calWrite; split <;> rfl
@[simp] theorem Group.calWrite_hregs (g : Group) (k r : Nat) (m : Mask) (c : Caliper) : (g.calWrite k r m c).hregs = g.hregs := by
  unfold Group.calWrite; split <;> rfl
@[simp] theorem Group.calWrite_viol (g : Group) (k r : Nat) (m : Mask) (c : Caliper) : (g.calWrite k r m c).viol = g.viol := by
  unfold Group.calWrite; split <;> rfl
@[simp] theorem Group.calWrite_fflags (g : Group) (k r : Nat) (m : Mask) (c : Caliper) : (g.calWrite k r m c).fflags = g.fflags := by
  unfold Group.calWrite; split <;> rfl
@[simp] theorem Group.calWrite_storeQ (g : Group) (k r : Nat) (m : Mask) (c : Caliper) : (g.calWrite k r m c).storeQ = g.storeQ := by
  unfold Group.calWrite; split <;> rfl
@[simp] theorem Group.calWrite_inflight (g : Group) (k r : Nat) (m : Mask) (c : Caliper) : (g.calWrite k r m c).inflight = g.inflight := by
  unfold Group.calWrite; split <;> rfl
@[simp] theorem Group.calWrite_nextId (g : Group) (k r : Nat) (m : Mask) (c : Caliper) : (g.calWrite k r m c).nextId = g.nextId := by
  unfold Group.calWrite; split <;> rfl
@[simp] theorem Group.calWrite_batches (g : Group) (k r : Nat) (m : Mask) (c : Caliper) : (g.calWrite k r m c).batches = g.batches := by
  unfold Group.calWrite; split <;> rfl
@[simp] theorem Group.writeVec_ctl (g : Group) (k r : Nat) (m : Mask) (x : Lanes) (c : Caliper) : (g.writeVec k r m x c).ctl = g.ctl := by
  simp [Group.writeVec]
@[simp] theorem Group.writeVec_trap (g : Group) (k r : Nat) (m : Mask) (x : Lanes) (c : Caliper) : (g.writeVec k r m x c).trap = g.trap := by
  simp [Group.writeVec]
@[simp] theorem Group.writeVec_sregs (g : Group) (k r : Nat) (m : Mask) (x : Lanes) (c : Caliper) : (g.writeVec k r m x c).sregs = g.sregs := by
  simp [Group.writeVec]
@[simp] theorem Group.writeVec_pregs (g : Group) (k r : Nat) (m : Mask) (x : Lanes) (c : Caliper) : (g.writeVec k r m x c).pregs = g.pregs := by
  simp [Group.writeVec]
@[simp] theorem Group.writeVec_qregs (g : Group) (k r : Nat) (m : Mask) (x : Lanes) (c : Caliper) : (g.writeVec k r m x c).qregs = g.qregs := by
  simp [Group.writeVec]
@[simp] theorem Group.writeVec_aregs (g : Group) (k r : Nat) (m : Mask) (x : Lanes) (c : Caliper) : (g.writeVec k r m x c).aregs = g.aregs := by
  simp [Group.writeVec]
@[simp] theorem Group.writeVec_hregs (g : Group) (k r : Nat) (m : Mask) (x : Lanes) (c : Caliper) : (g.writeVec k r m x c).hregs = g.hregs := by
  simp [Group.writeVec]
@[simp] theorem Group.writeVec_viol (g : Group) (k r : Nat) (m : Mask) (x : Lanes) (c : Caliper) : (g.writeVec k r m x c).viol = g.viol := by
  simp [Group.writeVec]
@[simp] theorem Group.writeVec_fflags (g : Group) (k r : Nat) (m : Mask) (x : Lanes) (c : Caliper) : (g.writeVec k r m x c).fflags = g.fflags := by
  simp [Group.writeVec]
@[simp] theorem Group.writeVec_storeQ (g : Group) (k r : Nat) (m : Mask) (x : Lanes) (c : Caliper) : (g.writeVec k r m x c).storeQ = g.storeQ := by
  simp [Group.writeVec]
@[simp] theorem Group.writeVec_inflight (g : Group) (k r : Nat) (m : Mask) (x : Lanes) (c : Caliper) : (g.writeVec k r m x c).inflight = g.inflight := by
  simp [Group.writeVec]
@[simp] theorem Group.writeVec_nextId (g : Group) (k r : Nat) (m : Mask) (x : Lanes) (c : Caliper) : (g.writeVec k r m x c).nextId = g.nextId := by
  simp [Group.writeVec]
@[simp] theorem Group.writeVec_batches (g : Group) (k r : Nat) (m : Mask) (x : Lanes) (c : Caliper) : (g.writeVec k r m x c).batches = g.batches := by
  simp [Group.writeVec]
@[simp] theorem Group.writePair_ctl (g : Group) (k r : Nat) (m : Mask) (x : List DWord) : (g.writePair k r m x).ctl = g.ctl := by
  simp [Group.writePair]
@[simp] theorem Group.writePair_trap (g : Group) (k r : Nat) (m : Mask) (x : List DWord) : (g.writePair k r m x).trap = g.trap := by
  simp [Group.writePair]
@[simp] theorem Group.writePair_sregs (g : Group) (k r : Nat) (m : Mask) (x : List DWord) : (g.writePair k r m x).sregs = g.sregs := by
  simp [Group.writePair]
@[simp] theorem Group.writePair_pregs (g : Group) (k r : Nat) (m : Mask) (x : List DWord) : (g.writePair k r m x).pregs = g.pregs := by
  simp [Group.writePair]
@[simp] theorem Group.writePair_qregs (g : Group) (k r : Nat) (m : Mask) (x : List DWord) : (g.writePair k r m x).qregs = g.qregs := by
  simp [Group.writePair]
@[simp] theorem Group.writePair_aregs (g : Group) (k r : Nat) (m : Mask) (x : List DWord) : (g.writePair k r m x).aregs = g.aregs := by
  simp [Group.writePair]
@[simp] theorem Group.writePair_hregs (g : Group) (k r : Nat) (m : Mask) (x : List DWord) : (g.writePair k r m x).hregs = g.hregs := by
  simp [Group.writePair]
@[simp] theorem Group.writePair_viol (g : Group) (k r : Nat) (m : Mask) (x : List DWord) : (g.writePair k r m x).viol = g.viol := by
  simp [Group.writePair]
@[simp] theorem Group.writePair_fflags (g : Group) (k r : Nat) (m : Mask) (x : List DWord) : (g.writePair k r m x).fflags = g.fflags := by
  simp [Group.writePair]
@[simp] theorem Group.writePair_storeQ (g : Group) (k r : Nat) (m : Mask) (x : List DWord) : (g.writePair k r m x).storeQ = g.storeQ := by
  simp [Group.writePair]
@[simp] theorem Group.writePair_inflight (g : Group) (k r : Nat) (m : Mask) (x : List DWord) : (g.writePair k r m x).inflight = g.inflight := by
  simp [Group.writePair]
@[simp] theorem Group.writePair_nextId (g : Group) (k r : Nat) (m : Mask) (x : List DWord) : (g.writePair k r m x).nextId = g.nextId := by
  simp [Group.writePair]
@[simp] theorem Group.writePair_batches (g : Group) (k r : Nat) (m : Mask) (x : List DWord) : (g.writePair k r m x).batches = g.batches := by
  simp [Group.writePair]

end Sys2Proof.Machine
end

