-- ==== Sys2Proof/Laws/Group.lean ====
section
/-! SUPPORT. Laws/Group.lean: what the named reads of registers, splits, groups, contexts and logical cores give after the named
updates. -/

namespace Sys2Proof.Machine

open Sys2Proof

/-! ## Lists as register files -/

section Lists

variable {α : Type} {d x : α} {l : List α} {i j : Nat} {f : α → α}

theorem regGet_regSet_same (h : i < l.length) : regGet d (regSet l i x) i = x := by
  simp [regGet, regSet, List.getD_eq_getElem?_getD, h]

theorem regGet_regSet_other (h : j ≠ i) : regGet d (regSet l i x) j = regGet d l j := by
  simp [regGet, regSet, List.getD_eq_getElem?_getD, List.getElem?_set_ne (Ne.symm h)]

@[simp] theorem length_regSet : (regSet l i x).length = l.length := by simp [regSet]

theorem getElem?_regMod : (regMod l i f)[j]? = if j = i then l[j]?.map f else l[j]? := by
  unfold regMod
  split
  · next h => split <;> simp_all
  · next y h =>
    split
    · next e =>
      subst e
      obtain ⟨hi, rfl⟩ := List.getElem?_eq_some_iff.1 h
      simp [hi]
    · next e => simp [List.getElem?_set_ne (Ne.symm e)]

theorem regGet_regMod_same (h : i < l.length) : regGet d (regMod l i f) i = f (regGet d l i) := by
  simp [regGet, List.getD_eq_getElem?_getD, getElem?_regMod, h]

theorem regGet_regMod_other (h : j ≠ i) : regGet d (regMod l i f) j = regGet d l j := by
  simp [regGet, List.getD_eq_getElem?_getD, getElem?_regMod, h]

@[simp] theorem length_regMod : (regMod l i f).length = l.length := by unfold regMod; split <;> simp

end Lists

/-! ## Lanes -/

@[simp] theorem length_laneIds : laneIds.length = 32 := rfl

theorem getElem?_laneIds {j : Nat} (h : j < 32) : laneIds[j]? = some j := by
  simp [laneIds, List.getElem?_range, h]

theorem regGet_laneMap {f : Nat → Word} {j : Nat} (h : j < 32) : regGet 0 (laneIds.map f) j = f j := by
  simp [regGet, List.getD_eq_getElem?_getD, getElem?_laneIds h]

theorem regGet_perLane {f : Nat → Word} {j : Nat} (h : j < 32) : regGet 0 (perLane f) j = f j := regGet_laneMap h

theorem regGet_mergeLanes {m : Mask} {old new : Lanes} {j : Nat} (h : j < 32) :
    regGet 0 (mergeLanes m old new) j = if Mask.has m j then regGet 0 new j else regGet 0 old j := regGet_laneMap h

/-! ## Registers of a group -/

theorem vec_setVec_same (g : Group) {r : Nat} (m : Mask) (x : Lanes) (h : r < g.vregs.length) :
    (g.setVec r m x).vec r = mergeLanes m (g.vec r) x := by simp [Group.vec, Group.setVec, regGet_regSet_same h]

theorem vec_setVec_other (g : Group) {r n : Nat} (m : Mask) (x : Lanes) (h : n ≠ r) : (g.setVec r m x).vec n = g.vec n := by
  simp [Group.vec, Group.setVec, regGet_regSet_other h]

theorem v_setVec_same (g : Group) {r j : Nat} (m : Mask) (x : Lanes) (h : r < g.vregs.length) (hj : j < 32) :
    (g.setVec r m x).v r j = if Mask.has m j then regGet 0 x j else g.v r j := by
  rw [Group.v, vec_setVec_same g m x h, regGet_mergeLanes hj]; rfl

theorem v_setVec_other (g : Group) {r n j : Nat} (m : Mask) (x : Lanes) (h : n ≠ r) : (g.setVec r m x).v n j = g.v n j := by
  rw [Group.v, vec_setVec_other g m x h]; rfl

theorem s_setS_same (g : Group) {r : Nat} (x : DWord) (h : r < g.sregs.length) : (g.setS r x).s r = x := by
  simp [Group.s, Group.setS, regGet_regSet_same h]

theorem s_setS_other (g : Group) {r n : Nat} (x : DWord) (h : n ≠ r) : (g.setS r x).s n = g.s n := by
  simp [Group.s, Group.setS, regGet_regSet_other h]

theorem a_setA_same (g : Group) {r : Nat} (x : BitVec 256) (h : r < g.aregs.length) : (g.setA r x).a r = x := by
  simp [Group.a, Group.setA, regGet_regSet_same h]

theorem a_setA_other (g : Group) {r n : Nat} (x : BitVec 256) (h : n ≠ r) : (g.setA r x).a n = g.a n := by
  simp [Group.a, Group.setA, regGet_regSet_other h]

theorem h_setH_same (g : Group) {r : Nat} (x : DWord) (h : r < g.hregs.length) : (g.setH r x).h r = x := by
  simp [Group.h, Group.setH, regGet_regSet_same h]

theorem h_setH_other (g : Group) {r n : Nat} (x : DWord) (h : n ≠ r) : (g.setH r x).h n = g.h n := by
  simp [Group.h, Group.setH, regGet_regSet_other h]

/-- R54: p7 reads true in every lane whatever is written. -/
@[simp] theorem p_seven (g : Group) : g.p 7 = Mask.full := rfl

/-- R54: a write to p7 is discarded. -/
@[simp] theorem setP_seven (g : Group) (m x : Mask) : g.setP 7 m x = g := rfl

@[simp] theorem q_seven (g : Group) : g.q 7 = true := rfl
@[simp] theorem setQ_seven (g : Group) (x : Bool) : g.setQ 7 x = g := rfl

theorem p_setP_same (g : Group) {r : Nat} (m x : Mask) (h : r < g.pregs.length) (h7 : r ≠ 7) :
    (g.setP r m x).p r = (g.p r &&& ~~~m) ||| (x &&& m) := by
  simp [Group.setP, Group.p, h7, regGet_regSet_same h]

theorem p_setP_other (g : Group) {r n : Nat} (m x : Mask) (h : n ≠ r) : (g.setP r m x).p n = g.p n := by
  unfold Group.setP
  split
  · rfl
  · simp [Group.p, regGet_regSet_other h]

theorem q_setQ_same (g : Group) {r : Nat} (x : Bool) (h : r < g.qregs.length) (h7 : r ≠ 7) : (g.setQ r x).q r = x := by
  simp [Group.setQ, Group.q, h7, regGet_regSet_same h]

theorem q_setQ_other (g : Group) {r n : Nat} (x : Bool) (h : n ≠ r) : (g.setQ r x).q n = g.q n := by
  unfold Group.setQ
  split
  · rfl
  · simp [Group.q, regGet_regSet_other h]

/-! ## Splits of a group -/

theorem split_modSplit_same (g : Group) {k : Nat} (f : Split → Split) (h : k < g.splits.length) :
    (g.modSplit k f).split k = f (g.split k) := by
  simp [Group.split, Group.modSplit, Group.setSplit, regGet_regSet_same h]

theorem split_modSplit_other (g : Group) {k j : Nat} (f : Split → Split) (h : j ≠ k) :
    (g.modSplit k f).split j = g.split j := by
  simp [Group.split, Group.modSplit, Group.setSplit, regGet_regSet_other h]

@[simp] theorem length_splits_modSplit (g : Group) (k : Nat) (f : Split → Split) :
    (g.modSplit k f).splits.length = g.splits.length := by simp [Group.modSplit, Group.setSplit]

/-- An entry in use lies in the split table. -/
theorem split_lt {g : Group} {k : Nat} (h : (g.split k).st ≠ .free) : k < g.splits.length := by
  by_contra hk
  refine h ?_
  simp only [Group.split, regGet, List.getD_eq_getElem?_getD]
  rw [List.getElem?_eq_none (by omega)]
  rfl

@[simp] theorem countWindows_split (g : Group) (k j : Nat) : (g.countWindows k).split j = g.split j := rfl
@[simp] theorem closeWindows_split (g : Group) (k j : Nat) : (g.closeWindows k).split j = g.split j := rfl
@[simp] theorem setVec_split (g : Group) (r : Nat) (m : Mask) (x : Lanes) (k : Nat) : (g.setVec r m x).split k = g.split k := rfl
@[simp] theorem setS_split (g : Group) (r : Nat) (x : DWord) (k : Nat) : (g.setS r x).split k = g.split k := rfl
@[simp] theorem setA_split (g : Group) (r : Nat) (x : BitVec 256) (k : Nat) : (g.setA r x).split k = g.split k := rfl
@[simp] theorem setH_split (g : Group) (r : Nat) (x : DWord) (k : Nat) : (g.setH r x).split k = g.split k := rfl
@[simp] theorem setP_split (g : Group) (r : Nat) (m x : Mask) (k : Nat) : (g.setP r m x).split k = g.split k := by
  simp [Group.split]
@[simp] theorem setQ_split (g : Group) (r : Nat) (x : Bool) (k : Nat) : (g.setQ r x).split k = g.split k := by
  simp [Group.split]

/-! ## Contexts, groups and logical cores of the device -/

theorem ctx_setCtx_same {s : State} {k : Nat} {c d : Context} (h : s.ctx k = some d) : (s.setCtx k c).ctx k = some c := by
  have hk : k < s.ctxs.length := by
    by_contra hk
    simp [State.ctx, regGet, List.getD_eq_getElem?_getD, List.getElem?_eq_none (Nat.le_of_not_lt hk)] at h
  simp [State.ctx, State.setCtx, regGet_regSet_same hk]

theorem ctx_setCtx_other {s : State} {k j : Nat} {c : Context} (h : j ≠ k) : (s.setCtx k c).ctx j = s.ctx j := by
  simp [State.ctx, State.setCtx, regGet_regSet_other h]

theorem ctx_modCtx_same (s : State) (k : Nat) (f : Context → Context) : (s.modCtx k f).ctx k = (s.ctx k).map f := by
  unfold State.modCtx
  split
  · next c h => rw [ctx_setCtx_same h, h]; rfl
  · next h => rw [h]; rfl

theorem ctx_modCtx_other (s : State) {k j : Nat} (f : Context → Context) (h : j ≠ k) : (s.modCtx k f).ctx j = s.ctx j := by
  unfold State.modCtx
  split
  · exact ctx_setCtx_other h
  · rfl

theorem cgroup_modGroup_same (c : Context) (r : GroupRef) (f : Group → Group) :
    (c.modGroup r f).group? r = (c.group? r).map f := by
  unfold Context.group? Context.modGroup
  induction c.groups with
  | nil => rfl
  | cons x xs ih =>
    simp only [List.map_cons, List.find?_cons]
    by_cases h : x.1 = r
    · simp [h]
    · have h' : (x.1 == r) = false := by simp [h]
      simp only [if_neg h, h']
      exact ih

theorem cgroup_modGroup_other (c : Context) {r x : GroupRef} (f : Group → Group) (h : x ≠ r) :
    (c.modGroup r f).group? x = c.group? x := by
  unfold Context.group? Context.modGroup
  induction c.groups with
  | nil => rfl
  | cons y ys ih =>
    simp only [List.map_cons, List.find?_cons]
    by_cases hy : y.1 = r
    · have h' : (y.1 == x) = false := by simp [hy, Ne.symm h]
      simp only [if_pos hy, h']
      exact ih
    · simp only [if_neg hy]
      cases h' : (y.1 == x)
      · exact ih
      · rfl

/-- The group after an update of it. -/
theorem group_modGroup_same (s : State) (r : GroupRef) (f : Group → Group) : (s.modGroup r f).group? r = (s.group? r).map f := by
  simp only [State.group?, State.modGroup, ctx_modCtx_same]
  cases s.ctx r.slot with
  | none => rfl
  | some c => exact cgroup_modGroup_same c r f

/-- Every other group is as before. -/
theorem group_modGroup_other (s : State) {r x : GroupRef} (f : Group → Group) (h : x ≠ r) :
    (s.modGroup r f).group? x = s.group? x := by
  simp only [State.group?, State.modGroup]
  by_cases hs : x.slot = r.slot
  · rw [hs, ctx_modCtx_same]
    cases s.ctx r.slot with
    | none => rfl
    | some c => exact cgroup_modGroup_other c f h
  · rw [ctx_modCtx_other s _ hs]

theorem group_setGroup_same {s : State} {r : GroupRef} {g g' : Group} (h : s.group? r = some g) :
    (s.setGroup r g').group? r = some g' := by
  rw [State.setGroup, group_modGroup_same, h]; rfl

theorem group_setGroup_other (s : State) {r x : GroupRef} (g : Group) (h : x ≠ r) : (s.setGroup r g).group? x = s.group? x :=
  group_modGroup_other s _ h

/-- What a context holds besides its groups. -/
def Context.noGroups (c : Context) : Context := { c with groups := [] }

theorem noGroups_modGroup (s : State) (r : GroupRef) (f : Group → Group) (k : Nat) :
    ((s.modGroup r f).ctx k).map Context.noGroups = (s.ctx k).map Context.noGroups := by
  by_cases h : k = r.slot
  · rw [h, State.modGroup, ctx_modCtx_same]
    cases s.ctx r.slot <;> rfl
  · rw [State.modGroup, ctx_modCtx_other s _ h]

theorem noGroups_setGroup (s : State) (r : GroupRef) (g : Group) (k : Nat) :
    ((s.setGroup r g).ctx k).map Context.noGroups = (s.ctx k).map Context.noGroups := noGroups_modGroup s r _ k

@[simp] theorem group_modDie (s : State) (d : Nat) (f : Die → Die) (r : GroupRef) : (s.modDie d f).group? r = s.group? r := rfl
@[simp] theorem ctx_modDie (s : State) (d : Nat) (f : Die → Die) (k : Nat) : (s.modDie d f).ctx k = s.ctx k := rfl

theorem ctx_modQuad (s : State) (a b q : Nat) (f : Quad → Quad) (k : Nat) : (s.modQuad a b q f).ctx k = s.ctx k := by
  simp [State.ctx]

theorem group_modQuad (s : State) (a b q : Nat) (f : Quad → Quad) (r : GroupRef) : (s.modQuad a b q f).group? r = s.group? r := by
  simp [State.group?, ctx_modQuad]

theorem lc_eq {s t : State} {k : Nat} (h : (t.ctx k).map Context.noGroups = (s.ctx k).map Context.noGroups) (l : Nat) :
    t.lc k l = s.lc k l := by
  unfold State.lc
  cases ht : t.ctx k <;> cases hs : s.ctx k <;> simp_all [Context.noGroups]
  unfold Context.lc
  rw [h.2.2.2.2.2.2.1]

end Sys2Proof.Machine
end

