-- ==== Sys2Proof/Laws/Run.lean ====
section
/-! SUPPORT. Laws/Run.lean: what running an instruction's meaning gives (runRes, runG, runOk), and from a meaning over the group
to the effect of an instruction. -/

namespace Sys2Proof.Machine

open Sys2Proof

/-- What counting an issue does to the state `x` that an instruction left. -/
def State.counted (s x : State) (r : SplitRef) (g : Group) : State := x.noteIssued r g.ctl.quad (g.split r.k).replay

theorem runRes_issuing {s : State} {r : SplitRef} {g : Group} (h : Issuing s r g) (act : Group → Nat → Mask)
    (f : State → SplitRef → Group → Group → Res) :
    runRes act f s = match f s.entered r (s.reads r g) (g.countWindows r.k) with
      | .next t => .next (s.counted (t.advance r) r g)
      | .jump t => .next (s.counted t r g)
      | .trap e t => .next (s.counted (s.entered.raise t r (act g r.k) e) r g)
      | .stall t => .next (t.keepHeld r (s.reads r g)) := by
  unfold runRes
  rw [h.cur]
  simp only [h.group, if_neg h.used]
  rfl

theorem runRes_next {s t : State} {r : SplitRef} {g : Group} (h : Issuing s r g) {act : Group → Nat → Mask}
    {f : State → SplitRef → Group → Group → Res} (hf : f s.entered r (s.reads r g) (g.countWindows r.k) = .next t) :
    runRes act f s = .next (s.counted (t.advance r) r g) := by
  rw [runRes_issuing h, hf]

theorem runRes_jump {s t : State} {r : SplitRef} {g : Group} (h : Issuing s r g) {act : Group → Nat → Mask}
    {f : State → SplitRef → Group → Group → Res} (hf : f s.entered r (s.reads r g) (g.countWindows r.k) = .jump t) :
    runRes act f s = .next (s.counted t r g) := by
  rw [runRes_issuing h, hf]

theorem runRes_trap {s t : State} {r : SplitRef} {g : Group} {e : Exc} (h : Issuing s r g) {act : Group → Nat → Mask}
    {f : State → SplitRef → Group → Group → Res} (hf : f s.entered r (s.reads r g) (g.countWindows r.k) = .trap e t) :
    runRes act f s = .next (s.counted (s.entered.raise t r (act g r.k) e) r g) := by
  rw [runRes_issuing h, hf]

/-! ## Counting an issue -/

theorem group_counted_other (s x : State) (r : SplitRef) (g : Group) {y : GroupRef} (h : y ≠ r.group) :
    (s.counted x r g).group? y = x.group? y := by
  rw [State.counted, State.noteIssued, State.modSplit, group_modGroup_other _ _ h, group_modQuad]

theorem group_counted_same {s x : State} {r : SplitRef} {g g1 : Group} (h : x.group? r.group = some g1) :
    ∃ f : Split → Split, (s.counted x r g).group? r.group = some (g1.modSplit r.k f) ∧
      ∀ sp, ∃ a b n, f sp = { sp with skid := a, dskid := b, skidIns := n, held := none } := by
  refine ⟨fun sp => if sp.skid.isNone && sp.dskid.isNone then { sp with held := none }
    else { sp with
      held := none
      skid := skidStep sp.skid, dskid := skidStep sp.dskid
      skidIns := if sp.skid.isSome then sp.skidIns + 1 else sp.skidIns }, ?_, ?_⟩
  · rw [State.counted, State.noteIssued, State.modSplit, group_modGroup_same, group_modQuad, h]
    rfl
  · intro sp
    dsimp only
    split
    · exact ⟨_, _, _, rfl⟩
    · exact ⟨_, _, _, rfl⟩

theorem ctx_counted (s x : State) (r : SplitRef) (g : Group) (k : Nat) :
    ((s.counted x r g).ctx k).map Context.noGroups = (x.ctx k).map Context.noGroups := by
  rw [State.counted, State.noteIssued, State.modSplit, noGroups_modGroup, ctx_modQuad]

theorem die_modQuad (s : State) (a b q : Nat) (f : Quad → Quad) (d : Nat) :
    { (s.modQuad a b q f).die d with cores := [] } = { s.die d with cores := [] } := by
  unfold State.modQuad
  split
  · next p _ =>
    simp only [State.die, State.modCore, State.modDie, regGet, List.getD_eq_getElem?_getD, getElem?_regMod]
    split
    · next e => cases s.dies[d]? <;> rfl
    · rfl
  · rfl

theorem die_counted (s x : State) (r : SplitRef) (g : Group) (d : Nat) :
    { (s.counted x r g).die d with cores := [] } = { x.die d with cores := [] } := by
  have : (s.counted x r g).die d = (x.modQuad r.slot r.lcid g.ctl.quad
      (fun q => { q with taken := some (if (g.split r.k).replay then 1 else 2) })).die d := by
    simp [State.die, State.counted, State.noteIssued]
  rw [this, die_modQuad]

/-! ## The split goes on -/

theorem wentOn_step (now : Nat) (sp : Split) (a : Bool) (b : Bool) :
    WentOn sp { sp.step now with exempt := a, replay := b } := by
  unfold WentOn Split.step
  by_cases h : pcPos sp.pc < sp.count
  · simp [h]
  · simp [h, Split.goto, Split.nextHdr, Machine.nextHdr]

theorem wentOn_skid {a b : Split} (h : WentOn a b) (x y : Option (Nat × Nat)) (n : Nat) :
    WentOn a { b with skid := x, dskid := y, skidIns := n, held := none } := h

/-- From a meaning that answers `next` with its group set to `g'`: the effect of the instruction. -/
theorem effect_of_next {i : Instr} {s : State} {r : SplitRef} {g g' : Group} {w : Writes} {P : Group → Prop}
    {act : Group → Nat → Mask} {f : State → SplitRef → Group → Group → Res} (h : Issuing s r g)
    (hi : exec i s = runRes act f s) (hf : f s.entered r (s.reads r g) (g.countWindows r.k) = .next (s.entered.setGroup r.group g'))
    (hP : ∀ f, P (g'.modSplit r.k f)) (hk : g.Keeps g' r.k w) (hs : g'.split r.k = g.split r.k ∨
      ∃ ovr, g'.split r.k = { g.split r.k with ovr := ovr }) (hl : r.k < g'.splits.length) :
    Effect i s r g w P := by
  have hg : s.entered.group? r.group = some g := h.group
  have h1 : (s.entered.setGroup r.group g').group? r.group = some g' := group_setGroup_same hg
  have h2 : ((s.entered.setGroup r.group g').advance r).group? r.group =
      some (g'.modSplit r.k (fun sp => { sp.step s.cycles with exempt := false, replay := false })) := by
    rw [State.advance, State.modSplit, group_modGroup_same, h1]
    simp [State.entered]
  obtain ⟨φ, h3, hφ⟩ := group_counted_same (s := s) (g := g) h2
  refine ⟨_, _, by rw [hi, runRes_next h hf], h3, ?_, ?_, ?_, ?_⟩
  · have : (g'.modSplit r.k (fun sp => { sp.step s.cycles with exempt := false, replay := false })).modSplit r.k φ =
        g'.modSplit r.k (fun sp => φ { sp.step s.cycles with exempt := false, replay := false }) := by
      simp only [Group.modSplit, Group.setSplit, Group.split, regGet_regSet_same hl]
      simp [regSet]
    rw [this]
    exact hP _
  · constructor
    · intro n hn; exact hk.vec n hn
    · intro n hn; exact hk.cal n hn
    · intro n hn; exact hk.sreg n hn
    · intro n hn; exact hk.preg n hn
    · intro n hn; exact hk.qreg n hn
    · intro n hn; exact hk.areg n hn
    · intro n hn; exact hk.hreg n hn
    · exact hk.flags
    · exact hk.viol
    · exact hk.long
    · exact hk.trap
    · exact hk.ctl
    · exact hk.storeQ
    · exact hk.batch
    · intro e j hj
      rw [split_modSplit_other _ _ hj, split_modSplit_other _ _ hj]
      exact hk.splits e j hj
    · intro j hj
      rw [split_modSplit_other _ _ hj, split_modSplit_other _ _ hj]
      exact hk.others j hj
  · rw [split_modSplit_same _ _ (by simpa using hl), split_modSplit_same _ _ hl]
    have base : WentOn (g.split r.k) { (g'.split r.k).step s.cycles with exempt := false, replay := false } := by
      rcases hs with e | ⟨ovr, e⟩
      · rw [e]; exact wentOn_step _ _ _ _
      · rw [e]; exact wentOn_step s.cycles { g.split r.k with ovr := ovr } false false
    obtain ⟨a, b, n, e⟩ := hφ { (g'.split r.k).step s.cycles with exempt := false, replay := false }
    rw [e]
    exact wentOn_skid base a b n
  · constructor
    · simp [State.counted, State.entered]
    · simp [State.counted, State.entered]
    · simp [State.counted, State.entered]
    · simp [State.counted, State.entered]
    · simp [State.counted, State.entered]
    · intro d
      rw [die_counted]
      have : ((s.entered.setGroup r.group g').advance r).die d = s.die d := by simp [State.die, State.entered]
      rw [this]
    · simp [State.counted, State.entered]
    · simp [State.counted, State.entered]
    · simp [State.counted, State.entered]
    · simp [State.counted, State.entered]
    · simp [State.counted, State.entered]
    · intro x hx
      rw [group_counted_other _ _ _ _ hx, State.advance, State.modSplit, group_modGroup_other _ _ hx,
        group_setGroup_other _ _ hx]
      rfl
    · intro k
      have := ctx_counted s ((s.entered.setGroup r.group g').advance r) r g k
      rw [State.advance, State.modSplit, noGroups_modGroup, noGroups_setGroup] at this
      exact this

end Sys2Proof.Machine
end

