-- ==== Sys2Proof/Laws/Alu.lean ====
section
/-! SUPPORT. Laws/Alu.lean: the writes that the integer, floating-point and move families share: what each leaves as it was, and the
effect of an instruction whose meaning is one of them. -/

namespace Sys2Proof.Machine

open Sys2Proof

/-! ## What a write keeps -/

theorem keeps_count (g : Group) (k : Nat) (w : Writes) : g.Keeps (g.countWindows k) k w := by
  constructor <;> intros <;> first | rfl | exact ⟨rfl, rfl⟩

theorem cal_calWrite_other (g : Group) (k : Nat) {r n : Nat} (m : Mask) (c : Caliper) (h : n ≠ r) :
    (g.calWrite k r m c).cal n = g.cal n := by
  unfold Group.calWrite
  split
  · rfl
  · simp [Group.cal, regGet_regSet_other h]

theorem split_calWrite_other (g : Group) {k j : Nat} (r : Nat) (m : Mask) (c : Caliper) (h : j ≠ k) :
    (g.calWrite k r m c).split j = g.split j := by
  unfold Group.calWrite
  split
  · rfl
  · rw [split_modSplit_other _ _ h]; rfl

theorem split_calWrite_same (g : Group) (k r : Nat) (m : Mask) (c : Caliper) (h : k < g.splits.length) :
    ∃ ovr, (g.calWrite k r m c).split k = { g.split k with ovr := ovr } := by
  unfold Group.calWrite
  split
  · exact ⟨_, rfl⟩
  · rw [split_modSplit_same _ _ (by exact h)]
    exact ⟨_, rfl⟩

@[simp] theorem length_splits_calWrite (g : Group) (k r : Nat) (m : Mask) (c : Caliper) :
    (g.calWrite k r m c).splits.length = g.splits.length := by
  unfold Group.calWrite
  split <;> simp

/-- Reads of registers do not see calipers or splits. -/
theorem vec_calWrite (g : Group) (k r : Nat) (m : Mask) (c : Caliper) (n : Nat) : (g.calWrite k r m c).vec n = g.vec n := by
  simp [Group.vec]

theorem v_calWrite (g : Group) (k r : Nat) (m : Mask) (c : Caliper) (n j : Nat) : (g.calWrite k r m c).v n j = g.v n j := by
  simp [Group.v, Group.vec]

@[simp] theorem v_modSplit (g : Group) (k : Nat) (f : Split → Split) (n j : Nat) : (g.modSplit k f).v n j = g.v n j := rfl
@[simp] theorem vPair_modSplit (g : Group) (k : Nat) (f : Split → Split) (n j : Nat) : (g.modSplit k f).vPair n j = g.vPair n j := rfl
@[simp] theorem s_modSplit (g : Group) (k : Nat) (f : Split → Split) (n : Nat) : (g.modSplit k f).s n = g.s n := rfl
@[simp] theorem p_modSplit (g : Group) (k : Nat) (f : Split → Split) (n : Nat) : (g.modSplit k f).p n = g.p n := rfl
@[simp] theorem q_modSplit (g : Group) (k : Nat) (f : Split → Split) (n : Nat) : (g.modSplit k f).q n = g.q n := rfl
@[simp] theorem a_modSplit (g : Group) (k : Nat) (f : Split → Split) (n : Nat) : (g.modSplit k f).a n = g.a n := rfl
@[simp] theorem h_modSplit (g : Group) (k : Nat) (f : Split → Split) (n : Nat) : (g.modSplit k f).h n = g.h n := rfl
@[simp] theorem v_count (g : Group) (k n j : Nat) : (g.countWindows k).v n j = g.v n j := rfl
@[simp] theorem vPair_count (g : Group) (k n j : Nat) : (g.countWindows k).vPair n j = g.vPair n j := rfl
@[simp] theorem s_count (g : Group) (k n : Nat) : (g.countWindows k).s n = g.s n := rfl
@[simp] theorem p_count (g : Group) (k n : Nat) : (g.countWindows k).p n = g.p n := rfl
@[simp] theorem q_count (g : Group) (k n : Nat) : (g.countWindows k).q n = g.q n := rfl
@[simp] theorem a_count (g : Group) (k n : Nat) : (g.countWindows k).a n = g.a n := rfl
@[simp] theorem h_count (g : Group) (k n : Nat) : (g.countWindows k).h n = g.h n := rfl

/-- Writing a vector register keeps everything but it and its caliper. -/
theorem keeps_writeVec {g g1 : Group} {k r : Nat} {w : Writes} (h : g.Keeps g1 k w) (hr : r ∈ w.v) (m : Mask) (x : Lanes)
    (c : Caliper) : g.Keeps (g1.writeVec k r m x c) k w where
  vec n hn := by
    have : n ≠ r := fun e => hn (e ▸ hr)
    rw [Group.writeVec, vec_calWrite, vec_setVec_other _ _ _ this, h.vec n hn]
  cal n hn := by
    have : n ≠ r := fun e => hn (e ▸ hr)
    rw [Group.writeVec, cal_calWrite_other _ _ _ _ this, ← h.cal n hn]
    rfl
  sreg n hn := by rw [← h.sreg n hn]; simp [Group.s]
  preg n hn := by rw [← h.preg n hn]; simp [Group.p]
  qreg n hn := by rw [← h.qreg n hn]; simp [Group.q]
  areg n hn := by rw [← h.areg n hn]; simp [Group.a]
  hreg n hn := by rw [← h.hreg n hn]; simp [Group.h]
  flags e := by simpa using h.flags e
  viol e := by simpa using h.viol e
  long e := by simpa using h.long e
  trap e := by simpa using h.trap e
  ctl := by simpa using h.ctl
  storeQ e := by simpa using h.storeQ e
  batch e := by simpa using h.batch e
  splits e j hj := by rw [Group.writeVec, split_calWrite_other _ _ _ _ hj, ← h.splits e j hj]; rfl
  others j hj := by rw [Group.writeVec, split_calWrite_other _ _ _ _ hj, ← h.others j hj]; rfl

theorem keeps_writePair {g g1 : Group} {k r : Nat} {w : Writes} (h : g.Keeps g1 k w) (hr : r ∈ w.v) (hr1 : r + 1 ∈ w.v)
    (m : Mask) (x : List DWord) : g.Keeps (g1.writePair k r m x) k w :=
  keeps_writeVec (keeps_writeVec h hr _ _ _) hr1 _ _ _

theorem keeps_setS {g g1 : Group} {k r : Nat} {w : Writes} (h : g.Keeps g1 k w) (hr : r ∈ w.s) (x : DWord) :
    g.Keeps (g1.setS r x) k w :=
  { h with sreg := fun n hn => by rw [s_setS_other _ _ (fun e : n = r => hn (e ▸ hr)), h.sreg n hn] }

theorem keeps_setA {g g1 : Group} {k r : Nat} {w : Writes} (h : g.Keeps g1 k w) (hr : r ∈ w.a) (x : BitVec 256) :
    g.Keeps (g1.setA r x) k w :=
  { h with areg := fun n hn => by rw [a_setA_other _ _ (fun e : n = r => hn (e ▸ hr)), h.areg n hn] }

theorem keeps_setH {g g1 : Group} {k r : Nat} {w : Writes} (h : g.Keeps g1 k w) (hr : r ∈ w.h) (x : DWord) :
    g.Keeps (g1.setH r x) k w :=
  { h with hreg := fun n hn => by rw [h_setH_other _ _ (fun e : n = r => hn (e ▸ hr)), h.hreg n hn] }

theorem keeps_setP {g g1 : Group} {k r : Nat} {w : Writes} (h : g.Keeps g1 k w) (hr : r ∈ w.p) (m x : Mask) :
    g.Keeps (g1.setP r m x) k w := by
  unfold Group.setP
  split
  · exact h
  · refine { h with preg := ?_ }
    intro n hn
    rw [← h.preg n hn]
    simp only [Group.p, regGet_regSet_other (fun e : n = r => hn (e ▸ hr))]

theorem keeps_setQ {g g1 : Group} {k r : Nat} {w : Writes} (h : g.Keeps g1 k w) (hr : r ∈ w.q) (x : Bool) :
    g.Keeps (g1.setQ r x) k w := by
  unfold Group.setQ
  split
  · exact h
  · refine { h with qreg := ?_ }
    intro n hn
    rw [← h.qreg n hn]
    simp only [Group.q, regGet_regSet_other (fun e : n = r => hn (e ▸ hr))]

theorem keeps_accrue {g g1 : Group} {k : Nat} {w : Writes} (h : g.Keeps g1 k w) (hf : w.flags = true) (x : Flags) :
    g.Keeps (g1.accrue x) k w :=
  { h with flags := fun e => absurd e (by simp [hf]) }

/-! ## What a write leaves of the issuer's split -/

/-- The split of the issuer, but for its overrides, is that of `g`. -/
def Group.SameSplit (g g1 : Group) (k : Nat) : Prop :=
  (∃ ovr, g1.split k = { g.split k with ovr := ovr }) ∧ g1.splits.length = g.splits.length

theorem same_count (g : Group) (k : Nat) : g.SameSplit (g.countWindows k) k := ⟨⟨_, rfl⟩, rfl⟩

theorem same_writeVec {g g1 : Group} {k : Nat} (h : g.SameSplit g1 k) (hk : k < g.splits.length) (r : Nat) (m : Mask) (x : Lanes)
    (c : Caliper) : g.SameSplit (g1.writeVec k r m x c) k := by
  obtain ⟨⟨o, e⟩, hl⟩ := h
  obtain ⟨o', e'⟩ := split_calWrite_same (g1.setVec r m x) k r m c (by simpa [hl] using hk)
  refine ⟨⟨o', ?_⟩, ?_⟩
  · rw [Group.writeVec, e', setVec_split, e]
  · simp [Group.writeVec, hl]

theorem same_writePair {g g1 : Group} {k : Nat} (h : g.SameSplit g1 k) (hk : k < g.splits.length) (r : Nat) (m : Mask)
    (x : List DWord) : g.SameSplit (g1.writePair k r m x) k :=
  same_writeVec (same_writeVec h hk _ _ _ _) hk _ _ _ _

theorem same_setS {g g1 : Group} {k : Nat} (h : g.SameSplit g1 k) (r : Nat) (x : DWord) : g.SameSplit (g1.setS r x) k := h
theorem same_setA {g g1 : Group} {k : Nat} (h : g.SameSplit g1 k) (r : Nat) (x : BitVec 256) : g.SameSplit (g1.setA r x) k := h
theorem same_setH {g g1 : Group} {k : Nat} (h : g.SameSplit g1 k) (r : Nat) (x : DWord) : g.SameSplit (g1.setH r x) k := h
theorem same_accrue {g g1 : Group} {k : Nat} (h : g.SameSplit g1 k) (x : Flags) : g.SameSplit (g1.accrue x) k := h
theorem same_setP {g g1 : Group} {k : Nat} (h : g.SameSplit g1 k) (r : Nat) (m x : Mask) : g.SameSplit (g1.setP r m x) k := by
  simpa [Group.SameSplit] using h
theorem same_setQ {g g1 : Group} {k : Nat} (h : g.SameSplit g1 k) (r : Nat) (x : Bool) : g.SameSplit (g1.setQ r x) k := by
  simpa [Group.SameSplit] using h

/-- The effect of an instruction whose meaning answers `next` with its group set to `g'`. -/
theorem effect_of_group {i : Instr} {s : State} {r : SplitRef} {g g' : Group} {w : Writes} {P : Group → Prop}
    {act : Group → Nat → Mask} {f : State → SplitRef → Group → Group → Res} (h : Issuing s r g)
    (hi : exec i s = runRes act f s) (hf : f s.entered r (s.reads r g) (g.countWindows r.k) = .next (s.entered.setGroup r.group g'))
    (hP : ∀ f, P (g'.modSplit r.k f)) (hk : g.Keeps g' r.k w) (hs : g.SameSplit g' r.k) : Effect i s r g w P :=
  effect_of_next h hi hf hP hk (.inr hs.1) (by rw [hs.2]; exact split_lt h.used)

/-! ## Results -/

theorem v_writeVec (g : Group) (k : Nat) {r j : Nat} (m : Mask) (x : Lanes) (c : Caliper) (h : r < g.vregs.length) (hj : j < 32) :
    (g.writeVec k r m x c).v r j = if Mask.has m j then regGet 0 x j else g.v r j := by
  rw [Group.writeVec, v_calWrite, v_setVec_same g m x h hj]

theorem v_writeVec_other (g : Group) (k : Nat) {r n j : Nat} (m : Mask) (x : Lanes) (c : Caliper) (h : n ≠ r) :
    (g.writeVec k r m x c).v n j = g.v n j := by
  rw [Group.writeVec, v_calWrite, v_setVec_other g m x h]

theorem length_vregs_setVec (g : Group) (r : Nat) (m : Mask) (x : Lanes) : (g.setVec r m x).vregs.length = g.vregs.length := by
  simp [Group.setVec]

theorem length_vregs_writeVec (g : Group) (k r : Nat) (m : Mask) (x : Lanes) (c : Caliper) :
    (g.writeVec k r m x c).vregs.length = g.vregs.length := by
  simp [Group.writeVec, length_vregs_setVec]

theorem vPair_writePair (g : Group) (k : Nat) {r j : Nat} (m : Mask) (f : Nat → DWord) (h : r + 1 < g.vregs.length) (hj : j < 32) :
    (g.writePair k r m (laneIds.map f)).vPair r j = if Mask.has m j then f j else g.vPair r j := by
  have e (i : Nat) : (laneIds.map f).map (fun x => x.extractLsb' i 32) = laneIds.map (fun j => (f j).extractLsb' i 32) := by
    simp [List.map_map, Function.comp_def]
  have hi : (g.writePair k r m (laneIds.map f)).v (r + 1) j =
      if Mask.has m j then (f j).extractLsb' 32 32 else g.v (r + 1) j := by
    simp only [Group.writePair]
    rw [v_writeVec _ _ _ _ _ (by rw [length_vregs_writeVec]; exact h) hj, v_writeVec_other _ _ _ _ _ (by omega), e,
      regGet_laneMap hj]
  have lo : (g.writePair k r m (laneIds.map f)).v r j = if Mask.has m j then (f j).extractLsb' 0 32 else g.v r j := by
    simp only [Group.writePair]
    rw [v_writeVec_other _ _ _ _ _ (by omega), v_writeVec _ _ _ _ _ (by omega) hj, e, regGet_laneMap hj]
  rw [Group.vPair, hi, lo]
  split
  · ext i hi
    simp only [BitVec.getElem_append, BitVec.getElem_extractLsb']
    split
    · simp [BitVec.getLsbD_eq_getElem hi]
    · simp [BitVec.getLsbD_eq_getElem hi, show 32 + (i - 32) = i by omega]
  · rfl

/-- What an integer instruction writes. -/
theorem holds_intOp {src g : Group} {k : Nat} {gd : Guard} {d : Dst} {ty : IntTy} {val x : Nat → DWord} {c : Caliper}
    (hd : dstExists g ty.wide d)
    (hx : ∀ j, j < 32 → if ty.wide then val j = x j else (val j).extractLsb' 0 32 = (x j).extractLsb' 0 32) (f : Split → Split) :
    dstHolds src g ((intOp src (g.countWindows k) k gd d ty val c).modSplit k f) k gd ty x d := by
  cases d with
  | v d =>
    cases hw : ty.wide
    · simp only [dstHolds, hw, intOp, Group.intWrite, dstExists] at hd ⊢
      intro j hj
      have := hx j hj
      simp only [hw] at this
      simp only [Bool.false_eq_true, if_false] at this ⊢
      rw [v_modSplit, v_writeVec _ _ _ _ _ (by simpa using hd) hj, regGet_perLane hj, this]
      rfl
    · simp only [dstHolds, hw, intOp, Group.intWrite, dstExists] at hd ⊢
      intro j hj
      have := hx j hj
      simp only [hw, if_true] at this ⊢
      rw [vPair_modSplit, vPair_writePair _ _ _ _ (by simpa using hd) hj, this]
      rfl
  | s d =>
    simp only [dstHolds, intOp, Group.intWrite, dstExists] at hd ⊢
    split
    · have := hx 0 (by omega)
      rw [s_modSplit, s_setS_same _ _ (by simpa using hd)]
      cases ty <;> simp_all [uniExtend, IntTy.wide]
    · rfl

theorem keeps_intOp (src g : Group) (k : Nat) (gd : Guard) (d : Dst) (ty : IntTy) (val : Nat → DWord) (c : Caliper) :
    g.Keeps (intOp src (g.countWindows k) k gd d ty val c) k (dstWrites ty.wide d) := by
  cases d with
  | v d =>
    simp only [intOp, Group.intWrite, dstWrites]
    split
    · exact keeps_writePair (keeps_count _ _ _) (by simp) (by simp) _ _
    · exact keeps_writeVec (keeps_count _ _ _) (by simp) _ _ _
  | s d =>
    simp only [intOp, Group.intWrite, dstWrites]
    split
    · exact keeps_setS (keeps_count _ _ _) (by simp) _
    · exact keeps_count _ _ _

theorem same_intOp {g : Group} {k : Nat} (hk : k < g.splits.length) (src : Group) (gd : Guard) (d : Dst) (ty : IntTy)
    (val : Nat → DWord) (c : Caliper) : g.SameSplit (intOp src (g.countWindows k) k gd d ty val c) k := by
  cases d with
  | v d =>
    simp only [intOp, Group.intWrite]
    split
    · exact same_writePair (same_count _ _) hk _ _ _
    · exact same_writeVec (same_count _ _) hk _ _ _ _
  | s d =>
    simp only [intOp, Group.intWrite]
    split
    · exact same_setS (same_count _ _) _ _
    · exact same_count _ _

/-- An integer instruction's effect: its result by `val` agrees with `x` on the bits its type writes. -/
theorem effect_intOp {i : Instr} {s : State} {r : SplitRef} {g : Group} {act : Group → Nat → Mask} {gd : Guard} {d : Dst} {ty : IntTy}
    {val : Group → Nat → DWord} {c : Group → Nat → Caliper} {x : Nat → DWord} (h : Issuing s r g) (hd : dstExists g ty.wide d)
    (hi : exec i s = runOk act (fun src g k => intOp src g k gd d ty (val src) (c src k)) s)
    (hx : ∀ j, j < 32 → if ty.wide then val (s.reads r g) j = x j
      else (val (s.reads r g) j).extractLsb' 0 32 = (x j).extractLsb' 0 32) :
    Effect i s r g (dstWrites ty.wide d) (fun g' => dstHolds (s.reads r g) g g' r.k gd ty x d) :=
  effect_of_group (act := act) (f := liftG (fun src g k => .ok (intOp src g k gd d ty (val src) (c src k)))) h hi rfl
    (holds_intOp hd hx) (keeps_intOp _ _ _ _ _ _ _ _) (same_intOp (split_lt h.used) _ _ _ _ _ _)

/-- The bits that a type writes of two results agree. -/
def SameBits (ty : IntTy) (x y : DWord) : Prop := if ty.wide then x = y else x.extractLsb' 0 32 = y.extractLsb' 0 32

/-- R351: the exact value of a two-source instruction. -/
theorem effect_binOp {i : Instr} {s : State} {r : SplitRef} {g : Group} {act : Group → Nat → Mask} {o : Bin} {row : Option CalRow}
    {f : Int → Int → Int} {x : Nat → DWord} (h : Issuing s r g) (hd : dstExists g o.ty.wide o.d)
    (hi : exec i s = runOk act (binOp o row f) s)
    (hx : ∀ j, j < 32 → SameBits o.ty
      (intResult o.ty o.sat (f (o.a.num (s.reads r g) o.ty j) (o.b.num (s.reads r g) o.ty j))) (x j)) :
    Effect i s r g (dstWrites o.ty.wide o.d) (fun g' => dstHolds (s.reads r g) g g' r.k o.g o.ty x o.d) := by
  cases row with
  | none =>
    exact effect_intOp (val := fun src j => intResult o.ty o.sat (f (o.a.num src o.ty j) (o.b.num src o.ty j)))
      (c := fun _ _ => none) h hd hi hx
  | some q =>
    exact effect_intOp (val := fun src j => intResult o.ty o.sat (f (o.a.num src o.ty j) (o.b.num src o.ty j)))
      (c := fun src k => propBin q o.ty o.sat (o.a.cal src k) (o.b.cal src k)) h hd hi hx

/-- R315: a bitwise instruction. -/
theorem effect_logicOp {i : Instr} {s : State} {r : SplitRef} {g : Group} {act : Group → Nat → Mask} {o : Bin} {row : Option CalRow}
    {f : DWord → DWord → DWord} {x : Nat → DWord} (h : Issuing s r g) (hd : dstExists g o.ty.wide o.d)
    (hi : exec i s = runOk act (logicOp o row f) s)
    (hx : ∀ j, j < 32 → SameBits o.ty (f (BitVec.ofNat 64 (o.a.bits (s.reads r g) o.ty j))
      (BitVec.ofNat 64 (o.b.bits (s.reads r g) o.ty j))) (x j)) :
    Effect i s r g (dstWrites o.ty.wide o.d) (fun g' => dstHolds (s.reads r g) g g' r.k o.g o.ty x o.d) := by
  cases row with
  | none =>
    exact effect_intOp (val := fun src j => f (BitVec.ofNat 64 (o.a.bits src o.ty j)) (BitVec.ofNat 64 (o.b.bits src o.ty j)))
      (c := fun _ _ => none) h hd hi hx
  | some q =>
    exact effect_intOp (val := fun src j => f (BitVec.ofNat 64 (o.a.bits src o.ty j)) (BitVec.ofNat 64 (o.b.bits src o.ty j)))
      (c := fun src k => propBin q o.ty o.sat (o.a.cal src k) (o.b.cal src k)) h hd hi hx

/-- R351: IABS and INEG. -/
theorem effect_unOp {i : Instr} {s : State} {r : SplitRef} {g : Group} {act : Group → Nat → Mask} {o : Un}
    {f : Int → Int} {c : Group → Nat → Caliper} {x : Nat → DWord} (h : Issuing s r g) (hd : dstExists g o.ty.wide o.d)
    (hi : exec i s = runOk act (fun src g k => unOp o f (c src k) src g k) s)
    (hx : ∀ j, j < 32 → SameBits o.ty (intResult o.ty o.sat (f (o.a.num (s.reads r g) o.ty j))) (x j)) :
    Effect i s r g (dstWrites o.ty.wide o.d) (fun g' => dstHolds (s.reads r g) g g' r.k o.g o.ty x o.d) :=
  effect_intOp (val := fun src j => intResult o.ty o.sat (f (o.a.num src o.ty j))) (c := c) h hd hi hx

/-- R327: POPC, CLZ and BREV. -/
theorem effect_bitUn {i : Instr} {s : State} {r : SplitRef} {g : Group} {act : Group → Nat → Mask} {o : Un} {b : Bool}
    {f : Nat → Nat → Nat} {x : Nat → DWord} (h : Issuing s r g) (hd : dstExists g o.ty.wide o.d)
    (hi : exec i s = runOk act (bitUn o b f) s)
    (hx : ∀ j, j < 32 → SameBits o.ty (BitVec.ofNat 64 (f o.ty.bits (o.a.bits (s.reads r g) o.ty j))) (x j)) :
    Effect i s r g (dstWrites o.ty.wide o.d) (fun g' => dstHolds (s.reads r g) g g' r.k o.g o.ty x o.d) :=
  effect_intOp (val := fun src j => BitVec.ofNat 64 (f o.ty.bits (o.a.bits src o.ty j)))
    (c := fun _ _ => if b && !o.ty.wide then some ⟨0, 32⟩ else none) h hd hi hx

/-- R393: the shifts. -/
theorem effect_shiftOp {i : Instr} {s : State} {r : SplitRef} {g : Group} {act : Group → Nat → Mask} {o : Bin} {op : ShiftOp}
    {x : Nat → DWord} (h : Issuing s r g) (hd : dstExists g o.ty.wide o.d) (hi : exec i s = runOk act (shiftOp op o) s)
    (hx : ∀ j, j < 32 → SameBits o.ty (shiftVal op o.ty (o.a.bits (s.reads r g) o.ty j) (o.a.num (s.reads r g) o.ty j)
      (o.b.word (s.reads r g) j).toNat) (x j)) :
    Effect i s r g (dstWrites o.ty.wide o.d) (fun g' => dstHolds (s.reads r g) g g' r.k o.g o.ty x o.d) :=
  effect_intOp (val := fun src j => shiftVal op o.ty (o.a.bits src o.ty j) (o.a.num src o.ty j) (o.b.word src j).toNat)
    (c := fun src k => if o.b.isUniform then propShift op o.ty (o.a.cal src k) (o.b.word src 0).toNat else none) h hd hi hx

end Sys2Proof.Machine
end

