-- ==== Sys2Proof/Laws/Memory.lean ====
section
/-! SUPPORT. Laws/Memory.lean: the canonical form of Memory.lean is kept by every memory operation, a read after a write gives
the byte written, and a write leaves every other byte alone. -/

namespace Sys2Proof.Machine

open Sys2Proof

theorem wf_nil : Memory.wf [] = true := rfl

theorem wfFrom_cons {lo a : Nat} {b : Byte} {m : Cells} :
    Memory.wfFrom lo ((a, b) :: m) = true ↔ lo ≤ a ∧ b ≠ 0 ∧ Memory.wfFrom (a + 1) m = true := by
  simp [Memory.wfFrom, and_assoc]

theorem wfFrom_mono {m : Cells} {lo lo' : Nat} (h : lo' ≤ lo) (w : Memory.wfFrom lo m = true) :
    Memory.wfFrom lo' m = true := by
  cases m with
  | nil => rfl
  | cons c m =>
    obtain ⟨h1, h2, h3⟩ := wfFrom_cons.1 w
    exact wfFrom_cons.2 ⟨le_trans h h1, h2, h3⟩

theorem wfFrom_set {m : Cells} {lo x : Nat} {v : Byte} (hx : lo ≤ x) (w : Memory.wfFrom lo m = true) :
    Memory.wfFrom lo (Cells.set m x v) = true := by
  induction m generalizing lo with
  | nil =>
    by_cases hv : v = 0
    · simp only [Cells.set]
      rw [if_pos hv]
      rfl
    · simp only [Cells.set]
      rw [if_neg hv]
      exact wfFrom_cons.2 ⟨hx, hv, rfl⟩
  | cons c m ih =>
    obtain ⟨a, b⟩ := c
    obtain ⟨h1, h2, h3⟩ := wfFrom_cons.1 w
    simp only [Cells.set]
    split
    · split
      · exact w
      · next hxa hv => exact wfFrom_cons.2 ⟨hx, hv, wfFrom_cons.2 ⟨by omega, h2, h3⟩⟩
    · split
      · next hxa hxe =>
        split
        · exact wfFrom_mono (by omega) h3
        · next hv => exact wfFrom_cons.2 ⟨hx, hv, by rw [hxe]; exact h3⟩
      · next hxa hxe => exact wfFrom_cons.2 ⟨h1, h2, ih (by omega) h3⟩

/-- Writing a byte keeps the canonical form. -/
theorem wf_set {m : Cells} {x : Nat} {v : Byte} (w : Memory.wf m = true) : Memory.wf (Cells.set m x v) = true :=
  wfFrom_set (Nat.zero_le x) w

/-- Writing bytes keeps the canonical form. -/
theorem wf_write {m : Cells} {x : Nat} {bs : List Byte} (w : Memory.wf m = true) :
    Memory.wf (Cells.write m x bs) = true := by
  induction bs generalizing m x with
  | nil => exact w
  | cons b bs ih => exact ih (wf_set w)

theorem get_below {m : Cells} {lo x : Nat} (w : Memory.wfFrom lo m = true) (h : x < lo) : Cells.get m x = 0 := by
  cases m with
  | nil => rfl
  | cons c m =>
    obtain ⟨h1, -, -⟩ := wfFrom_cons.1 w
    simp only [Cells.get]
    rw [if_neg (by omega), if_pos (by omega)]

/-- The byte written is read back. -/
theorem get_set_same {m : Cells} {x : Nat} {v : Byte} (w : Memory.wf m = true) : Cells.get (Cells.set m x v) x = v := by
  suffices h : ∀ (m : Cells) (lo : Nat), Memory.wfFrom lo m = true → Cells.get (Cells.set m x v) x = v from h m 0 w
  intro m
  induction m with
  | nil =>
    intro lo _
    by_cases hv : v = 0
    · simp only [Cells.set]
      rw [if_pos hv, hv]
      rfl
    · simp only [Cells.set]
      rw [if_neg hv]
      simp [Cells.get]
  | cons c m ih =>
    obtain ⟨a, b⟩ := c
    intro lo w
    obtain ⟨-, -, h3⟩ := wfFrom_cons.1 w
    simp only [Cells.set]
    split
    · next h =>
      split
      · next hv => simp only [Cells.get]; rw [if_neg (by omega), if_pos h, hv]
      · simp [Cells.get]
    · split
      · next h =>
        split
        · next hv => rw [hv]; exact get_below h3 (by omega)
        · simp [Cells.get]
      · next h1 h2 =>
        simp only [Cells.get]
        rw [if_neg h2, if_neg h1]
        exact ih _ h3

/-- Every other byte is as before. -/
theorem get_set_other {m : Cells} {x y : Nat} {v : Byte} (w : Memory.wf m = true) (h : y ≠ x) :
    Cells.get (Cells.set m x v) y = Cells.get m y := by
  suffices k : ∀ (m : Cells) (lo : Nat), Memory.wfFrom lo m = true → Cells.get (Cells.set m x v) y = Cells.get m y from k m 0 w
  intro m
  induction m with
  | nil =>
    intro lo _
    by_cases hv : v = 0
    · simp [Cells.set, hv]
    · simp only [Cells.set, if_neg hv, Cells.get, if_neg h]
      split <;> rfl
  | cons c m ih =>
    obtain ⟨a, b⟩ := c
    intro lo w
    obtain ⟨-, -, h3⟩ := wfFrom_cons.1 w
    simp only [Cells.set]
    split
    · next hx =>
      split
      · rfl
      · simp only [Cells.get, if_neg h]
        by_cases hy : y < x
        · rw [if_pos hy, if_neg (by omega), if_pos (by omega)]
        · rw [if_neg hy]
    · split
      · next hx he =>
        split
        · simp only [Cells.get]
          rw [if_neg (by omega)]
          split
          · exact get_below h3 (by omega)
          · rfl
        · simp only [Cells.get, if_neg h]
          rw [if_neg (by omega : ¬ y = a), he]
      · next h1 h2 =>
        simp only [Cells.get]
        rw [ih _ h3]

/-- A byte outside the bytes written is as before. -/
theorem get_write_other {m : Cells} {x y : Nat} {bs : List Byte} (w : Memory.wf m = true) (h : y < x ∨ x + bs.length ≤ y) :
    Cells.get (Cells.write m x bs) y = Cells.get m y := by
  induction bs generalizing m x with
  | nil => rfl
  | cons b bs ih =>
    simp only [List.length_cons] at h
    simp only [Cells.write]
    rw [ih (wf_set w) (by omega), get_set_other w (by omega)]

/-- Byte `i` of the bytes written is read back. -/
theorem get_write_same {m : Cells} {x i : Nat} {bs : List Byte} (w : Memory.wf m = true) (h : i < bs.length) :
    Cells.get (Cells.write m x bs) (x + i) = bs[i] := by
  induction bs generalizing m x i with
  | nil => simp at h
  | cons b bs ih =>
    simp only [Cells.write]
    cases i with
    | zero => rw [get_write_other (wf_set w) (by omega), Nat.add_zero, get_set_same w]; rfl
    | succ i =>
      have := ih (m := Cells.set m x b) (x := x + 1) (i := i) (wf_set w) (by simpa using h)
      rw [show x + (i + 1) = x + 1 + i by omega, this]
      rfl

end Sys2Proof.Machine
end

