-- ==== Sys2Proof/Laws/Device.lean ====
section
/-! SUPPORT. Laws/Device.lean: what the device's own operations leave as it was (the rewriting of bad places, notices, error events), and
that every write performed keeps the canonical form of the stacks' memory and of the scratchpads. -/

namespace Sys2Proof.Machine

open Sys2Proof

/-! ## What each operation leaves -/

@[simp] theorem State.rewrite_mem (s : State) (ws : List (Nat × Loc)) : (s.rewrite ws).mem = s.mem := by
  unfold State.rewrite; split <;> rfl
@[simp] theorem State.rewrite_req (s : State) (ws : List (Nat × Loc)) : (s.rewrite ws).req = s.req := by
  unfold State.rewrite; split <;> rfl
@[simp] theorem State.rewrite_pkg (s : State) (ws : List (Nat × Loc)) : (s.rewrite ws).pkg = s.pkg := by
  unfold State.rewrite; split <;> rfl
@[simp] theorem State.rewrite_dies (s : State) (ws : List (Nat × Loc)) : (s.rewrite ws).dies = s.dies := by
  unfold State.rewrite; split <;> rfl
@[simp] theorem State.rewrite_ctxs (s : State) (ws : List (Nat × Loc)) : (s.rewrite ws).ctxs = s.ctxs := by
  unfold State.rewrite; split <;> rfl
@[simp] theorem State.rewrite_meridian (s : State) (ws : List (Nat × Loc)) : (s.rewrite ws).meridian = s.meridian := by
  unfold State.rewrite; split <;> rfl
@[simp] theorem State.rewrite_cycles (s : State) (ws : List (Nat × Loc)) : (s.rewrite ws).cycles = s.cycles := by
  unfold State.rewrite; split <;> rfl
@[simp] theorem State.rewrite_cycleAcc (s : State) (ws : List (Nat × Loc)) : (s.rewrite ws).cycleAcc = s.cycleAcc := by
  unfold State.rewrite; split <;> rfl
@[simp] theorem State.rewrite_agenda (s : State) (ws : List (Nat × Loc)) : (s.rewrite ws).agenda = s.agenda := by
  unfold State.rewrite; split <;> rfl
@[simp] theorem State.rewrite_cur (s : State) (ws : List (Nat × Loc)) : (s.rewrite ws).cur = s.cur := by
  unfold State.rewrite; split <;> rfl
@[simp] theorem State.rewrite_freeCtr (s : State) (ws : List (Nat × Loc)) : (s.rewrite ws).freeCtr = s.freeCtr := by
  unfold State.rewrite; split <;> rfl
@[simp] theorem State.rewrite_hostOut (s : State) (ws : List (Nat × Loc)) : (s.rewrite ws).hostOut = s.hostOut := by
  unfold State.rewrite; split <;> rfl
@[simp] theorem State.rewrite_linkOut (s : State) (ws : List (Nat × Loc)) : (s.rewrite ws).linkOut = s.linkOut := by
  unfold State.rewrite; split <;> rfl

@[simp] theorem State.spoil_mem (s : State) (sec : Nat) : (s.spoil sec).mem = s.mem := rfl
@[simp] theorem State.spoil_req (s : State) (sec : Nat) : (s.spoil sec).req = s.req := rfl
@[simp] theorem State.spoil_pkg (s : State) (sec : Nat) : (s.spoil sec).pkg = s.pkg := rfl
@[simp] theorem State.spoil_dies (s : State) (sec : Nat) : (s.spoil sec).dies = s.dies := rfl
@[simp] theorem State.spoil_ctxs (s : State) (sec : Nat) : (s.spoil sec).ctxs = s.ctxs := rfl
@[simp] theorem State.spoil_meridian (s : State) (sec : Nat) : (s.spoil sec).meridian = s.meridian := rfl
@[simp] theorem State.spoil_cycles (s : State) (sec : Nat) : (s.spoil sec).cycles = s.cycles := rfl
@[simp] theorem State.spoil_cycleAcc (s : State) (sec : Nat) : (s.spoil sec).cycleAcc = s.cycleAcc := rfl
@[simp] theorem State.spoil_agenda (s : State) (sec : Nat) : (s.spoil sec).agenda = s.agenda := rfl
@[simp] theorem State.spoil_cur (s : State) (sec : Nat) : (s.spoil sec).cur = s.cur := rfl
@[simp] theorem State.spoil_freeCtr (s : State) (sec : Nat) : (s.spoil sec).freeCtr = s.freeCtr := rfl
@[simp] theorem State.spoil_hostOut (s : State) (sec : Nat) : (s.spoil sec).hostOut = s.hostOut := rfl
@[simp] theorem State.spoil_linkOut (s : State) (sec : Nat) : (s.spoil sec).linkOut = s.linkOut := rfl

@[simp] theorem State.write_req (s : State) (pa : Nat) (bs : List Byte) : (s.write pa bs).req = s.req := by
  unfold State.write; split <;> simp
@[simp] theorem State.write_pkg (s : State) (pa : Nat) (bs : List Byte) : (s.write pa bs).pkg = s.pkg := by
  unfold State.write; split <;> simp
@[simp] theorem State.write_dies (s : State) (pa : Nat) (bs : List Byte) : (s.write pa bs).dies = s.dies := by
  unfold State.write; split <;> simp
@[simp] theorem State.write_ctxs (s : State) (pa : Nat) (bs : List Byte) : (s.write pa bs).ctxs = s.ctxs := by
  unfold State.write; split <;> simp
@[simp] theorem State.write_meridian (s : State) (pa : Nat) (bs : List Byte) : (s.write pa bs).meridian = s.meridian := by
  unfold State.write; split <;> simp
@[simp] theorem State.write_cycles (s : State) (pa : Nat) (bs : List Byte) : (s.write pa bs).cycles = s.cycles := by
  unfold State.write; split <;> simp
@[simp] theorem State.write_cycleAcc (s : State) (pa : Nat) (bs : List Byte) : (s.write pa bs).cycleAcc = s.cycleAcc := by
  unfold State.write; split <;> simp
@[simp] theorem State.write_agenda (s : State) (pa : Nat) (bs : List Byte) : (s.write pa bs).agenda = s.agenda := by
  unfold State.write; split <;> simp
@[simp] theorem State.write_cur (s : State) (pa : Nat) (bs : List Byte) : (s.write pa bs).cur = s.cur := by
  unfold State.write; split <;> simp
@[simp] theorem State.write_freeCtr (s : State) (pa : Nat) (bs : List Byte) : (s.write pa bs).freeCtr = s.freeCtr := by
  unfold State.write; split <;> simp
@[simp] theorem State.write_hostOut (s : State) (pa : Nat) (bs : List Byte) : (s.write pa bs).hostOut = s.hostOut := by
  unfold State.write; split <;> simp
@[simp] theorem State.write_linkOut (s : State) (pa : Nat) (bs : List Byte) : (s.write pa bs).linkOut = s.linkOut := by
  unfold State.write; split <;> simp

@[simp] theorem State.noteEvent_mem (s : State) (d key : Nat) : (s.noteEvent d key).mem = s.mem := rfl
@[simp] theorem State.noteEvent_poison (s : State) (d key : Nat) : (s.noteEvent d key).poison = s.poison := rfl
@[simp] theorem State.noteEvent_soft (s : State) (d key : Nat) : (s.noteEvent d key).soft = s.soft := rfl
@[simp] theorem State.noteEvent_mended (s : State) (d key : Nat) : (s.noteEvent d key).mended = s.mended := rfl
@[simp] theorem State.noteEvent_pkg (s : State) (d key : Nat) : (s.noteEvent d key).pkg = s.pkg := rfl
@[simp] theorem State.noteEvent_dies (s : State) (d key : Nat) : (s.noteEvent d key).dies = s.dies := rfl
@[simp] theorem State.noteEvent_ctxs (s : State) (d key : Nat) : (s.noteEvent d key).ctxs = s.ctxs := rfl
@[simp] theorem State.noteEvent_meridian (s : State) (d key : Nat) : (s.noteEvent d key).meridian = s.meridian := rfl
@[simp] theorem State.noteEvent_cycles (s : State) (d key : Nat) : (s.noteEvent d key).cycles = s.cycles := rfl
@[simp] theorem State.noteEvent_cycleAcc (s : State) (d key : Nat) : (s.noteEvent d key).cycleAcc = s.cycleAcc := rfl
@[simp] theorem State.noteEvent_agenda (s : State) (d key : Nat) : (s.noteEvent d key).agenda = s.agenda := rfl
@[simp] theorem State.noteEvent_cur (s : State) (d key : Nat) : (s.noteEvent d key).cur = s.cur := rfl
@[simp] theorem State.noteEvent_freeCtr (s : State) (d key : Nat) : (s.noteEvent d key).freeCtr = s.freeCtr := rfl
@[simp] theorem State.noteEvent_hostOut (s : State) (d key : Nat) : (s.noteEvent d key).hostOut = s.hostOut := rfl
@[simp] theorem State.noteEvent_linkOut (s : State) (d key : Nat) : (s.noteEvent d key).linkOut = s.linkOut := rfl

@[simp] theorem State.notice_mem (s : State) (bit : Nat) : (s.notice bit).mem = s.mem := by
  unfold State.notice; split <;> rfl
@[simp] theorem State.notice_poison (s : State) (bit : Nat) : (s.notice bit).poison = s.poison := by
  unfold State.notice; split <;> rfl
@[simp] theorem State.notice_soft (s : State) (bit : Nat) : (s.notice bit).soft = s.soft := by
  unfold State.notice; split <;> rfl
@[simp] theorem State.notice_mended (s : State) (bit : Nat) : (s.notice bit).mended = s.mended := by
  unfold State.notice; split <;> rfl
@[simp] theorem State.notice_req (s : State) (bit : Nat) : (s.notice bit).req = s.req := by
  unfold State.notice; split <;> rfl
@[simp] theorem State.notice_dies (s : State) (bit : Nat) : (s.notice bit).dies = s.dies := by
  unfold State.notice; split <;> rfl
@[simp] theorem State.notice_ctxs (s : State) (bit : Nat) : (s.notice bit).ctxs = s.ctxs := by
  unfold State.notice; split <;> rfl
@[simp] theorem State.notice_meridian (s : State) (bit : Nat) : (s.notice bit).meridian = s.meridian := by
  unfold State.notice; split <;> rfl
@[simp] theorem State.notice_cycles (s : State) (bit : Nat) : (s.notice bit).cycles = s.cycles := by
  unfold State.notice; split <;> rfl
@[simp] theorem State.notice_cycleAcc (s : State) (bit : Nat) : (s.notice bit).cycleAcc = s.cycleAcc := by
  unfold State.notice; split <;> rfl
@[simp] theorem State.notice_agenda (s : State) (bit : Nat) : (s.notice bit).agenda = s.agenda := by
  unfold State.notice; split <;> rfl
@[simp] theorem State.notice_cur (s : State) (bit : Nat) : (s.notice bit).cur = s.cur := by
  unfold State.notice; split <;> rfl
@[simp] theorem State.notice_freeCtr (s : State) (bit : Nat) : (s.notice bit).freeCtr = s.freeCtr := by
  unfold State.notice; split <;> rfl
@[simp] theorem State.notice_linkOut (s : State) (bit : Nat) : (s.notice bit).linkOut = s.linkOut := by
  unfold State.notice; split <;> rfl

@[simp] theorem State.logEvent_mem (s : State) (d chan event cause addr slot : Nat) (info : BitVec 32) : (s.logEvent d chan event cause addr slot info).mem = s.mem := by
  simp [State.logEvent, State.nextSeq]
@[simp] theorem State.logEvent_poison (s : State) (d chan event cause addr slot : Nat) (info : BitVec 32) : (s.logEvent d chan event cause addr slot info).poison = s.poison := by
  simp [State.logEvent, State.nextSeq]
@[simp] theorem State.logEvent_soft (s : State) (d chan event cause addr slot : Nat) (info : BitVec 32) : (s.logEvent d chan event cause addr slot info).soft = s.soft := by
  simp [State.logEvent, State.nextSeq]
@[simp] theorem State.logEvent_mended (s : State) (d chan event cause addr slot : Nat) (info : BitVec 32) : (s.logEvent d chan event cause addr slot info).mended = s.mended := by
  simp [State.logEvent, State.nextSeq]
@[simp] theorem State.logEvent_ctxs (s : State) (d chan event cause addr slot : Nat) (info : BitVec 32) : (s.logEvent d chan event cause addr slot info).ctxs = s.ctxs := by
  simp [State.logEvent, State.nextSeq]
@[simp] theorem State.logEvent_meridian (s : State) (d chan event cause addr slot : Nat) (info : BitVec 32) : (s.logEvent d chan event cause addr slot info).meridian = s.meridian := by
  simp [State.logEvent, State.nextSeq]
@[simp] theorem State.logEvent_cycles (s : State) (d chan event cause addr slot : Nat) (info : BitVec 32) : (s.logEvent d chan event cause addr slot info).cycles = s.cycles := by
  simp [State.logEvent, State.nextSeq]
@[simp] theorem State.logEvent_cycleAcc (s : State) (d chan event cause addr slot : Nat) (info : BitVec 32) : (s.logEvent d chan event cause addr slot info).cycleAcc = s.cycleAcc := by
  simp [State.logEvent, State.nextSeq]
@[simp] theorem State.logEvent_agenda (s : State) (d chan event cause addr slot : Nat) (info : BitVec 32) : (s.logEvent d chan event cause addr slot info).agenda = s.agenda := by
  simp [State.logEvent, State.nextSeq]
@[simp] theorem State.logEvent_cur (s : State) (d chan event cause addr slot : Nat) (info : BitVec 32) : (s.logEvent d chan event cause addr slot info).cur = s.cur := by
  simp [State.logEvent, State.nextSeq]
@[simp] theorem State.logEvent_freeCtr (s : State) (d chan event cause addr slot : Nat) (info : BitVec 32) : (s.logEvent d chan event cause addr slot info).freeCtr = s.freeCtr := by
  simp [State.logEvent, State.nextSeq]
@[simp] theorem State.logEvent_linkOut (s : State) (d chan event cause addr slot : Nat) (info : BitVec 32) : (s.logEvent d chan event cause addr slot info).linkOut = s.linkOut := by
  simp [State.logEvent, State.nextSeq]

/-! ## The canonical form -/

theorem memoryOk_write {s : State} (h : s.MemoryOk) (pa : Nat) (bs : List Byte) : (s.write pa bs).MemoryOk := by
  unfold State.write
  split
  · exact h
  · exact wf_write h

/-- The contexts after a change of one logical core are those before but for that core. -/
theorem scratchOk_modLc {s : State} (h : s.ScratchOk) (slot lcid : Nat) (f : LogicalCore → LogicalCore)
    (hf : ∀ l, Memory.wf l.scratch = true → Memory.wf (f l).scratch = true) : (s.modLc slot lcid f).ScratchOk := by
  intro k c hc l hl
  by_cases hk : k = slot
  · subst hk
    rw [State.modLc, ctx_modCtx_same] at hc
    obtain ⟨d, hd, rfl⟩ := Option.map_eq_some_iff.mp hc
    simp only [Context.modLc, regMod] at hl
    split at hl
    · exact h k d hd l hl
    · next x hx =>
      rcases List.mem_or_eq_of_mem_set hl with hl | rfl
      · exact h k d hd l hl
      · exact hf x (h k d hd x (List.mem_of_getElem? hx))
  · rw [State.modLc, ctx_modCtx_other _ _ hk] at hc
    exact h k c hc l hl

theorem memoryOk_putByteWr {s : State} (h : s.MemoryOk) (slot : Nat) (w : ByteWr) : (s.putByteWr slot w).MemoryOk := by
  unfold State.putByteWr
  split
  · split
    · exact h
    · exact wf_set h
  · simpa [State.MemoryOk] using h
  · simpa [State.MemoryOk] using h

theorem scratchOk_modGroup {s : State} (h : s.ScratchOk) (r : GroupRef) (f : Group → Group) : (s.modGroup r f).ScratchOk := by
  intro k c hc l hl
  by_cases hk : k = r.slot
  · subst hk
    rw [State.modGroup, ctx_modCtx_same] at hc
    obtain ⟨d, hd, rfl⟩ := Option.map_eq_some_iff.mp hc
    exact h r.slot d hd l hl
  · rw [State.modGroup, ctx_modCtx_other _ _ hk] at hc
    exact h k c hc l hl

theorem scratchOk_putByteWr {s : State} (h : s.ScratchOk) (slot : Nat) (w : ByteWr) : (s.putByteWr slot w).ScratchOk := by
  unfold State.putByteWr
  split
  · split <;> exact h
  · exact scratchOk_modLc h _ _ _ (fun _ hl => wf_set hl)
  · exact scratchOk_modGroup h _ _

/-- A batch of writes keeps the form of the scratchpads. -/
theorem scratchOk_putAll {s : State} (h : s.ScratchOk) (slot : Nat) (ws : List ByteWr) : (s.putAll slot ws).ScratchOk := by
  suffices k : (ws.foldl (fun acc w => acc.putByteWr slot w) s).ScratchOk by
    simpa [State.putAll, State.ScratchOk, State.ctx] using k
  induction ws generalizing s with
  | nil => exact h
  | cons w ws ih => exact ih (scratchOk_putByteWr h slot w)

/-- A batch of writes keeps the form of the stacks' memory. -/
theorem memoryOk_putAll {s : State} (h : s.MemoryOk) (slot : Nat) (ws : List ByteWr) : (s.putAll slot ws).MemoryOk := by
  suffices k : (ws.foldl (fun acc w => acc.putByteWr slot w) s).MemoryOk by simpa [State.putAll, State.MemoryOk] using k
  induction ws generalizing s with
  | nil => exact h
  | cons w ws ih => exact ih (memoryOk_putByteWr h slot w)

end Sys2Proof.Machine
end

