-- ==== Sys2Proof/Laws/Encoding.lean ====
section
/-! SUPPORT. Laws/Encoding.lean: what the field functions of Decode.lean read back from what they write: the common fields of a
word, the fields of each format, the codes, and the operand fields. -/

namespace Sys2Proof

/-! ## The common fields -/

theorem extract_low {n m s l : Nat} (x : BitVec n) (y : BitVec m) (h : s + l ≤ m) :
    (x ++ y).extractLsb' s l = y.extractLsb' s l := BitVec.extractLsb'_append_eq_of_add_le h

theorem extract_high {n m s l : Nat} (x : BitVec n) (y : BitVec m) (h : m ≤ s) :
    (x ++ y).extractLsb' s l = x.extractLsb' (s - m) l := BitVec.extractLsb'_append_eq_of_le h

theorem lsb_low {n m i : Nat} (x : BitVec n) (y : BitVec m) (h : i < m) : (x ++ y).getLsbD i = y.getLsbD i := by
  rw [BitVec.getLsbD_append, if_pos h]

theorem lsb_high {n m i : Nat} (x : BitVec n) (y : BitVec m) (h : m ≤ i) :
    (x ++ y).getLsbD i = x.getLsbD (i - m) := by
  rw [BitVec.getLsbD_append, if_neg (by omega)]

@[simp] theorem wordMaj_word (m : BitVec 8) (la : LA) (g : Guard) (p : BitVec 48) : wordMaj (word m la g p) = m := by
  simp (disch := decide) only [wordMaj, word, extract_high]
  exact BitVec.extractLsb'_eq_self

@[simp] theorem wordLA_word (m : BitVec 8) (la : LA) (g : Guard) (p : BitVec 48) : wordLA (word m la g p) = la := by
  simp (disch := decide) only [wordLA, word, extract_high, extract_low]
  exact BitVec.extractLsb'_eq_self

@[simp] theorem wordBits_word (m : BitVec 8) (la : LA) (g : Guard) (p : BitVec 48) : wordBits (word m la g p) = p := by
  simp (disch := decide) only [wordBits, word, extract_low]
  exact BitVec.extractLsb'_eq_self

@[simp] theorem wordGuard_word (m : BitVec 8) (la : LA) (g : Guard) (p : BitVec 48) : wordGuard (word m la g p) = g := by
  simp (disch := decide) only [wordGuard, word, extract_high, extract_low, lsb_high, lsb_low]
  cases g with
  | mk n q => cases n <;> simp

/-! ## Formats -/

theorem lsb_ofBool (b : Bool) : (BitVec.ofBool b).getLsbD 0 = b := by cases b <;> rfl

@[simp] theorem fieldsV_of_bits (f : FieldsV) : FieldsV.of f.bits = f := by
  cases f
  simp (disch := decide) only [FieldsV.of, FieldsV.bits, extract_high, extract_low, lsb_high, lsb_low]
  simp [BitVec.extractLsb'_eq_self]

@[simp] theorem fieldsI_of_bits (f : FieldsI) : FieldsI.of f.bits = f := by
  cases f
  simp (disch := decide) only [FieldsI.of, FieldsI.bits, extract_high, extract_low]
  simp [BitVec.extractLsb'_eq_self]

@[simp] theorem fieldsM_of_bits (f : FieldsM) : FieldsM.of f.bits = f := by
  cases f
  simp (disch := decide) only [FieldsM.of, FieldsM.bits, extract_high, extract_low, lsb_high, lsb_low]
  simp [BitVec.extractLsb'_eq_self]

@[simp] theorem fieldsA_of_bits (f : FieldsA) : FieldsA.of f.bits = f := by
  cases f
  simp (disch := decide) only [FieldsA.of, FieldsA.bits, extract_high, extract_low]
  simp [BitVec.extractLsb'_eq_self]

@[simp] theorem fieldsC2_of_bits (f : FieldsC2) : FieldsC2.of f.bits = f := by
  cases f
  simp (disch := decide) only [FieldsC2.of, FieldsC2.bits, extract_high, extract_low, lsb_high, lsb_low]
  simp [BitVec.extractLsb'_eq_self]

@[simp] theorem fieldsX_of_bits (f : FieldsX) : FieldsX.of f.bits = f := by
  cases f
  simp (disch := decide) only [FieldsX.of, FieldsX.bits, extract_high, extract_low, lsb_high, lsb_low]
  simp [BitVec.extractLsb'_eq_self]

/-! ## Codes -/

@[simp] theorem intTy_ofCode (t : IntTy) : IntTy.ofCode t.code = some t := by cases t <;> rfl
@[simp] theorem fTy_ofCode (t : FTy) : FTy.ofCode t.code = some t := by cases t <;> rfl
@[simp] theorem redTy_ofCode (t : RedTy) : RedTy.ofCode t.code = some t := by
  cases t with
  | int t => cases t <;> rfl
  | f32 => rfl
@[simp] theorem cvtTy_ofCode (t : CvtTy) : CvtTy.ofCode t.code = some t := by
  cases t with
  | int t => cases t <;> rfl
  | f32 => rfl
  | f64 => rfl
  | f16 => rfl
  | bf16 => rfl
@[simp] theorem rnd_ofCode (r : Rnd) : Rnd.ofCode r.code = r := by cases r <;> rfl
@[simp] theorem ord_ofCode (o : Ord) : Ord.ofCode o.code = some o := by cases o <;> rfl
@[simp] theorem scope_ofCode (o : Scope) : Scope.ofCode o.code = some o := by cases o <;> rfl
@[simp] theorem reuse_ofCode (o : Reuse) : Reuse.ofCode o.code = some o := by cases o <;> rfl
@[simp] theorem nElem_ofCode (o : NElem) : NElem.ofCode o.code = some o := by cases o <;> rfl
@[simp] theorem cond_ofCode (c : Cond) : Cond.ofCode c.code = some c := by cases c <;> rfl
@[simp] theorem cond_ofCode_sub (c : Cond) : Cond.ofCode ((c.code.setWidth 5).setWidth 4) = some c := by cases c <;> rfl
@[simp] theorem fRel_ofCode (c : FRel) : FRel.ofCode c.code = c := by cases c <;> rfl
@[simp] theorem atomOp_ofCode (o : AtomOp) : AtomOp.ofCode o.code = some o := by cases o <;> rfl
@[simp] theorem atomTy_ofCode (t : AtomTy) : AtomTy.ofCode t.code = some t := by cases t <;> rfl
@[simp] theorem redOp_ofCode (o : RedOp) : RedOp.ofCode o.code = some o := by cases o <;> rfl
@[simp] theorem spSize_ofCode (z : SpSize) : SpSize.ofCode z.code = some z := by cases z <;> rfl
@[simp] theorem shflMode_ofCode (m : ShflMode) : ShflMode.ofCode m.code = some m := by cases m <;> rfl

/-! ## Operand fields -/

@[simp] theorem sOf_sField (r : SReg) : sOf (sField r) = r := by simp [sOf, sField]
@[simp] theorem pOf_pField (r : PReg) : pOf (pField r) = r := by simp [pOf, pField]
@[simp] theorem nOf_nField (r : BitVec 4) : nOf (nField r) = r := by simp [nOf, nField]
@[simp] theorem kOf_kField (r : BitVec 2) : kOf (kField r) = r := by simp [kOf, kField]

@[simp] theorem dst_of_field (d : Dst) : Dst.of d.isS d.field = d := by cases d <;> simp [Dst.of, Dst.isS, Dst.field]

/-- A register source that is well-formed in its form reads back. -/
theorem src_of_field {u w : Bool} {a : Src} (h : regSrc u w a = true) : Src.of u (a.k u) a.field = a := by
  cases u <;> cases a <;> simp_all [regSrc, Src.of, Src.k, Src.field, Src.isImm, Src.isV]

/-- So does a last source. -/
theorem src_lastOf_field {u w : Bool} {b : Src} (h : lastSrc u w b = true) :
    Src.lastOf u b.isImm (b.k u) b.field = b := by
  cases u <;> cases b <;> simp_all [lastSrc, Src.of, Src.lastOf, Src.k, Src.field, Src.isImm, Src.isV]

theorem psrc_of_field {u : Bool} {p : PSrc} (h : !u || p.uni) : PSrc.of u (p.k u) p.field = p := by
  obtain ⟨v, p⟩ := p
  cases u <;> cases v <;> simp_all [PSrc.of, PSrc.k, PSrc.field]

@[simp] theorem mOperand_of_field (o : MOperand) : MOperand.of o.k o.field = o := by
  cases o <;> simp [MOperand.of, MOperand.k, MOperand.field]

/-! ## Codes inside SUB and other fields -/

theorem sub_num (b : Bool) : ((if b = true then (1 : BitVec 5) else 0) = 1) = (b = true) := by cases b <;> simp

theorem sub_opB (b : Bool) : ((if b = true then (1 : BitVec 12) else 0) = 1) = (b = true) := by cases b <;> simp

theorem sub_sx (b : Bool) : (if b = true then (1 : BitVec 4) else 0).getLsbD 0 = b := by cases b <;> rfl

theorem memS_size (b : Bool) (z : SpSize) :
    SpSize.ofCode ((BitVec.ofBool b ++ z.code).extractLsb' 0 3) = some z := by cases b <;> cases z <;> rfl

theorem memS_sx (b : Bool) (z : SpSize) : (BitVec.ofBool b ++ z.code).getLsbD 3 = b := by
  cases b <;> cases z <;> rfl

theorem redOp_sub (o : RedOp) : RedOp.ofCode ((o.code.setWidth 5).extractLsb' 0 3) = some o := by cases o <;> rfl

theorem redOp_scan (b : Bool) (o : RedOp) :
    RedOp.ofCode (((0 : BitVec 1) ++ BitVec.ofBool b ++ o.code).extractLsb' 0 3) = some o := by
  cases b <;> cases o <;> rfl

theorem scan_excl (b : Bool) (o : RedOp) : ((0 : BitVec 1) ++ BitVec.ofBool b ++ o.code).getLsbD 3 = b := by
  cases b <;> cases o <;> rfl

theorem fRel_sub (b : Bool) (o : FRel) :
    FRel.ofCode (((0 : BitVec 1) ++ BitVec.ofBool b ++ o.code).extractLsb' 0 3) = o := by
  cases b <;> cases o <;> rfl

theorem fcmp_sig (b : Bool) (o : FRel) : ((0 : BitVec 1) ++ BitVec.ofBool b ++ o.code).getLsbD 3 = b := by
  cases b <;> cases o <;> rfl

theorem scope_field (o : Scope) : Scope.ofCode ((o.code.setWidth 8).extractLsb' 0 3) = some o := by cases o <;> rfl

theorem fenceSub_ne (o : Ord) : fenceSub o ≠ 10 := by cases o <;> decide

theorem fenceSub_ord (o : Ord) : Ord.ofCode ((fenceSub o).extractLsb' 0 3) = some o := by cases o <;> rfl

theorem three_bits (k : BitVec 3) : (k.setWidth 8).extractLsb' 0 3 = k := by revert k; decide

theorem two_bits (k : BitVec 2) : (k.setWidth 4).extractLsb' 0 2 = k := by revert k; decide

theorem five_bits (k : BitVec 5) : (k.setWidth 8).setWidth 5 = k := by simp

theorem two_bytes (c : BitVec 16) : c.extractLsb' 8 8 ++ c.extractLsb' 0 8 = c := by
  have h := BitVec.extractLsb'_append_extractLsb'_eq_extractLsb' (x := c) (start₁ := 0) (len₁ := 8) (start₂ := 8) (len₂ := 8) rfl
  exact h.trans BitVec.extractLsb'_eq_self

end Sys2Proof
end

