-- ==== Sys2Proof/Laws/Home.lean ====
section
/-! SUPPORT. Laws/Home.lean: what an access at the home slices can do: it changes memory, the marks of bad places, the dies and the requests
of the turn, and nothing else; and it keeps the canonical form of memory. -/

namespace Sys2Proof.Machine

open Sys2Proof

/-- `t` differs from `s` in memory, the marks of bad places, the dies and the requests of the turn at most. -/
def HomeOnly (s t : State) : Prop :=
  t = { s with mem := t.mem, poison := t.poison, soft := t.soft, mended := t.mended, dies := t.dies, req := t.req }

theorem HomeOnly.refl (s : State) : HomeOnly s s := rfl

theorem HomeOnly.trans {s t u : State} (h : HomeOnly s t) (h' : HomeOnly t u) : HomeOnly s u := by
  unfold HomeOnly at *
  rw [h] at h'
  exact h'

theorem HomeOnly.pkg {s t : State} (h : HomeOnly s t) : t.pkg = s.pkg := by rw [h]
theorem HomeOnly.ctxs {s t : State} (h : HomeOnly s t) : t.ctxs = s.ctxs := by rw [h]
theorem HomeOnly.meridian {s t : State} (h : HomeOnly s t) : t.meridian = s.meridian := by rw [h]
theorem HomeOnly.cycles {s t : State} (h : HomeOnly s t) : t.cycles = s.cycles := by rw [h]
theorem HomeOnly.agenda {s t : State} (h : HomeOnly s t) : t.agenda = s.agenda := by rw [h]
theorem HomeOnly.cur {s t : State} (h : HomeOnly s t) : t.cur = s.cur := by rw [h]
theorem HomeOnly.freeCtr {s t : State} (h : HomeOnly s t) : t.freeCtr = s.freeCtr := by rw [h]
theorem HomeOnly.hostOut {s t : State} (h : HomeOnly s t) : t.hostOut = s.hostOut := by rw [h]
theorem HomeOnly.linkOut {s t : State} (h : HomeOnly s t) : t.linkOut = s.linkOut := by rw [h]

/-- A fold of such operations is one. -/
theorem homeOnly_foldl {α : Type} {f : State → α → State} (h : ∀ s a, HomeOnly s (f s a)) (l : List α) (s : State) :
    HomeOnly s (l.foldl f s) := by
  induction l generalizing s with
  | nil => rfl
  | cons a l ih => exact (h s a).trans (ih _)

/-! ## Each operation -/

theorem homeOnly_spoil (s : State) (sec : Nat) : HomeOnly s (s.spoil sec) := rfl
theorem homeOnly_modDie (s : State) (d : Nat) (f : Die → Die) : HomeOnly s (s.modDie d f) := rfl
theorem homeOnly_modTier (s : State) (hs : Nat) (f : Tier → Tier) : HomeOnly s (s.modTier hs f) := rfl

theorem homeOnly_rewrite (s : State) (ws : List (Nat × Loc)) : HomeOnly s (s.rewrite ws) := by
  unfold State.rewrite; split <;> rfl

theorem homeOnly_write (s : State) (pa : Nat) (bs : List Byte) : HomeOnly s (s.write pa bs) := by
  unfold State.write
  split
  · rfl
  · exact (homeOnly_rewrite s _).trans rfl

theorem homeOnly_writeBack (s : State) (line : Nat) (bad : Nat → Bool) : HomeOnly s (s.writeBack line bad) :=
  (homeOnly_foldl homeOnly_spoil _ s).trans rfl

theorem homeOnly_putOut (s : State) (x : L2Line) : HomeOnly s (s.putOut x) := by
  unfold State.putOut
  split
  · rfl
  · dsimp only
    split
    · exact HomeOnly.trans (t := { s with soft := s.soft.filter (fun p => p != .l2 x.line) }) rfl (homeOnly_writeBack _ _ _)
    · rfl

theorem homeOnly_putLines (s : State) (d : Nat) (new : List L2Line) : HomeOnly s (s.putLines d new) := by
  unfold State.putLines
  dsimp only
  split
  · rfl
  · exact (homeOnly_modDie s d _).trans (homeOnly_foldl homeOnly_putOut _ _)

theorem homeOnly_passLine (s : State) (line off n : Nat) : HomeOnly s (s.passLine line off n) := by
  unfold State.passLine
  split
  · rfl
  · exact homeOnly_writeBack _ _ _

theorem HomeOnly.req {s t : State} (h : HomeOnly s t) (q : Requests) : HomeOnly s { t with req := q } := h.trans rfl

theorem homeOnly_l2Line (s : State) (cls hint : Nat) (wr : Bool) (line off n : Nat) : HomeOnly s (s.l2Line cls hint wr line off n) := by
  unfold State.l2Line
  dsimp only
  split_ifs <;> first
    | exact HomeOnly.refl s
    | exact HomeOnly.req (HomeOnly.refl s) _
    | exact HomeOnly.req (homeOnly_putLines s _ _) _
    | exact HomeOnly.req ((homeOnly_putLines s _ _).trans (homeOnly_passLine _ line off n)) _
    | exact HomeOnly.req ((homeOnly_modDie s _ _).trans (homeOnly_passLine _ line off n)) _

theorem homeOnly_l2Touch (s : State) (pa n cls hint : Nat) (wr : Bool) : HomeOnly s (s.l2Touch pa n cls hint wr) :=
  homeOnly_foldl (fun s (l : Nat × Nat × Nat) => homeOnly_l2Line s cls hint wr l.1 l.2.1 l.2.2) _ s

theorem homeOnly_pullUnit (s : State) (m : MovePage) (i : Nat) (touch : Bool) : HomeOnly s (s.pullUnit m i touch) := by
  unfold State.pullUnit
  split
  · rfl
  · have h := ((homeOnly_write s (m.dst * 65536 + i * m.unit) (s.moveSource m i)).trans
      (homeOnly_foldl (fun s k => homeOnly_spoil s (2048 * m.dst + k)) (s.moveBad m i) _))
    dsimp only
    split
    · exact h.trans rfl
    · exact h.trans rfl

theorem homeOnly_pullAt (s : State) (pa : Nat) : HomeOnly s (s.pullAt pa) := by
  unfold State.pullAt
  split
  · exact homeOnly_pullUnit _ _ _ _
  · rfl

theorem homeOnly_pullRange (s : State) (pa n : Nat) : HomeOnly s (s.pullRange pa n) :=
  homeOnly_foldl (fun s l => homeOnly_pullAt s (128 * l)) _ s

/-- What an access at the home slices can do. -/
theorem homeOnly_homeAccess (s : State) (pa n : Nat) (wr : Bool) : HomeOnly s (s.homeAccess pa n wr) :=
  (homeOnly_pullRange s pa n).trans (homeOnly_l2Touch _ _ _ _ _ _)

/-- What a write at the home slices can do. -/
theorem homeOnly_homeWrite (s : State) (pa : Nat) (bs : List Byte) : HomeOnly s (s.homeWrite pa bs) :=
  (homeOnly_homeAccess s pa bs.length true).trans (homeOnly_write _ _ _)

/-! ## Memory -/

@[simp] theorem State.writeBack_mem (s : State) (line : Nat) (bad : Nat → Bool) : (s.writeBack line bad).mem = s.mem := by
  unfold State.writeBack
  dsimp only
  generalize ((List.range 4).filter bad).map (fun k => 4 * line + k) = l
  induction l generalizing s with
  | nil => rfl
  | cons a l ih => exact (ih (s.spoil a)).trans rfl

@[simp] theorem State.putOut_mem (s : State) (x : L2Line) : (s.putOut x).mem = s.mem := by
  unfold State.putOut
  split
  · rfl
  · dsimp only
    split
    · rw [State.writeBack_mem]
    · rfl

@[simp] theorem State.putLines_mem (s : State) (d : Nat) (new : List L2Line) : (s.putLines d new).mem = s.mem := by
  unfold State.putLines
  dsimp only
  split
  · rfl
  · generalize ((s.die d).l2.filter fun x => !new.any fun y => y.line == x.line) = l
    have h : ∀ (l : List L2Line) (t : State), (l.foldl State.putOut t).mem = t.mem := by
      intro l
      induction l with
      | nil => intro t; rfl
      | cons a l ih => intro t; exact (ih _).trans (State.putOut_mem t a)
    exact h l _

@[simp] theorem State.passLine_mem (s : State) (line off n : Nat) : (s.passLine line off n).mem = s.mem := by
  unfold State.passLine; split <;> simp

/-- The request for a line leaves memory as it is. -/
@[simp] theorem State.l2Line_mem (s : State) (cls hint : Nat) (wr : Bool) (line off n : Nat) :
    (s.l2Line cls hint wr line off n).mem = s.mem := by
  unfold State.l2Line
  dsimp only
  split_ifs <;> simp [State.modDie]

@[simp] theorem State.l2Touch_mem (s : State) (pa n cls hint : Nat) (wr : Bool) : (s.l2Touch pa n cls hint wr).mem = s.mem := by
  unfold State.l2Touch
  generalize lineParts pa n = l
  induction l generalizing s with
  | nil => rfl
  | cons a l ih => exact (ih _).trans (State.l2Line_mem ..)

theorem memoryOk_pullUnit {s : State} (h : s.MemoryOk) (m : MovePage) (i : Nat) (touch : Bool) : (s.pullUnit m i touch).MemoryOk := by
  unfold State.pullUnit
  split
  · exact h
  · have hm : ∀ (l : List Nat) (t : State), (l.foldl (fun acc k => acc.spoil (2048 * m.dst + k)) t).mem = t.mem := by
      intro l
      induction l with
      | nil => intro t; rfl
      | cons a l ih => intro t; exact ih _
    have hw := memoryOk_write h (m.dst * 65536 + i * m.unit) (s.moveSource m i)
    have hf := (congrArg Memory.wf (hm (s.moveBad m i) (s.write (m.dst * 65536 + i * m.unit) (s.moveSource m i)))).trans hw
    dsimp only
    split
    · exact hf
    · exact hf

theorem memoryOk_pullRange {s : State} (h : s.MemoryOk) (pa n : Nat) : (s.pullRange pa n).MemoryOk := by
  unfold State.pullRange
  generalize lineNums pa n = l
  induction l generalizing s with
  | nil => exact h
  | cons a l ih =>
    refine ih (?_ : (s.pullAt (128 * a)).MemoryOk)
    unfold State.pullAt
    split
    · exact memoryOk_pullUnit h _ _ _
    · exact h

theorem memoryOk_homeAccess {s : State} (h : s.MemoryOk) (pa n : Nat) (wr : Bool) : (s.homeAccess pa n wr).MemoryOk :=
  (congrArg Memory.wf (State.l2Touch_mem ..)).trans (memoryOk_pullRange h pa n)

theorem memoryOk_homeWrite {s : State} (h : s.MemoryOk) (pa : Nat) (bs : List Byte) : (s.homeWrite pa bs).MemoryOk :=
  memoryOk_write (memoryOk_homeAccess h pa bs.length true) pa bs

end Sys2Proof.Machine
end

