-- ==== Sys2Proof/Laws/PerInstr.lean ====
section
/-! SUPPORT. Laws/PerInstr.lean: per instruction, that a well-formed instruction has a word, and that the word's guard is one
(R84). -/

namespace Sys2Proof.Laws.FieldsFit

open Sys2Proof

/-- A well-formed instruction has a word, with a guard that R84 allows. -/
def Statement (i : Instr) : Prop := i.wf = true → ∃ w, encode i = some w ∧ (wordGuard w).ok = true

/-- An instruction whose word has the guard `g`, which its well-formedness allows. -/
theorem of_guard {i : Instr} {m : BitVec 8} {la : LA} {g : Guard} {p : BitVec 48} (h : encode i = some (word m la g p))
    (hg : i.wf = true → g.ok = true) : Statement i :=
  fun w => ⟨_, h, by rw [wordGuard_word]; exact hg w⟩

theorem left {a b : Bool} (h : (a && b) = true) : a = true := by
  cases a
  · exact h
  · rfl

theorem aget (g : Guard) (d : SReg) (a : AReg) : Statement (.aget g d a) := of_guard rfl (fun h => left h)
theorem aoff (g : Guard) (d : AReg) (a : AReg) (b : SReg) : Statement (.aoff g d a b) := of_guard rfl (fun h => h)
theorem aset (g : Guard) (d : AReg) (a : SReg) : Statement (.aset g d a) := of_guard rfl (fun h => left h)
theorem and (o : Bin) : Statement (.and o) := of_guard rfl (fun h => left (left (left (left (left h)))))
theorem or (o : Bin) : Statement (.or o) := of_guard rfl (fun h => left (left (left (left (left h)))))
theorem xor (o : Bin) : Statement (.xor o) := of_guard rfl (fun h => left (left (left (left (left h)))))
theorem andn (o : Bin) : Statement (.andn o) := of_guard rfl (fun h => left (left (left (left (left h)))))
theorem not (o : Un) : Statement (.not o) := of_guard rfl (fun h => left (left (left (left h))))
theorem atom (o : AtomInstr) : Statement (.atom o) := of_guard rfl (fun h => left (left h))
theorem bar (g : Guard) (k : BitVec 2) : Statement (.bar g k) := of_guard rfl (fun h => h)
theorem bararr (g : Guard) (d : SReg) (k : BitVec 2) : Statement (.bararr g d k) := of_guard rfl (fun h => h)
theorem barwait (g : Guard) (k : BitVec 2) (b : SReg) : Statement (.barwait g k b) := of_guard rfl (fun h => h)
theorem bcast (o : BcastOp) : Statement (.bcast o) := of_guard rfl (fun h => left (left h))
theorem bfi (o : Tern) : Statement (.bfi o) := of_guard rfl (fun h => left (left (left (left (left h)))))
theorem bfx (o : Tern) : Statement (.bfx o) := of_guard rfl (fun h => left (left (left (left (left h)))))
theorem bkpt (g : Guard) (code : BitVec 16) : Statement (.bkpt g code) := of_guard rfl (fun h => h)
theorem bra (g : Guard) (disp : BitVec 32) : Statement (.bra g disp) := of_guard rfl (fun h => left h)
theorem brc (g : Guard) (cond : Cond) (a : VReg) (b : Src) (disp : BitVec 24) : Statement (.brc g cond a b disp) := of_guard rfl (fun h => h)
theorem breakl (g : Guard) : Statement (.breakl g) := of_guard rfl (fun h => h)
theorem brev (o : Un) : Statement (.brev o) := of_guard rfl (fun h => left (left (left (left h))))
theorem clz (o : Un) : Statement (.clz o) := of_guard rfl (fun h => left (left (left (left h))))
theorem brx (g : Guard) (o : BrxOp) : Statement (.brx g o) :=
  match o with
  | .vec _ _ => of_guard rfl (fun h => left h)
  | .uni _ _ => of_guard rfl (fun h => left h)
  | .full _ => of_guard rfl (fun h => left h)
theorem calget (g : Guard) (d : SReg) (a : VReg) : Statement (.calget g d a) := of_guard rfl (fun h => h)
theorem calset (g : Guard) (d : VReg) (a : SReg) : Statement (.calset g d a) := of_guard rfl (fun h => h)
theorem caltop (g : Guard) (d : VReg) : Statement (.caltop g d) := of_guard rfl (fun h => h)
theorem call (g : Guard) (o : CallOp) : Statement (.call g o) :=
  match o with
  | .direct _ => of_guard rfl (fun h => left h)
  | .reg _ => of_guard rfl (fun h => left h)
theorem cas (o : CasOp) : Statement (.cas o) := of_guard rfl (fun h => left h)
theorem conflict (o : ConflictOp) : Statement (.conflict o) := of_guard rfl (fun h => left h)
theorem conflictAll (o : ConflictOp) : Statement (.conflictAll o) := of_guard rfl (fun h => left h)
theorem cpa (o : CpaOp) : Statement (.cpa o) := of_guard rfl (fun h => left h)
theorem cpseal (g : Guard) : Statement (.cpseal g) := of_guard rfl (fun h => h)
theorem cpwait (g : Guard) (n : BitVec 3) : Statement (.cpwait g n) := of_guard rfl (fun h => h)
theorem cvt (o : CvtOp) : Statement (.cvt o) := of_guard rfl (fun h => left (left (left (left h))))
theorem cvtn (o : CvtnOp) : Statement (.cvtn o) := of_guard rfl (fun h => left (left (left (left h))))
theorem cvtw (o : CvtwOp) : Statement (.cvtw o) := of_guard rfl (fun h => left (left (left h)))
theorem exit (g : Guard) : Statement (.exit g) := of_guard rfl (fun h => h)
theorem fadd (o : FBin) : Statement (.fadd o) := of_guard rfl (fun h => left (left (left h)))
theorem fsub (o : FBin) : Statement (.fsub o) := of_guard rfl (fun h => left (left (left h)))
theorem fmul (o : FBin) : Statement (.fmul o) := of_guard rfl (fun h => left (left (left h)))
theorem ffma (o : FTern) : Statement (.ffma o) := of_guard rfl (fun h => left (left (left (left h))))
theorem fmin (o : FMinMax) : Statement (.fmin o) := of_guard rfl (fun h => left (left (left h)))
theorem fmax (o : FMinMax) : Statement (.fmax o) := of_guard rfl (fun h => left (left (left h)))
theorem fclass (o : FclassOp) : Statement (.fclass o) := of_guard rfl (fun h => left (left h))
theorem fcmp (o : FcmpOp) : Statement (.fcmp o) := of_guard rfl (fun h => left (left (left h)))
theorem frcp (o : SfuOp) : Statement (.frcp o) := of_guard rfl (fun h => left (left h))
theorem frsq (o : SfuOp) : Statement (.frsq o) := of_guard rfl (fun h => left (left h))
theorem fsqrt (o : SfuOp) : Statement (.fsqrt o) := of_guard rfl (fun h => left (left h))
theorem fexp2 (o : SfuOp) : Statement (.fexp2 o) := of_guard rfl (fun h => left (left h))
theorem flog2 (o : SfuOp) : Statement (.flog2 o) := of_guard rfl (fun h => left (left h))
theorem fsin (o : SfuOp) : Statement (.fsin o) := of_guard rfl (fun h => left (left h))
theorem fcos (o : SfuOp) : Statement (.fcos o) := of_guard rfl (fun h => left (left h))
theorem ftanh (o : SfuOp) : Statement (.ftanh o) := of_guard rfl (fun h => left (left h))
theorem fence (g : Guard) (ord : Ord) (scope : Scope) : Statement (.fence g ord scope) := of_guard rfl (fun h => left h)
theorem fenceEngRel (g : Guard) (scope : Scope) : Statement (.fenceEngRel g scope) := of_guard rfl (fun h => left h)
theorem fill (o : SpillOp) : Statement (.fill o) := of_guard rfl (fun h => h)
theorem fsopen (g : Guard) (a : SReg) : Statement (.fsopen g a) := of_guard rfl (fun h => h)
theorem fsclose (g : Guard) (a : SOrN) : Statement (.fsclose g a) :=
  match a with
  | .s _ => of_guard rfl (fun h => h)
  | .n _ => of_guard rfl (fun h => h)
theorem fswait (g : Guard) (a : SOrN) : Statement (.fswait g a) :=
  match a with
  | .s _ => of_guard rfl (fun h => h)
  | .n _ => of_guard rfl (fun h => h)
theorem gshuf (o : GshufOp) : Statement (.gshuf o) := of_guard rfl (fun h => h)
theorem gtimer (g : Guard) (a : SReg) : Statement (.gtimer g a) := of_guard rfl (fun h => h)
theorem gtimerGet (g : Guard) (d : SReg) : Statement (.gtimerGet g d) := of_guard rfl (fun h => h)
theorem hwait (g : Guard) (a : HReg) : Statement (.hwait g a) := of_guard rfl (fun h => h)
theorem htest (g : Guard) (d : SReg) (a : HReg) : Statement (.htest g d a) := of_guard rfl (fun h => h)
theorem hcancel (g : Guard) (a : HReg) : Statement (.hcancel g a) := of_guard rfl (fun h => h)
theorem iadd (o : Bin) : Statement (.iadd o) := of_guard rfl (fun h => left (left (left (left (left h)))))
theorem isub (o : Bin) : Statement (.isub o) := of_guard rfl (fun h => left (left (left (left (left h)))))
theorem imul (o : Bin) : Statement (.imul o) := of_guard rfl (fun h => left (left (left (left (left h)))))
theorem imulh (o : Bin) : Statement (.imulh o) := of_guard rfl (fun h => left (left (left (left (left h)))))
theorem imad (o : Tern) : Statement (.imad o) := of_guard rfl (fun h => left (left (left (left h))))
theorem imin (o : Bin) : Statement (.imin o) := of_guard rfl (fun h => left (left (left (left (left h)))))
theorem imax (o : Bin) : Statement (.imax o) := of_guard rfl (fun h => left (left (left (left (left h)))))
theorem iabs (o : Un) : Statement (.iabs o) := of_guard rfl (fun h => left (left (left (left h))))
theorem ineg (o : Un) : Statement (.ineg o) := of_guard rfl (fun h => left (left (left (left h))))
theorem icmp (o : IcmpOp) : Statement (.icmp o) := of_guard rfl (fun h => left (left h))
theorem kick (g : Guard) (d : HReg) (a : SReg) (n : BitVec 8) : Statement (.kick g d a n) := of_guard rfl (fun h => left (left h))
theorem launch (g : Guard) (a : SReg) (b : SReg) (n : BitVec 8) : Statement (.launch g a b n) := of_guard rfl (fun h => left h)
theorem ld (o : MemV) : Statement (.ld o) := of_guard rfl (fun h => left (left h))
theorem ldu (o : MemU) : Statement (.ldu o) := of_guard rfl (fun h => left h)
theorem ldp (o : MemV) : Statement (.ldp o) := of_guard rfl (fun h => left (left h))
theorem lds (o : MemS) : Statement (.lds o) := of_guard rfl (fun h => left (left (left h)))
theorem ldlines (o : LdlinesOp) : Statement (.ldlines o) := of_guard rfl (fun h => left h)
theorem lea (o : LeaOp) : Statement (.lea o) := of_guard rfl (fun h => left (left (left h)))
theorem loop (a : SReg) (disp : BitVec 32) : Statement (.loop a disp) := of_guard rfl (fun h => left h)
theorem loopEnd : Statement .loopEnd := of_guard rfl (fun h => h)
theorem merid (g : Guard) (d : SReg) : Statement (.merid g d) := of_guard rfl (fun h => h)
theorem meridDev (g : Guard) (d : SReg) : Statement (.meridDev g d) := of_guard rfl (fun h => h)
theorem mld (o : MldOp) : Statement (.mld o) := of_guard rfl (fun h => left (left h))
theorem mma (o : MmaOp) : Statement (.mma o) := of_guard rfl (fun h => left (left (left h)))
theorem mmaZ (o : MmaOp) : Statement (.mmaZ o) := of_guard rfl (fun h => left (left (left h)))
theorem mov (g : Guard) (o : MovOp) : Statement (.mov g o) :=
  match o with
  | .reg _ _ _ => of_guard rfl (fun h => left h)
  | .toHandle _ _ => of_guard rfl (fun h => left h)
  | .fromHandle _ _ => of_guard rfl (fun h => left h)
theorem movi (g : Guard) (d : Dst) (imm : BitVec 32) : Statement (.movi g d imm) := of_guard rfl (fun h => h)
theorem moviHi (g : Guard) (d : SReg) (imm : BitVec 32) : Statement (.moviHi g d imm) := of_guard rfl (fun h => h)
theorem mst (o : MstOp) : Statement (.mst o) := of_guard rfl (fun h => left (left h))
theorem mstSum (o : MstOp) : Statement (.mstSum o) := of_guard rfl (fun h => left (left h))
theorem nop (g : Guard) : Statement (.nop g) := of_guard rfl (fun h => h)
theorem pack (o : PackOp) : Statement (.pack o) := of_guard rfl (fun h => left h)
theorem park (g : Guard) : Statement (.park g) := of_guard rfl (fun h => h)
theorem patload (g : Guard) (a : SReg) (bank : BitVec 4) : Statement (.patload g a bank) := of_guard rfl (fun h => h)
theorem plop (g : Guard) (uni : Bool) (d : PReg) (o : PlopOp) : Statement (.plop g uni d o) := of_guard rfl (fun h => left h)
theorem popc (o : Un) : Statement (.popc o) := of_guard rfl (fun h => left (left (left (left h))))
theorem post (g : Guard) (a : SReg) (b : SOrH) : Statement (.post g a b) :=
  match b with
  | .s _ => of_guard rfl (fun h => h)
  | .h _ => of_guard rfl (fun h => h)
theorem postq (g : Guard) (d : PReg) (a : SReg) (b : SOrH) : Statement (.postq g d a b) :=
  match b with
  | .s _ => of_guard rfl (fun h => h)
  | .h _ => of_guard rfl (fun h => h)
theorem pref (o : PrefOp) : Statement (.pref o) := of_guard rfl (fun h => h)
theorem publish (g : Guard) (a : SOrN) (scope : Scope) : Statement (.publish g a scope) :=
  match a with
  | .s _ => of_guard rfl (fun h => left h)
  | .n _ => of_guard rfl (fun h => left h)
theorem qscale (o : QscaleOp) : Statement (.qscale o) := of_guard rfl (fun h => left (left (left (left h))))
theorem reconv : Statement .reconv := of_guard rfl (fun h => h)
theorem red (o : AtomInstr) : Statement (.red o) := of_guard rfl (fun h => left (left (left (left (left h)))))
theorem redux (o : ReduxOp) : Statement (.redux o) := of_guard rfl (fun h => left (left h))
theorem regroup (la : LA) (k : BitVec 2) (p : PReg) : Statement (.regroup la k p) := of_guard rfl (fun h => h)
theorem ret (g : Guard) : Statement (.ret g) := of_guard rfl (fun h => h)
theorem rte : Statement .rte := of_guard rfl (fun h => h)
theorem rteNext : Statement .rteNext := of_guard rfl (fun h => h)
theorem scan (o : ScanOp) : Statement (.scan o) := of_guard rfl (fun h => left (left h))
theorem segred (o : SegredOp) : Statement (.segred o) := of_guard rfl (fun h => left (left h))
theorem sel (o : SelOp) : Statement (.sel o) := of_guard rfl (fun h => left (left (left (left h))))
theorem shfl (o : ShflOp) : Statement (.shfl o) := of_guard rfl (fun h => left (left h))
theorem shl (o : Bin) : Statement (.shl o) := of_guard rfl (fun h => left (left (left (left (left h)))))
theorem shr (o : Bin) : Statement (.shr o) := of_guard rfl (fun h => left (left (left (left (left h)))))
theorem shra (o : Bin) : Statement (.shra o) := of_guard rfl (fun h => left (left (left (left (left h)))))
theorem spill (o : SpillOp) : Statement (.spill o) := of_guard rfl (fun h => h)
theorem srd (g : Guard) (o : SrdOp) : Statement (.srd g o) :=
  match o with
  | .uni _ _ => of_guard rfl (fun h => left h)
  | .vec _ _ => of_guard rfl (fun h => left h)
theorem st (o : MemV) : Statement (.st o) := of_guard rfl (fun h => left (left (left h)))
theorem stu (o : MemU) : Statement (.stu o) := of_guard rfl (fun h => left (left h))
theorem sts (o : MemS) : Statement (.sts o) := of_guard rfl (fun h => left (left (left h)))
theorem stp (o : MemV) : Statement (.stp o) := of_guard rfl (fun h => left (left (left h)))
theorem swr (g : Guard) (reg : BitVec 8) (a : SReg) : Statement (.swr g reg a) := of_guard rfl (fun h => left h)
theorem tagfind (g : Guard) (d : SReg) (a : SReg) : Statement (.tagfind g d a) := of_guard rfl (fun h => h)
theorem tagwaitAny (g : Guard) (a : SReg) : Statement (.tagwaitAny g a) := of_guard rfl (fun h => h)
theorem tagwaitAll (g : Guard) (a : SReg) : Statement (.tagwaitAll g a) := of_guard rfl (fun h => h)
theorem tbinit (g : Guard) (a : SReg) (b : SReg) : Statement (.tbinit g a b) := of_guard rfl (fun h => h)
theorem tbarrive (g : Guard) (a : SReg) : Statement (.tbarrive g a) := of_guard rfl (fun h => h)
theorem tbarriveTx (g : Guard) (a : SReg) (b : SReg) : Statement (.tbarriveTx g a b) := of_guard rfl (fun h => h)
theorem tbexpect (g : Guard) (a : SReg) (b : SReg) : Statement (.tbexpect g a b) := of_guard rfl (fun h => h)
theorem tbwait (g : Guard) (a : SReg) (b : SReg) : Statement (.tbwait g a b) := of_guard rfl (fun h => h)
theorem tracemark (g : Guard) (a : SReg) : Statement (.tracemark g a) := of_guard rfl (fun h => h)
theorem trap (g : Guard) (code : BitVec 32) : Statement (.trap g code) := of_guard rfl (fun h => h)
theorem unpack (o : PackOp) : Statement (.unpack o) := of_guard rfl (fun h => left h)
theorem vote (g : Guard) (la : LA) (o : VoteOp) : Statement (.vote g la o) :=
  match o with
  | .any _ _ => of_guard rfl (fun h => h)
  | .all _ _ => of_guard rfl (fun h => h)
  | .uni _ _ => of_guard rfl (fun h => h)
  | .ballot _ _ => of_guard rfl (fun h => h)
theorem widenTrap (g : Guard) (d : VReg) (a : SReg) (b : SReg) : Statement (.widenTrap g d a b) := of_guard rfl (fun h => h)
theorem widenClamp (g : Guard) (d : VReg) (a : SReg) (b : SReg) : Statement (.widenClamp g d a b) := of_guard rfl (fun h => h)
theorem yield : Statement .yield := of_guard rfl (fun h => h)
theorem clauseStart (r : SplitRef) : Statement (.clauseStart r) := fun h => nomatch h
theorem longLatencyCompletion (r : GroupRef) (n : Nat) : Statement (.longLatencyCompletion r n) := fun h => nomatch h
theorem loadCompletion (r : GroupRef) (n : Nat) : Statement (.loadCompletion r n) := fun h => nomatch h
theorem matrixCompletion (r : GroupRef) (n : Nat) : Statement (.matrixCompletion r n) := fun h => nomatch h
theorem storeQueueDrain (r : GroupRef) : Statement (.storeQueueDrain r) := fun h => nomatch h
theorem messageArrival (slot : Nat) (idx : Nat) : Statement (.messageArrival slot idx) := fun h => nomatch h
theorem bankCycle (slot : Nat) (bank : Nat) : Statement (.bankCycle slot bank) := fun h => nomatch h
theorem gangRecordTake (slot : Nat) (recNum : Nat) : Statement (.gangRecordTake slot recNum) := fun h => nomatch h
theorem instancePlacement (slot : Nat) (recNum : Nat) : Statement (.instancePlacement slot recNum) := fun h => nomatch h
theorem queueHeadStarvation (slot : Nat) (recNum : Nat) : Statement (.queueHeadStarvation slot recNum) := fun h => nomatch h
theorem bindRecordDispatch (slot : Nat) : Statement (.bindRecordDispatch slot) := fun h => nomatch h
theorem issueAgeBoost (r : SplitRef) : Statement (.issueAgeBoost r) := fun h => nomatch h
theorem instanceRetirement (slot : Nat) (recNum : Nat) (inst : Nat) : Statement (.instanceRetirement slot recNum inst) := fun h => nomatch h
theorem cpaCopyCompletion (slot : Nat) (lcid : Nat) (n : Nat) : Statement (.cpaCopyCompletion slot lcid n) := fun h => nomatch h
theorem recordStart (slot : Nat) (lcid : Nat) (entry : Nat) (idx : Nat) : Statement (.recordStart slot lcid entry idx) := fun h => nomatch h
theorem recordCompletion (slot : Nat) (lcid : Nat) (entry : Nat) (idx : Nat) : Statement (.recordCompletion slot lcid entry idx) := fun h => nomatch h
theorem recordFailure (r : EngRef) : Statement (.recordFailure r) := fun h => nomatch h
theorem publishFlip (slot : Nat) (idx : Nat) : Statement (.publishFlip slot idx) := fun h => nomatch h
theorem timerExpiry (r : GroupRef) : Statement (.timerExpiry r) := fun h => nomatch h
theorem haltPropagation (r : SplitRef) : Statement (.haltPropagation r) := fun h => nomatch h
theorem haltrel (die : Nat) (slot : Nat) (seq : BitVec 32) : Statement (.haltrel die slot seq) := fun h => nomatch h
theorem sliceEnd (die : Nat) : Statement (.sliceEnd die) := fun h => nomatch h
theorem switchOut (slot : Nat) (lcid : Nat) : Statement (.switchOut slot lcid) := fun h => nomatch h
theorem switchIn (slot : Nat) (lcid : Nat) : Statement (.switchIn slot lcid) := fun h => nomatch h
theorem preemption (slot : Nat) (recNum : Nat) : Statement (.preemption slot recNum) := fun h => nomatch h
theorem fqrespReplay (die : Nat) (index : Nat) : Statement (.fqrespReplay die index) := fun h => nomatch h
theorem fqrespFail (die : Nat) (index : Nat) : Statement (.fqrespFail die index) := fun h => nomatch h
theorem xlinvCommand (die : Nat) (npages : Nat) (ctx : Nat) : Statement (.xlinvCommand die npages ctx) := fun h => nomatch h
theorem xlinvCompletion (die : Nat) : Statement (.xlinvCompletion die) := fun h => nomatch h
theorem compressFrame (die : Nat) (j : Nat) (arg : Nat) : Statement (.compressFrame die j arg) := fun h => nomatch h
theorem freeRecord (die : Nat) (j : Nat) (arg : Nat) : Statement (.freeRecord die j arg) := fun h => nomatch h
theorem tierCommandCompletion (die : Nat) (j : Nat) : Statement (.tierCommandCompletion die j) := fun h => nomatch h
theorem framePush (die : Nat) (j : Nat) (frame : Nat) : Statement (.framePush die j frame) := fun h => nomatch h
theorem tierRegionWrite (die : Nat) (j : Nat) (value : DWord) : Statement (.tierRegionWrite die j value) := fun h => nomatch h
theorem backgroundPull (die : Nat) (idx : Nat) (unit : Nat) : Statement (.backgroundPull die idx unit) := fun h => nomatch h
theorem pageMoveStart (slot : Nat) (vpage : Nat) (stack : Nat) : Statement (.pageMoveStart slot vpage stack) := fun h => nomatch h
theorem pageMoveCompletion (die : Nat) (idx : Nat) : Statement (.pageMoveCompletion die idx) := fun h => nomatch h
theorem placementPolicyPass (die : Nat) : Statement (.placementPolicyPass die) := fun h => nomatch h
theorem pinCountHalving (die : Nat) : Statement (.pinCountHalving die) := fun h => nomatch h
theorem l2cfgWrite (die : Nat) (value : DWord) : Statement (.l2cfgWrite die value) := fun h => nomatch h
theorem unpin (die : Nat) : Statement (.unpin die) := fun h => nomatch h
theorem mailboxWrite (off : Nat) (bytes : List Byte) : Statement (.mailboxWrite off bytes) := fun h => nomatch h
theorem hostBar4Access (off : Nat) (n : Nat) (data : Option (List Byte)) : Statement (.hostBar4Access off n data) := fun h => nomatch h
theorem ringusFlitArrival (port : Nat) (rank : Nat) (f : Flit) : Statement (.ringusFlitArrival port rank f) := fun h => nomatch h
theorem drainRequestArrival (port : Nat) (rank : Nat) : Statement (.drainRequestArrival port rank) := fun h => nomatch h
theorem drainMarkerArrival (port : Nat) (slot : Nat) : Statement (.drainMarkerArrival port slot) := fun h => nomatch h
theorem drainTimeout (port : Nat) (slot : Nat) : Statement (.drainTimeout port slot) := fun h => nomatch h
theorem resumeMarkerArrival (port : Nat) (rank : Nat) : Statement (.resumeMarkerArrival port rank) := fun h => nomatch h
theorem meridianSync (tick : DWord) : Statement (.meridianSync tick) := fun h => nomatch h
theorem parkRequest (die : Nat) (slot : Nat) : Statement (.parkRequest die slot) := fun h => nomatch h
theorem parkCapture (slot : Nat) : Statement (.parkCapture slot) := fun h => nomatch h
theorem resumeRequest (die : Nat) (slot : Nat) : Statement (.resumeRequest die slot) := fun h => nomatch h
theorem contextCreate : Statement .contextCreate := fun h => nomatch h
theorem contextDestroy (slot : Nat) : Statement (.contextDestroy slot) := fun h => nomatch h
theorem deviceReset : Statement .deviceReset := fun h => nomatch h
theorem functionReady (bit : Nat) : Statement (.functionReady bit) := fun h => nomatch h
theorem attestationRequest : Statement .attestationRequest := fun h => nomatch h
theorem clockStep (step : Nat) : Statement (.clockStep step) := fun h => nomatch h
theorem thermalLimit : Statement .thermalLimit := fun h => nomatch h
theorem thermalShutdown : Statement .thermalShutdown := fun h => nomatch h
theorem freezeArm : Statement .freezeArm := fun h => nomatch h
theorem freeze : Statement .freeze := fun h => nomatch h
theorem debugStop (die : Nat) (slot : Nat) : Statement (.debugStop die slot) := fun h => nomatch h
theorem debugResume (die : Nat) (slot : Nat) : Statement (.debugResume die slot) := fun h => nomatch h
theorem contextHalt (die : Nat) (slot : Nat) : Statement (.contextHalt die slot) := fun h => nomatch h
theorem traceSync (die : Nat) (slot : Nat) : Statement (.traceSync die slot) := fun h => nomatch h
theorem elogClear (die : Nat) : Statement (.elogClear die) := fun h => nomatch h
theorem eventCountRead (die : Nat) (code : Nat) (requester : Nat) : Statement (.eventCountRead die code requester) := fun h => nomatch h
theorem topdownTotalRead (die : Nat) (core : Nat) (set : Nat) (requester : Nat) : Statement (.topdownTotalRead die core set requester) := fun h => nomatch h
theorem faultRingConfigWrite (die : Nat) (slot : Nat) (value : DWord) : Statement (.faultRingConfigWrite die slot value) := fun h => nomatch h
theorem registerWrite (off : Nat) (value : DWord) : Statement (.registerWrite off value) := fun h => nomatch h
theorem linkPortDown (port : Nat) : Statement (.linkPortDown port) := fun h => nomatch h
theorem resumeEnd (die : Nat) (slot : Nat) : Statement (.resumeEnd die slot) := fun h => nomatch h
theorem contextCommandEnd : Statement .contextCommandEnd := fun h => nomatch h
theorem attestationReportEnd : Statement .attestationReportEnd := fun h => nomatch h
theorem debugStopPropagation (r : SplitRef) : Statement (.debugStopPropagation r) := fun h => nomatch h
theorem flitRetry (die : Nat) (ringus : Bool) : Statement (.flitRetry die ringus) := fun h => nomatch h
theorem scrub (pa : Nat) : Statement (.scrub pa) := fun h => nomatch h

end Sys2Proof.Laws.FieldsFit
end

