-- ==== Sys2Proof/Tests/Slice0.lean ====
section
/-! SUPPORT. Slice0.lean: the words of the spec's encodings decode, ill-formed terms are refused, what every statement assumes is met by
a concrete state, and a few instructions do what their entries say. -/

set_option Elab.async false
namespace Sys2Proof.Tests
open Sys2Proof Sys2Proof.Machine

/-- The entries' own examples (16 Tables 16.1, 17.7): AND v1, v0, 3; IMUL v4, v1, s9; CLZ v2, v1; SHRA v6, v5, 2; SHR v3, v3, s21; LEA
v7, v2, v5, 2; SEL v4, v1, v2, p3. -/
theorem test_decode_integer_and_logic :
    decode 0x1B07010003001000 = .ok (.and ⟨.always, .v 1, .v 0, .imm 3, .i32, false⟩) ∧
    decode 0x1207040109004000 = .ok (.imul ⟨.always, .v 4, .v 1, .s 9, .i32, false⟩) ∧
    decode 0x1C07020100000001 = .ok (.clz ⟨.always, .v 2, .v 1, .i32, false⟩) ∧
    decode 0x1A07060502001000 = .ok (.shra ⟨.always, .v 6, .v 5, .imm 2, .i32, false⟩) ∧
    decode 0x1907030315004000 = .ok (.shr ⟨.always, .v 3, .v 3, .s 21, .i32, false⟩) ∧
    decode 0x1F07070205020000 = .ok (.lea ⟨.always, .v 7, .v 2, .v 5, 2, .i32, false⟩) ∧
    decode 0x2107040102030000 = .ok (.sel ⟨.always, .v 4, .v 1, .v 2, ⟨false, 3⟩, .i32⟩) := by
  refine ⟨?_, ?_, ?_, ?_, ?_, ?_, ?_⟩ <;> rfl

/-- The entries' own examples (18): MOV v3, v2; MOV h2, s30; MOV s31, h2; MOVI s5, 0x1234; MOVI.HI s5, 0x40; PLOP.AND p1, p2, q3; ICMP.LT
p2, v1, s7. -/
theorem test_decode_moves_and_predicates :
    decode 0x2207030200000000 = .ok (.mov .always (.reg (.v 3) (.v 2) .i32)) ∧
    decode 0x4207021E00000201 = .ok (.mov .always (.toHandle 2 30)) ∧
    decode 0x42071F0200000202 = .ok (.mov .always (.fromHandle 31 2)) ∧
    decode 0x4307050000001234 = .ok (.movi .always (.s 5) 0x1234) ∧
    decode 0x4307050100000040 = .ok (.moviHi .always 5 64) ∧
    decode 0x2407010203004000 = .ok (.plop .always false 1 (.and ⟨false, 2⟩ ⟨true, 3⟩)) ∧
    decode 0x2007020107004002 = .ok (.icmp ⟨.always, false, 2, .v 1, .s 7, .i32, .lt⟩) := by
  refine ⟨?_, ?_, ?_, ?_, ?_, ?_, ?_⟩ <;> rfl

/-- The entries' own examples (17): FFMA v1, v2, v3, v4; FCMP.LT p1, v2, v3; FRSQ v5, v4; CVTN.F32.RN v3, v2, b8p4se; CVTW.F32 v4, v3,
b8p4se, 0; QSCALE.F32 s12, v0, b8p4se, 32. -/
theorem test_decode_floating_point :
    decode 0x5307010203040400 = .ok (.ffma ⟨.always, 1, .v 2, .v 3, .v 4, .f32, .rn⟩) ∧
    decode 0x5607010203000402 = .ok (.fcmp ⟨.always, 1, .v 2, .v 3, .f32, .lt, false⟩) ∧
    decode 0x5807050400000401 = .ok (.frsq ⟨.always, 0, 5, .v 4, .rn⟩) ∧
    decode 0x6107030226000400 = .ok (.cvtn ⟨.always, 3, .v 2, .f32, 38, .rn, false⟩) ∧
    decode 0x6207040326000400 = .ok (.cvtw ⟨.always, 4, .v 3, .f32, 38, 0⟩) ∧
    decode 0x65070C0026200400 = .ok (.qscale ⟨.always, 12, 0, 38, 32, .f32⟩) := by
  refine ⟨?_, ?_, ?_, ?_, ?_, ?_⟩ <;> rfl

/-- The entries' own examples (16 to 19): BCAST v6, v2, 0; GSHUF v19, a1[v3], 4; SCAN.F32.ADD v5, v4; VOTE.BALLOT s4, p2; REGROUP 0, p3. -/
theorem test_decode_cross_lane :
    decode 0x7207060200001000 = .ok (.bcast ⟨.always, 0, 6, 2, .imm 0, .i32⟩) ∧
    decode 0x7107130310000003 = .ok (.gshuf ⟨.always, 0, 19, 3, 1, 0, 3⟩) ∧
    decode 0x7507050400000400 = .ok (.scan ⟨.always, 0, 5, 4, .f32, .add, false, .rn, false⟩) ∧
    decode 0x7307040200000003 = .ok (.vote .always 0 (.ballot 4 2)) ∧
    decode 0x7807000003000000 = .ok (.regroup 0 0 3) := by
  refine ⟨?_, ?_, ?_, ?_, ?_⟩ <;> rfl

/-- The entries' own examples (16, 19): WIDEN.CLAMP v2, s10, s11. -/
theorem test_decode_arrays_and_calipers :
    decode 0x8007020A0B000001 = .ok (.widenClamp .always 2 10 11) := by
  rfl

/-- The entries' own examples (17, 19): LDS.B4 v6, [v5+16]; LDLINES v20, a1[v3], 4; ST a4[v1], v7; ST.REL.DEVICE a2[v1], v4; SPILL v4, 3;
FILL v4, 3; PREF a1[v2]. -/
theorem test_decode_memory :
    decode 0x9407060501000002 = .ok (.lds ⟨.always, 0, 6, 5, 16, .plain, .group, false, .fromArray, .one, .b4, false⟩) ∧
    decode 0x9607140310000003 = .ok (.ldlines ⟨.always, 0, 20, 3, 1, 0, .plain, .group, false, .fromArray, .one, 3⟩) ∧
    decode 0x9107070140000000 = .ok (.st ⟨.always, 0, 7, 1, 4, 0, .plain, .group, false, .fromArray, .one, false⟩) ∧
    decode 0x9107040120004C00 = .ok (.st ⟨.always, 0, 4, 1, 2, 0, .rel, .device, false, .fromArray, .one, false⟩) ∧
    decode 0x9A07040300000000 = .ok (.spill ⟨.always, 0, 4, 3⟩) ∧
    decode 0x9B07040300000000 = .ok (.fill ⟨.always, 0, 4, 3⟩) ∧
    decode 0x9707000210000000 = .ok (.pref ⟨.always, 0, 2, 1, 0, .fromArray, false⟩) := by
  refine ⟨?_, ?_, ?_, ?_, ?_, ?_, ?_⟩ <;> rfl

/-- The entries' own examples (16, 17, 18): ATOM.ADD.F32.REL.DEVICE v5, a3[v2], v9; CAS.I32.ACQ.DEVICE v8, a0[v1], v6; RED.ADD.F32
a3[v2], v9; FENCE.SC.CORE; PUBLISH.DEVICE 3. -/
theorem test_decode_atomics_and_fences :
    decode 0xA007050230944C00 = .ok (.atom ⟨.always, 0, 5, 2, 3, 9, .f32, .rel, .device, .add⟩) ∧
    decode 0xA107080100602C00 = .ok (.cas ⟨.always, 0, 8, 1, 0, 6, .i32, .acq, .device⟩) ∧
    decode 0xA207000230940000 = .ok (.red ⟨.always, 0, 0, 2, 3, 9, .f32, .plain, .group, .add⟩) ∧
    decode 0xA307000100000004 = .ok (.fence .always .sc .core) ∧
    decode 0xBD07000003030001 = .ok (.publish .always (.n 3) .device) := by
  refine ⟨?_, ?_, ?_, ?_, ?_⟩ <;> rfl

/-- The entries' own examples (16, 17, 19): CPA.B32 v10, a2[v4]; KICK h0, [s9], 2; HWAIT h3; TAGWAIT.ALL s4. -/
theorem test_decode_engines :
    decode 0xB0070A0420000003 = .ok (.cpa ⟨.always, 0, 10, 4, 2, 0, false, .fromArray, 3⟩) ∧
    decode 0xB307000902000000 = .ok (.kick .always 0 9 2) ∧
    decode 0xB607000300000000 = .ok (.hwait .always 3) ∧
    decode 0xB407000400000001 = .ok (.tagwaitAll .always 4) := by
  refine ⟨?_, ?_, ?_, ?_⟩ <;> rfl

/-- The entries' own examples (18): MLD.A v0, sp:s20, s8; MST.SUM v64, sp:s24, s10. -/
theorem test_decode_matrix :
    decode 0xC107001400088000 = .ok (.mld ⟨.always, 0, 0, 20, 8, false⟩) ∧
    decode 0xC2074018000A8001 = .ok (.mstSum ⟨.always, 0, 64, 24, 10⟩) := by
  refine ⟨?_, ?_⟩ <;> rfl

/-- The entries' own examples (16 to 18): LAUNCH s20, s4, 2; PATLOAD s6, 2; FSOPEN s30; BAR 0; BARWAIT 1, s40. -/
theorem test_decode_gangs_and_cohorts :
    decode 0xD307001404020000 = .ok (.launch .always 20 4 2) ∧
    decode 0xD207000602000000 = .ok (.patload .always 6 2) ∧
    decode 0xD407001E00000000 = .ok (.fsopen .always 30) ∧
    decode 0xD707000000000000 = .ok (.bar .always 0) ∧
    decode 0xD707000128000002 = .ok (.barwait .always 1 40) := by
  refine ⟨?_, ?_, ?_, ?_, ?_⟩ <;> rfl

/-- The entries' own examples (16): CALL s20. -/
theorem test_decode_control :
    decode 0x0507021400000000 = .ok (.call .always (.reg 20)) := by
  rfl

/-- The entries' own examples (17 to 19): GTIMER s5; MERID s4; SWR TVEC, s3; TRACEMARK s3; BKPT 0x12. -/
theorem test_decode_system :
    decode 0xE307000500000000 = .ok (.gtimer .always 5) ∧
    decode 0xE207040000000000 = .ok (.merid .always 4) ∧
    decode 0xE107120300000000 = .ok (.swr .always 18 3) ∧
    decode 0xE807000300000000 = .ok (.tracemark .always 3) ∧
    decode 0xE607000000120000 = .ok (.bkpt .always 18) := by
  refine ⟨?_, ?_, ?_, ?_, ?_⟩ <;> rfl

/-! ## Ill-formed terms: each check refuses one -/

theorem test_ill_formed_integer :
    Instr.wf (.nop ⟨true, 7⟩) = false ∧
    Instr.wf (.and ⟨.always, .v 1, .v 2, .v 3, .i32, true⟩) = false ∧
    Instr.wf (.iadd ⟨.always, .v 1, .v 2, .v 4, .i64, false⟩) = false ∧
    Instr.wf (.iadd ⟨.always, .s 1, .v 2, .s 4, .i32, false⟩) = false ∧
    Instr.wf (.iadd ⟨.always, .v 1, .imm 2, .v 3, .i32, false⟩) = false ∧
    Instr.wf (.shra ⟨.always, .v 1, .v 2, .v 3, .ui32, false⟩) = false ∧
    Instr.wf (.not ⟨.always, .v 1, .v 2, .i32, true⟩) = false ∧
    Instr.wf (.iabs ⟨.always, .v 1, .v 2, .ui32, false⟩) = false ∧
    Instr.wf (.imad ⟨.always, .v 2, .v 3, .v 4, .v 6, .i64, false⟩) = false ∧
    Instr.wf (.bfx ⟨.always, .v 1, .v 2, .s 3, .imm 4, .i32, true⟩) = false ∧
    Instr.wf (.bfi ⟨.always, .v 1, .v 2, .v 3, .imm 4, .i32, false⟩) = false ∧
    Instr.wf (.lea ⟨.always, .v 1, .imm 2, .v 3, 2, .i32, false⟩) = false ∧
    Instr.wf (.icmp ⟨.always, true, 1, .v 2, .s 3, .i32, .lt⟩) = false ∧
    Instr.wf (.sel ⟨.always, .s 1, .s 2, .s 3, ⟨false, 1⟩, .i32⟩) = false ∧
    Instr.wf (.mov .always (.reg (.s 1) (.v 2) .i32)) = false ∧
    Instr.wf (.plop .always true 1 (.setm 2)) = false := by decide

theorem test_ill_formed_floating_point :
    Instr.wf (.fadd ⟨.always, 1, .v 2, .v 4, .f64, .rn⟩) = false ∧
    Instr.wf (.ffma ⟨.always, 1, .v 2, .v 3, .imm 4, .f32, .rn⟩) = false ∧
    Instr.wf (.fmin ⟨.always, 1, .imm 2, .v 3, .f32, false⟩) = false ∧
    Instr.wf (.fcmp ⟨.always, 1, .v 2, .v 3, .f16x2, .lt, false⟩) = false ∧
    Instr.wf (.fclass ⟨.always, 1, .v 2, .f64⟩) = false ∧
    Instr.wf (.fsin ⟨.always, 0, 1, .v 2, .rz⟩) = false ∧
    Instr.wf (.cvt ⟨.always, 1, .v 2, .f32, .f32, .rn, false⟩) = false ∧
    Instr.wf (.cvt ⟨.always, 1, .v 2, .f16, .f32, .rn, true⟩) = false ∧
    Instr.wf (.cvtn ⟨.always, 1, .v 2, .f32, 0x26, .ru, false⟩) = false ∧
    Instr.wf (.cvtw ⟨.always, 1, .v 2, .f16, 0x26, 0⟩) = false ∧
    Instr.wf (.pack ⟨.always, 1, 2, 0x26⟩) = false ∧
    Instr.wf (.qscale ⟨.always, 1, 2, 0x26, 33, .f32⟩) = false := by decide

theorem test_ill_formed_cross_lane :
    Instr.wf (.bcast ⟨.always, 0, 1, 2, .v 3, .i32⟩) = false ∧
    Instr.wf (.shfl ⟨.always, 0, 1, 2, .imm 1, 3, .i32, .idx⟩) = false ∧
    Instr.wf (.redux ⟨.always, 0, 1, 2, .f32, .and, .rn, false⟩) = false ∧
    Instr.wf (.scan ⟨.always, 0, 1, 2, .int .i32, .min, false, .rn, true⟩) = false ∧
    Instr.wf (.segred ⟨.always, 0, 1, 2, 3, .int .i32, .add, .rz, false⟩) = false ∧
    Instr.wf (.conflict ⟨.always, 0, 1, 3, .i64⟩) = false := by decide

theorem test_ill_formed_memory :
    Instr.wf (.ld ⟨.always, 0, 4, 1, 2, 0, .rel, .device, false, .fromArray, .one, false⟩) = false ∧
    Instr.wf (.ldp ⟨.always, 0, 4, 1, 2, 0, .plain, .group, false, .fromArray, .one, false⟩) = false ∧
    Instr.wf (.ldu ⟨.always, 0, 4, 1, 2, 0, .plain, .die, false, .fromArray, false⟩) = false ∧
    Instr.wf (.st ⟨.always, 0, 4, 1, 2, 0, .plain, .group, false, .fromArray, .one, true⟩) = false ∧
    Instr.wf (.stu ⟨.always, 0, 4, 1, 2, 0, .acq, .die, false, .fromArray, false⟩) = false ∧
    Instr.wf (.lds ⟨.always, 0, 5, 1, 0, .plain, .group, false, .fromArray, .one, .b8, false⟩) = false ∧
    Instr.wf (.lds ⟨.always, 0, 4, 1, 0, .plain, .group, false, .fromArray, .one, .b4, true⟩) = false ∧
    Instr.wf (.ldlines ⟨.always, 0, 20, 3, 1, 0, .rel, .die, false, .fromArray, .one, 3⟩) = false ∧
    Instr.wf (.atom ⟨.always, 0, 5, 2, 3, 9, .f32, .rel, .device, .xor⟩) = false ∧
    Instr.wf (.red ⟨.always, 0, 0, 2, 3, 9, .i32, .rel, .device, .exch⟩) = false ∧
    Instr.wf (.cas ⟨.always, 0, 7, 1, 0, 6, .i64, .acq, .device⟩) = false ∧
    Instr.wf (.fence .always .plain .device) = false ∧
    Instr.wf (.fenceEngRel .always .group) = false ∧
    Instr.wf (.publish .always (.n 3) .group) = false := by decide

theorem test_ill_formed_control_and_system :
    Instr.wf (.aset .always 1 125) = false ∧
    Instr.wf (.aget .always 125 1) = false ∧
    Instr.wf (.bra .always 4) = false ∧
    Instr.wf (.brx .always (.uni 3 12)) = false ∧
    Instr.wf (.call .always (.direct 1)) = false ∧
    Instr.wf (.loop 3 2) = false ∧
    Instr.wf (.mma ⟨.always, 0, 0, .sp 127, .regs 32, 10⟩) = false ∧
    Instr.wf (.mld ⟨.always, 0, 0, 20, 127, false⟩) = false ∧
    Instr.wf (.mst ⟨.always, 0, 0, 127, 8⟩) = false ∧
    Instr.wf (.srd .always (.uni 1 0x0D)) = false ∧
    Instr.wf (.srd .always (.vec 1 0x01)) = false ∧
    Instr.wf (.swr .always 0x14 3) = false ∧
    Instr.wf (.kick .always 0 9 17) = false ∧
    Instr.wf (.launch .always 20 126 3) = false ∧
    Instr.wf (.launch .always 20 4 0) = false ∧
    Instr.wf .thermalLimit = false := by decide

/-! ## What the statements assume is met: one theorem for each statement with hypotheses -/

/-- A device whose one resident group issues with split 0. -/
def base : State := { State.reset.withFetchWord 64 0x0C07000000000000 with cur := some ⟨placeRef⟩, agenda := [] }

/-- The same with its group changed, and that group as an instruction reads it. -/
def withGroup (f : Group → Group) : State := base.modGroup placeRef.group f
def read (f : Group → Group) : Group := (withGroup f).reads placeRef (f placeGroup)

theorem issuing (f : Group → Group) (h : ((f placeGroup).split 0).st ≠ .free) :
    Issuing (withGroup f) placeRef (f placeGroup) := ⟨rfl, rfl, h⟩

def handler (g : Group) : Group := { g with trap := { g.trap with tvec := 0x4001 } }
def handling (g : Group) : Group :=
  { g with trap := { g.trap with inHandler := true, hmask := Mask.full, family := 1, tvec := 0x4001, tpc := 0x10000 } }
def vreg (n : Nat) (x : Nat → Word) (g : Group) : Group := { g with vregs := regSet g.vregs n (perLane x) }
def sreg (n : Nat) (x : DWord) (g : Group) : Group := { g with sregs := regSet g.sregs n x }
def areg (n : Nat) (x : BitVec 256) (g : Group) : Group := { g with aregs := regSet g.aregs n x }
def cal (n : Nat) (c : Caliper) (g : Group) : Group := { g with cals := regSet g.cals n c }
def enabling (g : Group) : Group := { g with fflags := 0x1F00 }
def first (f : Split → Split) (g : Group) : Group := g.modSplit 0 f
def both (lo hi : Mask) (g : Group) : Group :=
  { g with splits := [{ g.split 0 with mask := lo }, { g.split 0 with mask := hi, st := .ready, clause := none }] ++
      List.replicate 2 Split.freeEntry }

/-- The descriptor of an array of `n` elements of the ESZ code `esz` at `x`, not bit-packed, WR set (Table 3.4). -/
def arr (x n esz : Nat) : BitVec 256 := BitVec.ofNat 256 (x + n * 2 ^ 64 + esz * 2 ^ 128 + 2 ^ 134)

/-- A guard that fails in a group whose predicates are zero. -/
def never : Guard := ⟨false, 1⟩

theorem witness_IntBinary : Issuing base placeRef placeGroup ∧ dstExists placeGroup true (.v 254) ∧
    dstExists placeGroup false (.v 255) ∧ dstExists placeGroup true (.s 127) := by
  refine ⟨issuing id ?_, (?_ : 254 + 1 < placeGroup.vregs.length), (?_ : 255 + 0 < placeGroup.vregs.length), (?_ : 127 <
    placeGroup.sregs.length)⟩ <;> decide +kernel

theorem witness_IntUnaryAndShift : Issuing base placeRef placeGroup ∧ dstExists placeGroup IntTy.i64.wide (.v 254) ∧
    IntTy.i64.signed = true :=
  ⟨issuing id (by decide +kernel), (by decide +kernel : 254 + 1 < placeGroup.vregs.length), rfl⟩

theorem witness_IntThreeSource : Issuing base placeRef placeGroup ∧ dstExists placeGroup IntTy.ui64.wide (.v 254) :=
  ⟨issuing id (by decide +kernel), (by decide +kernel : 254 + 1 < placeGroup.vregs.length)⟩

theorem witness_MovesAndPredicates : Issuing base placeRef placeGroup ∧ (6 : PReg).toNat < placeGroup.pregs.length ∧
    (6 : PReg).toNat < placeGroup.qregs.length ∧ (15 : HReg).toNat < placeGroup.hregs.length ∧
    (127 : SReg).toNat < placeGroup.sregs.length ∧ dstExists placeGroup false (.v 255) := by
  refine ⟨issuing id ?_, ?_, ?_, ?_, ?_, (?_ : 255 + 0 < placeGroup.vregs.length)⟩ <;> decide +kernel

/-- No flag is enabled. -/
theorem no_enables (fl : Flags) : fl &&& placeGroup.enables = 0 := by
  have h : placeGroup.enables = 0 := by decide +kernel
  simp [h]

theorem witness_FloatArith : Issuing base placeRef placeGroup ∧ (254 : VReg).toNat + 1 < placeGroup.vregs.length ∧
    ∀ fl : Flags, fl &&& placeGroup.enables = 0 := ⟨issuing id (by decide +kernel), by decide +kernel, no_enables⟩

theorem witness_FloatConvertCompare : (∃ nf, elemFmt 0x26 = some (.narrow nf)) ∧ Issuing base placeRef placeGroup ∧
    (255 : VReg).toNat < placeGroup.vregs.length ∧ (6 : PReg).toNat < placeGroup.pregs.length ∧
    ∀ fl : Flags, fl &&& placeGroup.enables = 0 :=
  ⟨⟨_, rfl⟩, issuing id (by decide +kernel), by decide +kernel, by decide +kernel, no_enables⟩

theorem witness_MinimumMaximum : Issuing base placeRef placeGroup ∧ (254 : VReg).toNat + 1 < placeGroup.vregs.length ∧
    ∀ fl : Flags, fl &&& placeGroup.enables = 0 := ⟨issuing id (by decide +kernel), by decide +kernel, no_enables⟩

/-- Signalling NaNs in v1, zeros elsewhere, every flag enabled, a handler. -/
def raising (g : Group) : Group := handler (enabling (vreg 1 (fun _ => 0x7F800001) g))

/-- The flags that lane 0 raises are enabled. -/
def raises (f : Group → Nat → Nat × Flags) : Bool := (f (read raising) 0).2 &&& (raising placeGroup).enables != 0

theorem witness_FloatTraps : Issuing (withGroup raising) placeRef (raising placeGroup) ∧ (raising placeGroup).mayTrap ∧
    Mask.has ((read raising).active 0 .always) 0 = true ∧
    raises (fun src j => perElem .f32 (fun e => addNums FTy.f32.fmt .rn [fpNum .f32 src (.v 1) j e, fpNum .f32 src (.v 0) j e])) = true ∧
    raises (fun src j => perElem .f32 (fun e => mulNums FTy.f32.fmt .rn (fpNum .f32 src (.v 1) j e) (fpNum .f32 src (.v 0) j e))) = true ∧
    raises (fun src j => perElem .f32 (fun e =>
      minMaxNum FTy.f32.fmt false true (FTy.f32.elem ((Src.v 1).fbits src .f32 j) e) (FTy.f32.elem ((Src.v 0).fbits src .f32 j) e))) = true ∧
    raises (fun src j => (0, (fcmpNum .lt false (fpNum .f32 src (.v 1) j 0) (fpNum .f32 src (.v 0) j 0)).2)) = true ∧
    raises (cvtLane ⟨.always, 2, .v 1, .f32, .int .i32, .rz, false⟩) = true ∧
    raises (fun src j => sfu .rcp .rn ((Src.v 0).word src j).toNat) = true := by
  refine ⟨issuing raising ?_, ?_⟩ <;> (repeat' apply And.intro) <;> decide +kernel

theorem witness_PackUnpack : Issuing base placeRef placeGroup ∧ (∃ nf, elemFmt 0x6A = some (.narrow nf)) ∧
    (253 : VReg).toNat + (packRegs 0x6A).2 ≤ placeGroup.vregs.length ∧ (248 : VReg).toNat + (packRegs 0x6A).1 ≤ placeGroup.vregs.length ∧
    (127 : SReg).toNat < placeGroup.sregs.length := by
  refine ⟨issuing id ?_, ⟨_, rfl⟩, ?_⟩ <;> decide +kernel

theorem witness_SpecialFunctions : Issuing base placeRef placeGroup ∧ ∀ fl : Flags, fl &&& placeGroup.enables = 0 :=
  ⟨issuing id (by decide +kernel), no_enables⟩

theorem witness_CrossLane : Issuing base placeRef placeGroup := issuing id (by decide +kernel)

theorem witness_Reductions : Issuing base placeRef placeGroup ∧ ∀ fl : Flags, fl &&& placeGroup.enables = 0 :=
  ⟨issuing id (by decide +kernel), no_enables⟩

/-- An instruction in flight that is about to write two registers, a uniform register or q7. -/
def pending (kind : Unit3) (unis : List UniDest) : Pending :=
  ⟨3, 0, kind, none, [⟨254, Mask.full, zeroLanes, none, false⟩, ⟨255, 1, zeroLanes, none, true⟩], unis, 1, none⟩
def flying (p : Pending) (g : Group) : Group := { g with inflight := [p] }

theorem witness_Completion (kind : Unit3) (unis : List UniDest) :
    let p := pending kind unis
    let g := flying p placeGroup
    (withGroup (flying p)).group? placeRef.group = some g ∧ g.inflight.find? (fun x => x.id == p.id) = some p ∧
      (withGroup (flying p)).clocked = true ∧ (p.vecs.map (fun d => d.reg)).Nodup ∧ (∀ d ∈ p.vecs, d.reg < g.vregs.length) ∧
      p.kind = kind ∧ p.job = none ∧ p.unis = unis ∧ (∀ e ∈ g.storeQ, e.mst ≠ some p.id) ∧
      { p with vecs := p.vecs.take 1 }.vecs = [⟨254, Mask.full, zeroLanes, none, false⟩] ∧ 255 < g.cals.length ∧ 0 ∈ g.usedSplits ∧
        (g.split 0).mask &&& Mask.full ≠ 0 :=
  ⟨rfl, rfl, rfl, (by decide +kernel : [254, 255].Nodup), (by
    intro d hd
    have : d.reg = 254 ∨ d.reg = 255 := by
      simp only [pending, List.mem_cons, List.not_mem_nil, or_false] at hd
      rcases hd with rfl | rfl <;> simp
    have hl : placeGroup.vregs.length = 256 := by decide +kernel
    show d.reg < placeGroup.vregs.length
    omega), rfl, rfl, rfl, (fun e he => nomatch (show e ∈ ([] : List StoreEnt) from he)), rfl,
    (by decide +kernel : 255 < placeGroup.cals.length), (by decide +kernel : 0 ∈ placeGroup.usedSplits),
    (by decide +kernel : (placeGroup.split 0).mask &&& Mask.full ≠ 0)⟩

/-- A word array of 100 elements and a nibble array of 100 in a1 and a2, the first also in s4 to s7; s9 and s10 hold 100 and 101. -/
def arrays (g : Group) : Group :=
  let x := arr 0x11000 100 2
  areg 1 x (areg 2 (arr 0x11000 100 6) (sreg 4 (x.extractLsb' 0 64) (sreg 5 (x.extractLsb' 64 64) (sreg 6 (x.extractLsb' 128 64)
    (sreg 9 100 (sreg 10 101 (sreg 11 1 (handler g))))))))

theorem witness_ArrayRegisters :
    let src := read arrays
    let num (u : Nat) : Int := ((src.s u).extractLsb' 0 32).toInt
    Issuing (withGroup arrays) placeRef (arrays placeGroup) ∧ src.passes .always = true ∧ src.passes never = false ∧
      arBad (src.s 7 ++ src.s 6 ++ src.s 5 ++ src.s 4) = false ∧ arMisbased (src.s 7 ++ src.s 6 ++ src.s 5 ++ src.s 4) = false ∧
      (15 : AReg).toNat < (arrays placeGroup).aregs.length ∧ (124 : SReg).toNat + 3 < (arrays placeGroup).sregs.length ∧
      (arBad (src.a 1) = false ∧ num 9 = arExtent (src.a 1) ∧ arEsz (src.a 1) ≠ 6 ∧ arEsz (src.a 1) ≠ 5) ∧
      (arBad (src.a 2) = false ∧ num 11 % 2 ≠ 0 ∧ num 11 ≤ arExtent (src.a 2) ∧ arEsz (src.a 2) = 6) ∧
      ((arExtent (src.a 1) : Int) < num 10) ∧ (arrays placeGroup).mayTrap := by
  refine ⟨issuing arrays ?_, ?_⟩ <;> (repeat' apply And.intro) <;> decide +kernel

/-- The context of a slot, with what it must satisfy. -/
def ctxAnd (s : State) (slot : Nat) (f : Context → Bool) : Bool :=
  match s.ctx slot with
  | some c => f c
  | none => false

/-- A value of an access that succeeds, with what the state after it must satisfy. -/
def okAnd {α : Type} (m : MRes α) (f : α → State → Bool) : Bool :=
  match m with
  | .ok a s => f a s
  | .fault _ | .wait _ => false

theorem exists_of_okAnd {α : Type} {m : MRes α} {f : α → State → Bool} (h : okAnd m f = true) :
    ∃ a s, m = .ok a s ∧ f a s = true := by
  cases m with
  | ok a s => exact ⟨a, s, rfl, h⟩
  | fault e => cases h
  | wait s => cases h

/-- Scratchpads that are canonical one by one. -/
theorem scratch_ok {s : State} (h : s.ctxs.all (fun x => x.all (fun c => c.lcs.all (fun l => Memory.wf l.scratch))) = true) :
    s.ScratchOk := by
  intro slot c hc l hl
  have hm : some c ∈ s.ctxs := by
    have hg : (s.ctxs[slot]?).getD none = some c := by rw [← List.getD_eq_getElem?_getD]; exact hc
    cases hx : s.ctxs[slot]? with
    | none => rw [hx] at hg; cases hg
    | some x =>
      rw [hx] at hg
      simp only [Option.getD_some] at hg
      subst hg
      exact List.mem_of_getElem? hx
  have ha := List.all_eq_true.1 h _ hm
  simp only [Option.all_some] at ha
  exact List.all_eq_true.1 ha l hl

/-- The resident group is the only one of its slot. -/
theorem group_of_slot {f : Group → Group} {r : GroupRef} {g : Group} (hs : r.slot = 0) (h : (withGroup f).group? r = some g) :
    g = f placeGroup := by
  obtain ⟨slot, lcid, gh⟩ := r
  subst hs
  have h' : ([(placeRef.group, f placeGroup)].find? (fun x => x.1 == (⟨0, lcid, gh⟩ : GroupRef))).map (fun x => x.2) = some g := h
  cases hb : placeRef.group == (⟨0, lcid, gh⟩ : GroupRef) with
  | true => simp [List.find?, hb] at h'; exact h'.symm
  | false => simp [List.find?, hb] at h'

theorem witness_Calipers :
    let f := fun g => cal 2 (some ⟨0,
      9⟩) (sreg 3 0x0000000900000001 (sreg 4 5 (sreg 5 9 (vreg 1 (fun j => BitVec.ofNat 32 j) (handler g)))))
    let src := read f
    let lo : Int := ((src.s 4).extractLsb' 0 32).toInt
    let hi : Int := ((src.s 5).extractLsb' 0 32).toInt
    Issuing (withGroup f) placeRef (f placeGroup) ∧ (∃ c, (withGroup (fun g => g)).ctx 0 = some c ∧ { c with sup := true }.sup = true) ∧
      src.passes .always = true ∧ src.passes never = false ∧ (f placeGroup).cals.length = 256 ∧
      ((src.s 3).extractLsb' 0 32).toInt ≤ ((src.s 3).extractLsb' 32 32).toInt ∧ lo ≤ hi ∧
      provenIn (src.view 0 1) lo hi = false ∧ provenIn (src.view 0 2) 0 9 = true ∧ (src.v 1 4).toInt < lo ∧ (f placeGroup).mayTrap := by
  refine ⟨issuing _ ?_, ⟨_, rfl, rfl⟩, ?_⟩ <;> (repeat' apply And.intro) <;> decide +kernel

/-- One split holds every lane; two registers whose calipers are unknown. -/
def lone (g : Group) : Group := { g with splits := [g.split 0] }
def narrow (g : Group) : Group := { lone g with vregs := [zeroLanes, zeroLanes], cals := [none, none] }

theorem lone_apart {f : Group → Group} (hc : (f placeGroup).ctl.live = Mask.full)
    (hs : (f placeGroup).splits = [placeGroup.split 0]) : LanesApart (f placeGroup) := by
  have h0 : (f placeGroup).split 0 = placeGroup.split 0 := by simp [Group.split, regGet, hs]
  have h1 : ∀ k, (f placeGroup).split (k + 1) = Split.freeEntry := by intro k; simp [Group.split, regGet, hs]
  have no : ∀ j, Mask.has Split.freeEntry.mask j = false := by intro j; simp [Split.freeEntry, Mask.has]
  intro k j hk
  cases k with
  | zero =>
    refine ⟨by rw [hc]; rw [h0] at hk; exact hk, fun i hi => ?_⟩
    cases i with
    | zero => exact absurd rfl hi
    | succ i => rw [h1]; exact no j
  | succ k => rw [h1, no] at hk; cases hk

theorem witness_CaliperInvariantKept :
    (Issuing (withGroup narrow) placeRef (narrow placeGroup) ∧ (narrow placeGroup).settled 0 ∧ LanesApart (narrow placeGroup) ∧
      dstExists (narrow placeGroup) false (.v 1) ∧ CaliperInvariant (narrow placeGroup)) ∧
    (Issuing (withGroup lone) placeRef (lone placeGroup) ∧ (lone placeGroup).settled 0 ∧ LanesApart (lone placeGroup) ∧
      dstExists (lone placeGroup) true (.v 254) ∧ (lone placeGroup).onlySplit 0 = true ∧
      ((lone placeGroup).split 0).mask = (lone placeGroup).ctl.live ∧ (lone placeGroup).ctl.live ≠ 0 ∧
      255 < (lone placeGroup).vregs.length ∧ 255 < (lone placeGroup).cals.length ∧ (lone placeGroup).view 0 1 = some ⟨0, 0⟩) ∧
    (let src := read narrow
     let act := src.active 0 .always
     let taken (c : Cond) := Mask.ofFn (fun j => Mask.has act j && condTrue 32 (src.v 1 j) ((Src.imm 0).word src j) c)
     IntTy.i32.signed = true ∧ ((src.s 4).extractLsb' 0 32).toInt ≤ ((src.s 5).extractLsb' 0 32).toInt ∧
       (∀ j ∈ laneIds, (src.v 1 j).toInt = 0) ∧ ((src.s 4).extractLsb' 0 32).toInt = 0 ∧ ((narrow placeGroup).split 0).back < 63 ∧
       taken .eq = ((narrow placeGroup).split 0).mask ∧ taken .ne = 0) := by
  have settled : ∀ f : Group → Group, (f placeGroup).inflight = [] → ((f placeGroup).split 0).held = none → (f placeGroup).settled 0 := by
    intro f h h2
    exact ⟨fun p hp => absurd hp (by rw [h]; simp), h2⟩
  have unknown : ∀ n, (narrow placeGroup).cal n = none := by
    intro n
    match n with
    | 0 => rfl
    | 1 => rfl
    | n + 2 => rfl
  have view : ∀ k n, (narrow placeGroup).view k n = none := by
    intro k n
    cases k with
    | zero => exact unknown n
    | succ k => exact unknown n
  refine ⟨⟨issuing _ (by decide +kernel), settled narrow rfl rfl, lone_apart rfl rfl,
    (by decide +kernel : 1 + 0 < (narrow placeGroup).vregs.length),
    fun n j _ => ⟨fun _ => ?_, fun k _ => ?_⟩⟩, ⟨issuing _ (by decide +kernel), settled lone rfl rfl, lone_apart rfl rfl,
    (by decide +kernel : 254 + 1 < (lone placeGroup).vregs.length), by decide +kernel⟩, by decide +kernel⟩
  · rw [unknown]; intro iv h; cases h
  · rw [view]; intro iv h; cases h

/-- Lanes 0 to 15 hold predicate 2, v1 the lane numbers, s9 an offset and s20 a header address. -/
def half (g : Group) : Group :=
  sreg 9 0x40 (sreg 20 0x20000 (cal 1 (some ⟨0, 31⟩) (vreg 1 (fun j => BitVec.ofNat 32 j) { g with pregs := regSet g.pregs 2 0xFFFF })))

/-- The same near the end of the clause addresses, where a displacement carries into bits [59:56]. -/
def far (g : Group) : Group := first (fun sp => { sp with pc := 0x00FFFFFFFFFFFF80 }) (half g)

/-- A guard that passes in the lanes of predicate 2. -/
def low : Guard := ⟨false, 2⟩

/-- Every entry of the split table is in use. -/
def crowd (g : Group) : Group :=
  { g with splits := { g.split 0 with mask := 0xFFFFFF } :: (List.range 3).map (fun k =>
      { g.split 0 with mask := BitVec.ofNat 32 (2 ^ (24 + k)), st := .ready, clause := none }) }

/-- A path about to take its 64th backward branch, with `n` entries on its divergence stack; the spill region lies in a page that maps, or not. -/
def turning (n : Nat) (base : DWord) (g : Group) : Group :=
  first (fun sp => { sp with back := 63, div := { sp.div with chip := List.replicate n ⟨0x20000, 0xFF, .pending⟩, depth := n } })
    { g with ctl := { g.ctl with spillBase := base } }

/-- One entry of the split table is free, and nothing is spilled. -/
theorem splits_half (f : Group → Group) (h1 : (f placeGroup).splits.length = 4) (h2 : ((f placeGroup).split 1).st = .free)
    (h3 : ((f placeGroup).split 0).st ≠ .free) (hr : ((f placeGroup).split 0).ret.spilled = 0) (hd : ((f placeGroup).split 0).div.spilled = 0) :
    Splits (withGroup f) (withGroup f).entered placeRef (f placeGroup) 1 := by
  refine ⟨by decide, h1, h2, fun j hj => ?_, ⟨(withGroup f).entered, ?_, ?_⟩, rfl⟩
  · have : j = 0 := by omega
    subst this; exact h3
  · have e : (((f placeGroup).countWindows placeRef.k).split placeRef.k).stack false = ((f placeGroup).split 0).ret := rfl
    simp only [State.copySpill, e, hr, State.readEntries, State.writeEntries]
  · have e : (((f placeGroup).countWindows placeRef.k).split placeRef.k).stack true = ((f placeGroup).split 0).div := rfl
    simp only [State.copySpill, e, hd, State.readEntries, State.writeEntries]

theorem witness_Branches :
    (Issuing (withGroup far) placeRef (far placeGroup) ∧ pcPos (pcWord ((far placeGroup).split 0).pc + (0x100 : BitVec 32).signExtend 64) ≠ 0 ∧
      pcPos ((far placeGroup).split 0).nextHdr = 0 ∧ pcPos (0x0100000000020000 : DWord) ≠ 0) ∧
    (let src := read half
     let own := pcWord (placeGroup.split 0).pc
     let taken (k : BitVec 8) (c : Cond) := Mask.ofFn (fun j => Mask.has (src.active 0 .always) j &&
       condTrue 32 (src.v 1 j) ((Src.imm k).word src j) c)
     let g := half placeGroup
     let refs (c : Cond) (tk : Bool) (lo hi : Int) : Prop :=
       Refines c tk (src.view 0 1) ((Src.imm 16).cal src 0) ⟨lo, hi⟩
     Issuing (withGroup half) placeRef g ∧ (g.split 0).mask ≠ 0 ∧ (g.split 0).back < 63 ∧ src.active 0 .always = (g.split 0).mask ∧
       src.active 0 never = 0 ∧
       (∀ j ∈ laneIds, own + (8 : BitVec 32).signExtend 64 + (src.v 3 j).setWidth 64 = own + 8) ∧
       taken 0 .ge = (g.split 0).mask ∧ taken 0 .lt = 0 ∧ g.onlySplit 0 = true ∧ src.active 0 .always = g.ctl.live ∧
       Splits (withGroup half) (withGroup half).entered placeRef g 1 ∧ refs .lt true 0 15 ∧ refs .lt false 16 31 ∧
       [src.active 0 low, taken 16 .lt].all (fun m => m != 0 && (g.split 0).mask &&& ~~~m != 0) = true ∧
       [own + (0x40 : BitVec 32).signExtend 64, own + ((8 : BitVec 24).signExtend 64 <<< 3),
         own + (0x40 : BitVec 32).signExtend 64 + ((src.s 9).extractLsb' 0 32).setWidth 64, src.s 20].all
           (fun x => x != (g.split 0).nextHdr && pcPos x == 0) = true ∧ pcPos (g.split 0).nextHdr = 0) ∧
    (let g := crowd (half placeGroup)
     Issuing (withGroup (fun x => crowd (half x))) placeRef g ∧ FullTable g 0 ∧ (g.split 0).back < 63 ∧
       (read (fun x => crowd (half x))).active 0 low ≠ 0 ∧ (g.split 0).mask &&& ~~~(read (fun x => crowd (half x))).active 0 low ≠ 0) ∧
    (∀ n ∈ [1, 8], let g := turning n 0x18000 placeGroup
      let target := pcWord (g.split 0).pc + (0xFFFFFFF8 : BitVec 32).signExtend 64
      let s := withGroup (turning n 0x18000)
      s.cur = some ⟨placeRef⟩ ∧ s.group? placeRef.group = some g ∧ (g.split 0).st ≠ .free ∧
        (read (turning n 0x18000)).active 0 .always = (g.split 0).mask ∧ (g.split 0).mask ≠ 0 ∧ (g.split 0).back = 63 ∧ pcPos target = 0 ∧
        target ≠ (g.split 0).nextHdr ∧ (pcHdr target).toNat ≤ (pcHdr (g.split 0).pc).toNat ∧
        (g.split 0).div.chip = List.replicate (n - 1) ⟨0x20000, 0xFF, .pending⟩ ++ [⟨0x20000, 0xFF, .pending⟩] ∧
        (g.split 0).div.depth = n ∧ (g.split 0).div.chip.length = n ∧
        okAnd (s.entered.spillWrite (s.entered.cxOf placeRef) (spillAddr g 0 true (((g.split 0).div.bot + 1023) % 1024))
          (entryBytes ⟨target, (g.split 0).mask, .pending⟩)) (fun _ s1 => s1.group? placeRef.group == some g) = true) := by
  refine ⟨⟨issuing _ ?_, ?_⟩, ⟨issuing _ ?_, ?_, ?_, ?_, ?_, ?_, ?_, ?_, ?_, ?_, splits_half half ?_ ?_ ?_ ?_ ?_,
    ⟨⟨0, 31⟩, ⟨16, 16⟩, ?_, ?_, ?_, ?_, ?_⟩, ⟨⟨0, 31⟩, ⟨16, 16⟩, ?_, ?_, ?_, ?_, ?_⟩, ?_, ?_, ?_⟩,
    ⟨issuing _ ?_, ⟨?_, ?_, ?_⟩, ?_⟩, ?_⟩ <;> decide +kernel

/-- `n` return addresses, half the lanes in predicate 2, and one open loop level; the spill region lies at `base`. -/
def nested (n : Nat) (count : BitVec 32) (base : DWord) (g : Group) : Group :=
  first (fun sp => { sp with
    ret := { sp.ret with chip := List.replicate (min n 8) ⟨0x5000, 0, .pending⟩, depth := n }
    loops := regSet sp.loops 0 ⟨0x9000, 0xA000, count⟩ }) (half { g with ctl := { g.ctl with spillBase := base } })

/-- One return address on chip of `n`. -/
def sunk (n : Nat) (base : DWord) (g : Group) : Group :=
  first (fun sp => { sp with ret := { sp.ret with chip := [⟨0x5000, 0, .pending⟩], depth := n } })
    { g with ctl := { g.ctl with spillBase := base } }

/-- A state whose issuing instruction has translated slots 1 to 4 of the spill region at 0x18000. -/
def translated (acc : Acc) (s : State) : State :=
  { s with req := { s.req with trans := (List.range 4).map (fun i => ⟨0x18010 + 16 * i, acc, none, 0x18010 + 16 * i, 1⟩) } }

/-- The access faults with a spill fault. -/
def spills {α : Type} (m : MRes α) : Bool :=
  match m with
  | .fault e => e.cause == .spillx
  | .ok _ _ | .wait _ => false

/-- What CALL with 8 entries on chip writes, and RET with one reads. -/
def callWrites (base : DWord) : MRes Unit :=
  let s := translated .write (withGroup (nested 9 1 base))
  let sp := (nested 9 1 base placeGroup).split 0
  s.entered.writeEntries (s.entered.cxOf placeRef) ((nested 9 1 base placeGroup).countWindows 0) 0 false sp.ret.bot sp.ret.spilled (sp.ret.chip.take 4)
def retReads (base : DWord) : MRes (List StackEntry) :=
  let s := translated .read (withGroup (sunk 6 base))
  s.entered.readEntries (s.entered.cxOf placeRef) (((sunk 6 base placeGroup).countWindows 0).modSplit 0 (fun y => { y with ret := y.ret.dropTop }))
    0 false 0 (6 - 1 - 4) 4 []

theorem witness_CallsAndLoops :
    Issuing (withGroup (nested 7 1 0)) placeRef (nested 7 1 0 placeGroup) ∧
    (let sp := (nested 7 1 0 placeGroup).split 0
     let src := read (nested 7 1 0)
     sp.mask ≠ 0 ∧ sp.back < 63 ∧ src.active 0 .always = sp.mask ∧ src.active 0 never = 0 ∧ sp.ret.chip.length < 8 ∧ sp.ret.depth < 1024 ∧
       sp.ret.chip = List.replicate 6 ⟨0x5000, 0, .pending⟩ ++ [⟨0x5000, 0, .pending⟩] ∧ sp.openLevels < 4 ∧
       (src.s 8).extractLsb' 0 32 = 0 ∧ (src.s 9).extractLsb' 0 32 ≠ 0 ∧ sp.innermost = some 0 ∧
       (regGet LoopLevel.closed sp.loops 0).lcount = 1) ∧
    (let sp := (nested 1 2 0 placeGroup).split 0
     sp.ret.chip = [] ++ [⟨0x5000, 0, .pending⟩] ∧ sp.ret.depth ≤ 1 ∧ sp.innermost = some 0 ∧
       (regGet LoopLevel.closed sp.loops 0).lcount ≠ 1) ∧
    (Issuing (withGroup (nested 1024 1 0)) placeRef (nested 1024 1 0 placeGroup) ∧ 1024 ≤ ((nested 1024 1 0 placeGroup).split 0).ret.depth) ∧
    (Issuing (translated .write (withGroup (nested 9 1 0x18000))) placeRef (nested 9 1 0x18000 placeGroup) ∧
      8 ≤ ((nested 9 1 0x18000 placeGroup).split 0).ret.chip.length ∧ pcPos ((read (nested 9 1 0x18000)).s 20) = 0 ∧
      okAnd (callWrites 0x18000) (fun _ s1 => s1.group? placeRef.group == some (nested 9 1 0x18000 placeGroup)) = true ∧
      spills (callWrites 0x990000) = true) ∧
    (Issuing (translated .read (withGroup (sunk 6 0x18000))) placeRef (sunk 6 0x18000 placeGroup) ∧
      okAnd (retReads 0x18000) (fun _ s1 => s1.group? placeRef.group == some (sunk 6 0x18000 placeGroup)) = true ∧
      spills (retReads 0x990000) = true) ∧
    (let g := nested 7 1 0 placeGroup
     let src := read (nested 7 1 0)
     Splits (withGroup (nested 7 1 0)) (withGroup (nested 7 1 0)).entered placeRef g 1 ∧ src.active 0 low ≠ 0 ∧
       (g.split 0).mask &&& ~~~src.active 0 low ≠ 0 ∧ pcWord (g.split 0).pc + (0x40 : BitVec 32).signExtend 64 ≠ (g.split 0).nextHdr ∧
       src.s 20 ≠ (g.split 0).nextHdr ∧ (0x5000 : DWord) ≠ (g.split 0).nextHdr) ∧
    (let f := fun x => crowd (nested 7 1 0 x)
     Issuing (withGroup f) placeRef (f placeGroup) ∧ FullTable (f placeGroup) 0 ∧ (read f).active 0 low ≠ 0 ∧
       ((f placeGroup).split 0).mask &&& ~~~(read f).active 0 low ≠ 0) := by
  refine ⟨issuing _ ?_, ?_, ?_, ⟨issuing _ ?_, ?_⟩, ⟨⟨rfl, rfl, ?_⟩, ?_⟩,
    ⟨⟨rfl, rfl, ?_⟩, ?_⟩, ⟨splits_half (nested 7 1 0) ?_ ?_ ?_ ?_ ?_, ?_⟩,
    issuing _ ?_, ⟨?_, ?_, ?_⟩, ?_⟩ <;> decide +kernel

/-- Two splits, the second with a wait, and a divergence stack of one entry. -/
def paired (st : SplitSt) (g : Group) : Group :=
  let h := both 0xFFFF 0xFFFF0000 g
  h.modSplit 1 (fun sp => { sp with st := st })
def diverged (e : StackEntry) (g : Group) : Group := first (fun sp => { sp with div := { sp.div with chip := [e], depth := 1 } }) g

theorem witness_Reconverge :
    let x := pcWord (placeGroup.split 0).pc
    (Issuing base placeRef placeGroup ∧ (placeGroup.split 0).div.chip = [] ∧ placeGroup.peers 0 = []) ∧
    (let g := paired .ready placeGroup
     Issuing (withGroup (paired .ready)) placeRef g ∧ (g.split 0).div.chip = [] ∧ g.peers 0 = [1] ∧ (g.split 1).atReconv x = false) ∧
    (let f := paired (.wait (.reconv x [(0, 0)]))
     let g := f placeGroup
     Issuing (withGroup f) placeRef g ∧ (g.split 0).div.chip = [] ∧ g.peers 0 = [1] ∧ (g.split 1).atReconv x = true ∧
       g.mayMerge 1 0 = true ∧ g.splits.length = 4 ∧ ∀ a ∈ g.awaits 1, a.1 = 0 ∨ a.1 = 1) ∧
    (let e : StackEntry := ⟨0x20000, 0xFF, .pending⟩
     Issuing (withGroup (diverged e)) placeRef (diverged e placeGroup) ∧
       ((diverged e placeGroup).split 0).div.chip = [] ++ [e] ∧ e.kind = .pending) ∧
    (let e : StackEntry := ⟨(placeGroup.split 0).pc, 0xFF, .waiting⟩
     Issuing (withGroup (diverged e)) placeRef (diverged e placeGroup) ∧
       ((diverged e placeGroup).split 0).div.chip = [] ++ [e] ∧ e.kind = .waiting ∧ e.pc = (placeGroup.split 0).pc) ∧
    (let e : StackEntry := ⟨0x20000, 0xFF, .waiting⟩
     Issuing (withGroup (diverged e)) placeRef (diverged e placeGroup) ∧ e.kind = .waiting ∧ e.pc ≠ (placeGroup.split 0).pc) := by
  refine ⟨⟨issuing id ?_, ?_⟩, ⟨issuing _ ?_, ?_⟩, ⟨issuing _ ?_, ?_⟩, ⟨issuing _ ?_, rfl, rfl⟩,
    ⟨issuing _ ?_, rfl, rfl, rfl⟩, ⟨issuing _ ?_, rfl, ?_⟩⟩ <;> decide +kernel

theorem witness_Exit :
    (Issuing base placeRef placeGroup ∧ (read id).active 0 never = 0 ∧ (read id).active 0 .always ≠ 0 ∧
      (placeGroup.split 0).mask &&& ~~~(read id).active 0 .always = 0 ∧ placeGroup.ctl.live &&& ~~~(read id).active 0 .always = 0) ∧
    (Issuing (withGroup half) placeRef (half placeGroup) ∧ (read half).active 0 ⟨false, 2⟩ ≠ 0 ∧
      ((half placeGroup).split 0).mask &&& ~~~(read half).active 0 ⟨false, 2⟩ ≠ 0) ∧
    (let e : StackEntry := ⟨0x20000, 0xFF, .pending⟩
     Issuing (withGroup (diverged e)) placeRef (diverged e placeGroup) ∧ ((diverged e placeGroup).split 0).div.chip = [] ++ [e]) ∧
    ((handling placeGroup).trap.inHandler = true ∧ (handling placeGroup).trap.hsplit = 0) := by
  refine ⟨⟨issuing id ?_, ?_⟩, ⟨issuing _ ?_, ?_⟩, ⟨issuing _ ?_, rfl⟩, rfl, rfl⟩ <;> decide +kernel

/-- A fault ring of 16 records at 0x200000; two splits, neither stopped. -/
def ringed : State := (withGroup (paired .ready)).modSlotRegs 0 0 (fun x => { x with fring := { x.fring with base := 0x200000 } })

theorem witness_TrapEntry :
    (∃ c, ringed.ctx 0 = some c ∧ (c.instOf (paired .ready placeGroup)).isSome = true ∧ c.joinDie < ringed.dies.length ∧
      0 < (ringed.die c.joinDie).slots.length ∧ (c.groups.all (fun x => x.2.splits.all (fun y => !y.dstopped))) = true ∧
      (let ring := ((ringed.die c.joinDie).slot 0).fring
       ring.base.toNat % 16 ≠ 15 ∧ (ring.prod - ring.cons).toNat ≠ 2 ^ (ring.base.toNat % 16 + 4) ∧
         (ring.base &&& 0x7FFFFFFFC0).toNat + 64 * (ring.prod.toNat % 16) + 64 ≤ Config.physBytes)) ∧
    (ringed.group? placeRef.group = some (paired .ready placeGroup) ∧ (Exc.plain .illegal 0).event ≠ 2 ∧ (Exc.plain .illegal 0).event ≠ 4 ∧
      Memory.wf ringed.mem = true ∧ ((paired .ready placeGroup).split 1).inUse = true ∧ ((paired .ready placeGroup).split 1).st ≠ .halted ∧
      ((paired .ready placeGroup).split 1).skid = none) ∧
    ((withGroup handler).group? placeRef.group = some (handler placeGroup) ∧ 0 < (handler placeGroup).splits.length ∧
      causeClass .caliper = .user ∧ (handler placeGroup).mayTrap) ∧
    ((placeGroup.split 0).st ≠ .free ∧ causeClass .illegal = .fatal ∧ placeGroup.trap.tvec.getLsbD 0 = false) ∧
    ((handling placeGroup).trap.inHandler = true ∧ (handling placeGroup).trap.hsplit = 0) ∧
    (let g := paired .issuing (handling placeGroup)
     (withGroup (fun y => paired .issuing (handling y))).group? placeRef.group = some g ∧ 1 < g.splits.length ∧
       g.trap.tvec.getLsbD 0 = true ∧ g.trap.inHandler = true ∧ g.trap.hsplit ≠ 1) ∧
    (base.dieOf 0 0 < base.dies.length ∧ (base.die (base.dieOf 0 0)).faults.length = 1024 ∧
      freeFault (base.die (base.dieOf 0 0)) ≠ none) := by
  refine ⟨⟨_, rfl, ?_⟩, ⟨rfl, ?_⟩, ⟨rfl, ?_, rfl, ?_⟩, ⟨?_, rfl, ?_⟩, ⟨rfl, rfl⟩,
    ⟨rfl, ?_, ?_, rfl, ?_⟩, ?_⟩ <;> (repeat' apply And.intro) <;> decide +kernel

/-- The device with BKSTOP set. -/
def stopping : State :=
  (withGroup handler).modSlotRegs 0 0 (fun x => { x with dbg := { x.dbg with bkstop := true } })

theorem witness_SoftwareTrapsAndReturn :
    (Issuing (withGroup handler) placeRef (handler placeGroup) ∧ (read handler).passes never = false ∧
      (read handler).passes .always = true ∧
      (handler placeGroup).mayTrap ∧ ((withGroup handler).dbgRegs 0).bkstop = false) ∧
    (Issuing stopping placeRef (handler placeGroup) ∧ (stopping.dbgRegs 0).bkstop = true ∧
      ∃ c, stopping.ctx 0 = some c ∧ c.dbg.stopping = false) ∧
    (let g := handling placeGroup
     Issuing (withGroup handling) placeRef g ∧ g.trap.inHandler = true ∧ g.trap.hsplit = 0 ∧ (g.split 0).mask = g.trap.hmask ∧
       pcOk g.trap.tpc = true ∧
       ∃ h s1, (withGroup handling).entered.fetch ((withGroup handling).cxOf placeRef) (pcHdr g.trap.tpc) = .ok h s1 ∧
         (decide (s1.ctxs = (withGroup handling).ctxs) && hdrMaj h == 1 && !hdrRsvd h && decide (pcPos g.trap.tpc ≤ hdrCount h)) = true) := by
  refine ⟨⟨issuing _ ?_, ?_⟩, ⟨⟨rfl, rfl, ?_⟩, ?_, ⟨_, rfl, rfl⟩⟩, issuing _ ?_, rfl, rfl, ?_, ?_,
    exists_of_okAnd ?_⟩ <;> (repeat' apply And.intro) <;> decide +kernel

def isNarrow : Option ElemFmt → Bool
  | some (.narrow _) => true
  | _ => false

/-- s10 is a format block of 8-bit elements, s12 and s13 a pair of the scratchpad at 1,024 with row pitch 256. -/
def matrices (g : Group) : Group := sreg 10 0x2626 (sreg 12 (1024 + 256 * 2 ^ 24) (sreg 13 4096 g))

/-- An array whose base is off its element size in s5 to s8; bounds 0 and −1 in s9. -/
def malformed (g : Group) : Group := sreg 5 0x11001 (sreg 6 100 (sreg 7 2 (sreg 9 0xFFFFFFFF00000000 g)))
/-- A supervisor's context. -/
def supervised : State := (withGroup malformed).modCtx 0 (fun c => { c with sup := true })

theorem witness_FatalForms :
    let src := read (sreg 8 0xFFFFFFFFFFFFFFFF)
    let closed := fun sp : Split => { sp with loops := List.replicate 4 ⟨0x9000, 0xA000, 2⟩ }
    Issuing base placeRef placeGroup ∧ (∃ c, base.ctx 0 = some c ∧ c.sup = false) ∧ (placeGroup.split 0).ret.chip = [] ∧
      (placeGroup.split 0).innermost = none ∧ ((first closed placeGroup).split 0).openLevels = 4 ∧ placeGroup.trap.inHandler = false ∧
      src.passes .always = true ∧ arBad (src.s 8 ++ src.s 7 ++ src.s 6 ++ src.s 5) = true ∧
      arBad ((read (areg 2 0x30000000000000000000000000000000000)).a 2) = true ∧ (∀ nf, elemFmt 0xC0 ≠ some (.narrow nf)) ∧
      ((src.s 8).extractLsb' 0 32).toInt < ((src.s 4).extractLsb' 0 32).toInt ∧
      (arMisbased ((read malformed).s 8 ++ (read malformed).s 7 ++ (read malformed).s 6 ++ (read malformed).s 5) = true ∧
        Issuing supervised placeRef (malformed placeGroup) ∧ (∃ c, supervised.ctx 0 = some c ∧ c.sup = true) ∧
        ((supervised.reads placeRef (malformed placeGroup)).s 9 |>.extractLsb' 32 32).toInt <
          ((supervised.reads placeRef (malformed placeGroup)).s 9 |>.extractLsb' 0 32).toInt) ∧
      (placeGroup.ctl.live = Mask.full ∧ (placeGroup.split 0).mask = Mask.full ∧
        (fmtBlock (pairBits src 8)).isNone = true ∧ spPair (pairBits src 8) = none ∧
        (fmtBlock (pairBits (read matrices) 10)).any (fun f => (MOperand.parse (read matrices) f.tra (.sp 10)).isNone) = true) ∧
      (Issuing (withGroup (both 0xFFFF 0xFFFF0000)) placeRef (both 0xFFFF 0xFFFF0000 placeGroup) ∧
        ((both 0xFFFF 0xFFFF0000 placeGroup).split 0).mask ≠ Mask.full) := by
  refine ⟨issuing id ?_, ⟨_, rfl, rfl⟩, ?_, ?_, ?_, rfl, ?_, ?_, ?_, fun _ h => (?_ : ¬isNarrow (elemFmt 0xC0) = true) (congrArg
    isNarrow h), ?_, ⟨?_, ⟨rfl, rfl, ?_⟩, ⟨_, rfl, rfl⟩, ?_⟩, ?_, issuing _ ?_, ?_⟩ <;> decide +kernel

/-- Slot 1 of the group's cohorts is cohort 1 of its instance, of `live` lanes of which `arr` have arrived at phase 3. -/
def joined (live arr : Nat) : State :=
  (withGroup (fun g => { g with ctl := { g.ctl with cohorts := [some 0, some 1, none, none], arrived := [0, 0, 0, 0] } })).modCtx 0 (fun c =>
    { c with insts := c.insts.map (fun i => { i with cohorts := [⟨32, 0, 0⟩, ⟨live, arr, 3⟩] }) })
def joinedGroup : Group := { placeGroup with ctl := { placeGroup.ctl with cohorts := [some 0, some 1, none, none], arrived := [0, 0, 0, 0] } }

theorem witness_SystemReads : Issuing base placeRef placeGroup ∧ (∃ c, base.ctx 0 = some c) ∧ 127 < placeGroup.sregs.length ∧
    255 < placeGroup.vregs.length ∧ joinedGroup.cohortOf 1 = some 1 ∧ joinedGroup.cohortOf 2 = none := by
  refine ⟨issuing id ?_, ⟨_, rfl⟩, ?_⟩ <;> decide +kernel

/-- A device whose trace ring of slot 0 has EN and MK set. -/
def tracing : State := base.modSlotRegs 0 0 (fun x => { x with trace := { x.trace with base := 0x200030 } })

theorem witness_SystemWrites :
    (Issuing base placeRef placeGroup ∧ (read id).passes .always = true ∧ (read id).passes never = false) ∧
    (Issuing tracing placeRef placeGroup ∧ tracing.dieOf 0 0 < tracing.dies.length ∧ 0 < (tracing.die 0).slots.length ∧
      ((tracing.reads placeRef placeGroup).passes .always && traceOn ((tracing.die 0).slot 0).trace
        && ((tracing.die 0).slot 0).trace.base.getLsbD 5) = true) ∧
    ((read id).passes .always && traceOn ((base.die 0).slot 0).trace && ((base.die 0).slot 0).trace.base.getLsbD 5) = false := by
  refine ⟨⟨issuing id ?_, ?_, ?_⟩, ⟨⟨rfl, rfl, ?_⟩, ?_⟩, ?_⟩ <;> decide +kernel

theorem witness_YieldAndPark :
    Issuing base placeRef placeGroup ∧ (read id).passes never = false ∧ (read id).passes .always = true ∧
      (∃ c, base.ctx 0 = some c ∧ c.park = .none ∧ c.destroying = false) ∧ (base.parkRegs 0 0).busy = false ∧
      (∀ r g, r.slot = 0 → base.group? r = some g → g.timerPends = false) ∧
      (∃ c, (base.modCtx 0 (fun x => { x with park := .stopping })).ctx 0 = some c ∧ c.park ≠ .none) := by
  refine ⟨issuing id ?_, ?_, ?_, ⟨_, rfl, rfl, rfl⟩, ?_, fun _ _ hs h => by rw [group_of_slot (f := fun g => g) hs h]; rfl, ⟨_,
    rfl, ?_⟩⟩ <;> decide +kernel

/-- The check accepts, with what it answers. -/
def accepted (m : ChkRes) (f : Checked → Bool) : Bool :=
  match m with
  | .ok c => f c
  | .trap _ _ => false

/-- The issuer's split is still in use. -/
def inUse (s : State) : Bool :=
  match s.group? placeRef.group with
  | some g => (g.split 0).st != .free
  | none => false

theorem exists_still {s : State} (h : inUse s = true) : ∃ g, Still s placeRef g := by
  unfold inUse at h
  split at h
  · next g hg => exact ⟨g, hg, by simpa [placeRef] using h⟩
  · cases h

/-- Word arrays of 100 elements in the code page (path G, a1) and the scratchpad (path K, a2); v2 holds lane numbers,
v12 and v14 (with v13 and v15) pointers into each, and p2 lane 0 alone. -/
def memory (g : Group) : Group :=
  areg 1 (arr 0x11000 100 2) (areg 2 (arr 0x3000000000000000 100 2) (vreg 2 (fun j => BitVec.ofNat 32 j)
    (vreg 12 (fun j => BitVec.ofNat 32 (0x11000 + 4 * j)) (vreg 14 (fun j => BitVec.ofNat 32 (4 * j)) (vreg 15 (fun _ => 0x30000000)
    (sreg 7 99 (cal 2 (some ⟨0, 31⟩)
      { handler g with pregs := regSet g.pregs 2 1 })))))))
/-- Lane 0 alone. -/
def one : Guard := ⟨false, 2⟩
def mem : State := withGroup memory
def memGroup : Group := memory placeGroup

theorem issuing_mem : Issuing mem placeRef memGroup := issuing memory (by decide +kernel)

/-- What `Loads` asks of the vector forms: every lane's check, addresses and values. -/
def loads (ptr : Bool) (o : MemV) : Bool :=
  let src := mem.reads placeRef memGroup
  let a := src.a o.arr.toNat
  let act := src.active 0 o.g
  let n := NElem.count o.n
  let k := eszBits (arEsz a)
  let fp := if ptr then none else footprint a (src.view 0 o.x.toNat) (offInt o.off) n
  let s0 := mem.entered.sample placeRef fp
  (mem.codeAt 0 (memGroup.split 0)).isNone && !arBad a && !blockBad memGroup o.d (arEsz a) n &&
    accepted (if ptr then pointerCheck a act false (offInt o.off) n (fun j => src.vPair o.x.toNat j)
      else arrayCheck a (src.view 0 o.x.toNat) act false (offInt o.off) n (fun j => (src.v o.x.toNat j).toInt)) (fun c =>
        (s0.laneChecks placeRef (memGroup.split 0) .read ⟨true, false⟩ (k / 8 * n) (c.elems a n) (s0.checked placeRef c)).isNone &&
        okAnd (((s0.reserveSpan placeRef o.fr fp).before placeRef o.ord o.scope).loadLanes (s0.cxOf placeRef) (isGeneric o.ord o.fr)
          (accessHint o.rc a) (c.elems a n) [] []) (fun _ s1 => inUse s1))

theorem witness_Loads :
    loads false ⟨one, 0, 32, 2, 1, 68, .acq, .device, false, .fromArray, .one, false⟩ = true ∧
    loads false ⟨.always, 0, 32, 2, 2, 0, .plain, .group, true, .fromArray, .one, false⟩ = true ∧
    loads true ⟨one, 0, 32, 12, 1, 1, .plain, .group, true, .fromArray, .one, false⟩ = true ∧
    (let src := mem.reads placeRef memGroup
     let a := src.a 1
     let x := ((src.s 7).extractLsb' 0 32).toInt
     let fp := footprint a (exactCal x) 0 1
     let s0 := mem.entered.sample placeRef fp
     src.passes .always = true ∧ src.passes never = false ∧ arBad a = false ∧ arEsz a ≠ 4 ∧ x + 1 = arExtent a ∧
       accepted (arrayCheck a (exactCal x) 1 false 0 1 (fun _ => x)) (fun c =>
         (s0.laneChecks placeRef (memGroup.split 0) .read ⟨true, false⟩ 4 (c.elems a 1) (s0.checked placeRef c)).isNone &&
         okAnd (((s0.reserveSpan placeRef false fp).before placeRef .acq .device).loadLanes (s0.cxOf placeRef) (isGeneric .acq false)
           (accessHint .fromArray a) (c.elems a 1) [] []) (fun _ s1 => inUse s1)) = true) ∧
    (∀ path ∈ [0, 1], ctxAnd mem 0 (fun c => placeOf c 0 (BitVec.ofNat 64 (path * 2 ^ 60 + 0x11008)) == some (.global path 0x11008)) = true ∧
      okAnd (mem.transRange (mem.cxOf placeRef) ⟨BitVec.ofNat 64 (path * 2 ^ 60 + 0x11008), 0x11008, 8, .read, false, false⟩)
        (fun ps s1 => match ps with
          | [(.phys pa _, n)] => n == 8 && ((s1.pullRange pa 8).eccOf pa 8).isNone
          | _ => false) = true) := by
  decide +kernel

/-- An empty store queue has room, whatever its capacity. -/
theorem queue_room {g : Group} (h : g.storeQ = []) : g.queueFull = false := by simp [Group.queueFull, h]

/-- A group whose store queue is full. -/
def brimful (g : Group) : Group := { memory g with storeQ := List.replicate (Config.storeCap + 1) ⟨[], [], none⟩ }

theorem queue_full : (brimful placeGroup).queueFull = true := by simp [Group.queueFull, brimful]

/-- What `Stores` asks of the checks of the vector forms, and of what they give. -/
def storeChecks (f : Group → Group) (ptr : Bool) (o : MemV) (p : State → List (Elem × Nat) → Bool) : Bool :=
  let s := withGroup f
  let g := f placeGroup
  let src := s.reads placeRef g
  let a := src.a o.arr.toNat
  let act := src.active 0 o.g
  let n := NElem.count o.n
  let k := eszBits (arEsz a)
  let s0 := s.entered.sample placeRef (if ptr then none else footprint a (src.view 0 o.x.toNat) (offInt o.off) n)
  (s.codeAt 0 (g.split 0)).isNone && !arBad a && !blockBad g o.d (arEsz a) n &&
    accepted (if ptr then pointerCheck a act true (offInt o.off) n (fun j => src.vPair o.x.toNat j)
      else arrayCheck a (src.view 0 o.x.toNat) act true (offInt o.off) n (fun j => (src.v o.x.toNat j).toInt)) (fun c =>
        (s0.laneChecks placeRef (g.split 0) .write ⟨false, true⟩ (k / 8 * n) (c.elems a n) (s0.checked placeRef c)).isNone &&
        p s0 ((c.elems a n).flatMap (fun l => l.2.zipIdx.map (fun e => (e.1, storeValue src o.d.toNat l.1 e.2 k)))))

/-- What it asks besides where the queue has room. -/
def stores (ptr : Bool) (o : MemV) : Bool :=
  storeChecks memory ptr o (fun s0 es =>
    okAnd (((s0.before placeRef o.ord o.scope .write).transElems (s0.cxOf placeRef) .write (es.map (fun e => e.1))).bind (fun _ s2 =>
      s2.storeElems (s2.cxOf placeRef) (accessHint o.rc ((mem.reads placeRef memGroup).a o.arr.toNat)) es [] [])) (fun _ s1 => inUse s1))

theorem witness_Stores :
    memGroup.queueFull = false ∧
    (Issuing (withGroup brimful) placeRef (brimful placeGroup) ∧ (brimful placeGroup).queueFull = true ∧
      storeChecks brimful false ⟨.always, 0, 32, 2, 2, 0, .plain, .group, false, .fromArray, .one, false⟩ (fun _ _ => true) = true) ∧
    stores false ⟨.always, 0, 32, 2, 2, 0, .plain, .group, false, .fromArray, .one, false⟩ = true ∧
    stores false ⟨.always, 0, 32, 2, 2, 0, .sc, .device, false, .fromArray, .one, false⟩ = true ∧
    stores true ⟨.always, 0, 32, 14, 2, 0, .rel, .die, false, .fromArray, .one, false⟩ = true ∧
    (let src := mem.reads placeRef memGroup
     let a := src.a 2
     let x := ((src.s 7).extractLsb' 0 32).toInt
     let s0 := mem.entered.sample placeRef (footprint a (exactCal x) 0 1)
     src.passes .always = true ∧ src.passes never = false ∧ arBad a = false ∧ arEsz a ≠ 4 ∧
       accepted (arrayCheck a (exactCal x) 1 true 0 1 (fun _ => x)) (fun c =>
         let es := (c.elems a 1).flatMap (fun l => l.2.map (fun e => (e, (src.s 3).toNat)))
         (s0.laneChecks placeRef (memGroup.split 0) .write ⟨false, true⟩ 4 (c.elems a 1) (s0.checked placeRef c)).isNone &&
         okAnd (((s0.before placeRef .plain .group .write).transElems (s0.cxOf placeRef) .write (es.map (fun e => e.1))).bind (fun _ s2 =>
           s2.storeElems (s2.cxOf placeRef) (accessHint .fromArray a) es [] [])) (fun _ s1 => inUse s1)) = true) := by
  refine ⟨queue_room rfl, ⟨issuing _ ?_, queue_full, ?_⟩, ?_⟩ <;> decide +kernel

/-- Two stores wait in the group's queue. -/
def storing (g : Group) : Group :=
  { memory g with storeQ := [⟨[⟨.phys 0x11000, 7, 0xFF⟩, ⟨.scratch 0 5, 9, 0xFF⟩], [], none⟩, ⟨[⟨.phys 0x11001, 8, 0x0F⟩], [], some 3⟩] }

/-- One piece of a stack, as long as the access. -/
def onePiece (n : Nat) : List (TRes × Nat) → Bool
  | [(.phys _ _, k)] => k == n
  | _ => false

theorem witness_PerformedWritesAndStoreQueue :
    base.MemoryOk ∧
    okAnd (mem.transRange (mem.cxOf placeRef) ⟨0x11008, 0x11008, 8, .write, false, false⟩) (fun ps _ => onePiece 8 ps) = true ∧
    ((withGroup storing).group? placeRef.group = some (storing placeGroup) ∧ (withGroup storing).clocked = true ∧
      0 < (((withGroup storing).ctx 0).map (fun c => c.lcs.length)).getD 0 ∧ (∃ e es, (storing placeGroup).storeQ = e :: es ∧ e.wr ≠ []) ∧
      (withGroup storing).ScratchOk) := by
  refine ⟨(?_ : Memory.wf base.mem = true), ?_, rfl, rfl, ?_, ⟨_, _, rfl, by decide⟩, scratch_ok ?_⟩ <;> decide +kernel

/-- v8 holds scratchpad offsets of 16 bytes a lane, the last one at the end of the scratchpad. -/
def padded (g : Group) : Group :=
  vreg 8 (fun j => BitVec.ofNat 32 (if j = 31 then Config.scratchBytes - 16 else 16 * j)) (vreg 4 (fun j => BitVec.ofNat 32 (3 * j))
    { memory g with ctl := { g.ctl with spillBase := 0x18000 - 0x20000 } })

/-- A slot of SPILL that holds lane values 0 and the caliper [`lo`, `hi`]. -/
def spilt (f : Group → Group) (lo hi : Nat) : State :=
  { withGroup f with mem := Cells.write (withGroup f).mem 0x18380 (natLe 4 lo ++ natLe 4 hi ++ natLe 8 1) }

theorem witness_ScratchpadAndSpill :
    (let s := withGroup padded
     let src := read padded
     let ls := spFirst src (src.active 0 .always) 8 0
     Issuing s placeRef (padded placeGroup) ∧ (s.ctx 0).isSome = true ∧
       (∀ l ∈ ls, 0 ≤ l.2 ∧ l.2 % (min (8 * 2) 16 : Nat) = 0 ∧ l.2 + (8 * 2 : Nat) ≤ Config.scratchBytes) ∧
       inUse (s.entered.before placeRef .acq .device) = true ∧ inUse (s.entered.before placeRef .acq .device .write) = true ∧ src.active 0 .always ≠ 0 ∧
       (∀ l ∈ ls, (s.entered.before placeRef .acq .device).softScratch 0 0 l.2.toNat 16 = false)) ∧
    (padded placeGroup).queueFull = false ∧
    (let s := withGroup padded
     let addr := (padded placeGroup).ctl.spillBase + BitVec.ofNat 64 (0x20000 + 3 * 0x100)
     let act := (read padded).active 0 .always
     act ≠ 0 ∧ (read padded).active 0 never = 0 ∧ addrPath addr ≤ 1 ∧ bitsOf addr.toNat 57 3 = 0 ∧
       (s.entered.watchStop placeRef ((padded placeGroup).split 0) ⟨false, true⟩ (spillWatch addr act) s.entered).isNone = true ∧
       okAnd ((s.entered.asking placeRef .write .plain .group).transRange (s.cxOf placeRef)
         ⟨addr, bitsOf addr.toNat 0 57, 256, .write, false, true⟩) (fun ps s1 =>
         let s2 := if hasRemote ps then s1.drainAll placeRef.group else s1
         let q : VReq := ⟨addr, bitsOf addr.toNat 0 57, 256, .write, false, true⟩
         okAnd ((s2.sendPieces (s1.cxOf placeRef) q ps (List.replicate 256 (0, 0xFF))).bind (fun _ y =>
           .ok () ((y.touchPieces 0 ps).farDrop (s1.cxOf placeRef) q ps))) (fun _ s3 => inUse s3)) = true) ∧
    (let fills (lo hi : Nat) (out : Bool) : Bool :=
       let s := spilt padded lo hi
       let addr := (padded placeGroup).ctl.spillBase + BitVec.ofNat 64 (0x20000 + 3 * 0x100)
       (s.entered.watchStop placeRef ((padded placeGroup).split 0) ⟨true, false⟩
         (spillWatch addr ((read padded).active 0 .always)) s.entered).isNone &&
       okAnd ((s.entered.asking placeRef .read .plain .group).spillRead (s.cxOf placeRef) addr 256) (fun b s1 =>
         let n (i : Nat) : Int := (BitVec.ofNat 32 (leNat ((b.drop i).take 4))).toInt
         leNat (b.drop 136) == 1 && decide (n 128 ≤ n 132) && (decide (n 0 < n 128) == out) && inUse s1 && decide (s1.mem = s.mem))
     fills 0 5 false = true ∧ fills 1 5 true = true ∧ (padded placeGroup).mayTrap) := by
  refine ⟨⟨issuing _ ?_, rfl, ?_⟩, queue_room rfl, ?_⟩ <;> (repeat' apply And.intro) <;> decide +kernel

theorem witness_Footprints :
    let src := mem.reads placeRef memGroup
    let a := src.a 1
    let fp := footprint a (src.view 0 2) 0 1
    let es (f : Footprint) := (List.range f.lines).flatMap (fun i => lineElems (lineSpan a f i).1 (lineSpan a f i).2)
    src.passes .always = true ∧ mem.codeAt 0 (memGroup.split 0) = none ∧ arBad a = false ∧ footprint a (src.view 0 3) 200 1 = none ∧
      (match fp with
       | none => false
       | some f => f.lines ≤ 1 && !decide (linesRefused mem.entered placeRef (es f) = true) &&
           (mem.entered.watchStop placeRef (memGroup.split 0) ⟨true, false⟩ (watchList [(0, es f)]) mem.entered).isNone &&
           okAnd ((((mem.entered.sample placeRef fp).reserveSpan placeRef true fp).before placeRef .plain .group).readLines
             (mem.cxOf placeRef) (isGeneric .plain true) (accessHint .fromArray a) a f (List.range f.lines) []) (fun _ s1 => inUse s1)) = true ∧
      (40 + elemRegs (eszBits (arEsz a)) + 4 ≤ memGroup.ctl.budget ∧ (src.view 0 2).isSome = true ∧
        (match fp with
         | none => true
         | some y => decide (y.lines ≤ 4)) = true ∧
        accepted (arrayCheck a (src.view 0 2) (src.active 0 .always) false 0 1 (fun j => (src.v 2 j).toInt)) (fun _ => true) = true) := by
  decide +kernel

/-- What `Atomics` asks of one instruction. -/
def atomic (i : RmwInstr) : Bool :=
  let src := mem.reads placeRef memGroup
  let a := src.a i.arr.toNat
  let view := src.view 0 i.x.toNat
  let s0 := mem.entered.sample placeRef (footprint a view 0 1)
  (mem.codeAt 0 (memGroup.split 0)).isNone && !arBad a && arEsz a == (if i.size = 8 then 3 else 2) &&
    accepted (arrayCheck a view (src.active 0 i.g) true 0 1 (fun j => (src.v i.x.toNat j).toInt)) (fun c =>
      let es := (c.elems a 1).flatMap (fun l => l.2.map (fun e => (l.1, e)))
      (s0.laneChecks placeRef (memGroup.split 0) .atomic i.kind 0 (c.elems a 1) (s0.checked placeRef c)).isNone &&
      okAnd ((((s0.asking placeRef .atomic i.ord i.scope).flush placeRef.group).transElems (s0.cxOf placeRef) .atomic
          (es.map (fun e => e.2))).bind (fun _ s2 =>
        s2.rmwAll (s0.cxOf placeRef) (accessHint .fromArray a) i.size (i.op src) es)) (fun _ s1 => inUse s1))

theorem witness_Atomics :
    (let o : AtomInstr := ⟨.always, 0, 60, 2, 2, 6, .i32, .acqrel, .device, .add⟩
     atomic (atomInstr o true) = true ∧ atomic (atomInstr o false) = true ∧
       atomic (casInstr ⟨.always, 0, 60, 2, 2, 6, .i32, .acq, .device⟩) = true) ∧
    (∃ c, mem.ctx 0 = some c ∧ placeOf c 0 (BitVec.ofNat 64 (3 * 2 ^ 60 + 8)) = some (.scratch 0 8) ∧ 0 < c.lcs.length) ∧
    mem.softScratch 0 0 8 4 = false ∧ mem.ScratchOk ∧
      ((casInstr ⟨.always, 0, 60, 2, 2, 6, .i32, .acq, .device⟩).op (read memory) 0).f 0 = some 0 := by
  refine ⟨?_, ⟨_, rfl, ?_⟩, ?_, scratch_ok ?_, ?_⟩ <;> decide +kernel

/-- The table of public buffers at 0x12000, whose entry 5 names two backings. -/
def publishing : State :=
  let s := base.modCtx 0 (fun c => { c with pbtab := 0x12000 })
  { s with mem := Cells.write s.mem 0x120A0 (natLe 8 0x13000 ++ natLe 8 0x14000 ++ natLe 4 0x1000) }

theorem witness_FencesPublish :
    (Issuing base placeRef placeGroup ∧ (read id).passes never = false ∧ (read id).passes .always = true ∧
      inUse (base.entered.readsDone placeRef.group) = true ∧
      inUse ((base.entered.readsDone placeRef.group).releaseAt placeRef.group .device) = true ∧
      inUse (base.entered.releaseAt placeRef.group .group) = true ∧ inUse ((base.entered.readsDone placeRef.group).flush placeRef.group) = true) ∧
    Issuing publishing placeRef placeGroup ∧ okAnd (publishing.entered.pubBuffer (publishing.cxOf placeRef) 5) (fun p s1 =>
      p == some (0x13000, 0x14000, 0x1000) && inUse ((s1.releaseAt placeRef.group .device).modCtx 0 (fun c =>
        { c with flips := c.flips ++ [⟨5, placeRef.group, .device, c.shadowsOf 5⟩] }))) = true := by
  refine ⟨⟨issuing id ?_, ?_⟩, ⟨rfl, rfl, ?_⟩, ?_⟩ <;> decide +kernel

/-- v20 holds scratchpad offsets of 16 bytes a lane and v21 valid bytes; v2 holds multiples of four, of the elements of a1. -/
def copying (g : Group) : Group :=
  vreg 20 (fun j => BitVec.ofNat 32 (16 * j)) (vreg 21 (fun j => BitVec.ofNat 32 (4 * (j % 3))) (memory g))

/-- Even lanes have `k` sealed batches. -/
def batched (k : Nat) (g : Group) : Group :=
  { g with batches := g.batches.zipIdx.map (fun y => { y.1 with sealed := if y.2 % 2 = 0 then List.replicate k [] else [] }) }

theorem witness_Copies :
    (let s := withGroup copying
     let src := s.reads placeRef (copying placeGroup)
     let a := src.a 1
     let act := src.active 0 .always
     let w := eszBits (arEsz a) / 8
     let valid (j : Nat) : Nat := (src.v 21 j).toNat
     let dst (j : Nat) : Nat := (src.v 20 j).toNat
     let s0 := s.entered.sample placeRef (footprint a (src.view 0 2) 0 (8 / w))
     Issuing s placeRef (copying placeGroup) ∧ s.codeAt 0 ((copying placeGroup).split 0) = none ∧ arBad a = false ∧ arEsz a ≤ 4 ∧ w ≤ 8 ∧
       accepted (cpaCheck a (src.view 0 2) act 0 (8 / w) (fun j => (src.v 2 j).toInt) valid w) (fun c =>
         let srcs := (c.live.lanes.filter (fun j => valid j != 0)).map (fun j => (j, (arrayElem a (c.idx j).toNat).addr))
         (cpaFault s0 placeRef act 8 valid dst srcs).isNone && inUse ((s0.checked placeRef c).addCopies placeRef [])) = true) ∧
    (Issuing (withGroup (batched 3)) placeRef (batched 3 placeGroup) ∧
      (∀ j ∈ ((read (batched 3)).active 0 .always).lanes, (regGet Batch.none (batched 3 placeGroup).batches j).sealed.length < 8) ∧
      (∀ j ∈ ((read (batched 3)).active 0 .always).lanes,
        (regGet Batch.none (batched 3 placeGroup).batches j).sealed.length ≤ (3 : BitVec 3).toNat) ∧
      ∃ j ∈ ((read (batched 3)).active 0 .always).lanes,
        (2 : BitVec 3).toNat < (regGet Batch.none (batched 3 placeGroup).batches j).sealed.length) ∧
    (Issuing (withGroup (batched 8)) placeRef (batched 8 placeGroup) ∧
      ∃ j ∈ ((read (batched 8)).active 0 .always).lanes, 8 ≤ (regGet Batch.none (batched 8 placeGroup).batches j).sealed.length) := by
  refine ⟨⟨issuing copying ?_, ?_⟩, ⟨issuing _ ?_, ?_⟩, issuing _ ?_, ?_⟩ <;> decide +kernel

/-- s8 is 64, s9 is 65; h0 to h3 name entries 0 to 3 with generation 7. -/
def handles (g : Group) : Group :=
  sreg 8 64 (sreg 9 65 { handler g with hregs := (List.range 16).map (fun k => BitVec.ofNat 64 (2 ^ 63 + k * 2 ^ 32 + 7)) })

/-- Every entry of the logical core is taken: PENDING, DONE, FAILED and CANCELLED in turn. -/
def kicked : State := (withGroup handles).modLc 0 0 (fun l =>
  { l with kicks := l.kicks.zipIdx.map (fun y =>
      if y.2 % 4 = 0 then { y.1 with st := .pending, gen := 7 } else if y.2 % 4 = 1 then { y.1 with st := .done, gen := 7 }
      else if y.2 % 4 = 2 then { y.1 with st := .failed, gen := 7 } else { y.1 with st := .cancelled, gen := 7 }) })

/-- Every entry of the logical core is PENDING. -/
def fullKicks : State := (withGroup handles).modLc 0 0 (fun l => { l with kicks := l.kicks.map (fun y => { y with st := .pending }) })

theorem witness_KickHandlesTags :
    (let s := withGroup handles
     let src := read handles
     Issuing s placeRef (handles placeGroup) ∧ (∃ c, s.ctx 0 = some c ∧ c.freeKick 0 = some 0) ∧ placeRef.lcid < 1024 ∧
       src.passes never = false ∧ src.passes .always = true ∧ (src.s 8).toNat % 64 = 0 ∧ (src.s 8).toNat + 64 * 15 ≤ Config.scratchBytes ∧
       (15 : HReg).toNat < (handles placeGroup).hregs.length ∧ (handles placeGroup).mayTrap ∧ (src.s 9).toNat % 64 ≠ 0) ∧
    (Issuing fullKicks placeRef (handles placeGroup) ∧ ∃ c, fullKicks.ctx 0 = some c ∧ c.freeKick 0 = none) ∧
    (let src := kicked.reads placeRef (handles placeGroup)
     let st (n : Nat) := kicked.handleSt 0 (src.h n)
     Issuing kicked placeRef (handles placeGroup) ∧ src.passes .always = true ∧ st 0 = .pending ∧ st 1 = .done ∧ st 2 = .failed ∧
       st 3 = .cancelled ∧ (read id).h 0 = 0 ∧ inUse (kicked.entered.cancelKick 0 (handleLcid (src.h 2)) (handleEntry (src.h 2))) = true) ∧
    (let s := (withGroup handles).modLc 0 0 (fun l => { l with tags := 1 })
     let src := s.reads placeRef (handles placeGroup)
     let tags := (s.lc 0 0).tags
     Issuing s placeRef (handles placeGroup) ∧ tags &&& src.s 9 ≠ 0 ∧ tags &&& src.s 8 = 0 ∧ tags &&& src.s 9 ≠ src.s 9 ∧
       src.s 10 = 0 ∧ tags &&& src.s 10 = src.s 10 ∧ (127 : SReg).toNat < (handles placeGroup).sregs.length) := by
  refine ⟨⟨issuing handles ?_, ⟨_, rfl, ?_⟩, ?_⟩, ⟨⟨rfl, rfl, ?_⟩, _, rfl, ?_⟩, ⟨⟨rfl, rfl,
    ?_⟩, ?_⟩, ⟨rfl, rfl, ?_⟩, ?_⟩ <;> (repeat' apply And.intro) <;> decide +kernel

/-- A soft error stands in the barrier at 64 of the logical core. -/
def spoiled : State := { withGroup handles with soft := [.scratch 0 0 2] }

/-- An offset and a count. -/
def barrier (off count : DWord) (g : Group) : Group := handler (sreg 8 off (sreg 9 count (handles g)))

theorem witness_TransactionBarriers :
    (Issuing (withGroup (barrier 0x100000 3)) placeRef (barrier 0x100000 3 placeGroup) ∧
      Config.scratchBytes ≤ ((read (barrier 0x100000 3)).s 8).toNat) ∧
    (Issuing (withGroup (barrier 0xFFFF8 3)) placeRef (barrier 0xFFFF8 3 placeGroup) ∧
      ((read (barrier 0xFFFF8 3)).s 8).toNat < Config.scratchBytes ∧ ((read (barrier 0xFFFF8 3)).s 8).toNat % 16 ≠ 0 ∧
      (barrier 0xFFFF8 3 placeGroup).mayTrap) ∧
    (let s := withGroup (barrier 0xFFFF0 0)
     Issuing s placeRef (barrier 0xFFFF0 0 placeGroup) ∧ ((read (barrier 0xFFFF0 0)).s 8).toNat < Config.scratchBytes ∧
      ((read (barrier 0xFFFF0 0)).s 8).toNat % 16 = 0 ∧ (s.entered.drainAll placeRef.group).softScratch 0 0 0xFFFF0 16 = false ∧
      ((read (barrier 0xFFFF0 0)).s 9).extractLsb' 0 32 = 0) ∧
    (Issuing spoiled placeRef (handles placeGroup) ∧ (spoiled.entered.drainAll placeRef.group).softScratch 0 0 64 16 = true ∧
      Memory.wf ((withGroup handles).lc 0 0).scratch = true) ∧
    let s := (withGroup handles).modLc 0 0 (fun l => l.setTbar 64 ⟨5, 1, 0, 4⟩)
    let src := s.reads placeRef (handles placeGroup)
    let s0 := s.entered.drainAll placeRef.group
    Issuing s placeRef (handles placeGroup) ∧ src.passes .always = true ∧ (src.s 8).toNat < Config.scratchBytes ∧ (src.s 8).toNat % 16 = 0 ∧
      s0.softScratch 0 0 64 16 = false ∧ (src.s 9).extractLsb' 0 32 ≠ 0 ∧ inUse s0 = true ∧ inUse (s0.releaseAt placeRef.group .device) = true ∧
      (((s0.lc 0 0).tbar 64).gen - (src.s 10).extractLsb' 0 32 - 1).toNat < 2 ^ 31 ∧
      2 ^ 31 ≤ (((s0.lc 0 0).tbar 64).gen - (src.s 9).extractLsb' 0 32 - 1).toNat := by
  refine ⟨⟨issuing _ ?_, ?_⟩, ⟨issuing _ ?_, ?_, ?_, ?_, ?_, ?_⟩, ⟨issuing _ ?_, ?_⟩, ⟨⟨rfl, rfl, ?_⟩, ?_⟩, ⟨rfl, rfl, ?_⟩, ?_⟩ <;>
    decide +kernel

/-- The same in a group whose store queue is full. -/
def pressed (g : Group) : Group := { matrices g with storeQ := List.replicate (Config.storeCap + 1) ⟨[], [], none⟩ }

theorem witness_Matrix :
    let src := read matrices
    ((matrices placeGroup).queueFull = false ∧ Issuing (withGroup pressed) placeRef (pressed placeGroup) ∧
      (pressed placeGroup).queueFull = true ∧ (pressed placeGroup).ctl.live = Mask.full ∧ ((pressed placeGroup).split 0).mask = Mask.full ∧
      (read pressed).passes .always = true ∧ ((fmtBlock (pairBits (read pressed) 10)).bind (fun fb =>
        (spPair (pairBits (read pressed) 12)).map (fun p => (firstBeyond p 32 (rowBytes fb.a 32)).isNone))) = some true) ∧
    Issuing (withGroup matrices) placeRef (matrices placeGroup) ∧ (matrices placeGroup).ctl.live = Mask.full ∧
      ((matrices placeGroup).split 0).mask = Mask.full ∧ inUse ((withGroup matrices).entered.drainAll placeRef.group) = true ∧
      src.passes .always = true ∧
      (match fmtBlock (pairBits src 10), spPair (pairBits src 12) with
       | some fb, some p =>
         (match MOperand.parse src fb.tra (.sp 12), MOperand.parse src fb.trb (.regs 40) with
          | some a, some b => (a.beyond fb.a fb.tra).isNone && (b.beyond fb.b (!fb.trb)).isNone
          | _, _ => false) &&
           (gridBeyond fb.geom fb.aoff fb.apitch 32 fb.a.slice).isNone && (gridBeyond fb.geom fb.boff fb.bpitch fb.a.slice 32).isNone &&
           (MOp.beyond fb.a fb.tra (.sp p)).isNone && (MOp.beyond fb.b (!fb.trb) (.sp p)).isNone &&
             (firstBeyond p 32 (rowBytes fb.a 32)).isNone &&
             !(withGroup matrices).softBytes placeRef ((MOp.sp p).bytes fb.a fb.tra ++ (MOp.sp p).bytes fb.b (!fb.trb) ++
               gridBytes fb.geom fb.aoff fb.apitch 32 fb.a.slice ++ gridBytes fb.geom fb.boff fb.bpitch fb.a.slice 32)
       | _, _ => false) = true := by
  refine ⟨⟨queue_room rfl, issuing _ ?_, ?full, ?_⟩, issuing _ ?_, ?_⟩
  case full => simp [Group.queueFull, pressed]
  all_goals decide +kernel

/-- Port words in s20 to s24, an image and a descriptor in the code page at s25; the group is rank 1 of 4, its peer table at 0x12000. -/
def posting (g : Group) : Group :=
  sreg 20 2 (sreg 21 0x1000 (sreg 22 0x10010002 (sreg 23 0x10020003 (sreg 24 0x10050003 (sreg 25 0x11000
    { handler g with ctl := { g.ctl with rank := 1, nranks := 4, peers := 0x12000 } })))))

/-- Every link is up, and each rank of the peer table is reached over link 2 more than its number. -/
def linked : State :=
  let s := withGroup posting
  { s with
    pkg := { s.pkg with ready := 0xFFFFFFFFFF }
    mem := Cells.write s.mem 0x12000 (natLe 16 0x4001 ++ (List.range 4).flatMap (fun i => natLe 16 (2 ^ (102 + i)))) }

/-- Every port of bank 0 holds 2,000 messages. -/
def crowded : State := linked.modCtx 0 (fun c => c.modBank 0 (fun b => { b with queues := b.queues.map (fun _ => List.replicate 2000 ⟨7, none⟩) }))

/-- An image of zeros is well formed. -/
theorem blank_bytes (n : Nat) : leNat (List.replicate n 0) = 0 := by
  induction n with
  | zero => rfl
  | succ n ih => simpa [List.replicate_succ, leNat] using ih

theorem blank_image (n : Nat) : imageFault (List.replicate n 0) = none := by
  have w : portWordMalformed 0 = false := by decide +kernel
  have e : patMalformed 0 = false := by decide +kernel
  have none {k : Nat} : (List.range k).find? (fun _ => false) = none := by simp
  simp only [imageFault, List.drop_replicate, List.take_replicate, blank_bytes, w, e, none, Option.map_none]

theorem witness_PostsAndLaunches :
    (let src := linked.reads placeRef (posting placeGroup)
     Issuing linked placeRef (posting placeGroup) ∧ src.passes .always = true ∧ portWordBad (src.s 21) = true ∧
       portWordBad (src.s 20) = false ∧ (src.s 20).getLsbD 28 = false ∧ (src.s 22).getLsbD 28 = true ∧
       (src.s 22).toNat / 2 ^ 16 % 4096 = src.ctl.rank ∧ src.ctl.rank < src.ctl.nranks ∧
       inUse (linked.entered.releaseAt placeRef.group .device) = true ∧
       ctxAnd linked 0 (fun c => !c.joinBusy placeRef.group && !(c.bank 0).full 2 && !c.enqd.contains 2 && !c.heldFor 2) = true ∧
       ctxAnd crowded 0 (fun c => (c.bank 0).full 2) = true ∧ Issuing crowded placeRef (posting placeGroup) ∧
       (src.s 23).toNat / 2 ^ 16 % 4096 = 2 ∧ 2 < src.ctl.nranks ∧ 2 ≠ src.ctl.rank ∧
       okAnd (linked.entered.readRecord (linked.cxOf placeRef) (src.ctl.peers + 48) 16) (fun e s1 =>
         !peerEntryRsvd (leNat e) && upPort s1 (leNat e) == some 4 &&
           inUse ((s1.releaseAt placeRef.group .system).sendFlit 4 2 (.post 1 3 0))) = true) ∧
    (let s := { linked with mem := Cells.write linked.mem 0x11000 (natLe 8 5) }
     let src := linked.reads placeRef (posting placeGroup)
     (src.s 25).extractLsb' 0 8 = 0 ∧ addrPath (src.s 25) = 0 ∧ (src.s 25).extractLsb' 57 3 = 0 ∧
       (let s := { linked with mem := Cells.write linked.mem 0xC010 (natLe 8 0x1F1) }
        okAnd ((s.entered.releaseAt placeRef.group .device).readRecord (s.cxOf placeRef) 0x20000 4096)
          (fun b s1 => b == List.replicate 4096 0 && inUse s1) = true) ∧ imageFault (List.replicate 4096 0) = none ∧
       okAnd ((s.entered.releaseAt placeRef.group .device).readRecord (s.cxOf placeRef) (src.s 25) 8) (fun b s1 => leNat b == 5 &&
         inUse s1) = true) := by
  refine ⟨⟨⟨rfl, rfl, ?_⟩, ?_, ?_, ?_, ?_, ?_, ?_, ?_, ?_, ?_, ?_, ⟨rfl, rfl, ?_⟩, ?_⟩, ?_, ?_, ?_, ?_, blank_image
    4096, ?_⟩ <;> decide +kernel

/-- Scopes 0 to 4 of the context: FREE, OPEN with two members, CLOSED, DONE and ERROR. -/
def inScopes : State := (withGroup (fun g => sreg 20 0x10105 (sreg 21 5 (handler g)))).modCtx 0 (fun c =>
  { c with scopes := c.scopes.zipIdx.map (fun x =>
      if x.2 = 1 then { x.1 with st := .open, live := 2, depth := 1 } else if x.2 = 2 then { x.1 with st := .closed, live := 1, depth := 1 }
      else if x.2 = 3 then { x.1 with st := .done } else if x.2 = 4 then { x.1 with st := .error } else x.1) })
def inScopesGroup : Group := sreg 20 0x10105 (sreg 21 5 (handler placeGroup))

/-- The cohort of slot 1 in the group's instance. -/
def cohort1 (s : State) (f : Cohort → Bool) : Bool :=
  ctxAnd s 0 (fun c => match c.inst? joinedGroup.ctl.recNum joinedGroup.ctl.ganginst with
    | some gi => decide (1 < gi.cohorts.length) && f (regGet ⟨0, 0, 0⟩ gi.cohorts 1)
    | none => false)

theorem witness_ScopesAndCohorts :
    (let src := inScopes.reads placeRef inScopesGroup
     Issuing inScopes placeRef inScopesGroup ∧ src.passes .always = true ∧
       (src.s 20).extractLsb' 30 2 = 0 ∧ (src.s 20).toNat % 256 = 5 ∧ (src.s 20).getLsbD 16 = true ∧ (src.s 21).getLsbD 16 = false ∧
       ctxAnd inScopes 0 (fun c => !c.joinBusy placeRef.group && (c.scope 5).st == .free && (c.scope 1).st == .open &&
         decide ((c.scope 1).depth = 1)
         && decide (0 < (c.scope 1).live) && (c.scope 2).st == .closed && (c.scope 3).st == .done && (c.scope 4).st == .error
         && (c.scope 0).st == .free) = true) ∧
    (let s := joined 64 3
     let src := s.reads placeRef joinedGroup
     Issuing s placeRef joinedGroup ∧ joinedGroup.cohortOf (1 : BitVec 2).toNat = some 1 ∧ src.passes .always = true ∧
       (1 : BitVec 2).toNat < joinedGroup.ctl.arrived.length ∧
       cohort1 s (fun co => decide (0 < co.live) && decide (co.arrived + maskCount (src.active 0 .always) < co.live) &&
         co.phase == 3) = true ∧
       src.active 0 .always &&& joinedGroup.arrivedIn 1 = 0 ∧ src.active 0 .always ≠ 0 ∧
       ctxAnd s 0 (fun c => inUse (s.entered.releaseAt placeRef.group (c.cohortScope joinedGroup 1 0))) = true ∧
       ((3 : BitVec 32) - (src.s 20).extractLsb' 0 32 - 1).toNat < 2 ^ 31) ∧
    (let s := joined 32 0
     let act := (s.reads placeRef joinedGroup).active 0 .always
     Issuing s placeRef joinedGroup ∧ act ≠ 0 ∧ act &&& joinedGroup.arrivedIn 1 = 0 ∧
       cohort1 s (fun co => co.arrived + maskCount act == co.live) = true ∧
       ctxAnd s 0 (fun c => inUse (s.entered.releaseAt placeRef.group (c.cohortScope joinedGroup 1 0))) = true ∧ 3 < joinedGroup.sregs.length) ∧
    (let f := fun g : Group => { g with ctl := { g.ctl with cohorts := [some 0, none, none, none], arrived := [0xFF, 0, 0, 0] } }
     Issuing (withGroup f) placeRef (f placeGroup) ∧ (read f).active 0 .always &&& (f placeGroup).arrivedIn 0 ≠ 0 ∧
       2 ^ 31 ≤ ((0 : BitVec 32) - (0 : DWord).extractLsb' 0 32 - 1).toNat) := by
  refine ⟨⟨⟨rfl, rfl, ?_⟩, ?_⟩, ⟨⟨rfl, rfl, ?_⟩, ?_⟩, ⟨⟨rfl, rfl, ?_⟩, ?_⟩,
    issuing _ ?_, ?_⟩ <;> decide +kernel

/-- A second group of the same budget and cohorts, in the same instance, on slot 1 of the same logical core or another. -/
def companions (lcid budget : Nat) : State := (joined 64 0).modCtx 0 (fun c =>
  { c with groups := c.groups ++ [(⟨0, lcid, 1⟩, { joinedGroup with ctl := { joinedGroup.ctl with budget := budget } })] })

/-- Two members of a cohort, the other one waiting at the rendezvous with split 0. -/
def gathered : State := (companions 0 256).modGroup ⟨0, 0, 1⟩ (first (fun sp => { sp with st := .wait (.regroup 1 2), clause := none }))

/-- What `Regroup` asks of each member where the last one arrives. -/
def gathers (x : GroupRef × Group) : Bool :=
  x.1.lcid == 0 && x.2.ctl.budget == joinedGroup.ctl.budget && x.2.ctl.cohorts == joinedGroup.ctl.cohorts &&
    gathered.group? x.1 == some x.2 && x.2.inflight.isEmpty && x.2.batches.all (fun b => b.current.isEmpty && b.sealed.isEmpty) &&
    (x.1 == placeRef.group || (x.2.split 0).st == .wait (.regroup 1 2)) && [1, 2, 3].all (fun j => (x.2.split j).st == .free) &&
    x.2.splits.length == 4

theorem witness_Regroup :
    (Issuing gathered placeRef joinedGroup ∧ ctxAnd gathered 0 (fun c =>
      let ms := c.members joinedGroup.ctl.recNum joinedGroup.ctl.ganginst 1
      ms.all gathers && decide (ms.map (fun x => x.1) = [placeRef.group, ⟨0, 0, 1⟩]) && ms.contains (placeRef.group, joinedGroup)) = true) ∧
    (let g := joinedGroup
     Issuing (joined 32 0) placeRef g ∧ g.cohortOf (1 : BitVec 2).toNat = some 1 ∧ ctxAnd (joined 32 0) 0 (fun c =>
       c.members g.ctl.recNum g.ctl.ganginst 1 == [(placeRef.group, g)]) = true ∧ g.ctl.live ≠ 0 ∧ g.ctl.retired = false ∧
       (g.split 0).mask = g.ctl.live ∧ (g.split 0).div.depth = 0 ∧ (∀ j, j < 4 → j ≠ 0 → (g.split j).st = .free) ∧ g.splits.length = 4 ∧
       (g.split 0).clause.isSome = true ∧ g.inflight = [] ∧ ∀ b ∈ g.batches, b.current = [] ∧ b.sealed = []) ∧
    (let e : StackEntry := ⟨0x20000, 0xFF, .pending⟩
     Issuing (withGroup (diverged e)) placeRef (diverged e placeGroup) ∧ ((diverged e placeGroup).split 0).div.depth ≠ 0) ∧
    (Issuing (companions 0 256) placeRef joinedGroup ∧ ctxAnd (companions 0 256) 0 (fun c =>
      let ms := c.members joinedGroup.ctl.recNum joinedGroup.ctl.ganginst 1
      ms.all (fun x => x.1.lcid == 0 && x.2.ctl.budget == joinedGroup.ctl.budget && x.2.ctl.cohorts == joinedGroup.ctl.cohorts) &&
        ms.any (fun x => x.1 != placeRef.group && !x.2.ctl.retired && x.2.atRegroup == none)) = true) ∧
    (Issuing (companions 0 32) placeRef joinedGroup ∧ ctxAnd (companions 0 32) 0 (fun c =>
      (c.members joinedGroup.ctl.recNum joinedGroup.ctl.ganginst 1).any (fun x => x.2.ctl.budget != joinedGroup.ctl.budget)) = true) ∧
    (Issuing (companions 3 256) placeRef joinedGroup ∧ ctxAnd (companions 3 256) 0 (fun c =>
      (c.members joinedGroup.ctl.recNum joinedGroup.ctl.ganginst 1).any (fun x => x.1.lcid != 0)) = true) := by
  refine ⟨⟨⟨rfl, rfl, ?_⟩, ?_⟩, ⟨⟨rfl, rfl, ?_⟩, ?_⟩, ⟨issuing _ ?_, ?_⟩, ⟨⟨rfl, rfl, ?_⟩, ?_⟩, ⟨⟨rfl, rfl, ?_⟩,
    ?_⟩, ⟨rfl, rfl, ?_⟩, ?_⟩ <;> decide +kernel

/-- The group's split 0 is READY at the header, since cycle 3. -/
def waiting (g : Group) : Group := first (fun sp => { sp with st := .ready, clause := none, age := some 3 }) g
def doubled (g : Group) : Group := both 0xFFFF 0xFFFF0000 (waiting g)

/-- Split 0 of the group `g` is chosen; its header is read, and the group stays. -/
def enters (s : State) (g : Group) (p : DWord → State → Bool) : Bool :=
  let pc := (g.split 0).pc
  s.chosen 0 0 0 == some placeRef && (g.meeting 0).isEmpty && pcOk pc && okAnd (s.fetch (s.cxOf placeRef) (pcHdr pc)) (fun h s1 =>
    s1.group? placeRef.group == some g && p h s1)
/-- Another word stands in the place of the header. -/
def headed (h : Nat) (s : State) : State := { s with mem := Cells.write s.mem 0x10000 (natLe 8 h) }
/-- The split is at position 1. -/
def beyond (g : Group) : Group := first (fun sp => { sp with pc := mkPc sp.pc 1 }) (waiting g)

/-- The code page is compressed: its header, which names a PENDING handle, is seen when the clause starts. -/
def promoting : State :=
  let s := (kicked.modGroup placeRef.group waiting).modTier 0 (fun x => { x with
    records := [⟨5, natLe 8 0x01F0010000000000 ++ List.replicate 65528 0, 64, []⟩]
    frames := [3] })
  { s with mem := Cells.write s.mem 0xC008 (natLe 8 (2 ^ 54 + 0x501F1)) }

theorem witness_ClauseStart :
    enters (withGroup waiting) (waiting placeGroup) (fun h s1 => hdrMaj h == 1 && !hdrRsvd h &&
      decide (pcPos ((waiting placeGroup).split 0).pc = 0) && !s1.handleFailed 0 (waiting placeGroup) h &&
      s1.hdrMet placeRef (waiting placeGroup) h) = true ∧
    enters (headed 0x02F0000000000000 (withGroup waiting)) (waiting placeGroup) (fun h _ => hdrMaj h != 1) = true ∧
    enters (headed 0x01F0000000000001 (withGroup waiting)) (waiting placeGroup) (fun h _ => hdrMaj h == 1 && hdrRsvd h) = true ∧
    enters (withGroup beyond) (beyond placeGroup) (fun h _ => hdrMaj h == 1 && !hdrRsvd h &&
      decide (hdrCount h < pcPos ((beyond placeGroup).split 0).pc)) = true ∧
    enters (headed 0x01F0FF0000000000 (kicked.modGroup placeRef.group waiting)) (waiting (handles placeGroup)) (fun h s1 =>
      hdrMaj h == 1 && !hdrRsvd h && s1.handleFailed 0 (waiting (handles placeGroup)) h) = true ∧
    enters promoting (waiting (handles placeGroup)) (fun h s1 =>
      hdrMaj h == 1 && !hdrRsvd h && !s1.handleFailed 0 (waiting (handles placeGroup)) h &&
        !s1.hdrMet placeRef (waiting (handles placeGroup)) h) = true ∧
    (let f := fun g => first (fun sp => { sp with pc := 0x10001 }) (waiting g)
     (withGroup f).chosen 0 0 0 = some placeRef ∧ pcOk ((f placeGroup).split 0).pc = false ∧ (f placeGroup).meeting 0 = []) ∧
    ((withGroup doubled).chosen 0 0 0 = some placeRef ∧ (doubled placeGroup).meeting 0 = [1] ∧ (doubled placeGroup).splits.length = 4) ∧
    (let s := { withGroup waiting with cycles := 20000 }
     s.group? placeRef.group = some (waiting placeGroup) ∧ s.clocked = true ∧ ((waiting placeGroup).split 0).age = some 3 ∧
       ((waiting placeGroup).split 0).st = .ready ∧ 3 + 16384 ≤ s.cycles) ∧
    (let f := fun g : Group => { g with trap := { g.trap with tdue := true } }
     (withGroup f).group? placeRef.group = some (f placeGroup) ∧ (withGroup f).clocked = true ∧ (f placeGroup).trap.tdue = true) := by
  refine ⟨?_, ?_, ?_, ?_, ?_, ?_, ?_, ?_, ⟨rfl, ?_⟩, rfl, ?_, rfl⟩ <;> decide +kernel

/-- The device, with its one instance changed. -/
def insts (f : GangInst → GangInst) (s : State) : State := s.modCtx 0 (fun c => { c with insts := c.insts.map f })

/-- A halt and a debug stop are on their way to split 0. -/
def skidding (g : Group) : Group := first (fun sp => { sp with skid := some (4, 4), dskid := some (3, 3) }) g
def stoppedAt (g : Group) : Group := first (fun sp => { sp with dstopped := true }) g

/-- What `HaltAndDebug` assumes of every state. -/
def runs (s : State) : Bool :=
  s.clocked && ctxAnd s 0 (fun c => decide (c.joinDie < s.dies.length) && decide (0 < (s.die c.joinDie).slots.length))

theorem witness_HaltAndDebug :
    ((withGroup skidding).group? placeRef.group = some (skidding placeGroup) ∧ runs (withGroup skidding) = true ∧ placeRef.k < 4 ∧
      ((skidding placeGroup).split 0).skid.isSome = true ∧ ((skidding placeGroup).split 0).st ≠ .halted ∧
      ((skidding placeGroup).split 0).st ≠ .free ∧ ((skidding placeGroup).split 0).dskid.isSome = true) ∧
    (let s := insts (fun i => { i with halt := .held 5 }) base
     s.group? placeRef.group = some placeGroup ∧ runs s = true ∧
       ctxAnd s 0 (fun c => (c.insts.find? (fun x => x.halt == .held 5)).isSome && c.insts.all (fun x => x.halt != .held 6)) = true) ∧
    (base.group? placeRef.group = some placeGroup ∧ runs base = true ∧ ctxAnd base 0 (fun c => decide (c.park ≠ .captured) &&
      !c.dbg.stopping && !c.dbg.stopped && !c.haltSpreads && (c.instOf placeGroup).isSome && decide (c.joinDie = 0)) = true ∧
      (placeGroup.split 0).inUse = true ∧ base.dieOf 0 0 = 0) ∧
    (let s := (withGroup stoppedAt).modCtx 0 (fun c => { c with dbg := ⟨false, true, []⟩ })
     s.group? placeRef.group = some (stoppedAt placeGroup) ∧ runs s = true ∧
       ctxAnd s 0 (fun c => c.dbg.stopped && c.dbg.held.isEmpty) = true ∧ ((stoppedAt placeGroup).split 0).dstopped = true) := by
  refine ⟨⟨rfl, ?_, by decide, ?_⟩, ⟨rfl, ?_⟩, ⟨rfl, ?_⟩, rfl, ?_⟩ <;> decide +kernel

/-- Bank 0 with its ports of policies STALL, TRAP and TRYONLY in turn, each of whose first six holds `k` messages. -/
def banked (k : Nat) (s : State) : State := s.modCtx 0 (fun c => c.modBank 0 (fun b =>
  { b with
    ports := (List.range 256).map (fun i => BitVec.ofNat 64 (3 + i % 3 * 2 ^ 8 + 3 * 2 ^ 16))
    queues := (List.range 256).map (fun i => if i < 6 then List.replicate k ⟨7, none⟩ else []) }))

/-- Split 0 waits for the answer to its POST; the transit holds a message of the host, and one to port `p`. -/
def answering (g : Group) : Group := first (fun sp => { sp with st := .wait .answer }) (handler g)
def arriving (p k : Nat) (ext : Bool) : State := (banked k (withGroup answering)).modCtx 0 (fun c =>
  { c with transit := [.ext .host 9 ⟨3, none⟩, if ext then .ext (.link 2) p ⟨77, none⟩ else .post placeRef p ⟨66, some 3⟩] })

/-- Bank 0 has a pattern in entry `i` that takes two messages of port 3, with its descriptor at 0x11000; the pointer stands at 5. -/
def patterned (i : Nat) (s : State) : State :=
  { s.modCtx 0 (fun c => c.modBank 0 (fun b =>
      { b with patterns := regSet (List.replicate 64 0) i (BitVec.ofNat 256 (0x11000 * 2 ^ 192 + 2 ^ 140 + 3 + 2 ^ 8)), rrptr := 5 })) with
    mem := Cells.write s.mem 0x11000 (natLe 8 3) }

theorem witness_BankEvents :
    (∀ y ∈ [(0, false), (0, true), (2000, false), (2000, true)], ∀ p ∈ [0, 1, 2],
      let s := arriving p y.1 y.2
      s.clocked = true ∧ s.group? placeRef.group = some (answering placeGroup) ∧ ((answering placeGroup).split 0).st = .wait .answer ∧
        (answering placeGroup).trap.inHandler = false ∧
        ctxAnd s 0 (fun c => c.mayArrive 1 && decide (p / 256 < c.banks.length) && decide (p % 256 < (c.bank 0).queues.length) &&
          decide ((c.bank 0).full p = (y.1 == 2000)) && wordPolicy ((c.bank 0).word p) == p && decide (3 < c.scopes.length) &&
          decide ((c.bank 0).overflow.length < 32)) = true) ∧
    (let s := (arriving 0 2000 true).modCtx 0 (fun c => c.modBank 0 (fun b => { b with overflow := List.replicate 32 (0, ⟨7, none⟩) }))
     ctxAnd s 0 (fun c => c.mayArrive 1 && (c.bank 0).full 0 && decide (32 ≤ (c.bank 0).overflow.length)) = true) ∧
    (∀ y ∈ [(0, 3), (0, 1), (2000, 1)], ctxAnd ((banked y.1 base).modCtx 0 (fun c => c.modBank 0 (fun b =>
        { b with left := y.2, overflow := if y.1 = 0 then [] else [(9, ⟨7, none⟩)] }))) 0 (fun c =>
      decide (0 < c.banks.length) && (c.bank 0).left == y.2 && (c.bank 0).refills == (y.1 == 2000)) = true) ∧
    ctxAnd base 0 (fun c => base.joinRuns c && (c.bank 0).idle && (base.readyPatterns 0 0 (c.bank 0)).isEmpty) = true ∧
    (∀ i ∈ [4, 5, 63], let s := patterned i (banked 2 base)
      ctxAnd s 0 (fun c => s.joinRuns c && (c.bank 0).idle && decide (0 < c.banks.length) && (c.bank 0).overflow.isEmpty && c.waiting.isEmpty &&
        (c.bank 0).choose (s.readyPatterns 0 0 (c.bank 0)) == some i && !(c.bank 0).failed.getLsbD i &&
        okAnd (s.readRecord (s.joinCx 0 (.fire 0 0 i)) (BitVec.ofNat 64 (patGang ((c.bank 0).pattern i))) 8) (fun b s1 =>
          bitsOf (leNat b) 11 2 == 0 && decide (s1.ctxs = s.ctxs))) = true) := by decide +kernel

/-- What a start record read answers, with what the state after it must satisfy. -/
def readAnd {α : Type} (x : StartRes α × State) (f : α → State → Bool) : Bool :=
  match x with
  | (.ok a, s) => f a s
  | _ => false

/-- A gang descriptor of `n` instances of one role of 5 groups at 0x10000 (Table 11.6). -/
def descriptor (n : Nat) (bad : Bool) : List Byte :=
  natLe 256 (3 + n * 2 ^ 40 + 0x10000 * 2 ^ 512 + 5 * 2 ^ 576 + if bad then 2 ^ 900 else 0)

/-- Record 4 of the context, at the head of its queue, with its descriptor at 0x11000. -/
def queuedRec : GangRec := { placeRec with num := 4, descAddr := 0x11000, queued := true, running := 0, next := 0, last := 0, prio := 3 }
def served (r : GangRec) (d : List Byte) : State :=
  let s := base.modCtx 0 (fun c => { c with records := [r, { queuedRec with num := 5 }] })
  { s with mem := Cells.write s.mem 0x11000 d, meridian := 6000000 }

/-- Bind records of instance 0 of record 4 wait to be carried out. -/
def binding (last : Bool) : State := base.modCtx 0 (fun c =>
  { c with
    binds := [{ placeBind with recNum := 4, gcount := 2, slot := 3, gfirst := 1, last := last, budget := 64 },
      { placeBind with ord := 1, recNum := 4 }]
    insts := c.insts ++ [{ placeInst with recNum := 4, binding := true }] })

/-- The one group has retired; its instance halts or not, and the fault ring's HOLD is set or not. -/
def finished (h : HaltSt) (hold : Bool) : State :=
  (insts (fun i => { i with halt := h, seq := 9 }) (withGroup (fun g => { g with ctl := { g.ctl with retired := true } }))).modSlotRegs 0 0
    (fun x => { x with fring := { x.fring with base := if hold then 16 else 0 } })

theorem witness_GangServiceAndGroups :
    (∀ bad ∈ [true, false], let s := served queuedRec (descriptor 3 bad)
      ctxAnd s 0 (fun c => (s.recordReads 0 c).find? (fun x => x.num == 4) == some queuedRec && !queuedRec.failed && !queuedRec.launching &&
        c.records.all (fun x => x.num != 4 || x.running == 0) &&
        readAnd (s.startRead 0 4 queuedRec.descAddr 256) (fun d s1 => decide (s1.ctxs = s.ctxs) && descMalformed (descNum d) == bad &&
          (bad || !c.descUnnamed (descNum d) && dgInstances (descNum d) != 0 && dgTotal (descNum d) != 0 &&
            !(c.usable (descNum d)).isEmpty &&
            !dgSpmd (descNum d)))) = true) ∧
    (let r := { queuedRec with failed := true }
     let s := served r []
     ctxAnd s 0 (fun c => (s.recordReads 0 c).find? (fun x => x.num == 4) == some r) = true) ∧
    (let r := { queuedRec with launching := true }
     let s := served r (descriptor 3 false)
     ctxAnd s 0 (fun c => (s.recordReads 0 c).find? (fun x => x.num == 4) == some r && c.record? 4 == some r &&
       readAnd (s.startRead 0 4 r.descAddr 8) (fun _ s1 => decide (s1.ctxs = s.ctxs))) = true) ∧
    (let r := { queuedRec with desc := some (descriptor 3 false), last := 3, headAt := some 0 }
     let s := served r (descriptor 3 false)
     ctxAnd s 0 (fun c => s.serves 0 c == some r && (c.placeNow r).isSome &&
       readAnd (s.readPeers 0 r (descNum (descriptor 3 false))) (fun _ s1 =>
       readAnd (s1.cohortTable 0 r (descNum (descriptor 3 false))) (fun _ s2 => decide (s2.ctxs = s.ctxs))) && s.clocked &&
         c.record? 4 == some r && c.isHead r && decide (5000000 ≤ s.tickNow)) = true) ∧
    (∀ last ∈ [true, false], let s := binding last
      s.clocked = true ∧ ctxAnd s 0 (fun c => !c.destroying && match c.binds with
        | b :: _ => s.bindFirst c b && b.last == last && decide (0 < b.gcount) && match c.inst? b.recNum b.inst with
          | some i => i.halt == .none
          | none => false
        | [] => false) = true) ∧
    (∀ y ∈ [(HaltSt.none, false), (HaltSt.spreading, false), (HaltSt.spreading, true)], let s := finished y.1 y.2
      s.clocked = true ∧ s.holds 0 = y.2 ∧ ctxAnd s 0 (fun c => !c.dbg.stopping && !c.dbg.stopped && c.insts.all (fun i =>
        c.instQuiet i && i.halt == y.1 && c.inst? i.recNum i.inst == some i) && !c.insts.isEmpty) = true) := by decide +kernel

/-- A bulk copy record (Table 8.2): tag or automatic tag, source, destination and length, with a barrier and a post or none,
which its engine has read. -/
def bulk (auto : Bool) (tag len tb pen extra : Nat) : EngRec :=
  ⟨2, 0, 0, natLe 64 ((if auto then 128 else 0) + tag * 256 + (if tb ≠ 0 then 2 ^ 14 else 0) + (if pen ≠ 0 then 2 ^ 15 else 0) + pen * 2 ^ 16 +
    tb * 2 ^ 32 + 0x11000 * 2 ^ 64 + 0x3000000000000040 * 2 ^ 128 + len * 2 ^ 192 + 77 * 2 ^ 448 + extra), [], true, false, 64, 0, 0,
      false, none⟩

/-- The engine of logical core 0 holds these records of entry 2, a kick of two records, and the tags. -/
def engine (es : List EngRec) (tags : DWord) : State := base.modLc 0 0 (fun l =>
  { l with engine := es, tags := tags, kicks := regSet l.kicks 2 ⟨3, .pending, 2, 0, 1, 0, 0, 0, 0⟩ }.setTbar 256 ⟨5, 0, 64, 4⟩)

/-- A copy of 20 valid bytes of 48, one unit of which is performed. -/
def aCopy : CpaCopy :=
  { num := 5, gh := 0, lane := 3, size := 48, valid := 20, src := 0x11000, dst := 160, zero := false, split := 0, recNum := 0, ganginst := 0
    role := 0, hint := 0, units := [1], faulted := false, fail := none, failed := false }
def withCopy (x : CpaCopy) : State := base.modLc 0 0 (fun l => { l with cpas := [{ x with num := 8 }, x] })

/-- What `EngineEvents` assumes of every state. -/
def engineRuns (s : State) : Bool := s.clocked && ctxAnd s 0 (fun c => !c.dbg.stopping && !c.dbg.stopped) &&
  s.ctxs.all (fun x => x.all (fun c => c.lcs.all (fun l => Memory.wf l.scratch)))

theorem witness_EngineEvents :
    (∀ x ∈ [{ aCopy with zero := true }, aCopy, { aCopy with fail := some (.access, 0x123) }], let s := withCopy x
      engineRuns s = true ∧ (s.lc 0 0).cpas.find? (fun y => y.num == 5) = some x ∧ x.faulted = false ∧ x.failed = false ∧
        ctxAnd s 0 (fun c => !c.dbg.has (.cpaCopyCompletion 0 0 5) && !c.dbg.has (.recordFailure (.cpa 0 0 5))) = true) ∧
    (let sp := (withCopy aCopy).performAll 0 0
     okAnd (sp.engRead (sp.engCx (.cpa 0 0 5) 0 0) .eread 0 0x11000 20) (fun _ s1 => decide (s1.ctx 0 = sp.ctx 0)) = true) ∧
    (let x := { bulk false 5 64 256 9 0 with loaded := false }
     let s := { engine [x] 0xFF with soft := [.scratch 0 0 0] }
     let y := { bulk false 5 64 256 9 0 with started := true, tag := 5, done := 64 }
     let t := { engine [y] 0xFF with soft := [.scratch 0 0 8] }
     (s.lc 0 0).nextStart.map (fun z => z.loaded) = some false ∧
       (∃ z ∈ ((s.lc 0 0).loadKick s.freeCtr 2).engine, z.entry = 2 ∧ s.recordEcc 0 0 z = true) ∧
       ctxAnd t 0 (fun c => !c.dbg.has (.recordCompletion 0 0 2 0)) = true ∧ y.ready = true ∧ (copyRec y.bytes).tben = true ∧
       t.softScratch 0 0 (copyRec y.bytes).tb 16 = true) ∧
    (∀ y ∈ [(false, 0), (true, 0), (false, 2 ^ 60)], let s := engine [bulk y.1 (if y.1 then 0 else 5) 64 0 0 y.2] 0xFF
      let l := s.lc 0 0
      engineRuns s = true ∧ l.nextStart.map (fun x => (x.entry, x.idx)) = some (2, 0) ∧ s.engineStarts 0 0 = true ∧
        l.nextStart.map (fun x => x.loaded) ≠ some false ∧
        (match (l.loadKick s.freeCtr 2).engRec? 2 0 with
         | some x =>
           let r := copyRec x.bytes
           let lay := layoutOf x.layout
           if y.2 = 0 then !recordBad r lay && decide (recordForbidden r lay = none) && ((l.loadKick s.freeCtr 2).takeTag r).isSome
           else recordBad r lay
         | none => false) = true) ∧
    (∀ x ∈ [bulk false 5 64 0 0 0, bulk false 5 64 256 9 0, bulk false 5 60 256 9 0],
      let y := { x with started := true, tag := 5, done := 64 }
      let s := engine [y] 0xDF
      engineRuns s = true ∧ (s.lc 0 0).engRec? 2 0 = some y ∧ y.ready = true ∧ 2 < (s.lc 0 0).kicks.length ∧ y.tag < 64 ∧
        s.softScratch 0 0 (copyRec y.bytes).tb 16 = false ∧
        ∀ z ∈ (s.lc 0 0).engine, z.started = true → z.tag = y.tag → z.entry = 2 ∧ z.idx = 0) ∧
    (let y := { bulk false 5 64 0 0 0 with fail := some (.access, 0x123) }
     engineRuns (engine [y] 0xDF) = true ∧ ((engine [y] 0xDF).lc 0 0).engRec? 2 0 = some y ∧ y.started = false) ∧
    (let fl : Flip := ⟨3, placeRef.group, .device, []⟩
     ctxAnd (base.modCtx 0 (fun c => { c with flips := [⟨4, placeRef.group, .die, [(0, 2, 1, 3)]⟩, fl, fl] })) 0 (fun c =>
       c.flips[1]? == some fl && (c.flips.take 1).all (fun y => y.buf != fl.buf) && fl.records.all c.shadowEnded) = true) := by decide +kernel

/-- A second context, in slot 1, of a class and weight, whose logical cores have no working core. -/
def second (cls w : Nat) : Context :=
  { placeContext with
    cls := cls, weight := w, lcs := [{ LogicalCore.empty with placed := none }, { LogicalCore.empty with placed := none }] }
def sharing (cls w taken : Nat) : State :=
  let s := { base with ctxs := regSet base.ctxs 1 (some (second cls w)), meridian := 6000000 }
  (List.range taken).foldl (fun x i => x.modCore 0 (25 - i) (fun c => { c with holds := some (5, i) })) s

theorem witness_Scheduling :
    (base.clocked = true ∧ ctxAnd base 0 (fun c => c.scheduled && !c.setOut (c.switchSet 0) && !c.setHalting (c.switchSet 0)) = true) ∧
    (let s := sharing 0 1 0
     s.clocked = true ∧ ctxAnd s 1 (fun c =>
       let l := c.switchSet 0
       c.setWaits l && c.setOut l && !c.setHalting l && decide (l.length ≤ (s.freeCores (c.setDie l)).length) &&
         decide (c.setDie l < s.dies.length) && decide ((s.die (c.setDie l)).cores.length = 26)) = true) ∧
    (let s := { base with meridian := 6000000 }
     s.sliceDue 0 = true ∧ s.dieHalting 0 = false ∧
       (∀ j ∈ List.range 8, (s.ctx j).all (fun x => (x.setFirsts.map x.switchSet).all (fun y => !x.setWaits y)) = true) ∧
       ctxAnd s 0 (fun y => y.scheduled && decide ((s.die 0).used 0 + 1 ≤ y.weight)) = true) ∧
    (let s := sharing 2 3 26
     ctxAnd s 1 (fun c => ((c.recordSets 0).findSome? (fun y => s.preemptFor c y)).isSome) = true) := by decide +kernel

/-- A fault queue entry of the context with waiters, at virtual page 0x77. -/
def faultEnt (ws : List Waiter) : FaultEnt := ⟨0, 0x77000, 3, ws, [], 1, .xlate, 1, 0, 0, false, 0, 0⟩

/-- Split 0 waits at entry 3 of the fault queue of die 0. -/
def faulted (g : Group) : Group := first (fun sp => { sp with st := .wait (.fault 0x77000 0xF false) }) g
def queued : State := (withGroup faulted).modDie 0 (fun d => { d with faults := regSet d.faults 3 (some (faultEnt [.split placeRef])), ftail := 4 })

/-- Late enough for every pass; stack 4 offers two frames. -/
def late : State :=
  { base.modTier 4 (fun x => { x with frames := [4 * framesPerStack + 9, 4 * framesPerStack + 10] }) with meridian := 20000000 }

/-- A move of a page to stack 4 is under way, from a frame or a record, of whose units `n` are pulled. -/
def moving (src : Option Nat) (n : Nat) : State := late.modDie (stackDie 4).1 (fun d =>
  { d with moves := [⟨0, 1, 0xC008, src, 0, 4 * framesPerStack + 9, List.range n⟩] })

/-- Die group 1 of the context is die 1, whose stack 1 offers 1,025 frames; it issued three samples of four of the code page. -/
def sampled : State :=
  let s := { base.modTier 1 (fun x => { x with frames := List.range 1025 }) with meridian := 20000000 }
  (s.modCtx 0 (fun c => { c with lcs := c.lcs ++ [{ LogicalCore.empty with dieGrp := 1, die := 1 }] })).modDie 0 (fun d =>
    { d with samples := [(1, 0, 1), (1, 0, 1), (1, 0, 0), (1, 0, 1)] })

/-- The walk of a virtual page of slot 0 ends at a PTE, with what it must satisfy. -/
def walkAnd (s : State) (vpage : Nat) (f : Nat → DWord → Bool) : Bool :=
  match walk s (s.rootOf 0) (vpage * 65536) with
  | .pte pa e => f pa e
  | _ => false

/-- The context's table also maps pages 2 to 7: a frame beyond the stacks, a record that is not allocated, one that is, a page of a peer, and
two that may only be read, one of them dirty. -/
def mapped : State :=
  let pte (n : Nat) (x : Nat) (m : Cells) : Cells := Cells.write m (0xC000 + 8 * n) (natLe 8 x)
  let s := base.modTier 0 (fun x => { x with records := [⟨5, List.replicate 65536 0, 64, []⟩], frames := [] })
  { s with mem := pte 7 (0x30111) (pte 6 (0x30011) (pte 5 (2 ^ 63 + 0x30031) (pte 4 (2 ^ 54 + 0x50031) (pte 3 (2 ^ 54 + 0x70031)
      (pte 2 (0x7FFFFF0031) s.mem))))) }

/-- The state after the reads of a walk of a page. -/
def walked (vpage : Nat) : State :=
  (walkReads mapped (vpage * 65536) 3 (mapped.rootOf 0)).foldl (fun acc y => acc.homeAccess y 8 false) mapped

/-- What a page of that table answers. -/
def answersOf (vpage : Nat) (a : Acc) : WalkRes × Option Nat × Bool :=
  let s := walked vpage
  match walk s (s.rootOf 0) (vpage * 65536) with
  | .pte pa e => (.pte pa e, frameFault s e, permits a e)
  | x => (x, none, false)

theorem witness_Translation :
    (∀ v ∈ [2, 3, 4, 5, 6, 7], mapped.tlbFind (mapped.portOf 0 0) 0 v = none) ∧ Memory.wf mapped.mem = true ∧
    answersOf 9 .read = (.fault 0 0, none, false) ∧ answersOf (2 ^ 30) .read = (.fault 3 0, none, false) ∧
    answersOf 2 .read = (.pte 0xC010 0x7FFFFF0031, some 3, true) ∧
    answersOf 3 .read = (.pte 0xC018 (2 ^ 54 + 0x70031), some 2, true) ∧
    (answersOf 4 .write = (.pte 0xC020 (2 ^ 54 + 0x50031), none, true) ∧ ((walked 4).die (stackDie 0).1).moves.length < 64 ∧
      ((walked 4).tier 0).frames = []) ∧
    answersOf 5 .read = (.pte 0xC028 (2 ^ 63 + 0x30031), none, true) ∧ answersOf 6 .write = (.pte 0xC030 0x30011, none, false) ∧
    answersOf 7 .read = (.pte 0xC038 0x30111, none, true) ∧ 0xC038 + 8 ≤ Config.physBytes ∧
      ((((walked 7).die ((walked 7).joinDie 0)).slot 0).dlog.base.getLsbD 4) = false := by
  and_intros <;> decide +kernel

theorem witness_TranslationEvents :
    (Memory.wf queued.mem = true ∧ Memory.wf base.mem = true ∧ Memory.wf late.mem = true ∧ Memory.wf sampled.mem = true) ∧
    (queued.clocked = true ∧ 0 < queued.dies.length ∧ regGet none (queued.die 0).faults 3 = some (faultEnt [.split placeRef]) ∧
      queued.group? placeRef.group = some (faulted placeGroup) ∧ ((faulted placeGroup).split 0).st = .wait (.fault 0x77000 0xF false)) ∧
    ((base.die 0).xlRun = none ∧ (let s := base.modDie 0 (fun d => { d with xlRun := some (1, 2, 0) })
      (s.die 0).xlRun = some (1, 2, 0) ∧ s.remotePending 0 = false)) ∧
    (late.clocked = true ∧ (late.ctx 0).isSome = true ∧ late.pageHeld 0 1 = false ∧
      walkAnd (late.flushCtx 0) 1 (fun pa e => decide (frameFault (late.flushCtx 0) e = none) && !pteRmt e && pteTier e == 0 &&
      !pteContig e && pteFrame e / framesPerStack != 4 && hintAllows e 4 && !(late.flushCtx 0).tableFrame (pteFrame e) &&
      decide (pa + 8 ≤ Config.physBytes)) = true ∧
      ((late.flushCtx 0).die (stackDie 4).1).moves.length < 64 ∧ ((late.flushCtx 0).tier 4).frames = [4 * framesPerStack + 9, 4 * framesPerStack + 10] ∧
      4 * framesPerStack + 9 < 2 ^ 23) ∧
    ((moving (some 1) 3).clocked = true ∧
      (((moving (some 1) 3).die (stackDie 4).1).moves[0]?).any (fun m => homeDie (m.dst * 65536) == (stackDie 4).1 &&
      decide (m.dst * 65536 + 65536 ≤ Config.physBytes) && decide (3 < m.units) && !m.pulled.contains 3) = true) ∧
    (((moving none 64).die (stackDie 4).1).moves[0]?).any (fun m => (List.range m.units).all (fun u => m.pulled.contains u) &&
      decide (m.pte + 8 ≤ Config.physBytes)) = true ∧
    (late.dueAt (late.die 0).passTick = true ∧ late.dueAt (late.die 0).halveTick = true) ∧
    (sampled.dueAt (sampled.die 0).passTick = true ∧ walkAnd sampled 1 (fun _ e => ptePhint e == 0 &&
      homeDie (pteFrame e * 65536) == 0) = true ∧
      ((sampled.die 0).samples.map (fun y => (y.1, y.2.1))).dedup = [(1, 0)] ∧
      ctxAnd sampled 0 (fun c => (mainGroup ((sampled.die 0).samples.map (fun y => y.2.2))).bind c.dieOfGrp == some 1) = true ∧
      (List.range 12).find? (fun hs => (stackDie hs).1 == 1 && decide (1024 < (sampled.tier hs).frames.length)) = some 1) ∧
    ((∀ k ∈ List.range 4, 1 ≤ l2Quota 0x0000000410100110 k ∧ l2Quota 0x0000000410100110 k ≤ 16) ∧ l2PinWays 0x0000000410100110 ≤ 4 ∧
      l2Quota 0x10101100 0 = 0 ∧ 16 < l2Quota 0x10101110 1 ∧ 4 < l2PinWays 0x0000000510101010) := by
  and_intros <;> decide +kernel

/-- Stack 0 as its compressed tier, with a command, records and granules. -/
def tiered (r : Option (Nat × Nat)) (recs : List ZRec) (gr : Nat) : State :=
  base.modTier 0 (fun x => { x with run := r, records := recs, granules := gr, size := 2, start := 100, frames := [] })

theorem foldl_pos (f : Nat → Nat) (hf : ∀ i, 0 < f i) (l : List Nat) (n : Nat) (h : 0 < n ∨ l ≠ []) :
    0 < l.foldl (fun n i => n + f i) n := by
  induction l generalizing n with
  | nil => exact h.resolve_right (fun x => x rfl)
  | cons a l ih => exact ih _ (.inl (Nat.add_pos_right n (hf a)))

theorem granules_pos (b : List Byte) : 0 < frameGranules b :=
  foldl_pos _ (fun _ => Nat.lt_min.2 ⟨by decide,
    Nat.lt_of_lt_of_le Nat.zero_lt_one (Nat.le_max_left 1 _)⟩) (List.range 64) 0 (.inr (by decide))

theorem witness_TierEvents :
    (let s := tiered none [] 1000
     s.clocked = true ∧ tierStack 0 0 = some 0 ∧ 0 < s.dies.length ∧ 0 < (s.die 0).tiers.length ∧ (s.tier 0).run = none ∧
       7 / framesPerStack = 0 ∧ s.inRegion (7 * 65536) = false ∧ (s.tier 0).frames.length < 65536 ∧ s.inRegion (100 * 2 ^ 26) = true ∧
       (framesPerStack + 7) / framesPerStack ≠ 0 ∧ (s.tier 0).records = [] ∧ (s.tier 0).frames = [] ∧ 0 + 576 ≤ stackUnits ∧
       stackUnits < 1 + 576) ∧
    (∀ b, 0 < frameGranules b) ∧
    ((tiered (some (1, 7)) [⟨0, [], 3, []⟩] 0).compressible 0 7 = true ∧
      ∀ n, let x := (tiered (some (1, 7)) [⟨0, [], 3, []⟩] n).tier 0
        x.run = some (1, 7) ∧ x.granules = n ∧ ∀ k, k < 1 → ∃ y ∈ x.records, y.idx = k) ∧
    ((∀ recs n, (tiered (some (1, 7)) recs n).compressible 0 7 = true ∧ ((tiered (some (1, 7)) recs n).tier 0).records = recs ∧
        ((tiered (some (1, 7)) recs n).tier 0).granules = n) ∧
      ∀ k, k < 2 ^ 19 → ∃ y ∈ (List.range (2 ^ 19)).map (fun i => (⟨i, [], 1, []⟩ : ZRec)), y.idx = k) ∧
    ((tiered (some (1, 0x7FFFFF)) [] 3).tier 0).run = some (1, 0x7FFFFF) ∧ (tiered (some (1,
      0x7FFFFF)) [] 3).compressible 0 0x7FFFFF = false ∧
    (let s := tiered (some (2, 0 * 2 ^ 19 + 3)) [⟨0, [], 3, []⟩, ⟨3, [1], 5, []⟩] 3
     (s.tier 0).run = some (2, 3) ∧ (s.tier 0).records.find? (fun x => x.idx == 3) = some ⟨3, [1], 5, []⟩ ∧ s.recordMoving 3 = false) ∧
    (∀ x ∈ ((tiered (some (2, 2)) [⟨0, [], 3, []⟩] 3).tier 0).records, x.idx ≠ 2) := by
  refine ⟨?_, granules_pos, ⟨?_, fun _ => ⟨rfl, rfl, fun k hk => ⟨⟨0, [], 3, []⟩, List.mem_singleton.2 rfl, (Nat.lt_one_iff.1
    hk).symm⟩⟩⟩, ⟨fun _ _ => ⟨rfl, rfl, rfl⟩, fun k hk => ⟨_, List.mem_map.2 ⟨k, List.mem_range.2 hk, rfl⟩, rfl⟩⟩, ?_⟩ <;> decide +kernel

/-- Everything of the device is ready; BAR4's window stands at 0x10000; slot 0 is rank 9, and its peers 4 and 5 have windows. -/
def open_ : State :=
  { base with
    pkg := { base.pkg with
      ready := 0x3FFFFFFFFFF, wbase := 0x10000, winsel := 0, rsel := regSet base.pkg.rsel 0 (0x1000 ||| 9)
      pwin := [BitVec.ofNat 128 (2 ^ 64 * 0x10000 + 2 ^ 40 * 4 + 2 ^ 28 * 5 + 7),
        BitVec.ofNat 128 (2 ^ 64 * 0x50000 + 2 ^ 40 * 4 + 2 ^ 28 * 6 + 3)] } }

/-- The same, with every port taking posts of the host and of peers. -/
def posts : State := open_.modCtx 0 (fun c => { c with banks := c.banks.map (fun b => { b with ports := b.ports.map (fun _ => 0x30000) }) })

/-- Drains of ports 0 and 3 are late; peers 9 and 7 hold ports 1 and 2. -/
def draining : State :=
  { open_.modCtx 0 (fun c => { c with drains := [0, 3], drainAt := 5 }) with
    meridian := 0x1000000000
    pkg := { open_.pkg with drto := 2, holds := [(1, 9), (2, 7)] } }

/-- What `HostAndLinks` assumes of every state. -/
def linksRun (s : State) : Bool := Memory.wf s.mem && s.clocked

/-- A sector of the window of peer 5 is uncorrectable. -/
def poisoned : State := { posts with poison := [0x10020 / 32] }

/-- A split waits for the answer of rank 5 to request 3. -/
def asked : State := { posts with pkg := { posts.pkg with remote := [⟨3, .split placeRef, none, 5, 512, 1, .read, [], false, none⟩] } }

/-- Traffic for rank 2 is held; its entry of the peer table, whose header ends the code page, names port 4 and lies in the next page. -/
def held : State :=
  let s := linked.modGroup placeRef.group (fun g => { g with ctl := { g.ctl with peers := 0x1FFF0 } })
  { s with
    pkg := { s.pkg with holds := [(4, 2)] }
    mem := Cells.write (Cells.write (Cells.write s.mem 0xC010 (natLe 8 0x30031)) 0x1FFF0 (natLe 16 0x4001)) 0x30020 (natLe 16 (2 ^ 104)) }

theorem witness_HostAndLinks :
    (linksRun open_ = true ∧ open_.readyBit 1 = true ∧ (open_.openCtx 0).any (fun c => !wordHost ((c.bank 0).word 1) &&
      decide (c.joinDie < open_.dies.length) && decide (6 < (open_.die c.joinDie).counts.length)) = true) ∧
    (linksRun posts = true ∧ posts.readyBit 1 = true ∧ (posts.openCtx 0).any (fun c => wordHost ((c.bank 0).word 1)) = true) ∧
    (let s := moving (some 1) 3
     let pa := (4 * framesPerStack + 9) * 65536
     linksRun s = true ∧ ∀ unit ∈ [2, 3, 511], pa / 65536 * 65536 + 65536 ≤ Config.physBytes ∧ (pa + 128 * unit) % 128 + 128 ≤ 128 ∧
       (s.movePage ((pa + 128 * unit) / 65536)).any (fun m => (pa + 128 * unit) % 65536 / m.unit == unit &&
         (s.moveSource m unit).length == m.unit) = true) ∧
    open_.movePage 0x11 = none ∧
    (0x1000 + 8 ≤ 2 ^ open_.pkg.bar4Log ∧ open_.hostOk (open_.pkg.wbase.toNat + 0x1000) 8 = true ∧ linksRun base = true ∧
      (open_.pullRange (open_.pkg.wbase.toNat + 0x1000) 8).eccOf (open_.pkg.wbase.toNat + 0x1000) 8 = none ∧
      (poisoned.hostOk (poisoned.pkg.wbase.toNat + 0x18) 16 = true ∧ linksRun poisoned = true ∧
        ((poisoned.pullRange (poisoned.pkg.wbase.toNat + 0x18) 16).eccOf (poisoned.pkg.wbase.toNat + 0x18) 16).isSome = true) ∧
      0x1000 + 8 ≤ 2 ^ base.pkg.bar4Log ∧ base.hostOk (base.pkg.wbase.toNat + 0x1000) 8 = false) ∧
    (linksRun draining = true ∧ ctxAnd draining 0 (fun c => c.drains.contains 3 && draining.drainLate c) = true ∧ draining.portUp 2 = true ∧
      (∃ x ∈ draining.pkg.holds, x.2 = 7) ∧ draining.pkg.resumes = [] ∧
      (draining.modPkg (fun y => { y with resumes := [(2, 7)] })).peerNames 2 7 = false) ∧
    (posts.portUp 2 = true ∧ posts.rankSlot 9 = some 0 ∧ (posts.openCtx 0).any (fun c => wordPeer ((c.bank 0).word 5)) = true ∧
      posts.pkg.holds.contains (2, 5) = false ∧ posts.admits 5 (128 * 512) 128 true false = true ∧
      posts.admits 6 (128 * 512) 128 true false = false ∧
      (∀ k ∈ List.range 4, (posts.pullRange (128 * 512) 128).eccOf (128 * 512 + 32 * k) 32 = none) ∧
      ((List.range 4).findSome? (fun k => (poisoned.pullRange (128 * 512) 128).eccOf (128 * 512 + 32 * k) 32)).isSome = true ∧
      posts.admits 5 0x10010 8 false true = true ∧ 0x10010 + 8 ≤ Config.physBytes) ∧
    (linksRun asked = true ∧ asked.portUp 2 = true ∧ asked.isRank 0 9 = true ∧ asked.isRank 0 8 = false) ∧
    (linksRun held = true ∧ held.portUp 4 = true ∧ (∃ x ∈ held.pkg.holds, x.2 = 2) ∧ held.pkg.resumes = [] ∧
      (held.modPkg (fun y => { y with resumes := [(4, 2)] })).peerNames 4 2 = true) := by
  and_intros <;> decide +kernel

theorem witness_asked : ∀ x ∈ asked.pkg.remote, x.txn = 3 → x.rank = 5 → ∀ k l y u z, x.who ≠ .pref k l y u z := by
  intro x hx _ _ k l y u z h
  have e : x = ⟨3, .split placeRef, none, 5, 512, 1, .read, [], false, none⟩ := List.mem_singleton.1 hx
  rw [e] at h
  cases h

/-- A context without groups that drains, whose park registers give its image `size` bytes at 0. -/
def parked : Context :=
  { placeContext with park := .draining, lcs := [], groups := [], insts := [], records := [], drains := [], banks := [], scopes := [] }
def parking (size : BitVec 64) : State :=
  { base with ctxs := regSet base.ctxs 0 (some parked) }.modSlotRegs 0 0 (fun x =>
    { x with park := { x.park with size := size, busy := true } })

/-- What a capture needs; the image takes at most 2 ^ 20 bytes. -/
def captures (s : State) : Bool :=
  ctxAnd s 0 (fun c => decide (c.joinDie = 0) && decide (c.park = .draining) && c.drains.isEmpty && s.stopQuiet 0 c && c.copiesQuiet 0 &&
    c.transit.isEmpty) && Memory.wf s.mem &&
  (let s1 := ((s.releaseStop 0).arriveAll 0).endBanks 0
   ctxAnd s1 0 (fun c => match s1.peerCopies 0 (s1.peersOf 0) with
     | some (ps, s2) => decide ((s2.image 0 c ps).length ≤ 2 ^ 20) && Memory.wf s2.mem && decide (0 < s2.dies.length) &&
         decide (0 < (s2.die 0).slots.length)
     | none => false))

/-- A creation record at 0x200000 (Table 14.5): one logical core in die group 0, whose number stands at 0x300000. -/
def creating (w : Nat) : State :=
  { base with
    pkg := { base.pkg with ready := 0x3FFFFFFFFFF, crec := 0x200000 }
    mem := Cells.write base.mem 0x200000 (natLe 8 w ++ List.replicate 24 0 ++ natLe 8 0x4000 ++ natLe 8 0 ++ natLe 8 0x11000 ++ natLe 8 0x300000) }

/-- Whether everything that CREATE reads is ready, whether its record and die groups meet an uncorrectable sector, and whether they are malformed. -/
def createRead (s : State) : Bool × Bool × Bool × Bool :=
  let u := s.homeAccess s.pkg.crec.toNat 64 false
  let b := u.read s.pkg.crec.toNat 64
  let field (i : Nat) : Nat := leNat ((b.drop i).take 8)
  let n := leNat b % 2 ^ 11
  let v := if n = 0 then u else u.homeAccess (field 56) (2 * n) false
  (s.readyBit 3 && s.readyBit (4 + leNat b / 2 ^ 12 % 8) && s.stackReady (field 32) 0x4000 && s.stackReady (field 56) (max 1 (2 * n)) &&
    u.descReady (field 32) (BitVec.ofNat 64 (field 48)), (u.eccOf s.pkg.crec.toNat 64).isSome,
    n != 0 && (v.eccOf (field 56) (2 * n)).isSome, createBad b ((List.range n).map (fun i => v.readNat (field 56 + 2 * i) 2)))

/-- The first sector of what a resume or a create reads at `pa` is uncorrectable. -/
def badAt (pa : Nat) (s : State) : State := { s with poison := [pa / 32] }

/-- The digest of a whole image is too long to evaluate here: the resume shown is one whose image is refused. -/
theorem witness_ContextLife :
    (base.clocked = true ∧ Memory.wf base.mem = true ∧ Memory.wf (creating 1).mem = true ∧ 0 < base.dies.length ∧
      0 < (base.die 0).slots.length ∧ base.ctxs.length = 8 ∧ (base.parkRegs 0 0).busy = false ∧
      ctxAnd base 0 (fun c => decide (c.joinDie = 0) && decide (c.park = .none) && !c.destroying) = true) ∧
    ((parking 0).clocked = true ∧ ((parking 0).parkRegs 0 0).size = 0 ∧ captures (parking 0) = true ∧
      ((parking 0x100000).parkRegs 0 0).size ≠ 0 ∧ captures (parking 0x100000) = true) ∧
    (((base.homeAccess 0 0x1000 false).eccOf 0 0x1000).isNone = true ∧ imageStatus 0 ((base.homeAccess 0 0x1000 false).read 0 0x1000) ≠ 0 ∧
      (((badAt 0 base).homeAccess 0 0x1000 false).eccOf 0 0x1000).isSome = true ∧
      (let s := { base with ctxs := regSet base.ctxs 0 (some { parked with park := .captured }) }
      s.restores 0 0 (s.parkRegs 0 0).rslot = false ∧
        (let t := s.modSlotRegs 0 0 (fun x => { x with park := { x.park with busy := true, op := 2 } })
        t.restores 0 0 (t.parkRegs 0 0).rslot = true))) ∧
    (base.pkg.cmdRun = none ∧ (createRead base).1 = false ∧ (createRead base).2.1 = false ∧
      createRead (creating 0) = (true, false, false, true) ∧ createRead (creating 0x1001001) = (true, false, false, false) ∧
      (createRead (badAt 0x200000 (creating 1))).2.1 = true ∧ createRead (badAt 0x300000 (creating 0x1001001)) = (true, false, true, false) ∧
      ((creating 1).ctx 0).isSome = true ∧ (creating 1).ctx 1 = none ∧
      ∀ k, k < 8 → ({ creating 1 with ctxs := List.replicate 8 (some parked) }.ctx k).isSome = true) ∧
    ((open_.openCtx 0).isSome = true ∧ open_.openCtx 7 = none) ∧
    (let s := { base with pkg := { base.pkg with cmdRun := some (2, 0) } }
     s.pkg.cmdStatus = 0 ∧ { s with ctxs := regSet s.ctxs 0 (some { parked with park := .none, destroying := true }) }.destroyQuiet 0 = true) := by
  and_intros <;> decide +kernel

/-- The freeze is armed, its tick has come, and an attestation runs. -/
def armed : State :=
  { open_ with pkg := { open_.pkg with arm := true, armTick := 3, attBusy := true }, meridian := 1000000 }

/-- The package follows a source of time, or is one. -/
def timed (mersrc : Bool) : State := { open_ with pkg := { open_.pkg with mersrc := mersrc }, meridian := 1000000 }

/-- The boot ROM has verified an image. -/
def verified : State := { base with pkg := { base.pkg with images := [⟨[1, 2, 3], 4⟩] } }

theorem witness_PackageEvents :
    ((3 : Nat) < 42 ∧ (3 : Nat) ≠ 40 ∧ verified.pkg.images ≠ [] ∧ verified.pkg.fwFailed = [] ∧ verified.readyBit 3 = false ∧
      verified.pkg.frozen = false ∧ base.pkg.images = []) ∧
    (open_.readyBit 0 = true ∧ open_.readyBit 1 = true ∧ base.readyBit 0 = false) ∧ open_.readyBit 41 = true ∧
      armed.pkg.attBusy = true ∧
    (let s := { base with pkg := { base.pkg with pstep := 6 } }
     s.pkg.hot = false ∧ 5 < s.pkg.pstep ∧ { base with pkg := { base.pkg with hot := true } }.pkg.hot = true ∧
       ¬((6 : Nat) = 5 ∨ (6 : Nat) < 5)) ∧
    base.group? placeRef.group = some placeGroup ∧ base.pkg.arm = false ∧
    (armed.pkg.arm = true ∧ armed.pkg.frozen = false ∧ armed.pkg.frztick.toNat ≤ armed.meridian.toNat ∧
      armed.pkg.armTick < armed.meridian.toNat) ∧
    (base.upPorts = [] ∧ { base with pkg := { base.pkg with frozen := true } }.clocked = false) ∧
    (∀ b, (timed b).clocked = true ∧ (timed b).upPorts ≠ [] ∧ (timed b).pkg.mersrc = b) ∧
    (2 ≤ (2 : DWord).toNat ∧ (0xFFFFFFFFFFFFFFFD : DWord).toNat + 2 < 2 ^ 64) := by
  decide +kernel

/-- The trace ring of slot 0 on, and late for its SYNC packet. -/
def late0 : State :=
  { open_.modDie 0 (fun d => { d with slots := d.slots.modify 0 (fun x => { x with trace := { x.trace with base := 0x200030 } }) }) with
    meridian := 0x5000000000 }

theorem witness_RegisterEvents :
    (open_.readyBit 0 = true ∧ open_.clocked = true ∧ base.readyBit 0 = false) ∧
    (0 < open_.dies.length ∧ ctxAnd open_ 0 (fun c => c.insts.all (fun i => i.halt == .none)) = true ∧ 0 < (open_.die 0).slots.length) ∧
    ctxAnd (insts (fun i => { i with halt := .held 5 }) open_) 0 (fun c => decide (c.joinDie = 0) &&
      c.insts.any (fun i => i.halt == .held 5)) = true ∧
    (∀ k ∈ List.range 10, ((open_.die 0).counts[k]?).isSome = true) ∧
    (25 < (open_.die 0).cores.length ∧ ((open_.die 0).core 25).leaves.length = 16) ∧
    (8 < (open_.die 0).counts.length ∧ Config.physBytes - 1 < Config.physBytes ∧ homeDie (Config.physBytes - 1) = 7 ∧
      2 < (open_.die 7).counts.length) ∧
    ((open_.die 0).elog.length < 16 ∧ Memory.wf late0.mem = true) ∧
    (late0.syncDue 0 0 = true ∧ ((late0.die 0).slot 0).dropped = 0 ∧
      (((late0.die 0).slot 0).trace.prod - ((late0.die 0).slot 0).trace.cons).toNat ≠ 2 ^ (0 + 10) ∧ 0x200000 + 16 ≤ Config.physBytes) := by
  decide +kernel

/-- A step at the issue slot of split 0: its word is the NOP of the code page. -/
theorem witness_StepRunsDecoded :
    let s : State := { base with agenda := [.issue placeRef, .tick] }
    let s0 : State := { s with agenda := [.tick] }
    let sp := placeGroup.split 0
    s.agenda = .issue placeRef :: [.tick] ∧ s0.group? placeRef.group = some placeGroup ∧ sp.st = .issuing ∧
      s0.groupRuns placeRef.group placeGroup = true ∧ sp.unstopped = true ∧ s0.slotFree placeRef.group placeGroup = true ∧
        sp.refill = false ∧
      sp.clause = some ⟨placeHeader, 0xF, 0, false⟩ ∧ placeGroup.takesTimer 0 = false ∧ s0.soft.contains (.group placeRef.group) = false ∧
      okAnd (s0.fetch (s0.cxOf placeRef) (pcWord sp.pc)) (fun w s1 => (s1.codeAt 0 sp).isNone && decide (wordClass w = none) &&
        !endsClause w && match decode w with
          | .ok i => i == .nop .always && i.fitsBudget placeGroup && decide (placeGroup.hazard 0 i = none)
          | _ => false) = true ∧
      { s with agenda := [.event .deviceReset, .tick] }.agenda = .event .deviceReset :: [.tick] ∧
      base.clash base.turnEnd.req.events = false ∧ base.cohortLate base.turnEnd = false ∧
      base.dueFirst .tick base.turnEnd.req.events false = none := by
  decide +kernel

def isNext (o : Host.Outcome State Fault Refusal) : Bool :=
  match o with
  | .next _ => true
  | .fault _ | .refused _ => false

theorem witness_MemoryCanonicalKept :
    let s := { base with agenda := [.issue placeRef] }
    s.MemoryOk ∧ s.ScratchOk ∧ isNext (step s) = true :=
  ⟨(by decide +kernel : Memory.wf base.mem = true), scratch_ok (by decide +kernel), by decide +kernel⟩

theorem witness_SplitsStayApart :
    let s := { withGroup lone with agenda := [.issue placeRef] }
    isNext (step s) = true ∧ (∃ c, s.ctx 0 = some c ∧ (c.groups.map (fun x => x.1)).Nodup) ∧ s.group? placeRef.group = some (lone placeGroup) ∧
      (∀ x ∈ (lone placeGroup).splits, x.div.chip = [] ∧ x.div.depth = 0 ∧ x.st = .issuing) ∧ LanesApart (lone placeGroup) := by
  refine ⟨?_, ⟨_, rfl, ?_⟩, rfl, ?_, lone_apart (f := lone) ?_ rfl⟩ <;> decide +kernel

theorem witness_NopRule : Issuing base placeRef placeGroup ∧ encode (.nop .always) = some 0x0C07000000000000 ∧
    wordMaj 0x0C17000000000000 = 0x0C ∧ (wordLA 0x0C17000000000000 ≠ 0 ∨ wordBits 0x0C17000000000000 ≠ 0) ∧
    wordMaj 0x0C07000000000001 = 0x0C ∧ wordBits 0x0C07000000000001 ≠ 0 ∧ base.codeHit 0 (placeGroup.split 0).pc = none := by
  refine ⟨issuing id ?_, ?_⟩ <;> decide +kernel

theorem witness_PopcRule : Issuing base placeRef placeGroup ∧ dstExists placeGroup IntTy.i64.wide (.v 254) ∧
  dstExists placeGroup IntTy.i32.wide (.s 127) ∧
    encode (.popc ⟨.always, .v 2, .v 1, .i32, false⟩) = some 0x1C07020100000000 := by
  refine ⟨issuing id ?_, (?_ : 254 + 1 < placeGroup.vregs.length), (?_ : 127 < placeGroup.sregs.length), ?_⟩ <;> decide +kernel

/-! ## Single instructions: results worked out by hand from the entries of the spec -/

/-- The group after one instruction on the device of `withGroup f`. -/
def after (f : Group → Group) (i : Instr) (p : Group → Bool) : Bool :=
  match exec i (withGroup f) with
  | .next t => (t.group? placeRef.group).any p
  | .fault _ | .refused _ => false

/-- v1 holds `x` and v2 holds `y` in every lane. -/
def operands (x y : Word) (g : Group) : Group := handler (vreg 1 (fun _ => x) (vreg 2 (fun _ => y) g))

/-- Table 17.7: the sum wraps; with SAT it saturates to the signed range. -/
theorem test_iadd :
    after (operands 0x7FFFFFFF 1) (.iadd ⟨.always, .v 3, .v 1, .v 2, .i32, false⟩) (fun g => g.v 3 0 == 0x80000000 &&
      g.v 3 31 == 0x80000000) = true ∧
    after (operands 0x7FFFFFFF 1) (.iadd ⟨.always, .v 3, .v 1, .v 2, .i32,
      true⟩) (fun g => g.v 3 0 == 0x7FFFFFFF) = true := by decide +kernel

/-- A source that is also the destination is read before it is written; −1 × −1 has high word 0. -/
theorem test_imulh : after (operands 0xFFFFFFFF 0xFFFFFFFF) (.imulh ⟨.always, .v 1, .v 1, .v 2, .i32,
  false⟩) (fun g => g.v 1 5 == 0) = true ∧
    after (operands 0xFFFFFFFF 0xFFFFFFFF) (.imulh ⟨.always, .v 1, .v 1, .v 2, .ui32, false⟩) (fun g => g.v 1 5 == 0xFFFFFFFE) = true := by
  decide +kernel

/-- R393: an amount of the width or more is not masked. -/
theorem test_shifts : after (operands 0x80000001 32) (.shl ⟨.always, .v 3, .v 1, .v 2, .i32, false⟩) (fun g => g.v 3 0 == 0) = true ∧
    after (operands 0x80000001 33) (.shra ⟨.always, .v 3, .v 1, .v 2, .i32,
      false⟩) (fun g => g.v 3 0 == 0xFFFFFFFF) = true := by decide +kernel

/-- R112: −0 is less than +0, and a NaN operand of .NUM gives the other one. -/
theorem test_fmin : after (operands 0x80000000 0) (.fmin ⟨.always, 3, .v 1, .v 2, .f32, false⟩) (fun g => g.v 3 0 == 0x80000000) = true ∧
    after (operands 0x7FC00000 0x3F800000) (.fmin ⟨.always, 3, .v 1, .v 2, .f32,
      true⟩) (fun g => g.v 3 0 == 0x3F800000) = true := by decide +kernel

/-- 1 + 2 is 3; a signalling NaN raises invalid, bit 4 of FFLAGS (Table 3.3), and gives the quiet NaN (R111). -/
theorem test_fadd : after (operands 0x3F800000 0x40000000) (.fadd ⟨.always, 3, .v 1, .v 2, .f32, .rn⟩)
      (fun g => g.v 3 0 == 0x40400000 && g.fflags == 0) = true ∧
    after (operands 0x7F800001 0x40000000) (.fadd ⟨.always, 3, .v 1, .v 2, .f32, .rn⟩)
      (fun g => g.v 3 0 == 0x7FC00000 && g.fflags == 0x10) = true := by decide +kernel

/-- R264, Table 12.1: TRAP goes to the handler with SWTRAP and its code, at its own PC. -/
theorem test_trap : after handler (.trap .always 0x1234)
    (fun g => g.trap.inHandler && g.trap.tval == 0x1234 && g.trap.tpc == 0x10000 && (g.split 0).pc == 0x4000) = true := by decide +kernel

/-- R339: EXIT of the last lanes retires the group. -/
theorem test_exit : after id (.exit .always) (fun g => g.ctl.retired && (g.split 0).st == .free &&
  g.ctl.live == 0) = true := by decide +kernel

end Sys2Proof.Tests
end

section
/-! SUPPORT. What an instruction that acts beyond its group leaves behind: the state after its accesses and its own end (`EffectAfter`),
and what the opening of a long-latency instruction does to its group. -/

namespace Sys2Proof.Machine

open Sys2Proof

/-! ## Nothing but the issuer's group -/

section OnlyGroupAfter

variable {s t : State} {r : SplitRef}

theorem OnlyGroupAfter.refl (s : State) (r : GroupRef) : OnlyGroupAfter s s r := by
  constructor <;> intros <;> rfl

theorem OnlyGroupAfter.modGroup {r : GroupRef} (h : OnlyGroupAfter s t r) (f : Group → Group) : OnlyGroupAfter s (t.modGroup r f) r where
  mem := by simpa using h.mem
  poison := by simpa using h.poison
  soft := by simpa using h.soft
  mended := by simpa using h.mended
  pkg := by simpa using h.pkg
  dies d := by simpa [State.die] using h.dies d
  meridian := by simpa using h.meridian
  cycles := by simpa using h.cycles
  agenda := by simpa using h.agenda
  hostOut := by simpa using h.hostOut
  linkOut := by simpa using h.linkOut
  others x hx := (group_modGroup_other t f hx).trans (h.others x hx)
  ctxs k := (noGroups_modGroup t r f k).trans (h.ctxs k)

theorem OnlyGroupAfter.modQuad {r : GroupRef} (h : OnlyGroupAfter s t r) (k l q : Nat) (f : Quad → Quad) :
    OnlyGroupAfter s (t.modQuad k l q f) r where
  mem := by simpa using h.mem
  poison := by simpa using h.poison
  soft := by simpa using h.soft
  mended := by simpa using h.mended
  pkg := by simpa using h.pkg
  dies d := (die_modQuad t k l q f d).trans (h.dies d)
  meridian := by simpa using h.meridian
  cycles := by simpa using h.cycles
  agenda := by simpa using h.agenda
  hostOut := by simpa using h.hostOut
  linkOut := by simpa using h.linkOut
  others x hx := (group_modQuad t k l q f x).trans (h.others x hx)
  ctxs j := by rw [ctx_modQuad]; exact h.ctxs j

theorem OnlyGroupAfter.remoteDone {r : GroupRef} (h : OnlyGroupAfter s t r) (w : Waiter) : OnlyGroupAfter s (t.remoteDone w) r :=
  { h with }

theorem OnlyGroupAfter.insertCycle {r : GroupRef} (h : OnlyGroupAfter s t r) (x : SplitRef) : OnlyGroupAfter s (t.insertCycle x) r := by
  unfold State.insertCycle
  split
  · exact h.modQuad _ _ _ _
  · exact h

theorem OnlyGroupAfter.checked (h : OnlyGroupAfter s t r.group) (c : Checked) : OnlyGroupAfter s (t.checked r c) r.group := by
  unfold State.checked
  split
  · exact (h.insertCycle r).modGroup _
  · exact h.modGroup _

theorem OnlyGroupAfter.done (h : OnlyGroupAfter s t r.group) (f : Group → Group) : OnlyGroupAfter s (t.done r f) r.group :=
  (h.remoteDone _).modGroup _

theorem OnlyGroupAfter.advance (h : OnlyGroupAfter s t r.group) : OnlyGroupAfter s (t.advance r) r.group := h.modGroup _

theorem OnlyGroupAfter.counted (h : OnlyGroupAfter s t r.group) (s0 : State) (g : Group) :
    OnlyGroupAfter s (s0.counted t r g) r.group := (h.modQuad _ _ _ _).modGroup _

end OnlyGroupAfter

/-! ## The group after the accesses -/

theorem group_insertCycle (s : State) (x : SplitRef) (r : GroupRef) : (s.insertCycle x).group? r = s.group? r := by
  unfold State.insertCycle
  split
  · exact group_modQuad _ _ _ _ _ _
  · rfl

theorem group_checked (s : State) (r : SplitRef) (c : Checked) :
    (s.checked r c).group? r.group = (s.group? r.group).map (Group.withViol c.viol) := by
  unfold State.checked
  rw [group_modGroup_same]
  split
  · rw [group_insertCycle]
  · rfl

theorem group_done (s : State) (r : SplitRef) (f : Group → Group) :
    (s.done r f).group? r.group = (s.group? r.group).map (fun g => f (g.countWindows r.k)) :=
  group_modGroup_same _ _ _

/-! ## The end of an instruction -/

/-- What follows an instruction touches, of its group, its own split alone. -/
theorem keeps_modSplit {g g1 : Group} {k : Nat} {w : Writes} (h : g.Keeps g1 k w) (f : Split → Split) :
    g.Keeps (g1.modSplit k f) k w :=
  { h with
    splits := fun e j hj => (split_modSplit_other _ _ hj).trans (h.splits e j hj)
    others := fun j hj => by rw [split_modSplit_other _ _ hj]; exact h.others j hj }

theorem modSplit_modSplit (g : Group) {k : Nat} (h : k < g.splits.length) (a b : Split → Split) :
    (g.modSplit k a).modSplit k b = g.modSplit k (fun sp => b (a sp)) := by
  simp only [Group.modSplit, Group.setSplit, Group.split, regGet_regSet_same h]
  simp [regSet]

/-- From a meaning that answers `next` with a state `x`, in which the group of the accesses' state `s1` has become `gx`: the effect of the
instruction after its accesses. -/
theorem effectAfter_of_next {i : Instr} {s s1 x : State} {r : SplitRef} {g g1 gx : Group} {w : Writes} {P : Group → Prop}
    {act : Group → Nat → Mask} {f : State → SplitRef → Group → Group → Res} (h : Issuing s r g) (hi : exec i s = runRes act f s)
    (hf : f s.entered r (s.reads r g) (g.countWindows r.k) = .next x) (hx : x.group? r.group = some gx)
    (ho : OnlyGroupAfter s1 x r.group) (hk : g1.Keeps gx r.k w) (hs : g1.SameSplit gx r.k) (hl : r.k < g1.splits.length)
    (hP : ∀ φ : Split → Split, (∀ sp, (φ sp).ovr = sp.ovr) → P (gx.modSplit r.k φ)) : EffectAfter i s s1 r g1 w P := by
  have hlx : r.k < gx.splits.length := by rw [hs.2]; exact hl
  have ha : (x.advance r).group? r.group =
      some (gx.modSplit r.k (fun sp => { sp.step x.cycles with exempt := false, replay := false })) := by
    rw [State.advance, State.modSplit, group_modGroup_same, hx]; rfl
  obtain ⟨φ, hc, hφ⟩ := group_counted_same (s := s) (g := g) ha
  rw [modSplit_modSplit gx hlx] at hc
  refine ⟨_, _, by rw [hi, runRes_next h hf], hc, hP _ ?_, keeps_modSplit hk _, ?_, ho.advance.counted s g⟩
  · intro sp
    obtain ⟨a, b, n, e⟩ := hφ { sp.step x.cycles with exempt := false, replay := false }
    rw [e]
    show (sp.step x.cycles).ovr = sp.ovr
    unfold Split.step
    split <;> rfl
  · obtain ⟨ovr, e⟩ := hs.1
    obtain ⟨a, b, n, e'⟩ := hφ { (gx.split r.k).step x.cycles with exempt := false, replay := false }
    rw [split_modSplit_same gx _ hlx, e', e]
    exact wentOn_skid (wentOn_step x.cycles { g1.split r.k with ovr := ovr } false false) a b n

/-! ## Opening a long-latency instruction -/

theorem keeps_refl (g : Group) (k : Nat) (w : Writes) (h : w.long = true) : g.Keeps g k w :=
  { keeps_count g k w with long := fun e => absurd e (by simp [h]) }

theorem keeps_calWrite {g g1 : Group} {k r : Nat} {w : Writes} (h : g.Keeps g1 k w) (hr : r ∈ w.v) (m : Mask) (c : Caliper) :
    g.Keeps (g1.calWrite k r m c) k w where
  vec n hn := (vec_calWrite _ _ _ _ _ _).trans (h.vec n hn)
  cal n hn := (cal_calWrite_other _ _ _ _ (fun e : n = r => hn (e ▸ hr))).trans (h.cal n hn)
  sreg n hn := by rw [← h.sreg n hn]; simp [Group.s]
  preg n hn := by rw [← h.preg n hn]; simp [Group.p]
  qreg n hn := by rw [← h.qreg n hn]; simp [Group.q]
  areg n hn := by rw [← h.areg n hn]; simp [Group.a]
  hreg n hn := by rw [← h.hreg n hn]; simp [Group.h]
  flags e := by simpa using h.flags e
  viol e := by simpa using h.viol e
  long e := by simpa using h.long e
  trap e := by simpa using h.trap e
  ctl := by simpa using h.ctl
  storeQ e := by simpa using h.storeQ e
  batch e := by simpa using h.batch e
  splits e j hj := (split_calWrite_other _ _ _ _ hj).trans (h.splits e j hj)
  others j hj := by rw [split_calWrite_other _ _ _ _ hj]; exact h.others j hj

theorem same_calWrite {g g1 : Group} {k : Nat} (h : g.SameSplit g1 k) (hk : k < g.splits.length) (r : Nat) (m : Mask) (c : Caliper) :
    g.SameSplit (g1.calWrite k r m c) k := by
  obtain ⟨⟨o, e⟩, hl⟩ := h
  obtain ⟨o', e'⟩ := split_calWrite_same g1 k r m c (by rw [hl]; exact hk)
  exact ⟨⟨o', by rw [e', e]⟩, by simp [hl]⟩

/-- The caliper of vr is unknown in the group, and in split `k` by whatever override it holds (R58). -/
def Group.Unknown (g : Group) (k r : Nat) : Prop := g.cal r = none ∧ ∀ o ∈ (g.split k).ovr, o.reg = r → o.cal = none

theorem Group.Unknown.view {g : Group} {k r : Nat} (h : g.Unknown k r) : g.view k r = none := by
  unfold Group.view Split.override?
  cases ho : (g.split k).ovr.find? (fun o => o.reg == r) with
  | none => exact h.1
  | some o => exact h.2 o (List.mem_of_find?_eq_some ho) (by simpa using List.find?_some ho)

/-- A change of the split that leaves its overrides leaves its views. -/
theorem unknown_modSplit {g : Group} {k r : Nat} (hk : k < g.splits.length) {φ : Split → Split} (hφ : ∀ sp, (φ sp).ovr = sp.ovr)
    (h : g.Unknown k r) : (g.modSplit k φ).Unknown k r :=
  ⟨h.1, by rw [split_modSplit_same _ _ hk, hφ]; exact h.2⟩

theorem mem_setOverride {sp : Split} {r : Nat} {c : Caliper} {o : Override} (h : o ∈ (sp.setOverride r c).ovr) :
    o = ⟨r, c⟩ ∨ (o.reg ≠ r ∧ o ∈ sp.ovr) := by
  have drop : o ∈ sp.ovr.filter (fun o => o.reg != r) → o.reg ≠ r ∧ o ∈ sp.ovr := fun m => by
    simpa [and_comm] using List.mem_filter.mp m
  simp only [Split.setOverride, List.mem_append, List.mem_singleton] at h
  rcases h with h | h
  · split at h
    · exact .inr (drop h)
    · exact .inr (drop (List.mem_of_mem_drop h))
  · exact .inl h

theorem hull_none (c : Caliper) : hull c none = none := by cases c <;> rfl

/-- R58: a write with no known interval makes its register's caliper unknown, and no other one known. -/
theorem unknown_calWrite {g : Group} {k r n : Nat} {m : Mask} (hk : k < g.splits.length) (h : (r = n ∧ m ≠ 0) ∨ g.Unknown k n) :
    (g.calWrite k r m none).Unknown k n := by
  by_cases hm : m = 0
  · have he : g.calWrite k r m none = g := by simp [Group.calWrite, hm]
    rw [he]
    exact h.resolve_left (fun e => e.2 hm)
  · simp only [Group.calWrite, if_neg hm, hull_none, ite_self]
    constructor
    · by_cases e : n = r
      · by_cases hr : r < g.cals.length
        · subst e; exact regGet_regSet_same hr
        · subst e
          simp [Group.cal, regGet, regSet, List.getD_eq_getElem?_getD, Nat.not_lt.mp hr]
      · exact (regGet_regSet_other e).trans (h.resolve_left (fun x => e x.1.symm)).1
    · intro o ho hn
      rw [split_modSplit_same _ _ (by exact hk)] at ho
      rcases mem_setOverride ho with rfl | ⟨hr, ho⟩
      · rfl
      · exact (h.resolve_left (fun x => hr (hn.trans x.1.symm))).2 o ho hn

/-- The calipers of a destination at its instruction's issue (R60). -/
def Group.openDest (k : Nat) (g : Group) (d : VecDest) : Group :=
  if d.all then g.calReset d.reg none else g.calWrite k d.reg d.mask none

theorem issueLong_eq (g : Group) (k : Nat) (la : LA) (kind : Unit3) (vecs : List VecDest) (unis : List UniDest) (fl : Flags)
    (job : Option MmaJob) : g.issueLong k la kind vecs unis fl job =
      let g1 := vecs.foldl (Group.openDest k) g
      { g1 with
        inflight := g1.inflight ++ [⟨g1.nextId, k, kind, if la = 0 then none else some la.toNat, vecs, unis, fl, job⟩]
        nextId := g1.nextId + 1 } := rfl

section OpenDests

variable {k : Nat} {vecs : List VecDest}

theorem openDest_lanes {d : VecDest} (h : d.all = false) (g : Group) : g.openDest k d = g.calWrite k d.reg d.mask none := by
  simp [Group.openDest, h]

theorem keeps_openDests (ha : ∀ d ∈ vecs, d.all = false) {g g1 : Group} {w : Writes} (h : g.Keeps g1 k w)
    (hr : ∀ d ∈ vecs, d.reg ∈ w.v) : g.Keeps (vecs.foldl (Group.openDest k) g1) k w := by
  induction vecs generalizing g1 with
  | nil => exact h
  | cons d ds ih =>
    simp only [List.forall_mem_cons] at ha hr
    rw [List.foldl_cons, openDest_lanes ha.1]
    exact ih ha.2 (keeps_calWrite h hr.1 _ _) hr.2

theorem same_openDests (ha : ∀ d ∈ vecs, d.all = false) {g g1 : Group} (h : g.SameSplit g1 k) (hk : k < g.splits.length) :
    g.SameSplit (vecs.foldl (Group.openDest k) g1) k := by
  induction vecs generalizing g1 with
  | nil => exact h
  | cons d ds ih =>
    simp only [List.forall_mem_cons] at ha
    rw [List.foldl_cons, openDest_lanes ha.1]
    exact ih ha.2 (same_calWrite h hk _ _ _)

/-- The opening of lane destinations reads no register, and numbers nothing. -/
theorem regs_openDests (ha : ∀ d ∈ vecs, d.all = false) (g : Group) :
    (vecs.foldl (Group.openDest k) g).vregs = g.vregs ∧ (vecs.foldl (Group.openDest k) g).inflight = g.inflight ∧
      (vecs.foldl (Group.openDest k) g).nextId = g.nextId := by
  induction vecs generalizing g with
  | nil => exact ⟨rfl, rfl, rfl⟩
  | cons d ds ih =>
    simp only [List.forall_mem_cons] at ha
    rw [List.foldl_cons, openDest_lanes ha.1]
    simpa using ih ha.2 (g.calWrite k d.reg d.mask none)

theorem unknown_openDests (ha : ∀ d ∈ vecs, d.all = false) {g : Group} {n : Nat} (hk : k < g.splits.length)
    (h : (∃ d ∈ vecs, d.reg = n ∧ d.mask ≠ 0) ∨ g.Unknown k n) : (vecs.foldl (Group.openDest k) g).Unknown k n := by
  induction vecs generalizing g with
  | nil => exact h.resolve_left (by simp)
  | cons d ds ih =>
    simp only [List.forall_mem_cons] at ha
    rw [List.foldl_cons, openDest_lanes ha.1]
    refine ih ha.2 (by simpa using hk) ?_
    rcases h with ⟨x, hx, hd⟩ | h
    · rcases List.mem_cons.mp hx with rfl | hx
      · exact .inr (unknown_calWrite hk (.inl hd))
      · exact .inl ⟨x, hx, hd⟩
    · exact .inr (unknown_calWrite hk (.inr h))

theorem cal_openDests_other (ha : ∀ d ∈ vecs, d.all = false) (g : Group) {n : Nat} (h : ∀ d ∈ vecs, d.reg = n → d.mask = 0) :
    (vecs.foldl (Group.openDest k) g).cal n = g.cal n := by
  induction vecs generalizing g with
  | nil => rfl
  | cons d ds ih =>
    simp only [List.forall_mem_cons] at ha h
    rw [List.foldl_cons, openDest_lanes ha.1, ih ha.2 _ h.2]
    by_cases e : n = d.reg
    · rw [h.1 e.symm]; rfl
    · exact cal_calWrite_other _ _ _ _ e

end OpenDests

theorem viol_issueLong {vecs : List VecDest} (ha : ∀ d ∈ vecs, d.all = false) (g : Group) (k : Nat) (la : LA) (kind : Unit3)
    (unis : List UniDest) (fl : Flags) : (g.issueLong k la kind vecs unis fl).viol = g.viol := by
  exact (keeps_openDests ha (keeps_refl g k { v := vecs.map (fun d => d.reg), long := true } rfl) (fun d hd => List.mem_map_of_mem hd)).viol rfl

theorem keeps_issueLong {g g1 : Group} {k : Nat} {w : Writes} {vecs : List VecDest} (ha : ∀ d ∈ vecs, d.all = false)
    (h : g.Keeps g1 k w) (hr : ∀ d ∈ vecs, d.reg ∈ w.v) (hw : w.long = true) (la : LA) (kind : Unit3) (unis : List UniDest) (fl : Flags) :
    g.Keeps (g1.issueLong k la kind vecs unis fl) k w :=
  { keeps_openDests ha h hr with long := fun e => absurd e (by simp [hw]) }

theorem same_issueLong {g g1 : Group} {k : Nat} {vecs : List VecDest} (ha : ∀ d ∈ vecs, d.all = false) (h : g.SameSplit g1 k)
    (hk : k < g.splits.length) (la : LA) (kind : Unit3) (unis : List UniDest) (fl : Flags) :
    g.SameSplit (g1.issueLong k la kind vecs unis fl) k := same_openDests ha h hk

/-- An instruction with lane destinations has opened, whatever then follows for its split but its overrides. -/
theorem opens_issueLong {g g1 : Group} {k : Nat} {vecs : List VecDest} (ha : ∀ d ∈ vecs, d.all = false) (hk : k < g1.splits.length)
    (hi : g1.inflight = (g.countWindows k).inflight) (hn : g1.nextId = g.nextId) (hv : g1.vregs = g.vregs) (hc : g1.cals = g.cals)
    (la : LA) (kind : Unit3) (unis : List UniDest) (fl : Flags) {φ : Split → Split} (hφ : ∀ sp, (φ sp).ovr = sp.ovr) :
    Opens g ((g1.issueLong k la kind vecs unis fl).modSplit k φ) k kind la vecs unis fl := by
  obtain ⟨ev, ei, en⟩ := regs_openDests (k := k) ha g1
  rw [issueLong_eq]
  refine ⟨?_, ?_, fun n => ?_, fun d hd hm => ?_, fun n hm => ?_⟩
  · show (vecs.foldl (Group.openDest k) g1).inflight ++ _ = _
    rw [ei, en, hi, hn]
  · show (vecs.foldl (Group.openDest k) g1).nextId + 1 = _
    rw [en, hn]
  · show regGet zeroLanes (vecs.foldl (Group.openDest k) g1).vregs n = _
    rw [ev, hv]; rfl
  · have hu : (vecs.foldl (Group.openDest k) g1).Unknown k d.reg :=
      unknown_openDests ha hk (.inl ⟨d, hd, rfl, hm.resolve_left (by simp [ha d hd])⟩)
    have hs : g1.SameSplit (vecs.foldl (Group.openDest k) g1) k := same_openDests ha ⟨⟨_, rfl⟩, rfl⟩ hk
    refine ⟨hu.1, (unknown_modSplit ?_ hφ hu).view⟩
    exact Nat.lt_of_lt_of_eq hk hs.2.symm
  · exact (cal_openDests_other ha g1 (fun d hd e => (hm d hd e).2)).trans (by rw [Group.cal, hc]; rfl)

/-! ## Loads -/

theorem exec_load (ptr : Bool) (o : MemV) (s : State) :
    exec (if ptr then .ldp o else .ld o) s = runRes (laneAct o.g) (ldRes ptr o) s := by
  cases ptr <;> rfl

theorem loadDests_lanes (d : Nat) (act : Mask) (sx : Bool) (n k : Nat) (vals : List (Nat × List Nat)) :
    ∀ x ∈ loadDests d act sx n k vals, x.all = false := by
  intro x hx
  obtain ⟨i, -, rfl⟩ := List.mem_map.mp hx
  rfl

/-- No code comparator stands at the split's instruction (R302). -/
theorem codeStop_none {s : State} {r : SplitRef} {g : Group} (hg : s.group? r.group = some g)
    (hc : s.codeAt r.slot (g.split r.k) = none) (x : State) : s.codeStop r x = none := by
  simp [State.codeStop, hg, hc]

/-- The check passes its lanes on, where no code comparator stops the instruction. -/
theorem withCheck_ok {s : State} {r : SplitRef} {c : Checked} {res : ChkRes} (hr : res = .ok c) (hs : ∀ x, s.codeStop r x = none)
    (fp : Option Footprint) (f : State → Checked → Res) : s.withCheck r fp res f = f (s.sample r fp) c := by
  subst hr
  simp [State.withCheck, hs]

/-- A load whose descriptor and block are accepted, and whose check passes, goes on with its lanes. -/
theorem ldRes_checked {ptr : Bool} {o : MemV} {s : State} {r : SplitRef} {src g : Group} {c : Checked}
    (hformat : (arBad (src.a o.arr.toNat) || (o.sx && decide (2 ≤ arEsz (src.a o.arr.toNat))) ||
      (ptr && decide (5 ≤ arEsz (src.a o.arr.toNat))) || blockBad g o.d (arEsz (src.a o.arr.toNat)) (NElem.count o.n)) = false)
    (hstop : ∀ x, s.codeStop r x = none)
    (hcheck : (if ptr then pointerCheck (src.a o.arr.toNat) (src.active r.k o.g) false (offInt o.off) (NElem.count o.n)
        (fun j => src.vPair o.x.toNat j)
      else arrayCheck (src.a o.arr.toNat) (src.view r.k o.x.toNat) (src.active r.k o.g) false (offInt o.off) (NElem.count o.n)
        (fun j => (src.v o.x.toNat j).toInt)) = .ok c) :
    let fp := if ptr then none else footprint (src.a o.arr.toNat) (src.view r.k o.x.toNat) (offInt o.off) (NElem.count o.n)
    ldRes ptr o s r src g = loadRun o (src.a o.arr.toNat) (src.active r.k o.g) fp c (s.sample r fp) r g := by
  refine (if_neg (ne_true_of_eq_false hformat)).trans ?_
  cases ptr with
  | true =>
    rw [if_pos rfl] at hcheck
    exact (if_pos rfl).trans (withCheck_ok hcheck hstop _ _)
  | false =>
    rw [if_neg Bool.false_ne_true] at hcheck
    exact (if_neg Bool.false_ne_true).trans (withCheck_ok hcheck hstop _ _)

/-- Checked lanes whose elements can be read open their instruction. -/
theorem loadRun_ok {o : MemV} {a : BitVec 256} {act : Mask} {fp : Option Footprint} {c : Checked} {s s1 : State} {r : SplitRef} {g : Group}
    {vals : List (Nat × List Nat)}
    (hl : s.laneChecks r (g.split r.k) .read ⟨true, false⟩ (eszBits (arEsz a) / 8 * NElem.count o.n) (c.elems a (NElem.count o.n))
      (s.checked r c) = none)
    (hv : ((s.reserveSpan r o.fr fp).before r o.ord o.scope).loadLanes (s.cxOf r) (isGeneric o.ord o.fr) (accessHint o.rc a)
      (c.elems a (NElem.count o.n)) [] [] = .ok vals s1) :
    loadRun o a act fp c s r g = .next ((s1.checked r c).done r (fun x => x.issueLong r.k o.la .load
      (loadDests o.d.toNat act o.sx (NElem.count o.n) (eszBits (arEsz a)) vals) [] 0)) := by
  simp only [loadRun, hl, hv, MRes.toRes]

/-- The group whose load opens, after the accesses and the check. -/
theorem effectAfter_load {i : Instr} {s s1 : State} {r : SplitRef} {g g1 : Group} {c : Checked} {act : Group → Nat → Mask}
    {f : State → SplitRef → Group → Group → Res} {la : LA} {vecs : List VecDest} {unis : List UniDest} (h : Issuing s r g)
    (hi : exec i s = runRes act f s) (hs : Still s1 r g1) (ha : ∀ d ∈ vecs, d.all = false)
    (hf : f s.entered r (s.reads r g) (g.countWindows r.k) =
      .next ((s1.checked r c).done r (fun x => x.issueLong r.k la .load vecs unis 0))) :
    EffectAfter i s s1 r g1 { v := vecs.map (fun d => d.reg), viol := true, long := true }
      (fun g' => Opens g1 g' r.k .load la vecs unis 0 ∧ g'.viol = c.viol) := by
  obtain ⟨hg, hu⟩ := hs
  have hk : r.k < g1.splits.length := split_lt hu
  let w : Writes := { v := vecs.map (fun d => d.reg), viol := true, long := true }
  let gc := (Group.withViol c.viol g1).countWindows r.k
  have hgx : ((s1.checked r c).done r (fun x => x.issueLong r.k la .load vecs unis 0)).group? r.group =
      some (gc.issueLong r.k la .load vecs unis 0) := by
    rw [group_done, group_checked, hg]; rfl
  have hkeep : g1.Keeps gc r.k w := { keeps_count g1 r.k w with viol := fun e => absurd e (by simp [w]) }
  have hsame : g1.SameSplit gc r.k := same_count (Group.withViol c.viol g1) r.k
  refine effectAfter_of_next h hi hf hgx (((OnlyGroupAfter.refl s1 r.group).checked c).done _)
    (keeps_issueLong ha hkeep (fun d hd => List.mem_map_of_mem hd) rfl la .load unis 0)
    (same_issueLong ha hsame hk la .load unis 0) hk (fun φ hφ => ⟨?_, ?_⟩)
  · exact opens_issueLong (g1 := gc) ha hk rfl rfl rfl rfl la .load unis 0 hφ
  · exact (viol_issueLong ha gc r.k la .load unis 0)

/-- R355 to R359: LD and LDP whose checks pass and whose elements can be read. -/
theorem load_opens {s s1 : State} {r : SplitRef} {g g1 : Group} (ptr : Bool) (o : MemV) {c : Checked} {vals : List (Nat × List Nat)}
    (h : Issuing s r g) :
    let src := s.reads r g
    let a := src.a o.arr.toNat
    let act := src.active r.k o.g
    let n := NElem.count o.n
    let k := eszBits (arEsz a)
    let fp := if ptr then none else footprint a (src.view r.k o.x.toNat) (offInt o.off) n
    let s0 := s.entered.sample r fp
    let dests := loadDests o.d.toNat act o.sx n k vals
    s.codeAt r.slot (g.split r.k) = none → arBad a = false → (o.sx = true → arEsz a < 2) → (ptr = true → arEsz a < 5) →
    blockBad g o.d (arEsz a) n = false →
    (if ptr then pointerCheck a act false (offInt o.off) n (fun j => src.vPair o.x.toNat j)
      else arrayCheck a (src.view r.k o.x.toNat) act false (offInt o.off) n (fun j => (src.v o.x.toNat j).toInt)) = .ok c →
    s0.laneChecks r (g.split r.k) .read ⟨true, false⟩ (k / 8 * n) (c.elems a n) (s0.checked r c) = none →
    ((s0.reserveSpan r o.fr fp).before r o.ord o.scope).loadLanes (s0.cxOf r) (isGeneric o.ord o.fr) (accessHint o.rc a)
      (c.elems a n) [] [] = .ok vals s1 →
    Still s1 r g1 →
      EffectAfter (if ptr then .ldp o else .ld o) s s1 r g1 { v := dests.map (fun d => d.reg), viol := true, long := true }
        (fun g' => Opens g1 g' r.k .load o.la dests [] 0 ∧ g'.viol = c.viol) := by
  intro src a act n k fp s0 dests hcode hbad hsx hptr hblock hcheck hlanes hvals hstill
  refine effectAfter_load h (exec_load ptr o s) hstill (loadDests_lanes _ _ _ _ _ _) ?_
  have hformat : (arBad a || (o.sx && decide (2 ≤ arEsz a)) || (ptr && decide (5 ≤ arEsz a)) ||
      blockBad (g.countWindows r.k) o.d (arEsz a) n) = false := by
    have hb : blockBad (g.countWindows r.k) o.d (arEsz a) n = false := hblock
    simpa [hbad, hb] using And.intro (fun e => Nat.le_of_lt_succ (hsx e)) hptr
  have hstop : ∀ x, s.entered.codeStop r x = none := codeStop_none (s := s.entered) h.group hcode
  exact (ldRes_checked (s := s.entered) hformat hstop hcheck).trans (loadRun_ok hlanes hvals)

/-! ## LDU -/

theorem ldu_opens {s s1 : State} {r : SplitRef} {g g1 : Group} (o : MemU) {c : Checked} {vals : List (Nat × List Nat)}
    (h : Issuing s r g) :
    let src := s.reads r g
    let a := src.a o.arr.toNat
    let k := eszBits (arEsz a)
    let x := ((src.s o.x.toNat).extractLsb' 0 32).toInt
    let fp := footprint a (exactCal x) (offInt o.off) 1
    let s0 := s.entered.sample r fp
    let y := match vals with
      | (_, z :: _) :: _ => z
      | _ => 0
    s.codeAt r.slot (g.split r.k) = none → src.passes o.g = true → arBad a = false → (o.sx = true → arEsz a < 2) → arEsz a ≠ 4 →
    arrayCheck a (exactCal x) 1 false (offInt o.off) 1 (fun _ => x) = .ok c →
    s0.laneChecks r (g.split r.k) .read ⟨true, false⟩ (k / 8) (c.elems a 1) (s0.checked r c) = none →
    ((s0.reserveSpan r o.fr fp).before r o.ord o.scope).loadLanes (s0.cxOf r) (isGeneric o.ord o.fr) (accessHint o.rc a)
      (c.elems a 1) [] [] = .ok vals s1 →
    Still s1 r g1 →
      EffectAfter (.ldu o) s s1 r g1 { viol := true, long := true }
        (fun g' => Opens g1 g' r.k .load o.la [] [.s o.d.toNat (lduValue o.sx k y)] 0 ∧ g'.viol = c.viol) := by
  intro src a k x fp s0 y hcode hpass hbad hsx hesz hcheck hlanes hvals hstill
  refine effectAfter_load (i := .ldu o) (vecs := []) h rfl hstill (by simp) ?_
  have hformat : (arBad a || (o.sx && decide (2 ≤ arEsz a)) || arEsz a == 4) = false := by
    simpa [hbad, hesz] using fun e => Nat.le_of_lt_succ (hsx e)
  have hstop : ∀ x, s.entered.codeStop r x = none := codeStop_none (s := s.entered) h.group hcode
  have huni : uniCheck a false (offInt o.off) x = .ok c := hcheck
  refine (if_pos hpass).trans ((if_neg (ne_true_of_eq_false hformat)).trans ((withCheck_ok huni hstop fp _).trans ?_))
  simp only [countWindows_split, src, a, k, x, fp, s0] at hlanes hvals ⊢
  rw [hlanes]
  simp only [hvals, MRes.toRes]
  rfl

/-- R84: an LDU whose guard fails does nothing. -/
theorem ldu_unguarded {s : State} {r : SplitRef} {g : Group} (o : MemU) (h : Issuing s r g)
    (hcode : s.codeAt r.slot (g.split r.k) = none) (hpass : (s.reads r g).passes o.g = false) :
    Effect (.ldu o) s r g {} (fun _ => True) := by
  have hstop : s.entered.codeStop r s.entered = none := codeStop_none (s := s.entered) h.group hcode _
  refine effect_of_group (i := .ldu o) h rfl ?_ (fun _ => trivial) (keeps_count g r.k _) (same_count g r.k)
  simp [lduRes, underQCode, hpass, hstop]

/-! ## The bytes of a load at the home slices -/

/-- R241: the bytes of a physical range with the writes laid over them that are not performed yet. -/
theorem homeBytes_eq (s : State) (ws : List ByteWr) (pa n : Nat) :
    s.homeBytes ws pa n = (List.range n).map (fun i => forward ws (.phys (pa + i)) (Cells.get s.mem (pa + i))) := by
  apply List.ext_getElem
  · simp [State.homeBytes, State.read, Cells.read]
  · intro i h1 h2
    simp [State.homeBytes, State.read, Cells.read]

/-- Nothing that the instruction has read before stands for a byte. -/
theorem seen_nil (addr : DWord) (bytes : List Byte) : Seen.over [] addr bytes = bytes := by
  simp [Seen.over]

/-- R119: the lanes of one lane and one element. -/
theorem loadLanes_single {s s2 : State} {cx : Cx} {generic : Bool} {hint j : Nat} {e : Elem} {b : List Byte}
    (h : s.loadElem cx generic hint e = .ok b s2) :
    s.loadLanes cx generic hint [(j, [e])] [] [] = .ok [(j, [leNat b / 2 ^ e.bit % 2 ^ e.k])] s2 := by
  simp only [State.loadLanes, State.loadElems, h, seen_nil, List.nil_append]
  rfl

/-- R146, R151: a load that is not generic, or of path F, reads a range of one page of a stack at its home slice. -/
theorem loadElem_home {s s1 : State} {cx : Cx} {c : Context} {e : Elem} {path va pa cls hint : Nat} {generic : Bool}
    (hc : s.ctx cx.slot = some c) (hp : placeOf c cx.lcid e.addr = some (.global path va)) (hg : generic = false ∨ path = 1)
    (ht : s.transRange cx ⟨e.addr, va, e.n, .read, e.packed, false⟩ = .ok [(.phys pa cls, e.n)] s1)
    (he : (s1.pullRange pa e.n).eccOf pa e.n = none) :
    s.loadElem cx generic hint e =
      .ok ((s1.pullRange pa e.n).homeBytes (s.ownWrites cx) pa e.n) ((s1.pullRange pa e.n).l2Touch pa e.n cls hint false) := by
  have hhome : (generic && path != 1) = false := by
    rcases hg with rfl | rfl <;> simp
  simp only [State.loadElem, hc, hp, State.loadPlace, hhome, Bool.false_eq_true, if_false, State.readV, ht, State.readPieces,
    State.readFrom, he, List.nil_append]

theorem isGeneric_false {ord : Ord} {fr : Bool} (h : fr = true ∨ ord = .acq ∨ ord = .sc) : isGeneric ord fr = false := by
  rcases h with rfl | rfl | rfl <;> simp [isGeneric]

/-- Settles O26: every load opens after its accesses (`load_opens`, `ldu_opens`), and a home read gives the bytes of memory. -/
theorem loads : Obligations.Loads := by
  unfold Obligations.Loads
  refine ⟨?_, ?_, ?_, fun _ _ h => isGeneric_false h⟩
  · intro s s1 r g g1 ptr o c vals h
    exact load_opens ptr o h
  · intro s s1 r g g1 o c vals h src a k x fp s0 y hcode
    exact ⟨ldu_unguarded o h hcode, ldu_opens o h hcode⟩
  · intro s s1 cx c e path va pa cls hint j generic hc hp hg ht u byte he
    have hload := loadElem_home (hint := hint) hc hp hg ht he
    rw [homeBytes_eq] at hload
    exact ⟨_, hload, State.l2Touch_mem _ _ _ _ _ _, loadLanes_single hload⟩

end Sys2Proof.Machine
end

section
/-! SUPPORT. The registers of the package and of a die's management block: which offsets have one, and what a write of it changes; the error
log, its counters, and the SYNC packet of a trace stream. -/

namespace Sys2Proof.Machine

open Sys2Proof

/-! ## Dies and their slot registers -/

theorem die_modDie_same {s : State} {d : Nat} (h : d < s.dies.length) (f : Die → Die) : (s.modDie d f).die d = f (s.die d) :=
  regGet_regMod_same h

theorem slot_modSlotRegs_same {s : State} {d slot : Nat} (hd : d < s.dies.length) (hs : slot < (s.die d).slots.length)
    (f : SlotRegs → SlotRegs) : ((s.modSlotRegs d slot f).die d).slot slot = f (((s.die d).slot slot)) := by
  rw [State.modSlotRegs, die_modDie_same hd]
  exact regGet_regMod_same hs

theorem slot_modSlotRegs_modSlotRegs_same {s : State} {d slot : Nat} (hd : d < s.dies.length) (hs : slot < (s.die d).slots.length)
    (f g : SlotRegs → SlotRegs) :
    (((s.modSlotRegs d slot f).modSlotRegs d slot g).die d).slot slot = g (f ((s.die d).slot slot)) := by
  have hd' : d < (s.modSlotRegs d slot f).dies.length := by simpa [State.modSlotRegs, State.modDie] using hd
  have hs' : slot < ((s.modSlotRegs d slot f).die d).slots.length := by
    rw [State.modSlotRegs, die_modDie_same hd]
    simpa [Die.modSlot] using hs
  rw [slot_modSlotRegs_same hd' hs', slot_modSlotRegs_same hd hs]

/-- A change that leaves memory and every context leaves the bytes of the stacks and of the scratchpads. -/
theorem sameMemory_of_ctxs {s t : State} (hm : t.mem = s.mem) (hc : t.ctxs = s.ctxs) : SameMemory s t := by
  refine ⟨hm, fun slot lcid => ?_⟩
  simp only [State.lc, State.ctx, hc]

/-! ## Registers of the package -/

theorem barWrite_pkg {s : State} {off : Nat} (hr : s.readyBit 0 = true) (ho : off < 0x100000) (v : DWord) :
    s.barWrite off v = s.pkgWrite off v := by
  simp [State.barWrite, rdyMgmt, hr, Nat.div_eq_of_lt ho]

theorem barWrite_mgmt {s : State} {w o : Nat} (hr : s.readyBit 0 = true) (hc : s.clocked = true) (h1 : 1 ≤ w) (h3 : w ≤ 3)
    (ho : o < 0x100000) (v : DWord) : s.barWrite (w * 0x100000 + o) v = s.mgmtWrite (s.windowDie w) o v := by
  have hw : (w * 0x100000 + o) / 0x100000 = w := by omega
  have hm : (w * 0x100000 + o) % 0x100000 = o := by omega
  have h0 : w ≠ 0 := by omega
  simp [State.barWrite, rdyMgmt, hr, hw, hm, h0, h3, hc]

/-- R291 (log 25): nothing is written before the package block is usable. -/
theorem barWrite_notReady {s : State} (hr : s.readyBit 0 = false) (off : Nat) (v : DWord) : s.barWrite off v = s := by
  simp [State.barWrite, rdyMgmt, hr]

/-- R291: an offset that names no doubleword has no register. -/
theorem pkgWrite_unaligned {off : Nat} (h : off % 8 ≠ 0) (s : State) (v : DWord) : s.pkgWrite off v = s := if_pos h

/-! ## Error log and counters -/

/-- R275: an error event counts and is logged, or is lost from the log, on its die. -/
theorem die_logEvent {s : State} {d : Nat} (h : d < s.dies.length) (chan event cause addr slot : Nat) (info : BitVec 32) :
    let x := s.die d
    let y := { x with
      seq := x.seq + 1
      counts := regMod x.counts event (fun c => { c with count := c.count + 1, lastTick := s.tickNow, lastSeq := x.seq }) }
    (s.logEvent d chan event cause addr slot info).die d =
      if x.elog.length < 16 then { y with elog := x.elog ++ [⟨s.tickNow, addr, x.seq, info, chan, event, cause, slot⟩] }
      else { y with elogOvf := true, elogLost := if x.elogLost = BitVec.allOnes 32 then x.elogLost else x.elogLost + 1 } := by
  have h1 : d < ((s.modDie d (fun x => { x with seq := x.seq + 1 })).noteEvent d (chan + 1)).dies.length := by simpa [State.modDie] using h
  have h2 : ((s.modDie d (fun x => { x with seq := x.seq + 1 })).noteEvent d (chan + 1)).die d = { s.die d with seq := (s.die d).seq + 1 } :=
    die_modDie_same h _
  intro x y
  simp only [State.logEvent, State.nextSeq, State.die, State.notice_dies]
  refine (die_modDie_same h1 _).trans ?_
  rw [h2]
  rfl

theorem count_logEvent {s : State} {d event : Nat} (h : d < s.dies.length) (he : event < (s.die d).counts.length) (chan cause addr slot : Nat)
    (info : BitVec 32) : ((s.logEvent d chan event cause addr slot info).die d).count event =
      { (s.die d).count event with count := ((s.die d).count event).count + 1, lastTick := s.tickNow, lastSeq := (s.die d).seq } := by
  rw [die_logEvent h]
  split <;> exact regGet_regMod_same he

theorem getLast_logEvent {s : State} {d event : Nat} (h : d < s.dies.length) (hl : (s.die d).elog.length < 16) (chan cause addr slot : Nat)
    (info : BitVec 32) : ((s.logEvent d chan event cause addr slot info).die d).elog.getLast? =
      some ⟨s.tickNow, addr, (s.die d).seq, info, chan, event, cause, slot⟩ := by
  rw [die_logEvent h, if_pos hl]
  simp

theorem sameMemory_logEvent (s : State) (d chan event cause addr slot : Nat) (info : BitVec 32) :
    SameMemory s (s.logEvent d chan event cause addr slot info) :=
  sameMemory_of_ctxs (State.logEvent_mem ..) (State.logEvent_ctxs ..)

/-- R292: a notice sets its PEND bit. -/
theorem pend_notice (s : State) {bit : Nat} (h : bit < 64) : (s.notice bit).pkg.pend.getLsbD bit = true := by
  unfold State.notice
  split
  · assumption
  · show (s.pkg.pend ||| BitVec.ofNat 64 (2 ^ bit)).getLsbD bit = true
    rw [BitVec.getLsbD_or, BitVec.getLsbD_ofNat]
    simp [h]

theorem pend_logEvent (s : State) (d chan event cause addr slot : Nat) (info : BitVec 32) :
    (s.logEvent d chan event cause addr slot info).pkg.pend.getLsbD 3 = true := pend_notice _ (by decide)

/-- R9, R10: writes of the package's registers. -/
theorem registerWrite_pkg {s : State} (hr : s.readyBit 0 = true) (off : Nat) (v : DWord) :
    exec (.registerWrite 0x08 v) s = .next { s with pkg := { s.pkg with winsel := v &&& 0x777 } } ∧
    exec (.registerWrite 0x10 v) s = .next { s with pkg := { s.pkg with wbase := v &&& 0x7FC0000000 } } ∧
    exec (.registerWrite 0x18 v) s = .next { s with pkg :=
      { s.pkg with nen := v &&& 0x1F, pend := s.pkg.pend &&& ~~~((v >>> 8) &&& 0x1F) } } ∧
    exec (.registerWrite 0x4000 v) s = .next { s with pkg := { s.pkg with frztick := v } } ∧
    exec (.registerWrite 0 v) s = .next s ∧
    (off % 8 ≠ 0 → off < 0x100000 → exec (.registerWrite off v) s = .next s) := by
  have pkg {o : Nat} (ho : o < 0x100000) : exec (.registerWrite o v) s = .next (s.pkgWrite o v) :=
    congrArg _ (barWrite_pkg hr ho v)
  refine ⟨pkg (by decide), pkg (by decide), pkg (by decide), pkg (by decide), pkg (by decide), fun ha ho => ?_⟩
  rw [pkg ho, pkgWrite_unaligned ha]

/-- R291: a window of BAR0 shows a die's management block. -/
theorem registerWrite_mgmt {s : State} {w : Nat} (hr : s.readyBit 0 = true) (hc : s.clocked = true) (h1 : 1 ≤ w) (h3 : w ≤ 3) (v : DWord) :
    exec (.registerWrite (w * 0x100000 + 0x100) v) s = exec (.l2cfgWrite (s.windowDie w) v) s ∧
      exec (.registerWrite (w * 0x100000 + 0x30000) v) s = .next s := by
  constructor
  · rw [exec_registerWrite, exec_l2cfgWrite, execRegisterWrite, execL2cfgWrite, barWrite_mgmt hr hc h1 h3 (by decide), State.running, if_pos hc]
    rfl
  · rw [exec_registerWrite, execRegisterWrite, barWrite_mgmt hr hc h1 h3 (by decide)]
    rfl

theorem faultRingConfig_free {s : State} {die slot : Nat}
    (h : ∀ c, s.ctx slot = some c → c.joinDie = die → ∀ i ∈ c.insts, ∀ q, i.halt ≠ .held q) (v : DWord) :
    s.faultRingConfig die slot v =
      s.modSlotRegs die slot (fun x => { x with fring := { x.fring with base := v &&& 0x7FFFFFFFDF } }) := by
  refine if_neg ?_
  cases hc : s.ctx slot with
  | none => simp
  | some c =>
    have hfree : c.joinDie = die → ∀ i ∈ c.insts, (heldSeq i.halt).isSome = false := by
      intro hj i hi
      have := h c hc hj i hi
      cases hh : i.halt with
      | held q => exact absurd hh (this q)
      | none => rfl
      | spreading => rfl
    simpa using hfree

theorem faultRingConfig_held {s : State} {die slot : Nat} {c : Context} {i : GangInst} {q : BitVec 32} (hc : s.ctx slot = some c)
    (hj : c.joinDie = die) (hi : i ∈ c.insts) (hq : i.halt = .held q) (v : DWord) : s.faultRingConfig die slot v = s := by
  refine if_pos ?_
  have : c.insts.any (fun i => (heldSeq i.halt).isSome) = true := List.any_eq_true.mpr ⟨i, hi, by rw [hq]; rfl⟩
  simp [hc, hj, this]

/-- R275: the requester's latch holds the tick and SEQ of the count it has read. -/
theorem find_latchPut {α : Type} (who : Nat) (x : α) (l : List (Nat × α)) :
    (latchPut who x l).find? (fun y => y.1 == who) = some (who, x) := by
  have hnone : (l.filter (fun y => y.1 != who)).find? (fun y => y.1 == who) = none := by
    simp
  simp [latchPut, List.find?_append, hnone]

/-- A register of a die's management block answers while the device runs. -/
theorem running_clocked {s : State} (h : s.clocked = true) (f : State → State) : s.running f = f s := if_pos h

theorem elogClear_does {s : State} {die : Nat} (hc : s.clocked = true) (hd : die < s.dies.length) :
    ∃ t, exec (.elogClear die) s = .next t ∧ SameMemory s t ∧ (t.die die).elog = [] ∧ (t.die die).elogOvf = false ∧
      (t.die die).elogLost = 0 ∧ (t.die die).counts = (s.die die).counts := by
  have ht : (s.elogClear die).die die = { s.die die with elog := [], elogOvf := false, elogLost := 0 } :=
    die_modDie_same (s := s.noteEvent die 0) hd _
  refine ⟨s.elogClear die, congrArg _ (running_clocked hc _), sameMemory_of_ctxs rfl rfl, ?_, ?_, ?_, ?_⟩ <;> rw [ht]

theorem eventCountRead_does {s : State} {die code : Nat} {x : EvCount} (hc : s.clocked = true) (hd : die < s.dies.length)
    (hx : (s.die die).counts[code]? = some x) (who : Nat) :
    ∃ t, exec (.eventCountRead die code who) s = .next t ∧ SameMemory s t ∧
      t.hostOut = s.hostOut ++ [.read (0x91000 + 32 * code) (natLe 8 x.count.toNat)] ∧
      eventRead ((t.die die).count code) 0x08 who = BitVec.ofNat 64 x.lastTick ∧
      eventRead ((t.die die).count code) 0x10 who = x.lastSeq.setWidth 64 := by
  have hcount : (s.die die).count code = x := by
    simp [Die.count, regGet, List.getD_eq_getElem?_getD, hx]
  have hcode : code < (s.die die).counts.length := (List.getElem?_eq_some_iff.mp hx).1
  have hlatch : ((s.eventCountRead die code who).die die).count code =
      { x with latch := latchPut who (x.lastTick, x.lastSeq) x.latch } := by
    have hdie : (s.eventCountRead die code who).die die = { s.die die with counts := regMod (s.die die).counts code (fun y =>
        { y with latch := latchPut who (y.lastTick, y.lastSeq) y.latch }) } := die_modDie_same hd _
    rw [hdie, ← hcount]
    exact regGet_regMod_same hcode
  refine ⟨s.eventCountRead die code who, congrArg _ (running_clocked hc _), sameMemory_of_ctxs rfl rfl, ?_, ?_, ?_⟩
  · rw [← hcount]; rfl
  · simp [hlatch, eventRead, find_latchPut]
  · simp [hlatch, eventRead, find_latchPut]

/-- R311: leaves 0 to 14 stand before their total. -/
theorem regGet_withTotal_leaf {l : List DWord} {k : Nat} (hk : k < 15) (hl : k < l.length) : regGet 0 (withTotal l) k = regGet 0 l k := by
  have : k < (l.take 15).length := by simp [hk, hl]
  simp [withTotal, regGet, List.getD_eq_getElem?_getD, List.getElem?_append_left this, hk]

theorem regGet_withTotal_total {l : List DWord} (hl : 15 ≤ l.length) :
    regGet 0 (withTotal l) 15 = (l.take 15).foldl (fun a b => a + b) 0 := by
  simp [withTotal, regGet, List.getD_eq_getElem?_getD, hl]

theorem topdownTotalRead_does {s : State} {die core : Nat} (hc : s.clocked = true) (hd : die < s.dies.length)
    (hcore : core < (s.die die).cores.length) (hl : ((s.die die).core core).leaves.length = 16) (who : Nat) :
    ∃ t, exec (.topdownTotalRead die core 0 who) s = .next t ∧ SameMemory s t ∧
      ∃ total, t.hostOut = s.hostOut ++ [.read (0xA0000 + 0x100 * core + 120) (natLe 8 total.toNat)] ∧
        total = (((s.die die).core core).leaves.take 15).foldl (fun a b => a + b) 0 ∧
        ∀ k, k < 15 → k < ((s.die die).core core).leaves.length →
          latched who ((t.die die).core core).latchAll [] k = regGet 0 ((s.die die).core core).leaves k := by
  have hlatch : (((s.topdownRead die core 0 who).die die).core core).latchAll =
      latchPut who (withTotal ((s.die die).core core).leaves) ((s.die die).core core).latchAll := by
    have hdie := die_modDie_same hd (fun x => { x with cores := regMod x.cores core (fun c =>
      { c with latchAll := latchPut who (withTotal ((s.die die).core core).leaves) c.latchAll }) })
    refine (congrArg (fun d : Die => (d.core core).latchAll) hdie).trans ?_
    exact congrArg Core.latchAll (regGet_regMod_same hcore)
  refine ⟨s.topdownRead die core 0 who, congrArg _ (running_clocked hc _), sameMemory_of_ctxs rfl rfl, _, rfl, ?_, fun k hk hkl => ?_⟩
  · exact regGet_withTotal_total (l := ((s.die die).core core).leaves) (by omega)
  · simp only [latched, hlatch, find_latchPut]
    exact regGet_withTotal_leaf hk hkl

/-- R275: a retried flit of the fabric is logged on its die, that of a Ringus link on CD0 (log 36). -/
theorem flitRetry_does {s : State} (hc : s.clocked = true) (die : Nat) (ringus : Bool) {d chan : Nat}
    (hs : (if ringus then (0, chanPkg) else (die, chanFabric)) = (d, chan)) (hd : d < s.dies.length) (h8 : 8 < (s.die d).counts.length) :
    ∃ t, exec (.flitRetry die ringus) s = .next t ∧ SameMemory s t ∧
      ((t.die d).count 8).count = ((s.die d).count 8).count + 1 ∧ t.pkg.pend.getLsbD 3 = true ∧
      ((s.die d).elog.length < 16 → ((t.die d).elog.getLast?).map (fun y => (y.chan, y.event, y.seq)) = some (chan, 8, (s.die d).seq)) := by
  have ht : exec (.flitRetry die ringus) s = .next (s.logEvent d chan 8 0 0 0 0) := by
    refine congrArg Host.Outcome.next ((if_pos hc).trans ?_)
    cases ringus <;> cases hs <;> rfl
  refine ⟨_, ht, sameMemory_logEvent .., ?_, pend_logEvent .., fun hl => ?_⟩
  · rw [count_logEvent hd h8]
  · rw [getLast_logEvent hd hl]; rfl

/-! ## Scrub -/

/-- A sector lies in one stack. -/
theorem homeDie_sector (pa : Nat) : homeDie (32 * (pa / 32)) = homeDie pa := by
  simp only [homeDie, paStack, Config.stackBytes]
  congr 2
  omega

theorem mem_poison_spoil (s : State) (sec : Nat) : sec ∈ (s.spoil sec).poison := by
  unfold State.spoil
  dsimp only
  split <;> simp_all

theorem scrub_does {s : State} {pa : Nat} (hc : s.clocked = true) (hpa : pa < Config.physBytes) (hd : homeDie pa < s.dies.length)
    (h2 : 2 < (s.die (homeDie pa)).counts.length) :
    ∃ t, exec (.scrub pa) s = .next t ∧ SameMemory s t ∧ t.poisoned (pa / 32 * 32) 32 = true ∧
      ((t.die (homeDie pa)).count 2).count = ((s.die (homeDie pa)).count 2).count + 1 := by
  have ht : exec (.scrub pa) s = .next ((s.spoil (pa / 32)).draw.2.logEvent (homeDie pa) (stackChan (32 * (pa / 32))) 2 0
      (32 * (pa / 32)) 0 (Config.syndrome (s.spoil (pa / 32)).freeCtr)) := by
    rw [← homeDie_sector pa]
    exact congrArg Host.Outcome.next (if_neg (by simp [hc, hpa]))
  refine ⟨_, ht, ?_, ?_, ?_⟩
  · obtain ⟨hm, hl⟩ := sameMemory_logEvent (s.spoil (pa / 32)).draw.2 (homeDie pa) (stackChan (32 * (pa / 32))) 2 0
      (32 * (pa / 32)) 0 (Config.syndrome (s.spoil (pa / 32)).freeCtr)
    exact ⟨hm, hl⟩
  · refine List.any_eq_true.mpr ⟨pa / 32, List.mem_append_left _ ?_, by simp; omega⟩
    rw [State.logEvent_poison]
    exact mem_poison_spoil s (pa / 32)
  · rw [count_logEvent (s := (s.spoil (pa / 32)).draw.2) hd h2]
    rfl

/-! ## Little-endian words in memory (R7) -/

theorem length_natLe (n x : Nat) : (natLe n x).length = n := by
  induction n generalizing x with
  | zero => rfl
  | succ n ih => simp [natLe, ih]

theorem leNat_natLe (n x : Nat) : leNat (natLe n x) = x % 256 ^ n := by
  induction n generalizing x with
  | zero => simp [natLe, leNat, Nat.mod_one]
  | succ n ih =>
    rw [natLe, leNat, ih, BitVec.toNat_ofNat, pow_succ' 256 n]
    exact Nat.mod_mul.symm

/-- The bytes written are read back. -/
theorem read_write {m : Cells} (hm : Memory.wf m = true) {x i n : Nat} {pre bs post : List Byte} (hi : pre.length = i)
    (hn : bs.length = n) : Cells.read (Cells.write m x (pre ++ bs ++ post)) (x + i) n = bs := by
  subst hi hn
  refine List.ext_getElem (by simp [Cells.read]) (fun j h1 h2 => ?_)
  have hj : pre.length + j < (pre ++ bs ++ post).length := by simp; omega
  have := get_write_same (x := x) hm hj
  simp only [Cells.read, List.getElem_map, List.getElem_range, Nat.add_assoc, this]
  simp [List.getElem_append_left, h2]

/-- A doubleword written is read back. -/
theorem read64_write {s t : State} {pa i : Nat} {pre post : List Byte} {v : DWord} (hs : s.MemoryOk) (hi : pre.length = i)
    (ht : t.mem = Cells.write s.mem pa (pre ++ natLe 8 v.toNat ++ post)) : t.read64 (pa + i) = v := by
  have hr : t.read (pa + i) 8 = natLe 8 v.toNat := by
    rw [State.read, ht]
    exact read_write hs hi (length_natLe 8 _)
  rw [State.read64, State.readNat, hr, leNat_natLe, Nat.mod_eq_of_lt (b := 256 ^ 8) v.isLt]
  exact (BitVec.ofNat_toNat ..).trans (BitVec.setWidth_eq v)

/-! ## Slot registers at the home slices -/

/-- The slot registers of every die are as they were. -/
def SlotsKept (s t : State) : Prop := t.dies.map Die.slots = s.dies.map Die.slots

theorem SlotsKept.trans {s t u : State} (h : SlotsKept s t) (h' : SlotsKept t u) : SlotsKept s u := Eq.trans h' h

theorem SlotsKept.length {s t : State} (h : SlotsKept s t) : t.dies.length = s.dies.length := by
  simpa using congrArg List.length h

theorem SlotsKept.slots {s t : State} (h : SlotsKept s t) (d : Nat) : (t.die d).slots = (s.die d).slots := by
  have := congrArg (fun l => l[d]?.getD Die.reset.slots) h
  simpa [State.die, regGet, List.getD_eq_getElem?_getD, Option.getD_map] using this

theorem slotsKept_of_dies {s t : State} (h : t.dies = s.dies) : SlotsKept s t := by rw [SlotsKept, h]

theorem slotsKept_foldl {α : Type} {f : State → α → State} (h : ∀ s a, SlotsKept s (f s a)) (l : List α) (s : State) :
    SlotsKept s (l.foldl f s) := by
  induction l generalizing s with
  | nil => rfl
  | cons a l ih => exact (h s a).trans (ih _)

theorem slotsKept_modDie (s : State) (d : Nat) {f : Die → Die} (h : ∀ x, (f x).slots = x.slots) : SlotsKept s (s.modDie d f) := by
  refine List.ext_getElem? (fun j => ?_)
  simp only [State.modDie, List.getElem?_map, getElem?_regMod]
  split
  · cases s.dies[j]? <;> simp [h]
  · rfl

theorem slotsKept_writeBack (s : State) (line : Nat) (bad : Nat → Bool) : SlotsKept s (s.writeBack line bad) :=
  slotsKept_foldl (f := State.spoil) (fun s sec => slotsKept_of_dies (State.spoil_dies s sec)) _ s

theorem slotsKept_putOut (s : State) (x : L2Line) : SlotsKept s (s.putOut x) := by
  unfold State.putOut
  split
  · rfl
  · dsimp only
    split
    · exact slotsKept_writeBack _ _ _
    · rfl

theorem slotsKept_putLines (s : State) (d : Nat) (new : List L2Line) : SlotsKept s (s.putLines d new) := by
  have hd : SlotsKept s (s.modDie d (fun x => { x with l2 := new })) := slotsKept_modDie s d (fun _ => rfl)
  unfold State.putLines
  dsimp only
  split
  · exact hd
  · exact hd.trans (slotsKept_foldl slotsKept_putOut _ _)

theorem slotsKept_passLine (s : State) (line off n : Nat) : SlotsKept s (s.passLine line off n) := by
  unfold State.passLine
  split
  · rfl
  · exact slotsKept_writeBack _ _ _

theorem slotsKept_l2Line (s : State) (cls hint : Nat) (wr : Bool) (line off n : Nat) :
    SlotsKept s (s.l2Line cls hint wr line off n) := by
  have hpass {t : State} (h : SlotsKept s t) : SlotsKept s (if wr then t.passLine line off n else t) := by
    split
    · exact h.trans (slotsKept_passLine t line off n)
    · exact h
  unfold State.l2Line
  dsimp only
  by_cases hp : Config.physBytes ≤ 128 * line
  · rw [if_pos hp]
    rfl
  · rw [if_neg hp]
    refine SlotsKept.trans (hpass ?_) rfl
    split
    · split
      · exact slotsKept_modDie s _ (fun _ => rfl)
      · rfl
    · exact slotsKept_putLines s _ _

theorem slotsKept_l2Touch (s : State) (pa n cls hint : Nat) (wr : Bool) : SlotsKept s (s.l2Touch pa n cls hint wr) :=
  slotsKept_foldl (fun s (l : Nat × Nat × Nat) => slotsKept_l2Line s cls hint wr l.1 l.2.1 l.2.2) _ s

theorem slotsKept_pullUnit (s : State) (m : MovePage) (i : Nat) (touch : Bool) : SlotsKept s (s.pullUnit m i touch) := by
  unfold State.pullUnit
  split
  · rfl
  · have hw : SlotsKept s (s.write (m.dst * 65536 + i * m.unit) (s.moveSource m i)) := slotsKept_of_dies (State.write_dies _ _ _)
    have hb := hw.trans (slotsKept_foldl (fun s k => slotsKept_of_dies (State.spoil_dies s (2048 * m.dst + k))) (s.moveBad m i) _)
    have hm := hb.trans (slotsKept_modDie _ (homeDie (m.dst * 65536)) (f := fun d => { d with moves := d.moves.map (fun x =>
      if x.dst = m.dst then { x with pulled := x.pulled ++ [i] } else x) }) (fun _ => rfl))
    dsimp only
    split
    · exact hm.trans (slotsKept_modDie _ _ (fun _ => rfl))
    · exact hm

theorem slotsKept_pullAt (s : State) (pa : Nat) : SlotsKept s (s.pullAt pa) := by
  unfold State.pullAt
  split
  · exact slotsKept_pullUnit _ _ _ _
  · rfl

theorem slotsKept_homeAccess (s : State) (pa n : Nat) (wr : Bool) : SlotsKept s (s.homeAccess pa n wr) :=
  (slotsKept_foldl (fun s l => slotsKept_pullAt s (128 * l)) _ s).trans (slotsKept_l2Touch _ _ _ _ _ _)

/-- A write at the home slices changes no slot register. -/
theorem slotsKept_homeWrite (s : State) (pa : Nat) (bs : List Byte) : SlotsKept s (s.homeWrite pa bs) :=
  (slotsKept_homeAccess s pa bs.length true).trans (slotsKept_of_dies (State.write_dies _ _ _))

/-- Two doublewords written at the home slices are read back. -/
theorem read64_homeWrite_pair {s t : State} {pa : Nat} (hs : s.MemoryOk) (hpa : pa + 16 ≤ Config.physBytes) (a b : DWord)
    (ht : t.mem = (s.homeWrite pa (natLe 8 a.toNat ++ natLe 8 b.toNat)).mem) : t.read64 pa = a ∧ t.read64 (pa + 8) = b := by
  have hlen : (natLe 8 a.toNat ++ natLe 8 b.toNat).length = 16 := by simp [length_natLe]
  have hok := memoryOk_homeAccess hs pa 16 true
  have hm : t.mem = Cells.write (s.homeAccess pa 16 true).mem pa (natLe 8 a.toNat ++ natLe 8 b.toNat) := by
    rw [ht, State.homeWrite, State.write, hlen, if_neg (by omega)]
  exact ⟨read64_write (i := 0) (pre := []) hok rfl (by simpa using hm),
    read64_write (pre := natLe 8 a.toNat) (post := []) hok (length_natLe 8 _) (by simpa using hm)⟩

/-! ## The SYNC packet of a trace stream -/

/-- The slot registers after a SYNC packet at tick `now`. -/
def SlotRegs.synced (now : Nat) (x : SlotRegs) : SlotRegs :=
  { x with trace := { x.trace with prod := x.trace.prod + 1 }, traceTick := now, syncAt := now }

/-- A SYNC that is due in a ring with room, with nothing lost before it, changes memory at the end of the ring and the registers of its slot. -/
theorem traceSync_slot {s : State} {die slot pa : Nat} (hc : s.clocked = true) (hdue : s.syncDue die slot = true)
    (hdrop : ((s.die die).slot slot).dropped = 0) :
    let r := ((s.die die).slot slot).trace
    let sz := (r.base.extractLsb' 0 4).toNat
    (r.prod - r.cons).toNat ≠ 2 ^ (sz + 10) → (r.base &&& 0x7FFFFFF000).toNat + 16 * (r.prod.toNat % 2 ^ (sz + 10)) = pa →
      (s.traceSync die slot).mem = (s.homeWrite pa (natLe 8 (1 : DWord).toNat ++ natLe 8 s.meridian.toNat)).mem ∧
        ((s.traceSync die slot).die die).slot slot = ((s.die die).slot slot).synced s.meridian.toNat := by
  intro r sz hroom hpa
  subst hpa
  have hpkt : s.traceSync die slot = (s.traceSyncPkt die slot).modSlotRegs die slot (fun y => { y with syncAt := s.tickNow }) := by
    refine (if_neg (by simp [hc, hdue])).trans ?_
    dsimp only
    rw [if_pos (Or.inl hdrop)]
  rw [hpkt, State.traceSyncPkt, State.traceRaw, if_neg hroom]
  refine ⟨rfl, ?_⟩
  simp only [State.syncDue, Bool.and_eq_true, decide_eq_true_eq] at hdue
  obtain ⟨⟨-, hdie⟩, hslot⟩ := hdue
  have hkept := slotsKept_homeWrite s
  rw [slot_modSlotRegs_modSlotRegs_same ((hkept _ _).length ▸ hdie) ((hkept _ _).slots die ▸ hslot), Die.slot, (hkept _ _).slots die]
  rfl

/-- R307: the SYNC packet is the doubleword 1 and MERIDIAN, at the end of the ring, which moves on by one. -/
theorem traceSync_does {s : State} {die slot : Nat} (hc : s.clocked = true) (hok : s.MemoryOk) (hdue : s.syncDue die slot = true)
    (hdrop : ((s.die die).slot slot).dropped = 0) :
    let ring (t : State) : Ring := ((t.die die).slot slot).trace
    let sz := ((ring s).base.extractLsb' 0 4).toNat
    let at_ := ((ring s).base &&& 0x7FFFFFF000).toNat + 16 * ((ring s).prod.toNat % 2 ^ (sz + 10))
    ((ring s).prod - (ring s).cons).toNat ≠ 2 ^ (sz + 10) → at_ + 16 ≤ Config.physBytes →
      ∃ t, exec (.traceSync die slot) s = .next t ∧ (ring t).prod = (ring s).prod + 1 ∧ t.read64 at_ = 1 ∧
        t.read64 (at_ + 8) = s.meridian ∧ ((t.die die).slot slot).syncAt = s.meridian.toNat := by
  intro ring sz at_ hroom hat
  obtain ⟨hmem, hslot⟩ := traceSync_slot hc hdue hdrop hroom rfl
  obtain ⟨hone, hmer⟩ := read64_homeWrite_pair hok hat 1 s.meridian hmem
  refine ⟨s.traceSync die slot, rfl, ?_, hone, hmer, ?_⟩
  · exact congrArg (fun x : SlotRegs => x.trace.prod) hslot
  · exact congrArg SlotRegs.syncAt hslot

/-! ## The base of a fault ring, and the register events -/

/-- R272: the base of a fault ring is written while no gang of the die is held; a held one keeps it. -/
theorem faultRingConfigWrite_free {s : State} {die slot : Nat} (hc : s.clocked = true) (hd : die < s.dies.length)
    (hs : slot < (s.die die).slots.length)
    (h : ∀ c, s.ctx slot = some c → c.joinDie = die → ∀ i ∈ c.insts, ∀ q, i.halt ≠ .held q) (v : DWord) :
    ∃ t, exec (.faultRingConfigWrite die slot v) s = .next t ∧ SameMemory s t ∧
      ((t.die die).slot slot).fring = { ((s.die die).slot slot).fring with base := v &&& 0x7FFFFFFFDF } := by
  have ht : exec (.faultRingConfigWrite die slot v) s = .next (s.modSlotRegs die slot (fun x =>
      { x with fring := { x.fring with base := v &&& 0x7FFFFFFFDF } })) :=
    congrArg Host.Outcome.next ((running_clocked hc _).trans (faultRingConfig_free h v))
  refine ⟨_, ht, sameMemory_of_ctxs rfl rfl, ?_⟩
  rw [slot_modSlotRegs_same hd hs]

theorem faultRingConfigWrite_held {s : State} {die slot : Nat} (hc : s.clocked = true)
    (h : ∃ c i q, s.ctx slot = some c ∧ c.joinDie = die ∧ i ∈ c.insts ∧ i.halt = .held q) (v : DWord) :
    exec (.faultRingConfigWrite die slot v) s = .next s := by
  obtain ⟨c, i, q, hctx, hj, hi, hq⟩ := h
  exact congrArg _ ((running_clocked hc _).trans (faultRingConfig_held hctx hj hi hq v))

/-- Settles O51: each register event is one change of the package, of a die or of one slot's registers, read back at its place. -/
theorem registerEvents : Obligations.RegisterEvents := by
  unfold Obligations.RegisterEvents
  intro s die slot core code who pa w off v x
  refine ⟨fun hr => ?_, fun hr => congrArg _ (barWrite_notReady hr off v), fun hc hd => ?_⟩
  · obtain ⟨hwinsel, hwbase, hnen, hfrztick, hzero, hunaligned⟩ := registerWrite_pkg hr off v
    exact ⟨hwinsel, hwbase, hnen, hfrztick, hzero, hunaligned, fun h1 h3 hc => registerWrite_mgmt hr hc h1 h3 v⟩
  · refine ⟨fun h hs => faultRingConfigWrite_free hc hd hs h v, fun h => faultRingConfigWrite_held hc h v, elogClear_does hc hd,
      fun hx => eventCountRead_does hc hd hx who, fun hcore hl => topdownTotalRead_does hc hd hcore hl who,
      flitRetry_does hc die false rfl hd, fun h0 h8 => ?_, fun hpa hhome h2 => ?_,
      fun hok hdue hdrop hroom hat => traceSync_does hc hok hdue hdrop hroom hat⟩
    · obtain ⟨t, ht, hmem, hcount, -, hlog⟩ := flitRetry_does hc die true rfl h0 h8
      exact ⟨t, ht, hmem, hcount, hlog⟩
    · subst hhome
      exact scrub_does hc hpa hd h2

end Sys2Proof.Machine
end

section
/-! SUPPORT. A rendezvous of two members (R49): one has no live lane, and two of its splits wait there. The first to go on takes up the lanes that
come to the group, and, when the other member has retired, the second takes them up again. -/

namespace Sys2Proof.Machine

open Sys2Proof

/-- A split with the lanes of `m` that waits at the rendezvous of cohort slot 0, every lane's predicate true. -/
def meetingSplit (m : Mask) : Split := { Split.freeEntry with st := .wait (.regroup 0 7), mask := m }

/-- A member of cohort 0 of the placed instance (log 7), without vector registers. -/
def meetingGroup (number : Nat) (live : Mask) (splits : List Split) : Group :=
  { placeBind.group 0 with
    ctl := { (placeBind.group 0).ctl with number := number, live := live, cohorts := [some 0], eligible := true }
    vregs := [], cals := [], splits := splits }

/-- The member without a live lane. -/
def emptyMember : Group := meetingGroup 0 0 [meetingSplit 0, meetingSplit 0]

/-- The context in which it meets a member with one live lane. -/
def meetingContext : Context :=
  { placeContext with groups := [(⟨0, 0, 0⟩, emptyMember), (⟨0, 0, 1⟩, meetingGroup 1 1 [meetingSplit 1])] }

/-- The device with that context; its next turn does nothing of itself. -/
def meetingState : State := { State.reset with ctxs := regSet State.reset.ctxs 0 (some meetingContext), agenda := [.cooled] }

/-- Splits 0 and 1 of a group of `t` both hold lane 0. -/
def sharesLane (r : GroupRef) (t : State) : Bool :=
  (t.group? r).any (fun g => Mask.has (g.split 0).mask 0 && Mask.has (g.split 1).mask 0)

/-- Every split of the member without a live lane waits at the rendezvous or is free, without lanes and without serial paths. -/
theorem split_emptyMember (k : Nat) : (emptyMember.split k).mask = 0 ∧ (emptyMember.split k).div = Stack.empty := by
  match k with
  | 0 | 1 => exact ⟨rfl, rfl⟩
  | n + 2 => exact ⟨rfl, rfl⟩

theorem lanesApart_emptyMember : LanesApart emptyMember := by
  intro k j h
  rw [(split_emptyMember k).1] at h
  exact absurd h (by simp [Mask.has])

/-- The turn ends with both rendezvous carried out: two splits hold the lane that was the other member's. -/
theorem step_meetingState : ∃ t g', step meetingState = .next t ∧ t.group? ⟨0, 0, 0⟩ = some g' ∧
    Mask.has (g'.split 0).mask 0 = true ∧ Mask.has (g'.split 1).mask 0 = true := by
  have h : (match step meetingState with
    | .next t => sharesLane ⟨0, 0, 0⟩ t
    | .fault _ | .refused _ => false) = true := by decide +kernel
  cases hs : step meetingState with
  | fault e => simp [hs] at h
  | refused e => simp [hs] at h
  | next t =>
    rw [hs] at h
    obtain ⟨g', hg, hlane⟩ := (Option.any_eq_true _ _).1 h
    obtain ⟨h0, h1⟩ := Bool.and_eq_true_iff.1 hlane
    exact ⟨t, g', rfl, hg, h0, h1⟩

/-- Refutes O57: a group without a live lane may have two splits at one rendezvous, each of which holds every live lane, that is none; when the
rendezvous brings it a lane, both take it up. -/
theorem not_splitsStayApart : ¬ Obligations.SplitsStayApart := by
  unfold Obligations.SplitsStayApart
  intro h
  obtain ⟨t, g', hstep, hg', h0, h1⟩ := step_meetingState
  have hdiv : ∀ k, (emptyMember.split k).div.chip = [] ∧ (emptyMember.split k).div.depth = 0 := fun k => by
    rw [(split_emptyMember k).2]
    exact ⟨rfl, rfl⟩
  have hapart : LanesApart g' := h meetingState t ⟨0, 0, 0⟩ meetingContext emptyMember g' hstep rfl rfl (by decide +kernel) hdiv
    (fun k _ _ _ => (split_emptyMember k).1) lanesApart_emptyMember hg'
  exact absurd ((hapart 0 0 h0).2 1 (by decide)) (by simp [h1])

end Sys2Proof.Machine
end

section
/-! SUPPORT. The turn of an issue slot: what comes before the instruction of a word that raises nothing, and what follows its outcome. -/

namespace Sys2Proof.Machine

open Sys2Proof

/-- R80, R81, R85: the word is that instruction at its place of its clause. -/
theorem wordForm_of_decode {c : Clause} {pos : Nat} {w : DWord} {i : Instr} (hclass : ∀ b, wordClass w = some b → c.classes.getLsbD b = true)
    (hend : endsClause w = true → pos = c.count) (hi : decode w = .ok i) : wordForm c pos w = some i := by
  have hplace : (endsClause w && pos != c.count) = false := by
    cases h : endsClause w
    · rfl
    · simp [hend h]
  unfold wordForm
  cases hw : wordClass w with
  | none => simp [hplace, hi]
  | some b => simp [hclass b hw, hplace, hi]

/-- R85, R95, R302: without a hazard, a block beyond the budget and a code comparator, the instruction of the word runs. -/
theorem issueWord_run {s : State} {r : SplitRef} {g : Group} {c : Clause} {w : DWord} {i : Instr}
    (hform : wordForm c (pcPos (g.split r.k).pc) w = some i) (hhazard : g.hazard r.k i = none) (hfits : i.fitsBudget g = true)
    (hcode : checksArray i = true ∨ s.codeAt r.slot (g.split r.k) = none) :
    s.issueWord r g c w = .run i { s.readOpen r g i with cur := some ⟨r⟩ } := by
  have hstop : (if checksArray i then none else s.codeAt r.slot (g.split r.k)) = none := by
    split
    · rfl
    · next h => exact hcode.resolve_left h
  simp [State.issueWord, hform, hhazard, hfits, hstop]

/-- The issue slot of a split that may issue, inside a clause, with no refill, TIMER or soft error before it: the word that the fetch answers. -/
theorem issuePrep_word {s s1 : State} {r : SplitRef} {g : Group} {c : Clause} {w : DWord} (hg : s.group? r.group = some g)
    (hst : (g.split r.k).st = .issuing) (hruns : s.groupRuns r.group g = true) (hun : (g.split r.k).unstopped = true)
    (hslot : s.slotFree r.group g = true) (hrefill : (g.split r.k).refill = false) (hc : (g.split r.k).clause = some c)
    (htimer : g.takesTimer r.k = false) (hsoft : s.soft.contains (.group r.group) = false)
    (hfetch : s.fetch (s.cxOf r) (pcWord (g.split r.k).pc) = .ok w s1) : s.issuePrep r = s1.issueWord r g c w := by
  unfold State.issuePrep
  rw [hg]
  simp only [hst, hruns, hun, hslot, hrefill, hc, htimer, hsoft, hfetch]
  rfl

/-- R97, R134: with no open window of an MMA that still reads, there is nothing to settle. -/
theorem readOpen_closed {s : State} {r : SplitRef} {g : Group} (i : Instr)
    (h : ∀ p ∈ g.inflight, p.split = r.k → p.window = none ∨ p.job = none) : s.readOpen r g i = s := by
  refine if_neg fun hany => ?_
  obtain ⟨p, hp, hmine⟩ := List.any_eq_true.1 hany
  simp only [Bool.and_eq_true, beq_iff_eq] at hmine
  obtain ⟨⟨⟨hk, hwindow⟩, hjob⟩, -⟩ := hmine
  rcases h p hp hk with e | e
  · simp [e] at hwindow
  · simp [e] at hjob

/-- R46, R274: a turn that is in time, and before which nothing is due, settles. -/
theorem conclude_next {s t : State} {u : Turn} (hclash : t.turnEnd.clash t.turnEnd.req.events = false) (hlate : s.cohortLate t.turnEnd = false)
    (hdue : s.dueFirst u t.turnEnd.req.events false = none) : s.conclude u (.next t) = .next (s.settle t) := by
  simp [State.conclude, hclash, hlate, hdue, State.settle]

/-- The turn is the one that the agenda names first. -/
theorem step_agenda {s : State} {u : Turn} {rest : List Turn} (h : s.agenda = u :: rest) :
    step s = State.conclude { s with agenda := rest } u (State.turn { s with agenda := rest } u) := by
  simp only [step, State.nextTurn, h]

/-- Settles O54: the issue slot fetches the word and runs its instruction (`issuePrep_word`, `issueWord_run`); an event of the agenda is that
event. -/
theorem stepRunsDecoded : Obligations.StepRunsDecoded := by
  unfold Obligations.StepRunsDecoded
  refine ⟨?_, fun s r g i h => readOpen_closed i h, fun s rest i h => step_agenda h, fun s t u => conclude_next⟩
  intro s s1 rest r g c w i s0 sp hagenda hg hst hruns hun hslot hrefill hc htimer hsoft hfetch hcode hclass hend hi hhazard hfits
  have hrun : s0.issuePrep r = .run i { s1.readOpen r g i with cur := some ⟨r⟩ } :=
    (issuePrep_word hg hst hruns hun hslot hrefill hc htimer hsoft hfetch).trans
      (issueWord_run (wordForm_of_decode hclass hend hi) hhazard hfits hcode)
  rw [step_agenda hagenda]
  show s0.conclude (.issue r) (s0.issue r) = _
  rw [State.issue, hrun]

end Sys2Proof.Machine
end

section
/-! SUPPORT. Concrete devices of one context, at which a statement fails. -/

namespace Sys2Proof.Machine

open Sys2Proof

/-- The split that issues in a device of `issueState`. -/
def issueRef : SplitRef := ⟨0, 0, 0, 0⟩

/-- The placed context (log 7) with these groups, the split of `issueRef` issuing. -/
def issueState (groups : List (GroupRef × Group)) : State :=
  { State.reset with ctxs := regSet State.reset.ctxs 0 (some { placeContext with groups := groups }), cur := some ⟨issueRef⟩ }

/-- A group of the placed instance with these live lanes and splits, and one vector register. -/
def issueGroup (live : Mask) (splits : List Split) : Group :=
  { placeBind.group 0 with
    ctl := { (placeBind.group 0).ctl with live := live, eligible := true }
    vregs := [zeroLanes], cals := [none], splits := splits }

/-- A split that issues the only instruction of its clause. -/
def issueSplit (m : Mask) : Split :=
  { Split.freeEntry with st := .issuing, pc := BitVec.ofNat 64 placeCode, mask := m, clause := some ⟨placeHeader, 0xF, 0, false⟩ }

theorem issuing_issueState {g : Group} (h : (g.split 0).st ≠ .free) (rest : List (GroupRef × Group)) :
    Issuing (issueState ((issueRef.group, g) :: rest)) issueRef g := ⟨rfl, rfl, h⟩

/-- A next state whose group `r` satisfies `f`. -/
def nextGroup (o : Host.Outcome State Fault Refusal) (r : GroupRef) (f : Group → Bool) : Bool :=
  match o with
  | .next t => (t.group? r).any f
  | .fault _ | .refused _ => false

theorem of_nextGroup {o : Host.Outcome State Fault Refusal} {r : GroupRef} {f : Group → Bool} (h : nextGroup o r f = true) {t : State}
    {g : Group} (ho : o = .next t) (hg : t.group? r = some g) : f g = true := by
  simpa [nextGroup, ho, hg] using h

/-! ## EXIT -/

/-- A group one of whose splits waits at a RECONV for the split that issues. -/
def awaitingGroup : Group :=
  issueGroup 3 [issueSplit 1, { Split.freeEntry with st := .wait (.reconv 0 [(0, 0)]), mask := 2 }, Split.freeEntry, Split.freeEntry]

/-- Refutes O18: an EXIT that frees its split ends the wait for it of a split at a RECONV (R34), which is then not as it was. -/
theorem not_exit : ¬ Obligations.Exit := by
  unfold Obligations.Exit
  intro h
  have hexit : nextGroup (exec (.exit .always) (issueState [(issueRef.group, awaitingGroup)])) issueRef.group
      (fun g' => decide (g'.split 1 ≠ awaitingGroup.split 1)) = true := by decide +kernel
  obtain ⟨-, h⟩ := h _ _ _ .always [] ⟨0, 0, .pending⟩ (issuing_issueState (g := awaitingGroup) (by decide) [])
  obtain ⟨t, g', ht, hg', -, -, -, -, -, hothers, -⟩ := h (by decide +kernel)
  have hsame : g'.split 1 = awaitingGroup.split 1 := (hothers 1 (by decide)).2.2.1 (fun e => Bool.false_ne_true e.1)
  exact of_decide_eq_true (of_nextGroup hexit ht hg') hsame

/-! ## BREAKL with a full split table -/

/-- A split that has counted 64 backward branches, inside a loop. -/
def countedSplit : Split := { issueSplit 3 with loops := [⟨0, 0, 1⟩], back := 64 }

/-- Its group, with every entry of its split table in use. -/
def fullGroup : Group := { issueGroup 3 (countedSplit :: List.replicate 3 { Split.freeEntry with st := .ready }) with pregs := [1] }

/-- BREAKL of lane 0 of that split. -/
theorem breakl_fullGroup : nextGroup (exec (.breakl ⟨false, 0⟩) (issueState [(issueRef.group, fullGroup)])) issueRef.group
    (fun g' => decide ((g'.split 0).mask = 2)) = true := by decide +kernel

/-- Refutes O16: nothing bounds the count of backward branches of a split that BREAKL makes serial (R35); where it stands at 64, the path that
goes on is put beneath its stack (R36). -/
theorem not_callsAndLoops : ¬ Obligations.CallsAndLoops := by
  unfold Obligations.CallsAndLoops
  intro h
  have hfull : FullTable fullGroup 0 := ⟨by decide, by decide, by decide⟩
  obtain ⟨-, hpush⟩ := h.2.2 _ State.reset _ _ ⟨false, 0⟩ 0 0 [] ⟨0, 0, .pending⟩ 0 0
    (issuing_issueState (g := fullGroup) (by decide) []) (by decide +kernel) (by decide +kernel)
  obtain ⟨-, -, hbreak⟩ := hpush hfull
  obtain ⟨t, g', ht, hg', -, hjump⟩ := hbreak (by decide +kernel)
  rw [if_pos (by decide +kernel)] at hjump
  have hmask : (g'.split 0).mask = 2 := of_decide_eq_true (of_nextGroup breakl_fullGroup ht hg')
  have hone : (g'.split 0).mask = (State.reads (issueState [(issueRef.group, fullGroup)]) issueRef fullGroup).active 0 ⟨false, 0⟩ := hjump.mask
  rw [hmask] at hone
  exact absurd hone (by decide +kernel)

end Sys2Proof.Machine
end

section
/-! SUPPORT. A rendezvous of two members (R49) of which the second is left without a lane. -/

namespace Sys2Proof.Machine

open Sys2Proof

/-- A member of cohort 0 of the placed instance with lane 0 live. -/
def cohortMember (number : Nat) (sp : Split) : Group :=
  let g := issueGroup 1 [sp]
  { g with ctl := { g.ctl with number := number, cohorts := [some 0] } }

/-- A split that waits at the rendezvous with lane 0. -/
def waitingSplit : Split := { Split.freeEntry with st := .wait (.regroup 0 7), mask := 1 }

/-- The member that waits, with a store in its queue that writes byte 0 of vector register 0 of the group of `issueRef`. -/
def storingMember : Group :=
  { cohortMember 1 waitingSplit with storeQ := [⟨[⟨.window 0 0 0 0, 0xFF, 0xFF⟩], [], none⟩] }

/-- The member that issues REGROUP, last. -/
def issuingMember : Group := cohortMember 0 (issueSplit 1)

def meetingRef : GroupRef := ⟨0, 0, 1⟩

/-- Both, in the order of their numbers. -/
def rendezvous : List (GroupRef × Group) := [(issueRef.group, issuingMember), (meetingRef, storingMember)]

/-- The context of both. -/
def rendezvousContext : Context := { placeContext with groups := rendezvous }

/-- The device of both. -/
def rendezvousState : State := issueState rendezvous

/-- The store of the member that retires is performed after the lanes have moved. -/
theorem regroup_rendezvousState : nextGroup (exec (.regroup 0 0 7) rendezvousState) issueRef.group
    (fun g' => decide (g'.v 0 0 = 0xFF)) = true := by decide +kernel

/-- Both groups are members of the cohort, in this order. -/
theorem members_rendezvous : rendezvousContext.members 0 0 0 = rendezvous := by decide +kernel

/-- Each member has one split, entry 0 of its table. -/
theorem split_cohortMember (number : Nat) (sp : Split) (k : Nat) (h : k ≠ 0) : (cohortMember number sp).split k = Split.freeEntry := by
  obtain ⟨n, rfl⟩ := Nat.exists_eq_succ_of_ne_zero h
  rfl

theorem batch_cohortMember (number : Nat) (sp : Split) (b : Batch) (h : b ∈ (cohortMember number sp).batches) : b.current = [] ∧ b.sealed = [] := by
  obtain ⟨-, rfl⟩ := List.mem_replicate.1 h
  exact ⟨rfl, rfl⟩

/-- Refutes O39: the member left without a lane retires once the lanes have moved (R49), and a store in its queue that lies in the register
window of the other member (R143) is then performed on a register that the rendezvous has filled. -/
theorem not_regroup : ¬ Obligations.Regroup := by
  unfold Obligations.Regroup
  intro h
  obtain ⟨-, -, -, -, hlast⟩ := h rendezvousState issueRef issuingMember rendezvousContext 0 0 7 0
    (issuing_issueState (g := issuingMember) (by decide) [(meetingRef, storingMember)]) rfl (by decide)
  obtain ⟨t, ht, hmembers⟩ := hlast (fun _ => (0, 7)) rfl (by decide) (by decide +kernel) (by decide +kernel) rfl rfl (by
    intro x (hx : x ∈ rendezvousContext.members 0 0 0)
    rw [members_rendezvous] at hx
    rcases List.mem_pair.1 hx with rfl | rfl
    · exact ⟨⟨rfl, rfl, rfl⟩, rfl, rfl, batch_cohortMember 0 (issueSplit 1), fun hne => absurd rfl hne,
        fun j hj => congrArg Split.st (split_cohortMember 0 (issueSplit 1) j hj)⟩
    · exact ⟨⟨rfl, rfl, rfl⟩, rfl, rfl, batch_cohortMember 1 waitingSplit, fun _ => ⟨by decide, rfl⟩,
        fun j hj => congrArg Split.st (split_cohortMember 1 waitingSplit j hj)⟩)
  obtain ⟨g', hg', -, hregs, -⟩ := hmembers 0 (issueRef.group, issuingMember) (by decide +kernel)
  have hfirst : g'.v 0 0 = 0 := hregs 0 0 ((issueRef.group, issuingMember), 0) (by decide) (by decide) (by decide +kernel)
  have hbyte : g'.v 0 0 = 0xFF := of_decide_eq_true (of_nextGroup regroup_rendezvousState ht hg')
  rw [hfirst] at hbyte
  exact absurd hbyte (by decide)

end Sys2Proof.Machine
end

section
/-! SUPPORT. A clause start where one handle names two groups, of which the first has no split. -/

namespace Sys2Proof.Machine

open Sys2Proof

/-- A group without splits. -/
def splitlessGroup : Group := issueGroup 1 []

/-- A group whose split 0 is READY at address zero. -/
def readyGroup : Group := issueGroup 1 [{ Split.freeEntry with st := .ready, mask := 1 }]

/-- The placed device (log 7) with both groups under one handle, and with the page of address zero mapped to a page of zeros. -/
def sharedHandleState : State :=
  let s := State.reset.placeWord 0
  { s with
    mem := Cells.write s.mem 0xC000 (natLe 8 0x201F1)
    ctxs := regSet s.ctxs 0 (some { placeContext with groups := [(issueRef.group, splitlessGroup), (issueRef.group, readyGroup)] }) }

/-- The quadrant chooses the split of the second group; the handle finds the first. -/
theorem chosen_sharedHandleState : sharedHandleState.chosen 0 0 splitlessGroup.ctl.quad = some issueRef := by decide +kernel

/-- The word at address zero is no clause header. -/
theorem fetch_sharedHandleState : ∃ h s1, sharedHandleState.fetch (sharedHandleState.cxOf issueRef) (pcHdr 0) = .ok h s1 ∧ hdrMaj h ≠ 1 ∧
    s1.group? issueRef.group = some splitlessGroup := by
  have hfetch : (match sharedHandleState.fetch (sharedHandleState.cxOf issueRef) (pcHdr 0) with
    | .ok h s1 => decide (hdrMaj h ≠ 1 ∧ s1.group? issueRef.group = some splitlessGroup)
    | .fault _ | .wait _ => false) = true := by decide +kernel
  split at hfetch
  next h s1 hok => exact ⟨h, s1, hok, of_decide_eq_true hfetch⟩
  all_goals exact absurd hfetch Bool.false_ne_true

/-- No split of the group that the handle finds halts. -/
theorem clauseStart_sharedHandleState : nextGroup (exec (.clauseStart issueRef) sharedHandleState) issueRef.group
    (fun g' => decide ((g'.split 0).st ≠ .halted)) = true := by decide +kernel

/-- Refutes O40: nothing keeps two groups of a context apart by their handles. The quadrant's choice is a split of the second, while the
split that the handle finds is not in use: that one does not halt at a word that is no header. -/
theorem not_clauseStart : ¬ Obligations.ClauseStart := by
  unfold Obligations.ClauseStart
  intro h
  obtain ⟨w, s1, hfetch, hmaj, hgroup⟩ := fetch_sharedHandleState
  obtain ⟨hstart, -⟩ := h.1 sharedHandleState s1 issueRef splitlessGroup w 0 rfl chosen_sharedHandleState
  obtain ⟨hbad, -⟩ := hstart rfl rfl hfetch hgroup
  obtain ⟨t, g', ht, hg', -, hhalted, -⟩ := hbad hmaj
  exact of_decide_eq_true (of_nextGroup clauseStart_sharedHandleState ht hg') hhalted

end Sys2Proof.Machine
end

section
/-! SUPPORT. Gang records: what a record answers after its context has changed, and what a record, a scope or a retirement leaves as it was. -/

namespace Sys2Proof.Machine

open Sys2Proof

/-! ## Contexts and records of a state -/

theorem ctx_of_ctxs {s t : State} (h : t.ctxs = s.ctxs) (k : Nat) : t.ctx k = s.ctx k := by simp only [State.ctx, h]

theorem ctxs_notice (s : State) (b : Nat) : (s.notice b).ctxs = s.ctxs := by
  unfold State.notice
  split <;> rfl

theorem ctxs_ringRecord (s : State) (slot d : Nat) (ws : List DWord) : (s.ringRecord slot d ws).ctxs = s.ctxs := by
  unfold State.ringRecord
  dsimp only
  split
  · rfl
  · exact (ctxs_notice _ _).trans (homeOnly_homeWrite _ _ _).ctxs

/-- A fault record changes no context. -/
theorem ctxs_record (s : State) (slot : Nat) (a : RecordArgs) : (s.record slot a).2.ctxs = s.ctxs := ctxs_ringRecord _ _ _ _

/-- Finding by a key that a map keeps. -/
theorem find?_map_of_key {α : Type} {p : α → Bool} {f : α → α} (h : ∀ x, p (f x) = p x) (l : List α) :
    (l.map f).find? p = (l.find? p).map f := by
  rw [List.find?_map, show p ∘ f = p from funext h]

theorem record?_num {c : Context} {n : Nat} {r : GangRec} (h : c.record? n = some r) : r.num = n := by
  simpa using List.find?_some h

theorem record?_modRecord {f : GangRec → GangRec} (hf : ∀ r, (f r).num = r.num) (c : Context) (n : Nat) :
    (c.modRecord n f).record? n = (c.record? n).map f := by
  have hkey : ∀ r : GangRec, ((if r.num = n then f r else r).num == n) = (r.num == n) := by
    intro r
    split <;> simp [hf]
  have hmap : (c.modRecord n f).record? n = (c.record? n).map (fun r => if r.num = n then f r else r) := find?_map_of_key hkey c.records
  rw [hmap]
  cases h : c.record? n with
  | none => rfl
  | some r => simp [record?_num h]

theorem record?_modRecord_some {c : Context} {n : Nat} {r : GangRec} (h : c.record? n = some r) {f : GangRec → GangRec}
    (hf : ∀ r, (f r).num = r.num) : (c.modRecord n f).record? n = some (f r) := by
  rw [record?_modRecord hf, h]
  rfl

theorem inst?_key {c : Context} {a b : Nat} {i : GangInst} (h : c.inst? a b = some i) : i.recNum = a ∧ i.inst = b := by
  simpa using List.find?_some h

theorem inst?_modInst {f : GangInst → GangInst} (hf : ∀ i, (f i).recNum = i.recNum ∧ (f i).inst = i.inst) (c : Context) (a b : Nat) :
    (c.modInst a b f).inst? a b = (c.inst? a b).map f := by
  have hkey : ∀ i : GangInst, ((if i.recNum = a ∧ i.inst = b then f i else i).recNum == a &&
      (if i.recNum = a ∧ i.inst = b then f i else i).inst == b) = (i.recNum == a && i.inst == b) := by
    intro i
    split <;> simp [hf]
  have hmap : (c.modInst a b f).inst? a b = (c.inst? a b).map (fun i => if i.recNum = a ∧ i.inst = b then f i else i) :=
    find?_map_of_key hkey c.insts
  rw [hmap]
  cases h : c.inst? a b with
  | none => rfl
  | some i => simp [inst?_key h]

theorem inst?_modInst_some {c : Context} {a b : Nat} {i : GangInst} (h : c.inst? a b = some i) {f : GangInst → GangInst}
    (hf : ∀ i, (f i).recNum = i.recNum ∧ (f i).inst = i.inst) : (c.modInst a b f).inst? a b = some (f i) := by
  rw [inst?_modInst hf, h]
  rfl

/-! ## What the end of a scope's member leaves -/

/-- The records, the instances and the groups, but for their splits, are those of `c`. -/
structure SameRoster (c d : Context) : Prop where
  records : d.records = c.records
  insts : d.insts = c.insts
  groups : d.groups.map (fun x => (x.1, x.2.ctl)) = c.groups.map (fun x => (x.1, x.2.ctl))

theorem SameRoster.refl (c : Context) : SameRoster c c := ⟨rfl, rfl, rfl⟩

theorem SameRoster.trans {c d e : Context} (h : SameRoster c d) (h' : SameRoster d e) : SameRoster c e :=
  ⟨h'.records.trans h.records, h'.insts.trans h.insts, h'.groups.trans h.groups⟩

theorem sameRoster_modScope (c : Context) (n : Nat) (f : FScope → FScope) : SameRoster c (c.modScope n f) := ⟨rfl, rfl, rfl⟩

theorem sameRoster_hold (c : Context) (h : Option Nat) : SameRoster c (c.hold h) := by
  cases h with
  | none => exact SameRoster.refl c
  | some n => exact sameRoster_modScope c n _

theorem sameRoster_releaseWhere (c : Context) (now : Nat) (f : Wait → Bool) : SameRoster c (c.releaseWhere now f) :=
  ⟨rfl, rfl, by simp [Context.releaseWhere]⟩

theorem sameRoster_settleScope (now fuel n : Nat) (c : Context) : SameRoster c (Context.settleScope now fuel n c) := by
  induction fuel generalizing n c with
  | zero => exact SameRoster.refl c
  | succ fuel ih =>
    have hend (d : Context) (err : Bool) (f : Wait → Bool) :
        SameRoster d ((d.modScope n (fun y => { y with st := if err then .error else .done })).releaseWhere now f) :=
      (sameRoster_modScope d n _).trans (sameRoster_releaseWhere _ now f)
    have hpen (d : Context) (b : Bool) (h : Option Nat) (ms : List Transit) :
        SameRoster d (if b then { d.hold h with transit := ms } else d) := by
      cases b with
      | false => exact SameRoster.refl d
      | true => exact (sameRoster_hold d h).trans ⟨rfl, rfl, rfl⟩
    unfold Context.settleScope
    dsimp only
    split
    · split
      · exact (hend c _ _).trans (hpen _ _ _ _)
      · exact (((hend c _ _).trans (hpen _ _ _ _)).trans (sameRoster_modScope _ _ _)).trans (ih _ _)
    · exact SameRoster.refl c

theorem sameRoster_unhold (c : Context) (now : Nat) (h : Option Nat) (err : Bool) : SameRoster c (c.unhold now h err) := by
  cases h with
  | none => exact SameRoster.refl c
  | some n => exact (sameRoster_modScope c n _).trans (sameRoster_settleScope _ _ _ _)

theorem SameRoster.record? {c d : Context} (h : SameRoster c d) (n : Nat) : d.record? n = c.record? n := by
  simp only [Context.record?, h.records]

theorem SameRoster.inst? {c d : Context} (h : SameRoster c d) (a b : Nat) : d.inst? a b = c.inst? a b := by
  simp only [Context.inst?, h.insts]

/-- Which groups an instance has is said by their control fields. -/
theorem SameRoster.groupsOf {c d : Context} (h : SameRoster c d) {a b : Nat} (hc : c.groupsOf a b = []) : d.groupsOf a b = [] := by
  rw [Context.groupsOf, List.filter_eq_nil_iff] at hc ⊢
  intro x hx
  have hmem : (x.1, x.2.ctl) ∈ c.groups.map (fun x => (x.1, x.2.ctl)) := h.groups ▸ List.mem_map_of_mem hx
  obtain ⟨y, hy, he⟩ := List.mem_map.1 hmem
  have hctl : y.2.ctl = x.2.ctl := congrArg Prod.snd he
  exact hctl ▸ hc y hy

/-! ## The end of a record -/

theorem recordDone_of_queued {c : Context} {n : Nat} {r : GangRec} (h : c.record? n = some r) (hq : r.queued = true) (now : Nat) :
    c.recordDone now n = c := by
  simp [Context.recordDone, h, hq]

/-- A record that neither waits nor has an instance left is gone. -/
theorem record?_recordDone {c : Context} {n : Nat} (h : ∀ r, c.record? n = some r → r.queued = false ∧ r.running = 0) (now : Nat) :
    (c.recordDone now n).record? n = none := by
  unfold Context.recordDone
  cases hr : c.record? n with
  | none => exact hr
  | some r =>
    obtain ⟨hq, h0⟩ := h r hr
    simp only [hq, h0, bne_self_eq_false, Bool.or_self, Bool.false_eq_true, ↓reduceIte]
    rw [(sameRoster_unhold _ _ _ _).record?]
    simp [Context.record?]

theorem insts_recordDone (c : Context) (now n : Nat) : (c.recordDone now n).insts = c.insts := by
  unfold Context.recordDone
  split
  · rfl
  · split
    · rfl
    · exact (sameRoster_unhold _ _ _ _).insts

theorem groupsOf_recordDone {c : Context} {a b : Nat} (hc : c.groupsOf a b = []) (now n : Nat) : (c.recordDone now n).groupsOf a b = [] := by
  unfold Context.recordDone
  split
  · exact hc
  · split
    · exact hc
    · exact (sameRoster_unhold _ _ _ _).groupsOf hc

/-- A failed start of a record of which no instance runs ends the record. -/
theorem record?_startFails {s : State} {slot : Nat} {c : Context} {r : GangRec} (hc : s.ctx slot = some c)
    (hrun : ∀ x ∈ c.records, x.num = r.num → x.running = 0) (e : Exc) :
    ∃ c', (s.startFails slot r e).ctx slot = some c' ∧ c'.record? r.num = none := by
  rw [State.startFails, ctx_modCtx_same, State.startRecord, ctx_of_ctxs (ctxs_record s slot _), hc]
  refine ⟨_, rfl, record?_recordDone (fun x hx => ?_) _⟩
  rw [record?_modRecord (by exact fun _ => rfl)] at hx
  obtain ⟨y, hy, rfl⟩ := Option.map_eq_some_iff.1 hx
  exact ⟨rfl, hrun y (List.mem_of_find?_eq_some hy) (record?_num hy)⟩

/-! ## Taking and placing a record -/

/-- The record is found among those read now. -/
theorem record_of_recordReads {s : State} {slot n : Nat} {c : Context} {r : GangRec}
    (h : (s.recordReads slot c).find? (fun x => x.num == n) = some r) : r.num = n ∧ r ∈ c.records := by
  have hnum : r.num = n := by simpa using List.find?_some h
  have hmem := List.mem_of_find?_eq_some h
  unfold State.recordReads at hmem
  split at hmem
  · obtain ⟨p, -, hp⟩ := List.mem_flatMap.1 (List.mem_filter.1 hmem).1
    exact ⟨hnum, (List.mem_filter.1 hp).1⟩
  · exact absurd hmem List.not_mem_nil

theorem record?_of_mem {c : Context} {r : GangRec} (h : r ∈ c.records) : ∃ x, c.record? r.num = some x :=
  Option.isSome_iff_exists.1 (List.find?_isSome.2 ⟨r, h, beq_self_eq_true _⟩)

/-- A record with an instance to come takes its descriptor and stays in its queue. -/
theorem takeDesc_queued {s : State} {slot first last : Nat} {c : Context} {r : GangRec} {d : List Byte} (hc : s.ctx slot = some c)
    (hr : r ∈ c.records) (hlt : first < last) : ∃ c' x, (s.takeDesc slot r d first last).ctx slot = some c' ∧
      c'.record? r.num = some x ∧ x.desc = some d ∧ x.next = first ∧ x.last = last ∧ x.queued = true ∧ c'.groups = c.groups := by
  obtain ⟨x, hx⟩ := record?_of_mem hr
  have hx' := record?_modRecord_some hx (f := fun x =>
    { x with desc := some d, next := first, last := last, queued := decide (first < last) }) (fun _ => rfl)
  rw [State.takeDesc, ctx_modCtx_same, hc, Option.map_some, recordDone_of_queued hx' (decide_eq_true hlt)]
  exact ⟨_, _, rfl, hx', rfl, rfl, rfl, decide_eq_true hlt, rfl⟩

theorem takeRecord_descriptor {s s1 : State} {slot n : Nat} {c : Context} {r : GangRec} {d : List Byte} (hc : s.ctx slot = some c)
    (hr : (s.recordReads slot c).find? (fun x => x.num == n) = some r) (hf : r.failed = false) (hl : r.launching = false)
    (hread : s.startRead slot n r.descAddr 256 = (.ok d, s1)) :
    (descMalformed (descNum d) = true →
      s.takeRecord slot n = (s1.remoteDone (.start slot n)).startFails slot r (Exc.plain .format 0)) ∧
    (descMalformed (descNum d) = false → dgInstances (descNum d) ≠ 0 → dgTotal (descNum d) ≠ 0 → dgSpmd (descNum d) = false →
      s.takeRecord slot n = s1.takeShare slot c r d (0, dgInstances (descNum d))) := by
  constructor
  · intro hm
    simp [State.takeRecord, hc, hr, hf, hl, hread, hm]
  · intro hm hi ht hs
    simp [State.takeRecord, hc, hr, hf, hl, hread, hm, hi, ht, hs]

theorem takeRecord_failed {s : State} {slot n : Nat} {c : Context} {r : GangRec} (hc : s.ctx slot = some c)
    (hr : (s.recordReads slot c).find? (fun x => x.num == n) = some r) (hf : r.failed = true) :
    s.takeRecord slot n = s.startFails slot r (Exc.at .access r.descAddr) := by
  simp [State.takeRecord, hc, hr, hf]

theorem takeRecord_launching {s s1 : State} {slot n : Nat} {c : Context} {r : GangRec} {d : List Byte} (hc : s.ctx slot = some c)
    (hr : (s.recordReads slot c).find? (fun x => x.num == n) = some r) (hf : r.failed = false) (hl : r.launching = true)
    (hread : s.startRead slot n r.descAddr 8 = (.ok d, s1)) (hs1 : s1.ctxs = s.ctxs) (hrec : c.record? n = some r) :
    ∃ c', (s.takeRecord slot n).ctx slot = some c' ∧
      c'.record? n = some { r with prio := leNat d % 8, launching := false, headAt := none } := by
  obtain rfl := record?_num hrec
  have hc1 : (s1.remoteDone (.start slot r.num)).ctx slot = some c := (ctx_of_ctxs hs1 slot).trans hc
  simp only [State.takeRecord, hc, hr, hf, hl, State.launchRead, hread, Bool.false_eq_true, ↓reduceIte, ctx_modCtx_same, hc1, Option.map_some]
  refine ⟨_, rfl, ?_⟩
  rw [record?_modRecord_some hrec (by exact fun _ => rfl)]
  simp [bitsOf, hf]

theorem takeShare_usable {s : State} {slot : Nat} {c : Context} {r : GangRec} {d : List Byte} {sh : Nat × Nat}
    (hn : c.descUnnamed (descNum d) = false) (hu : (c.usable (descNum d)).isEmpty = false) :
    s.takeShare slot c r d sh = (s.remoteDone (.start slot r.num)).takeDesc slot r d sh.1 sh.2 := by
  simp [State.takeShare, hn, hu]

theorem placeInstance_ok {s s1 s2 : State} {slot : Nat} {c : Context} {r : GangRec} {d : List Byte} {p : Places} {pr : Nat × Nat}
    {tab : List (List Nat)} (hc : s.ctx slot = some c) (hr : s.serves slot c = some r) (hd : r.desc = some d) (hp : c.placeNow r = some p)
    (hpeers : s.readPeers slot r (descNum d) = (.ok pr, s1)) (htab : s1.cohortTable slot r (descNum d) = (.ok tab, s2)) :
    s.placeInstance slot r.num = (s2.remoteDone (.start slot r.num)).modCtx slot (fun c => c.placeInst s.nextBind r d p tab pr.1 pr.2) := by
  simp [State.placeInstance, hc, hr, hd, hp, hpeers, htab]

/-! ## Dispatching a bind record -/

theorem ctxs_clearL1 (s : State) (slot l : Nat) : (s.clearL1 slot l).ctxs = s.ctxs := by
  unfold State.clearL1
  split <;> rfl

theorem ctxs_clearL1s (ls : List Nat) (s : State) (slot : Nat) : (ls.foldl (fun acc l => acc.clearL1 slot l) s).ctxs = s.ctxs := by
  induction ls generalizing s with
  | nil => rfl
  | cons l ls ih => exact (ih _).trans (ctxs_clearL1 s slot l)

theorem group?_putGroup_same (c : Context) (r : GroupRef) (g : Group) : (c.putGroup r g).group? r = some g := by
  have hnone : (c.groups.filter (fun x => x.1 != r)).find? (fun x => x.1 == r) = none := by
    simp [List.find?_eq_none]
  simp [Context.group?, Context.putGroup, List.find?_append, hnone]

theorem group?_putGroup_other (c : Context) {r x : GroupRef} (g : Group) (h : x ≠ r) : (c.putGroup r g).group? x = c.group? x := by
  have hkeep : (c.groups.filter (fun y => y.1 != r)).find? (fun y => y.1 == x) = c.groups.find? (fun y => y.1 == x) := by
    rw [List.find?_filter]
    congr 1
    funext y
    by_cases hy : y.1 = x
    · simp [hy, h]
    · simp [hy]
  have hlast : [(r, g)].find? (fun y => y.1 == x) = none := by simp [Ne.symm h]
  simp only [Context.group?, Context.putGroup, List.find?_append, hkeep, hlast, Option.or_none]

theorem ref_injective (b : Bind) (slot : Nat) {i j : Nat} (h : b.ref slot i = b.ref slot j) : i = j := by
  have hgh : b.quad * 256 + b.slot + i = b.quad * 256 + b.slot + j := congrArg GroupRef.gh h
  omega

/-- The groups that a bind record puts into the slots of the first `n` of its range. -/
def Context.putBind (c : Context) (slot : Nat) (b : Bind) (n : Nat) : Context :=
  (List.range n).foldl (fun acc i => acc.putGroup (b.ref slot i) (b.group i)) c

theorem putBind_succ (c : Context) (slot : Nat) (b : Bind) (n : Nat) :
    c.putBind slot b (n + 1) = (c.putBind slot b n).putGroup (b.ref slot n) (b.group n) := by
  simp [Context.putBind, List.range_succ]

theorem group?_putBind (c : Context) (slot : Nat) (b : Bind) {n k : Nat} (hk : k < n) :
    (c.putBind slot b n).group? (b.ref slot k) = some (b.group k) := by
  induction n with
  | zero => exact absurd hk (Nat.not_lt_zero k)
  | succ n ih =>
    rw [putBind_succ]
    rcases Nat.lt_succ_iff_lt_or_eq.1 hk with hlt | rfl
    · rw [group?_putGroup_other _ _ (fun h => Nat.ne_of_lt hlt (ref_injective b slot h))]
      exact ih hlt
    · exact group?_putGroup_same _ _ _

theorem putBind_frame (c : Context) (slot : Nat) (b : Bind) (n : Nat) :
    (c.putBind slot b n).binds = c.binds ∧ (c.putBind slot b n).insts = c.insts := by
  induction n with
  | zero => exact ⟨rfl, rfl⟩
  | succ n ih => rw [putBind_succ]; exact ih

/-- A group of an instance that opens, where no halt has reached it. -/
theorem group?_openGroups {c : Context} {a b : Nat} {x : GroupRef} {g : Group} (h : c.group? x = some g) (ha : g.ctl.recNum = a)
    (hb : g.ctl.ganginst = b) : (c.openGroups a b false).group? x = some { g with ctl := { g.ctl with eligible := true } } := by
  obtain ⟨y, hy, rfl⟩ := Option.map_eq_some_iff.1 h
  have hkey : ∀ z : GroupRef × Group, ((if z.2.ctl.recNum = a ∧ z.2.ctl.ganginst = b then
      (z.1, { z.2 with ctl := { z.2.ctl with eligible := true }
                       splits := z.2.splits.map (fun sp => if sp.inUse && false && sp.skid.isNone then { sp with skid := some (0, 0) } else sp) })
      else z).1 == x) = (z.1 == x) := by
    intro z
    split <;> rfl
  have hfind := find?_map_of_key (p := fun z : GroupRef × Group => z.1 == x) hkey c.groups
  rw [hy] at hfind
  simp only [Context.group?, Context.openGroups, Context.modInst, hfind]
  simp [ha, hb]

theorem dispatchBind_eq {s : State} {slot : Nat} {c : Context} {b : Bind} {bs : List Bind} (hc : s.ctx slot = some c)
    (hclk : s.clocked = true) (hd : c.destroying = false) (hb : c.binds = b :: bs) (hfirst : s.bindFirst c b = true) :
    s.dispatchBind slot =
      let s1 := s.setCtx slot (Context.putBind { c with binds := bs } slot b b.gcount)
      if b.last then s1.openInst slot b.recNum b.inst else s1 := by
  simp [State.dispatchBind, hc, hclk, hd, hb, hfirst, Context.putBind]

/-- Before the last record of its instance, a bind record's groups stand in their slots and nothing opens. -/
theorem dispatchBind_more {s : State} {slot : Nat} {c : Context} {b : Bind} {bs : List Bind} (hc : s.ctx slot = some c)
    (hclk : s.clocked = true) (hd : c.destroying = false) (hb : c.binds = b :: bs) (hfirst : s.bindFirst c b = true)
    (hlast : b.last = false) : (s.dispatchBind slot).ctx slot = some (Context.putBind { c with binds := bs } slot b b.gcount) := by
  rw [dispatchBind_eq hc hclk hd hb hfirst]
  simp only [hlast, Bool.false_eq_true, ↓reduceIte]
  exact ctx_setCtx_same hc

theorem openInst_ctx {s : State} {slot a b : Nat} {c : Context} (hc : s.ctx slot = some c) : ∃ c', (s.openInst slot a b).ctx slot = some c' ∧
    c'.binds = c.binds ∧ ∀ i, c.inst? a b = some i → c' = c.openGroups a b (decide (i.halt ≠ .none)) := by
  cases hi : c.inst? a b with
  | none => exact ⟨c, by simp [State.openInst, hc, hi], rfl, by simp⟩
  | some i =>
    have hopen : (s.openInst slot a b).ctx slot = some (c.openGroups a b (decide (i.halt ≠ .none))) := by
      simp only [State.openInst, hc, hi]
      rw [ctx_modCtx_same, ctx_of_ctxs (ctxs_clearL1s _ _ _), hc]
      rfl
    exact ⟨_, hopen, rfl, by rintro _ ⟨⟩; rfl⟩

/-- The last record opens the instance. -/
theorem dispatchBind_last {s : State} {slot : Nat} {c : Context} {b : Bind} {bs : List Bind} (hc : s.ctx slot = some c)
    (hclk : s.clocked = true) (hd : c.destroying = false) (hb : c.binds = b :: bs) (hfirst : s.bindFirst c b = true)
    (hlast : b.last = true) : ∃ c', (s.dispatchBind slot).ctx slot = some c' ∧ c'.binds = bs ∧
      ∀ i, c.inst? b.recNum b.inst = some i →
        c' = (Context.putBind { c with binds := bs } slot b b.gcount).openGroups b.recNum b.inst (decide (i.halt ≠ .none)) := by
  obtain ⟨hbinds, hinsts⟩ := putBind_frame { c with binds := bs } slot b b.gcount
  obtain ⟨c', hc', hb', hopen⟩ := openInst_ctx (a := b.recNum) (b := b.inst)
    (ctx_setCtx_same (c := Context.putBind { c with binds := bs } slot b b.gcount) hc)
  rw [dispatchBind_eq hc hclk hd hb hfirst]
  simp only [hlast, ↓reduceIte]
  refine ⟨c', hc', hb'.trans hbinds, fun i hi => hopen i ?_⟩
  rw [Context.inst?, hinsts]
  exact hi

/-! ## Retiring an instance -/

theorem retireInst_ctx {s : State} {slot a b : Nat} {c : Context} {i : GangInst} (hc : s.ctx slot = some c) (hi : c.inst? a b = some i) :
    ∃ c', (s.retireInst slot a b).ctx slot = some c' ∧ c'.inst? a b = none ∧ c'.groupsOf a b = [] := by
  rw [State.retireInst, ctx_modCtx_same, hc]
  simp only [Option.map_some, hi]
  refine ⟨_, rfl, ?_, groupsOf_recordDone ?_ _ _⟩
  · simp only [Context.inst?, insts_recordDone]
    exact List.find?_eq_none.2 (fun x hx => by simpa [imp_iff_not_or] using (List.mem_filter.1 hx).2)
  · simp [Context.groupsOf, Context.modRecord]

theorem instRetirement_eq {s : State} {slot : Nat} {c : Context} {i : GangInst} (hc : s.ctx slot = some c)
    (hi : c.inst? i.recNum i.inst = some i) (hclk : s.clocked = true) (hq : c.instQuiet i = true) (hs : c.dbg.stopping = false)
    (hd : c.dbg.stopped = false) (hh : i.halt = .none ∨ i.halt = .spreading) :
    s.instRetirement slot i.recNum i.inst = s.retireOrHold slot i.recNum i.inst := by
  rcases hh with hh | hh <;> simp [State.instRetirement, hc, hi, hclk, hq, hh, State.heldOr, Context.debugging, hs, hd]

/-- Without a halt that is to be held, the instance retires. -/
theorem retireOrHold_retires {s : State} {slot : Nat} {c : Context} {i : GangInst} (hc : s.ctx slot = some c)
    (hi : c.inst? i.recNum i.inst = some i) (hh : ¬(i.halt = .spreading ∧ s.holds slot = true)) :
    ∃ c', (s.retireOrHold slot i.recNum i.inst).ctx slot = some c' ∧ c'.inst? i.recNum i.inst = none ∧ c'.groupsOf i.recNum i.inst = [] := by
  simp only [State.retireOrHold, hc, hi, if_neg hh]
  exact retireInst_ctx hc hi

theorem retireOrHold_holds {s : State} {slot : Nat} {c : Context} {i : GangInst} (hc : s.ctx slot = some c)
    (hi : c.inst? i.recNum i.inst = some i) (hh : i.halt = .spreading ∧ s.holds slot = true) :
    ∃ c', (s.retireOrHold slot i.recNum i.inst).ctx slot = some c' ∧
      c'.inst? i.recNum i.inst = some { i with halt := .held i.seq } := by
  simp only [State.retireOrHold, hc, hi, if_pos hh]
  exact ⟨_, ctx_setCtx_same hc, inst?_modInst_some hi (by exact fun _ => ⟨rfl, rfl⟩)⟩

/-! ## A head that has waited -/

theorem starve_head {s : State} {slot n t0 : Nat} {c : Context} {r : GangRec} (hc : s.ctx slot = some c) (hclk : s.clocked = true)
    (hr : c.record? n = some r) (h0 : r.headAt = some t0) (hq : r.queued = true) (hhead : c.isHead r = true)
    (hdue : t0 + 5000000 ≤ s.tickNow) :
    ∃ c', (s.starve slot n).ctx slot = some c' ∧ c'.record? n = some { r with starving := true } := by
  simp only [State.starve, hclk, Bool.not_true, Bool.false_eq_true, ↓reduceIte, ctx_modCtx_same, hc, Option.map_some]
  refine ⟨_, rfl, ?_⟩
  rw [record?_modRecord_some hr]
  · simp [h0, hq, hhead, hdue, starveTicks]
  · intro x
    split
    · split <;> rfl
    · rfl

/-! ## The group of a bind record -/

theorem regGet_of_all {α : Type} {d : α} {l : List α} (h : ∀ x ∈ l, x = d) (n : Nat) : regGet d l n = d := by
  unfold regGet
  rw [List.getD_eq_getElem?_getD]
  cases hx : l[n]? with
  | none => rfl
  | some x => exact h x (List.mem_of_getElem? hx)

theorem regGet_replicate {α : Type} (d : α) (m n : Nat) : regGet d (List.replicate m d) n = d :=
  regGet_of_all (fun _ h => (List.mem_replicate.1 h).2) n

theorem v_bindGroup (b : Bind) (i n j : Nat) : (b.group i).v n j = 0 := by
  have hvec : (b.group i).vec n = zeroLanes := regGet_replicate zeroLanes b.budget n
  rw [Group.v, hvec]
  exact regGet_replicate 0 32 j

theorem s_bindGroup (b : Bind) (i n : Nat) : (b.group i).s n = if n < 32 then regGet 0 b.payloads n else 0 := by
  by_cases hn : n < 128
  · simp [Group.s, Bind.group, regGet, hn]
  · have h32 : ¬n < 32 := by omega
    simp [Group.s, Bind.group, regGet, hn, h32]

theorem cal_bindGroup (b : Bind) (i : Nat) {n : Nat} (h : n < b.budget) : (b.group i).cal n = some ⟨0, 0⟩ := by
  simp [Group.cal, Bind.group, regGet, h]

theorem lorigin_bindGroup (b : Bind) (i : Nat) {j : Nat} (h : j < 32) :
    regGet 0 (b.group i).ctl.lorigin j = BitVec.ofNat 32 ((b.firstNum + i) * 32 + j) := by
  simp [Bind.group, regGet, perLane, laneIds, h]

theorem split_bindGroup (b : Bind) (i : Nat) {k : Nat} (h : 0 < k) : (b.group i).split k = Split.freeEntry := by
  obtain ⟨k, rfl⟩ := Nat.exists_eq_succ_of_ne_zero h.ne'
  exact regGet_replicate Split.freeEntry 3 k

theorem group?_of_ctx {s : State} {r : GroupRef} {c : Context} (h : s.ctx r.slot = some c) : s.group? r = c.group? r := by
  simp only [State.group?, h]

/-- Settles O43: each event is followed through the equation that says what it does under these hypotheses. -/
theorem gangServiceAndGroups : Obligations.GangServiceAndGroups := by
  unfold Obligations.GangServiceAndGroups
  refine ⟨fun s s1 s2 slot n c r d p pr tab t0 b bs i hc => ⟨?_, ?_, ?_, ?_, ?_, ?_⟩, fun b i => ?_⟩
  · intro hr hf hl hread hs1
    obtain ⟨hnum, hmem⟩ := record_of_recordReads hr
    subst hnum
    have hc1 : (s1.remoteDone (.start slot r.num)).ctx slot = some c := (ctx_of_ctxs hs1 slot).trans hc
    obtain ⟨hbad, hgood⟩ := takeRecord_descriptor hc hr hf hl hread
    constructor
    · intro hm hn hi ht hu hsp
      obtain ⟨c', x, hc', hx⟩ := takeDesc_queued (first := 0) (d := d) hc1 hmem (Nat.pos_of_ne_zero hi)
      refine ⟨_, c', rfl, ?_, x, hx⟩
      rw [hgood hm hi ht hsp, takeShare_usable hn hu]
      exact hc'
    · intro hm hrun
      obtain ⟨c', hc', hx⟩ := record?_startFails hc1 hrun (Exc.plain .format 0)
      exact ⟨_, c', rfl, hbad hm ▸ hc', hx⟩
  · intro hr
    obtain ⟨hnum, hmem⟩ := record_of_recordReads hr
    subst hnum
    constructor
    · intro hf hrun
      obtain ⟨c', hc', hx⟩ := record?_startFails hc hrun (Exc.at .access r.descAddr)
      refine ⟨_, c', rfl, ?_, hx⟩
      rw [takeRecord_failed hc hr hf]
      exact hc'
    · intro hf hl hread hs1 hrec
      obtain ⟨c', hc', hx⟩ := takeRecord_launching hc hr hf hl hread hs1 hrec
      exact ⟨_, c', rfl, hc', hx⟩
  · intro hr hn hd hp hpeers htab hs2
    subst hn
    have hc2 : (s2.remoteDone (.start slot r.num)).ctx slot = some c := (ctx_of_ctxs hs2 slot).trans hc
    refine ⟨_, c.placeInst s.nextBind r d p tab pr.1 pr.2, rfl, ?_, rfl, rfl, _, rfl, rfl, rfl, rfl, rfl, rfl, rfl, rfl⟩
    rw [placeInstance_ok hc hr hd hp hpeers htab, ctx_modCtx_same, hc2, Option.map_some]
  · intro hclk hrec h0 hq hhead hdue
    obtain ⟨c', hc', hx⟩ := starve_head hc hclk hrec h0 hq hhead hdue
    exact ⟨_, c', rfl, hc', hx⟩
  · intro hclk hdes hb hfirst
    cases hlast : b.last with
    | false =>
      have hc' := dispatchBind_more hc hclk hdes hb hfirst hlast
      exact ⟨_, _, rfl, hc', (putBind_frame _ slot b b.gcount).1,
        fun _ k hk => (group?_of_ctx hc').trans (group?_putBind _ slot b hk), fun h => absurd h Bool.false_ne_true⟩
    | true =>
      obtain ⟨c', hc', hb', hopen⟩ := dispatchBind_last hc hclk hdes hb hfirst hlast
      refine ⟨_, c', rfl, hc', hb', fun h => absurd h.symm Bool.false_ne_true, fun _ hi hhalt k hk => ?_⟩
      rw [hopen i hi, hhalt] at hc'
      exact (group?_of_ctx hc').trans (group?_openGroups (group?_putBind _ slot b hk) rfl rfl)
  · intro hclk hi hq hstop hstopped
    constructor
    · intro hh
      obtain ⟨c', hc', hx⟩ := retireOrHold_retires hc hi (by rcases hh with hh | hh <;> simp [hh])
      exact ⟨_, c', rfl, (instRetirement_eq hc hi hclk hq hstop hstopped (hh.imp_right And.left)) ▸ hc', hx⟩
    · intro hh hhold
      obtain ⟨c', hc', hx⟩ := retireOrHold_holds hc hi ⟨hh, hhold⟩
      exact ⟨_, c', rfl, (instRetirement_eq hc hi hclk hq hstop hstopped (.inr hh)) ▸ hc', hx⟩
  · exact ⟨v_bindGroup b i, s_bindGroup b i, fun n hn =>
      ⟨(if_neg hn.ne).trans (regGet_replicate 0 7 n), (if_neg hn.ne).trans (regGet_replicate false 7 n)⟩, fun n => ⟨regGet_replicate 0 16 n, regGet_replicate 0 16 n⟩,
      fun n hn => cal_bindGroup b i hn, rfl, rfl, rfl, rfl, rfl, rfl, rfl, rfl, rfl, fun k hk => by rw [split_bindGroup b i hk]; rfl,
      fun j hj => lorigin_bindGroup b i hj, rfl⟩

end Sys2Proof.Machine
end

section
/-! SUPPORT. What an instruction that says itself where its split goes leaves: the trace packets it writes, and the issue that is counted then,
change nothing that a control transfer is about. -/

namespace Sys2Proof.Machine

open Sys2Proof

/-! ## Memory -/

theorem SameMemory.refl (s : State) : SameMemory s s := ⟨rfl, fun _ _ => rfl⟩

theorem SameMemory.trans {s t u : State} (h : SameMemory s t) (h' : SameMemory t u) : SameMemory s u :=
  ⟨h'.1.trans h.1, fun k l => (h'.2 k l).trans (h.2 k l)⟩

/-- What is outside the groups of every context says what the scratchpads hold. -/
theorem sameMemory_of_noGroups {s t : State} (hm : t.mem = s.mem)
    (hc : ∀ k, (t.ctx k).map Context.noGroups = (s.ctx k).map Context.noGroups) : SameMemory s t :=
  ⟨hm, fun k l => by rw [lc_eq (hc k) l]⟩

theorem sameMemory_setGroup (s : State) (r : GroupRef) (g : Group) : SameMemory s (s.setGroup r g) :=
  sameMemory_of_noGroups (by simp) (noGroups_setGroup s r g)

theorem sameMemory_modGroup (s : State) (r : GroupRef) (f : Group → Group) : SameMemory s (s.modGroup r f) :=
  sameMemory_of_noGroups (by simp) (noGroups_modGroup s r f)

theorem sameMemory_counted (s x : State) (r : SplitRef) (g : Group) : SameMemory x (s.counted x r g) :=
  sameMemory_of_noGroups (by simp [State.counted]) (ctx_counted s x r g)

/-! ## Trace packets -/

/-- Memory and every context are those of `s`: what a packet that waits for the end of its tick leaves. -/
structure TraceOnly (s t : State) : Prop where
  mem  : t.mem = s.mem
  ctxs : t.ctxs = s.ctxs

theorem TraceOnly.refl (s : State) : TraceOnly s s := ⟨rfl, rfl⟩
theorem TraceOnly.trans {s t u : State} (h : TraceOnly s t) (h' : TraceOnly t u) : TraceOnly s u :=
  ⟨h'.mem.trans h.mem, h'.ctxs.trans h.ctxs⟩

theorem TraceOnly.sameMemory {s t : State} (h : TraceOnly s t) : SameMemory s t := sameMemory_of_ctxs h.mem h.ctxs

theorem TraceOnly.group? {s t : State} (h : TraceOnly s t) (r : GroupRef) : t.group? r = s.group? r := by
  simp only [State.group?, State.ctx, h.ctxs]

theorem traceOnly_traceAt (s : State) (r : SplitRef) (pc : DWord) (p : Packet) : TraceOnly s (s.traceAt r pc p) := by
  unfold State.traceAt State.trace
  split
  · exact ⟨rfl, rfl⟩
  · exact TraceOnly.refl s

theorem traceOnly_traceFlow (s : State) (r : SplitRef) (pc target : DWord) : TraceOnly s (s.traceFlow r pc target) :=
  traceOnly_traceAt s r pc _

theorem traceOnly_traceMask (s : State) (r : SplitRef) (pc : DWord) (kind aux : Nat) (old new : Mask) :
    TraceOnly s (s.traceMask r pc kind aux old new) := by
  unfold State.traceMask
  split
  · exact TraceOnly.refl s
  · exact traceOnly_traceAt s r pc _

theorem traceOnly_branchPacket (s : State) (r : SplitRef) (pc : DWord) (act taken : Mask) (m : Moved) :
    TraceOnly s (branchPacket s r pc act taken m) := by
  unfold branchPacket
  split
  · exact TraceOnly.refl s
  · exact traceOnly_traceAt s r pc _

theorem traceOnly_foldl {α : Type} {f : State → α → State} (h : ∀ s a, TraceOnly s (f s a)) (l : List α) (s : State) :
    TraceOnly s (l.foldl f s) := by
  induction l generalizing s with
  | nil => exact TraceOnly.refl s
  | cons a l ih => exact (h s a).trans (ih _)

/-! ## Counting the issue -/

/-- The group `g'` is `g` but for what counting an issue changes of split `k`: its skids, and what it held. -/
def Noted (g g' : Group) (k : Nat) : Prop :=
  ∃ f : Split → Split, g' = g.modSplit k f ∧ ∀ sp, ∃ a b n, f sp = { sp with skid := a, dskid := b, skidIns := n, held := none }

theorem Noted.other {g g' : Group} {k j : Nat} (h : Noted g g' k) (hj : j ≠ k) : g'.split j = g.split j := by
  obtain ⟨f, rfl, -⟩ := h
  exact split_modSplit_other g f hj

theorem modSplit_of_le {g : Group} {k : Nat} (h : g.splits.length ≤ k) (f : Split → Split) : g.modSplit k f = g := by
  simp [Group.modSplit, Group.setSplit, regSet, List.set_eq_of_length_le h]

/-- A split keeps what counting an issue does not change. -/
theorem Noted.split {g g' : Group} {k : Nat} (h : Noted g g' k) (j : Nat) :
    ∃ a b n x, g'.split j = { g.split j with skid := a, dskid := b, skidIns := n, held := x } := by
  obtain ⟨f, rfl, hf⟩ := h
  by_cases hj : j = k ∧ k < g.splits.length
  · obtain ⟨rfl, hk⟩ := hj
    obtain ⟨a, b, n, hsp⟩ := hf (g.split j)
    exact ⟨a, b, n, none, by rw [split_modSplit_same _ _ hk, hsp]⟩
  · have hsame : (g.modSplit k f).split j = g.split j := by
      by_cases hk : j = k
      · rw [modSplit_of_le (Nat.le_of_not_lt fun hlt => hj ⟨hk, hlt⟩)]
      · exact split_modSplit_other g f hk
    exact ⟨_, _, _, _, hsame⟩

theorem Noted.sameRegs {g g1 g' : Group} {k : Nat} (h : Noted g1 g' k) (hr : g.SameRegs g1) : g.SameRegs g' := by
  obtain ⟨f, rfl, -⟩ := h
  exact { hr with }

/-- What an instruction that jumps leaves. -/
theorem jump_outcome {i : Instr} {s t : State} {r : SplitRef} {g g1 : Group} {act : Group → Nat → Mask}
    {f : State → SplitRef → Group → Group → Res} (h : Issuing s r g) (hi : exec i s = runRes act f s)
    (hf : f s.entered r (s.reads r g) (g.countWindows r.k) = .jump t) (hg : t.group? r.group = some g1) :
    ∃ t' g', exec i s = .next t' ∧ t'.group? r.group = some g' ∧ Noted g1 g' r.k ∧ SameMemory t t' := by
  obtain ⟨φ, hφ, hsp⟩ := group_counted_same (s := s) (g := g) hg
  exact ⟨_, _, hi.trans (runRes_jump h hf), hφ, ⟨φ, rfl, hsp⟩, sameMemory_counted s t r g⟩

/-! ## Where the split goes -/

theorem JumpedTo.noted {s t t' : State} {g g1 g' : Group} {k : Nat} {pc : DWord} {mask : Mask} {ret div : Stack} {loops : List LoopLevel}
    (h : JumpedTo s t g g1 k pc mask ret div loops) (hn : Noted g1 g' k) (hm : SameMemory t t') :
    JumpedTo s t' g g' k pc mask ret div loops := by
  obtain ⟨a, b, n, x, hsp⟩ := hn.split k
  have hothers : ∀ j, j ≠ k → { g'.split j with st := .ready } = { g.split j with st := .ready } := fun j hj => by
    rw [hn.other hj]
    exact h.others j hj
  have hregs := hn.sameRegs h.regs
  obtain ⟨f, rfl, -⟩ := hn
  exact
    { regs := hregs
      trap := h.trap
      ctl := h.ctl
      pc := by rw [hsp]; exact h.pc
      st := by rw [hsp]; exact h.st
      clause := by rw [hsp]; exact h.clause
      mask := by rw [hsp]; exact h.mask
      ret := by rw [hsp]; exact h.ret
      div := by rw [hsp]; exact h.div
      loops := by rw [hsp]; exact h.loops
      others := hothers
      mem := h.mem.trans hm }

/-- From a meaning that answers `jump` with the group `g1` to the instruction's jump. -/
theorem jumpedTo_of_jump {i : Instr} {s s1 t : State} {r : SplitRef} {g h g1 : Group} {act : Group → Nat → Mask}
    {f : State → SplitRef → Group → Group → Res} {pc : DWord} {mask : Mask} {ret div : Stack} {loops : List LoopLevel}
    (hs : Issuing s r g) (hi : exec i s = runRes act f s) (hf : f s.entered r (s.reads r g) (g.countWindows r.k) = .jump t)
    (hg : t.group? r.group = some g1) (hj : JumpedTo s1 t h g1 r.k pc mask ret div loops) :
    ∃ t' g', exec i s = .next t' ∧ t'.group? r.group = some g' ∧ JumpedTo s1 t' h g' r.k pc mask ret div loops := by
  obtain ⟨t', g', hx, hg', hn, hm⟩ := jump_outcome hs hi hf hg
  exact ⟨t', g', hx, hg', hj.noted hn hm⟩

end Sys2Proof.Machine
end

section
/-! SUPPORT. RECONV (R34, R36, R382): a path of the divergence stack that goes on, a split that goes on alone or waits, and two that merge. -/

namespace Sys2Proof.Machine

open Sys2Proof

/-! ## A path goes on -/

/-- Split `k` goes on at `pc` with the lanes of `m`, a path of its own (R36). -/
def Group.resumePath (g : Group) (k now : Nat) (pc : DWord) (m : Mask) (yields : Bool) : Group :=
  (g.closeWindows k).modSplit k (fun x => ({ x with mask := m, ovr := [], back := 0 }).goto now pc yields)

/-- The path of split `k` and the top of its divergence stack change places. -/
def Group.swapPath (g : Group) (k : Nat) : Group :=
  g.modSplit k (fun x => { x with div := { x.div with chip := x.div.chip.dropLast ++ [⟨(g.split k).pc, (g.split k).mask, .waiting⟩] } })

theorem serialReconv_pending {s : State} {cx : Cx} {g : Group} {k : Nat} {t : StackEntry} (h : t.kind = .pending) :
    s.serialReconv cx g k t = .ok ((g.swapPath k).resumePath k s.cycles t.pc t.mask (g.split k).clauseYields) s := by
  simp only [State.serialReconv, h]
  rfl

theorem serialReconv_waiting {s : State} {cx : Cx} {g : Group} {k : Nat} {t : StackEntry} (h : t.kind = .waiting) (hpc : t.pc ≠ (g.split k).pc) :
    s.serialReconv cx g k t = .ok ((g.swapPath k).resumePath k s.cycles (afterReconv t.pc) t.mask (g.split k).clauseYields) s := by
  simp only [State.serialReconv, h, if_neg hpc]
  rfl

/-- No refill is owed while an entry is on chip or none is left. -/
theorem pop_div_of_chip {s : State} {cx : Cx} {g : Group} {k : Nat} {es : List StackEntry} {e : StackEntry} (hk : k < g.splits.length)
    (h : (g.split k).div.chip = es ++ [e]) (hes : es ≠ [] ∨ (g.split k).div.depth ≤ 1) :
    s.pop cx g k true = .ok (g.modSplit k (fun sp => { sp with div := sp.div.dropTop })) s := by
  have hrefill : ((g.split k).div.dropTop.chip.isEmpty && decide (0 < (g.split k).div.dropTop.depth)) = false := by
    simp only [Stack.dropTop, h, List.dropLast_concat]
    rcases hes with hes | hd
    · simp [hes]
    · have h0 : (g.split k).div.depth - 1 = 0 := by omega
      simp [h0]
  simp only [State.pop, State.refill, Split.stack, Split.setStack, split_modSplit_same _ _ hk, ↓reduceIte, hrefill, Bool.false_eq_true]

theorem serialReconv_same {s : State} {cx : Cx} {g : Group} {k : Nat} {es : List StackEntry} {e : StackEntry} (hk : k < g.splits.length)
    (hchip : (g.split k).div.chip = es ++ [e]) (hes : es ≠ [] ∨ (g.split k).div.depth ≤ 1) (h : e.kind = .waiting) (hpc : e.pc = (g.split k).pc) :
    s.serialReconv cx g k e = .ok ((g.modSplit k (fun sp => { sp with div := sp.div.dropTop })).resumePath k s.cycles (g.split k).nextHdr
      ((g.split k).mask ||| e.mask) (g.split k).clauseYields) s := by
  simp only [State.serialReconv, h, hpc, reduceCtorEq, ↓reduceIte, pop_div_of_chip hk hchip hes]
  rfl

/-- Where a path that goes on has jumped, seen from a group that differs in split `k` and in what is in flight alone. -/
theorem jumpedTo_resumePath {s t : State} {g g0 : Group} {k now : Nat} {pc : DWord} {m : Mask} {yields : Bool} (hk : k < g0.splits.length)
    (hr : g.SameRegs g0) (htrap : g0.trap = g.trap) (hctl : g0.ctl = g.ctl) (hothers : ∀ j, j ≠ k → g0.split j = g.split j) (hm : SameMemory s t) :
    JumpedTo s t g (g0.resumePath k now pc m yields) k pc m (g0.split k).ret (g0.split k).div (g0.split k).loops := by
  have hsp : (g0.resumePath k now pc m yields).split k = ({ g0.split k with mask := m, ovr := [], back := 0 }).goto now pc yields :=
    split_modSplit_same (g0.closeWindows k) _ hk
  refine ⟨{ hr with }, htrap, hctl, ?_, ?_, ?_, ?_, ?_, ?_, ?_, fun j hj => ?_, hm⟩
  case refine_8 =>
    rw [Group.resumePath, split_modSplit_other _ _ hj, closeWindows_split, hothers j hj]
  all_goals rw [hsp]; rfl

theorem sameRegs_modSplit (g : Group) (k : Nat) (f : Split → Split) : g.SameRegs (g.modSplit k f) :=
  ⟨rfl, rfl, rfl, rfl, rfl, rfl, rfl, rfl, rfl, rfl, rfl⟩

/-! ## RECONV with a path on the stack -/

theorem reconvRes_path {s : State} {r : SplitRef} {src g g1 : Group} {t : StackEntry} (htop : (g.split r.k).top true = some t)
    (h : s.serialReconv (s.cxOf r) g r.k t = .ok g1 s) :
    reconvRes s r src g = .jump ((s.setGroup r.group g1).traceMask r (g.split r.k).pc 2 0 (g.split r.k).mask (g1.split r.k).mask) := by
  simp only [reconvRes, htop, h, MRes.toRes]

/-- From the path that goes on to the jump of the instruction. `f` is what it does to the entry of its split before. -/
theorem reconv_path {s : State} {r : SplitRef} {g : Group} {t : StackEntry} {pc : DWord} {m : Mask} {ret div : Stack} {loops : List LoopLevel}
    (hi : Issuing s r g) (htop : (g.split r.k).top true = some t) (f : Split → Split)
    (h : s.entered.serialReconv (s.entered.cxOf r) (g.countWindows r.k) r.k t = .ok (((g.countWindows r.k).modSplit r.k f).resumePath r.k
      s.entered.cycles pc m (g.split r.k).clauseYields) s.entered)
    (hret : (f (g.split r.k)).ret = ret) (hdiv : (f (g.split r.k)).div = div) (hloops : (f (g.split r.k)).loops = loops) :
    Jumps .reconv s r g pc m ret div loops := by
  have hk : r.k < (g.countWindows r.k).splits.length := split_lt hi.used
  have hsp : ((g.countWindows r.k).modSplit r.k f).split r.k = f (g.split r.k) := split_modSplit_same _ _ hk
  have htrace := traceOnly_traceMask (s.entered.setGroup r.group (((g.countWindows r.k).modSplit r.k f).resumePath r.k s.entered.cycles pc m
    (g.split r.k).clauseYields)) r (g.split r.k).pc 2 0 (g.split r.k).mask ((((g.countWindows r.k).modSplit r.k f).resumePath r.k s.entered.cycles
    pc m (g.split r.k).clauseYields).split r.k).mask
  have hj := jumpedTo_resumePath (s := s) (g := g) (now := s.entered.cycles) (pc := pc) (m := m) (yields := (g.split r.k).clauseYields)
    (g0 := (g.countWindows r.k).modSplit r.k f) (by simpa using hk)
    ⟨rfl, rfl, rfl, rfl, rfl, rfl, rfl, rfl, rfl, rfl, rfl⟩ rfl rfl (fun j hj => split_modSplit_other _ _ hj)
    ((sameMemory_setGroup s.entered r.group _).trans htrace.sameMemory)
  rw [hsp, hret, hdiv, hloops] at hj
  exact jumpedTo_of_jump hi rfl (reconvRes_path htop h) ((htrace.group? r.group).trans (group_setGroup_same hi.group)) hj

/-! ## RECONV with an empty divergence stack -/

/-- The group once the split's count of backward branches restarts (R34). -/
def Group.restartCount (g : Group) (k : Nat) : Group := g.modSplit k (fun y => { y with back := 0 })

theorem split_of_peer {g : Group} {k j : Nat} (h : j ∈ g.peers k) : j ≠ k ∧ j < 4 ∧ (g.split j).st ≠ .free := by
  obtain ⟨hused, hp⟩ := List.mem_filter.1 h
  obtain ⟨hlt, hin⟩ := List.mem_filter.1 hused
  simp only [Bool.and_eq_true, bne_iff_ne, ne_eq] at hp
  exact ⟨hp.1.1.1, List.mem_range.1 hlt, by simpa [Split.inUse] using hin⟩

theorem split_restartCount_peer {g : Group} {k j : Nat} (h : j ∈ (g.restartCount k).peers k) : (g.restartCount k).split j = g.split j :=
  split_modSplit_other _ _ (split_of_peer h).1

/-- The peers that a split meets at its RECONV, and those that have not reached it. -/
def Group.metAt (g : Group) (k : Nat) : List Nat :=
  (g.peers k).filter (fun j => (g.split j).atReconv (pcWord (g.split k).pc) && g.mayMerge j k)

def Group.restAt (g : Group) (k : Nat) : List Nat := (g.peers k).filter (fun j => !(g.split j).atReconv (pcWord (g.split k).pc))

/-- Where no peer waits at this RECONV, all of them have yet to come. -/
theorem met_rest_of_none {g : Group} {k : Nat} (h : ∀ j ∈ g.peers k, (g.split j).atReconv (pcWord (g.split k).pc) = false) :
    g.metAt k = [] ∧ g.restAt k = g.peers k := by
  constructor
  · exact List.filter_eq_nil_iff.2 (fun j hj => by simp [h j hj])
  · exact List.filter_eq_self.2 (fun j hj => by simp [h j hj])

theorem met_rest_of_one {g : Group} {k j : Nat} (hp : g.peers k = [j]) (hat : (g.split j).atReconv (pcWord (g.split k).pc) = true)
    (hm : g.mayMerge j k = true) : g.metAt k = [j] ∧ g.restAt k = [] := by
  simp [Group.metAt, Group.restAt, hp, hat, hm]

/-- RECONV with an empty divergence stack: the group it leaves, by the split that survives and by what that one waits for. -/
theorem reconvRes_empty {s : State} {r : SplitRef} {src g : Group} (htop : (g.split r.k).top true = none)
    (hpc : ((g.restartCount r.k).split r.k).pc = (g.split r.k).pc) {k : Nat} {m g1 : Group} {awaits : List (Nat × Nat)}
    (hmerged : (g.restartCount r.k).mergeAt r.k ((g.restartCount r.k).metAt r.k) = (m, k))
    (haw : (g.restartCount r.k).awaitsAt r.k ((g.restartCount r.k).metAt r.k) ((g.restartCount r.k).restAt r.k) = awaits)
    (hg1 : g1 = if awaits.isEmpty then m.modSplit k (fun y => y.goto s.cycles (g.split r.k).nextHdr (g.split r.k).clauseYields)
      else m.modSplit k (fun y => y.await (.reconv (pcWord (g.split r.k).pc) awaits))) :
    ∃ t, reconvRes s r src g = .jump t ∧ TraceOnly (s.setGroup r.group g1) t := by
  simp only [Group.metAt, Group.restAt, hpc] at hmerged haw
  have hres : reconvRes s r src g = .jump (((g.restartCount r.k).metAt r.k).foldl (fun acc j =>
      acc.traceMask { r with k := k } (g.split r.k).pc 0 (max j r.k) ((g.restartCount r.k).split k).mask (g1.split k).mask) (s.setGroup r.group g1)) := by
    simp only [reconvRes, htop]
    simp only [Group.restartCount, Group.metAt] at *
    simp only [hmerged, haw, hpc, ← hg1]
  exact ⟨_, hres, traceOnly_foldl (fun s j => traceOnly_traceMask _ _ _ _ _ _ _) _ _⟩

/-! ## Two splits merge -/

theorem regGet_map {α : Type} (d : α) (l : List α) {f : α → α} (hf : f d = d) (i : Nat) : regGet d (l.map f) i = f (regGet d l i) := by
  simp only [regGet, List.getD_eq_getElem?_getD, List.getElem?_map]
  cases l[i]? with
  | none => exact hf.symm
  | some x => rfl

/-- Only what a split waits for changes when none waits for split `k` any more. -/
theorem split_unawait (g : Group) (k j : Nat) :
    ∃ st, (g.unawait k).split j = { g.split j with st := st } ∧ ((g.split j).st = .free → st = .free) := by
  rw [Group.split, Group.unawait, regGet_map Split.freeEntry g.splits rfl]
  change ∃ st, _ = { g.split j with st := st } ∧ _
  split
  · next x awaits h => exact ⟨_, rfl, fun hf => absurd (h.symm.trans hf) (by simp)⟩
  all_goals exact ⟨_, rfl, fun h => h⟩

theorem split_freeSplit_same {g : Group} {k : Nat} (hk : k < g.splits.length) : (g.freeSplit k).split k = Split.freeEntry := by
  have hset : (g.setSplit k Split.freeEntry).split k = Split.freeEntry := regGet_regSet_same hk
  obtain ⟨st, h, hst⟩ := split_unawait (g.setSplit k Split.freeEntry) k k
  rw [hset] at h hst
  rw [hst rfl] at h
  exact h

theorem split_freeSplit_other (g : Group) {k j : Nat} (hj : j ≠ k) : ∃ st, (g.freeSplit k).split j = { g.split j with st := st } := by
  have hset : (g.setSplit k Split.freeEntry).split j = g.split j := regGet_regSet_other hj
  obtain ⟨st, h, -⟩ := split_unawait (g.setSplit k Split.freeEntry) k j
  rw [hset] at h
  exact ⟨st, h⟩

/-- Split `a` has the lanes of both, and what was in flight for `b`. -/
def Group.joinLanes (g : Group) (a b : Nat) : Group :=
  let g0 := g.modSplit a (fun sp => { sp with mask := (g.split a).mask ||| (g.split b).mask, ovr := [], back := 0 })
  { g0 with inflight := g0.inflight.map (fun p => if p.split = b then { p with split := a, window := none } else p) }

theorem split_merge (g : Group) (a b j : Nat) : (g.merge a b).split j = ((g.joinLanes a b).freeSplit b).split j := rfl

theorem split_merge_freed {g : Group} {a b : Nat} (hb : b < g.splits.length) : (g.merge a b).split b = Split.freeEntry := by
  rw [split_merge]
  exact split_freeSplit_same (by simpa [Group.joinLanes] using hb)

theorem mask_merge {g : Group} {a b : Nat} (ha : a < g.splits.length) (hab : a ≠ b) :
    ((g.merge a b).split a).mask = (g.split a).mask ||| (g.split b).mask := by
  have hjoin : (g.joinLanes a b).split a = { g.split a with mask := (g.split a).mask ||| (g.split b).mask, ovr := [], back := 0 } :=
    split_modSplit_same g (fun sp => { sp with mask := (g.split a).mask ||| (g.split b).mask, ovr := [], back := 0 }) ha
  obtain ⟨st, h⟩ := split_freeSplit_other (g.joinLanes a b) hab
  rw [split_merge, h, hjoin]

theorem length_splits_merge (g : Group) (a b : Nat) : (g.merge a b).splits.length = g.splits.length := by
  simp [Group.merge, Group.freeSplit, Group.unawait, Group.setSplit]

theorem SameRegs.trans {g h i : Group} (a : g.SameRegs h) (b : h.SameRegs i) : g.SameRegs i :=
  ⟨b.vregs.trans a.vregs, b.cals.trans a.cals, b.sregs.trans a.sregs, b.pregs.trans a.pregs, b.qregs.trans a.qregs, b.aregs.trans a.aregs,
    b.hregs.trans a.hregs, b.viol.trans a.viol, b.fflags.trans a.fflags, b.storeQ.trans a.storeQ, b.batches.trans a.batches⟩

theorem sameRegs_joinLanes (g : Group) (a b : Nat) : g.SameRegs (g.joinLanes a b) := ⟨rfl, rfl, rfl, rfl, rfl, rfl, rfl, rfl, rfl, rfl, rfl⟩

theorem sameRegs_freeSplit (g : Group) (k : Nat) : g.SameRegs (g.freeSplit k) := ⟨rfl, rfl, rfl, rfl, rfl, rfl, rfl, rfl, rfl, rfl, rfl⟩

theorem sameRegs_merge (g : Group) (a b : Nat) : g.SameRegs (g.merge a b) :=
  { SameRegs.trans (sameRegs_joinLanes g a b) (sameRegs_freeSplit _ b) with }

/-- The survivor of a merge at a RECONV stands where the split `x` that has issued it stands. -/
def Split.standAs (x sp : Split) : Split := { sp with st := x.st, pc := x.pc, clause := x.clause, age := x.age }

theorem mask_standAs (x sp : Split) : (x.standAs sp).mask = sp.mask := rfl

/-- Splits `k` and `j` merged at the RECONV that `k` has issued. -/
def Group.mergedAt (g : Group) (k j : Nat) : Group := (g.merge (min k j) (max k j)).modSplit (min k j) (g.split k).standAs

theorem mergeAt_one (g : Group) (k j : Nat) : g.mergeAt k [j] = (g.mergedAt k j, min k j) := rfl

theorem sameRegs_mergedAt (g : Group) (k j : Nat) : g.SameRegs (g.mergedAt k j) :=
  SameRegs.trans (sameRegs_merge g (min k j) (max k j)) (sameRegs_modSplit _ _ _)

theorem length_splits_mergedAt (g : Group) (k j : Nat) : (g.mergedAt k j).splits.length = g.splits.length := by
  simp [Group.mergedAt, length_splits_merge]

theorem split_mergedAt_freed {g : Group} {k j : Nat} (hk : k < g.splits.length) (hj : j < g.splits.length) (h : j ≠ k) :
    (g.mergedAt k j).split (max k j) = Split.freeEntry := by
  rw [Group.mergedAt, split_modSplit_other _ _ (by omega), split_merge_freed (by omega)]

theorem mask_mergedAt {g : Group} {k j : Nat} (hk : k < g.splits.length) (hj : j < g.splits.length) (h : j ≠ k) :
    ((g.mergedAt k j).split (min k j)).mask = (g.split k).mask ||| (g.split j).mask := by
  rw [Group.mergedAt, split_modSplit_same _ _ (by rw [length_splits_merge]; omega), mask_standAs, mask_merge (by omega) (by omega)]
  rcases Nat.lt_or_gt_of_ne h with hlt | hlt
  · rw [Nat.min_eq_right hlt.le, Nat.max_eq_left hlt.le]
    exact BitVec.or_comm _ _
  · rw [Nat.min_eq_left hlt.le, Nat.max_eq_right hlt.le]

theorem awaitsAt_one {g : Group} {k j : Nat} (h : ∀ a ∈ g.awaits j, a.1 = k ∨ a.1 = j) : g.awaitsAt k [j] [] = [] := by
  have hold : ([j].flatMap g.awaits).filter (fun a => a.1 != k && !([j].contains a.1)) = [] := by
    rw [List.filter_eq_nil_iff]
    intro a ha
    rcases h a (by simpa using ha) with ha | ha <;> simp [ha]
  rw [Group.awaitsAt, hold]
  rfl

theorem awaitsAt_none (g : Group) (k : Nat) (rest : List Nat) : g.awaitsAt k [] rest = rest.map (fun j => (j, 0)) := by
  simp [Group.awaitsAt]

theorem awaits_restartCount {g : Group} {k j : Nat} (hj : j ≠ k) : (g.restartCount k).awaits j = g.awaits j := by
  simp only [Group.awaits, Group.restartCount, split_modSplit_other _ _ hj]

/-! ## The obligation -/

theorem sameRegs_restartCount (g : Group) (k : Nat) : g.SameRegs ((g.countWindows k).restartCount k) :=
  ⟨rfl, rfl, rfl, rfl, rfl, rfl, rfl, rfl, rfl, rfl, rfl⟩

theorem top_eq_none {sp : Split} (h : sp.div.chip = []) : sp.top true = none := by simp [Split.top, Split.stack, h]

theorem top_eq_last {sp : Split} {es : List StackEntry} {e : StackEntry} (h : sp.div.chip = es ++ [e]) : sp.top true = some e := by
  simp [Split.top, Split.stack, h]

/-- RECONV with an empty divergence stack, from the group its meaning leaves to the instruction. -/
theorem reconv_empty {s : State} {r : SplitRef} {g m g1 : Group} {k : Nat} {awaits : List (Nat × Nat)} (hi : Issuing s r g)
    (hchip : (g.split r.k).div.chip = [])
    (hmerged : ((g.countWindows r.k).restartCount r.k).mergeAt r.k (((g.countWindows r.k).restartCount r.k).metAt r.k) = (m, k))
    (haw : ((g.countWindows r.k).restartCount r.k).awaitsAt r.k (((g.countWindows r.k).restartCount r.k).metAt r.k)
      (((g.countWindows r.k).restartCount r.k).restAt r.k) = awaits)
    (hg1 : g1 = if awaits.isEmpty then m.modSplit k (fun y => y.goto s.cycles (g.split r.k).nextHdr (g.split r.k).clauseYields)
      else m.modSplit k (fun y => y.await (.reconv (pcWord (g.split r.k).pc) awaits))) :
    ∃ t g', exec .reconv s = .next t ∧ t.group? r.group = some g' ∧ Noted g1 g' r.k ∧ SameMemory s t := by
  have hsp : ((g.countWindows r.k).restartCount r.k).split r.k = { g.split r.k with back := 0 } :=
    split_modSplit_same (g.countWindows r.k) _ (split_lt hi.used)
  obtain ⟨t, ht, htrace⟩ := reconvRes_empty (s := s.entered) (src := s.reads r g) (g := g.countWindows r.k) (top_eq_none hchip)
    (by rw [hsp]; rfl) hmerged haw hg1
  obtain ⟨t', g', hx, hg', hn, hm⟩ := jump_outcome hi (i := .reconv) rfl ht ((htrace.group? r.group).trans (group_setGroup_same hi.group))
  exact ⟨t', g', hx, hg', hn, ((sameMemory_setGroup s.entered r.group g1).trans htrace.sameMemory).trans hm⟩

/-- The group that RECONV of split `k` sees, with the count of its split restarted. -/
def Group.atReconvOf (g : Group) (k : Nat) : Group := (g.countWindows k).restartCount k

theorem split_atReconvOf {g : Group} {k : Nat} (hk : k < g.splits.length) : (g.atReconvOf k).split k = { g.split k with back := 0 } :=
  split_modSplit_same (g.countWindows k) (fun y => { y with back := 0 }) hk

theorem split_atReconvOf_other (g : Group) {k j : Nat} (hj : j ≠ k) : (g.atReconvOf k).split j = g.split j :=
  split_modSplit_other (g.countWindows k) _ hj

/-- No other split shares the stack state of the split. -/
theorem reconv_alone {s : State} {r : SplitRef} {g : Group} (hi : Issuing s r g) (hchip : (g.split r.k).div.chip = [])
    (hp : (g.atReconvOf r.k).peers r.k = []) :
    Jumps .reconv s r g (g.split r.k).nextHdr (g.split r.k).mask (g.split r.k).ret (g.split r.k).div (g.split r.k).loops := by
  have hk := split_lt hi.used
  obtain ⟨hmet, hrest⟩ := met_rest_of_none (g := g.atReconvOf r.k) (k := r.k) (fun i hm => absurd (hp ▸ hm) List.not_mem_nil)
  have hnone : (g.atReconvOf r.k).awaitsAt r.k ((g.atReconvOf r.k).metAt r.k) ((g.atReconvOf r.k).restAt r.k) = [] := by
    rw [hmet, hrest, awaitsAt_none, hp]
    rfl
  obtain ⟨t, g', hx, hg', hn, hm⟩ := reconv_empty (m := g.atReconvOf r.k) (k := r.k) hi hchip (congrArg _ hmet) hnone rfl
  have hgo : ((g.atReconvOf r.k).modSplit r.k (fun y => y.goto s.cycles (g.split r.k).nextHdr (g.split r.k).clauseYields)).split r.k =
      ({ g.split r.k with back := 0 } : Split).goto s.cycles (g.split r.k).nextHdr (g.split r.k).clauseYields := by
    rw [split_modSplit_same _ _ (by simpa [Group.atReconvOf, Group.restartCount] using hk), split_atReconvOf hk]
  have hj : JumpedTo s s g ((g.atReconvOf r.k).modSplit r.k (fun y => y.goto s.cycles (g.split r.k).nextHdr (g.split r.k).clauseYields))
      r.k (g.split r.k).nextHdr (g.split r.k).mask (g.split r.k).ret (g.split r.k).div (g.split r.k).loops := by
    refine ⟨⟨rfl, rfl, rfl, rfl, rfl, rfl, rfl, rfl, rfl, rfl, rfl⟩, rfl, rfl, ?_, ?_, ?_, ?_, ?_, ?_, ?_, fun j hj => ?_, SameMemory.refl s⟩
    case refine_8 => rw [split_modSplit_other _ _ hj, split_atReconvOf_other g hj]
    all_goals rw [hgo]; rfl
  exact ⟨t, g', hx, hg', hj.noted hn hm⟩

/-- Those that share it have not reached the RECONV. -/
theorem reconv_waits {s : State} {r : SplitRef} {g : Group} (hi : Issuing s r g) (hchip : (g.split r.k).div.chip = [])
    (hp : (g.atReconvOf r.k).peers r.k ≠ []) (hnone : ∀ i ∈ (g.atReconvOf r.k).peers r.k, (g.split i).atReconv (pcWord (g.split r.k).pc) = false) :
    Waits .reconv s r g (.reconv (pcWord (g.split r.k).pc) (((g.atReconvOf r.k).peers r.k).map (fun i => (i, 0)))) := by
  have hk := split_lt hi.used
  obtain ⟨hmet, hrest⟩ := met_rest_of_none (g := g.atReconvOf r.k) (k := r.k) (fun i hm => by
    rw [split_atReconvOf_other g (split_of_peer hm).1, split_atReconvOf hk]
    exact hnone i hm)
  have haw : (g.atReconvOf r.k).awaitsAt r.k ((g.atReconvOf r.k).metAt r.k) ((g.atReconvOf r.k).restAt r.k) =
      ((g.atReconvOf r.k).peers r.k).map (fun i => (i, 0)) := by
    rw [hmet, hrest, awaitsAt_none]
  obtain ⟨t, g', hx, hg', hn, -⟩ := reconv_empty (m := g.atReconvOf r.k) (k := r.k) hi hchip (congrArg _ hmet) haw (if_neg (by simpa using hp)).symm
  have hawait : ((g.atReconvOf r.k).modSplit r.k (fun y => y.await (.reconv (pcWord (g.split r.k).pc) (((g.atReconvOf r.k).peers r.k).map
      (fun i => (i, 0)))))).split r.k = ({ g.split r.k with back := 0 } : Split).await (.reconv (pcWord (g.split r.k).pc)
        (((g.atReconvOf r.k).peers r.k).map (fun i => (i, 0)))) := by
    rw [split_modSplit_same _ _ (by simpa [Group.atReconvOf, Group.restartCount] using hk), split_atReconvOf hk]
  obtain ⟨a, b, n, x, hsp⟩ := hn.split r.k
  refine ⟨t, g', hx, hg', hn.sameRegs ⟨rfl, rfl, rfl, rfl, rfl, rfl, rfl, rfl, rfl, rfl, rfl⟩, ?_, ?_, ?_, fun j hj => ?_⟩
  case refine_4 => rw [hn.other hj]; exact (split_modSplit_other _ _ hj).trans (split_atReconvOf_other g hj)
  all_goals rw [hsp, hawait]; rfl

/-- The one that shares it waits at the RECONV for this split alone: the two merge, and the survivor goes on. -/
theorem reconv_merges {s : State} {r : SplitRef} {g : Group} {j : Nat} (hi : Issuing s r g) (hchip : (g.split r.k).div.chip = [])
    (hp : (g.atReconvOf r.k).peers r.k = [j]) (hat : (g.split j).atReconv (pcWord (g.split r.k).pc) = true)
    (hmay : (g.atReconvOf r.k).mayMerge j r.k = true) (haw : ∀ a ∈ g.awaits j, a.1 = r.k ∨ a.1 = j) (hlen : g.splits.length = 4) :
    ∃ t g', exec .reconv s = .next t ∧ t.group? r.group = some g' ∧ g.SameRegs g' ∧ SameMemory s t ∧ (g'.split (max r.k j)).st = .free ∧
      (g'.split (min r.k j)).st = .ready ∧ (g'.split (min r.k j)).pc = (g.split r.k).nextHdr ∧
      (g'.split (min r.k j)).mask = (g.split r.k).mask ||| (g.split j).mask := by
  have hk := split_lt hi.used
  obtain ⟨hjk, hj4, -⟩ := split_of_peer (hp ▸ List.mem_singleton_self j)
  obtain ⟨hmet, hrest⟩ := met_rest_of_one hp (by rw [split_atReconvOf_other g hjk, split_atReconvOf hk]; exact hat) hmay
  have hnone : (g.atReconvOf r.k).awaitsAt r.k ((g.atReconvOf r.k).metAt r.k) ((g.atReconvOf r.k).restAt r.k) = [] := by
    rw [hmet, hrest]
    refine awaitsAt_one (fun a ha => haw a ?_)
    rw [Group.awaits, split_atReconvOf_other g hjk] at ha
    exact ha
  have hlen0 : (g.atReconvOf r.k).splits.length = 4 := by simpa [Group.atReconvOf, Group.restartCount] using hlen
  obtain ⟨t, g', hx, hg', hn, hm⟩ := reconv_empty (k := min r.k j) (g1 := ((g.atReconvOf r.k).mergedAt r.k j).modSplit (min r.k j) (fun y =>
    y.goto s.cycles (g.split r.k).nextHdr (g.split r.k).clauseYields)) hi hchip ((congrArg _ hmet).trans (mergeAt_one _ _ _)) hnone rfl
  have hk0 : r.k < (g.atReconvOf r.k).splits.length := by omega
  have hj0 : j < (g.atReconvOf r.k).splits.length := by omega
  have hmask := mask_mergedAt hk0 hj0 hjk
  rw [split_atReconvOf_other g hjk, split_atReconvOf hk] at hmask
  obtain ⟨a, b, n, x, hmin⟩ := hn.split (min r.k j)
  obtain ⟨a', b', n', x', hmax⟩ := hn.split (max r.k j)
  rw [split_modSplit_other _ _ (by omega), split_mergedAt_freed hk0 hj0 hjk] at hmax
  rw [split_modSplit_same _ _ (by rw [length_splits_mergedAt]; omega)] at hmin
  refine ⟨t, g', hx, hg', hn.sameRegs (SameRegs.trans (SameRegs.trans (sameRegs_restartCount g r.k)
    (sameRegs_mergedAt (g.atReconvOf r.k) r.k j)) (sameRegs_modSplit _ _ _)), hm, ?_, ?_, ?_, ?_⟩
  · rw [hmax]; rfl
  · rw [hmin]; rfl
  · rw [hmin]; rfl
  · rw [hmin]; exact hmask

/-- Settles O17: the split goes on alone, waits or merges by what its peers do, and with a path on its stack it exchanges with that path. -/
theorem reconverge : Obligations.Reconverge := by
  unfold Obligations.Reconverge
  intro s r g es e j hi sp x g0 peers waiting afterOf
  have hk : r.k < (g.countWindows r.k).splits.length := split_lt hi.used
  refine ⟨reconv_alone hi, reconv_waits hi, fun hchip hp hat hmay _ hlen haw => reconv_merges hi hchip hp hat hmay haw hlen,
    fun hchip hkind => ?_, fun hchip hkind hpc hes => ?_, fun hchip hkind hpc => ?_⟩
  all_goals have hdrop : (g.split r.k).div.chip.dropLast = es := by rw [show (g.split r.k).div.chip = _ from hchip, List.dropLast_concat]
  · exact reconv_path hi (top_eq_last hchip) _ (serialReconv_pending hkind) rfl (by rw [← hdrop]; rfl) rfl
  · exact reconv_path hi (top_eq_last hchip) _ (serialReconv_same hk hchip hes hkind hpc) rfl (by rw [← hdrop]; rfl) rfl
  · exact reconv_path hi (top_eq_last hchip) _ (serialReconv_waiting hkind hpc) rfl (by rw [← hdrop]; rfl) rfl

end Sys2Proof.Machine
end

section
/-! SUPPORT. A computed target that is no header address (R75, R78; log 43): the split that holds it halts there, and what the halt changes
besides. -/

namespace Sys2Proof.Machine

open Sys2Proof

/-! ## The halt of an instance spreads -/

/-- The group is the same but for the skids of its splits. -/
structure SkidsOnly (g h : Group) : Prop where
  regs   : g.SameRegs h
  trap   : h.trap = g.trap
  length : h.splits.length = g.splits.length
  split  : ∀ j, ∃ a n m, h.split j = { g.split j with skid := a, skidCyc := n, skidIns := m }

theorem SkidsOnly.refl (g : Group) : SkidsOnly g g := ⟨⟨rfl, rfl, rfl, rfl, rfl, rfl, rfl, rfl, rfl, rfl, rfl⟩, rfl, rfl, fun _ => ⟨_, _, _, rfl⟩⟩

theorem SkidsOnly.modSplit {g h : Group} (hs : SkidsOnly g h) (k : Nat) (a : Option (Nat × Nat)) (n m : Nat) :
    SkidsOnly g (h.modSplit k (fun x => { x with skid := a, skidCyc := n, skidIns := m })) := by
  refine ⟨{ hs.regs with }, hs.trap, (length_splits_modSplit _ _ _).trans hs.length, fun j => ?_⟩
  obtain ⟨b, p, q, hsp⟩ := hs.split j
  by_cases hj : j = k ∧ k < h.splits.length
  · obtain ⟨rfl, hk⟩ := hj
    exact ⟨a, n, m, by rw [split_modSplit_same _ _ hk, hsp]⟩
  · by_cases hk : j = k
    · rw [modSplit_of_le (Nat.le_of_not_lt fun hlt => hj ⟨hk, hlt⟩)]
      exact ⟨b, p, q, hsp⟩
    · rw [split_modSplit_other _ _ hk]
      exact ⟨b, p, q, hsp⟩

/-- A state in which the group `r` is `g` but for skids. -/
def SkidsFrom (g : Group) (r : GroupRef) (s : State) : Prop := ∃ h, s.group? r = some h ∧ SkidsOnly g h

theorem SkidsFrom.modSplit {g : Group} {r : GroupRef} {s : State} (h : SkidsFrom g r s) (x : SplitRef) (a : Option (Nat × Nat)) (n m : Nat) :
    SkidsFrom g r (s.modSplit x (fun y => { y with skid := a, skidCyc := n, skidIns := m })) := by
  obtain ⟨g1, hg, hs⟩ := h
  by_cases hx : r = x.group
  · subst hx
    refine ⟨_, ?_, hs.modSplit x.k a n m⟩
    rw [State.modSplit, group_modGroup_same, hg]
    rfl
  · exact ⟨g1, (group_modGroup_other s _ hx).trans hg, hs⟩

theorem SkidsFrom.foldl {g : Group} {r : GroupRef} {f : State → SplitRef → State} (hf : ∀ s x, SkidsFrom g r s → SkidsFrom g r (f s x))
    (l : List SplitRef) {s : State} (h : SkidsFrom g r s) : SkidsFrom g r (l.foldl f s) := by
  induction l generalizing s with
  | nil => exact h
  | cons x l ih => exact ih (hf s x h)

theorem skidsFrom_spreadHalt {s : State} {r : GroupRef} {g : Group} (hg : s.group? r = some g) (slot recNum inst : Nat) (lcid die : Option Nat)
    (seq : BitVec 32) : SkidsFrom g r (s.spreadHalt slot recNum inst lcid die seq) := by
  unfold State.spreadHalt
  split
  · exact ⟨g, hg, SkidsOnly.refl g⟩
  · next c hc =>
    refine SkidsFrom.foldl (fun t x ht => ?_) _ ⟨g, ?_, SkidsOnly.refl g⟩
    · split
      · exact ht
      · split
        · exact ht
        · exact ht.modSplit x _ 0 0
    · by_cases hs : r.slot = slot
      · subst hs
        rw [group?_of_ctx (ctx_setCtx_same hc), ← hg, group?_of_ctx hc]
        rfl
      · rw [← hg]
        simp only [State.group?, ctx_setCtx_other hs]

/-! ## TARGET halts its split -/

/-- Split `k` of `h` is that of `g`, halted at `pc`; no other split has halted or stopped being so, and the registers are the same. -/
structure HaltedAt (g h : Group) (k : Nat) (pc : DWord) : Prop where
  regs   : g.SameRegs h
  length : h.splits.length = g.splits.length
  here   : ∃ a b c d n m, h.split k =
    { g.split k with st := .halted, pc := pc, haltTick := a, skid := b, dskid := c, held := d, skidCyc := n, skidIns := m }
  others : ∀ j, j ≠ k → (h.split j).st = (g.split j).st

theorem group?_record (s : State) (slot : Nat) (a : RecordArgs) (r : GroupRef) : (s.record slot a).2.group? r = s.group? r := by
  simp only [State.group?, State.ctx, ctxs_record]

/-- The split halts in this tick. -/
def Split.halts (tick : Nat) (sp : Split) : Split := { sp with st := .halted, haltTick := tick, skid := none, dskid := none, held := none }

/-- A fatal cause that leaves the trap registers halts its split. -/
theorem fatal_eq {s : State} {r : SplitRef} {g : Group} {e : Exc} (hg : s.group? r.group = some g) (he : e.cause ≠ .bound) (m : Mask) (u n : Bool) :
    ∃ a seq die, s.fatal r m e u n = ((s.record r.slot a).2.modGroup r.group (fun g => (g.closeWindows r.k).modSplit r.k
      (Split.halts s.tickNow))).spreadHalt r.slot g.ctl.recNum g.ctl.ganginst (some r.lcid) (some die) seq := by
  simp only [State.fatal, hg, if_neg he]
  exact ⟨_, _, _, rfl⟩

theorem fatal_group {s : State} {r : SplitRef} {g : Group} {e : Exc} (hg : s.group? r.group = some g) (hk : r.k < g.splits.length)
    (he : e.cause ≠ .bound) (m : Mask) (u n : Bool) :
    ∃ h, (s.fatal r m e u n).group? r.group = some h ∧ HaltedAt g h r.k (g.split r.k).pc ∧ h.trap = g.trap := by
  obtain ⟨a, seq, die, hfatal⟩ := fatal_eq hg he m u n
  have hhalt : ((s.record r.slot a).2.modGroup r.group (fun g => (g.closeWindows r.k).modSplit r.k (Split.halts s.tickNow))).group? r.group =
      some ((g.closeWindows r.k).modSplit r.k (Split.halts s.tickNow)) := by
    rw [group_modGroup_same, group?_record, hg]
    rfl
  obtain ⟨h, hh, hskid⟩ := skidsFrom_spreadHalt hhalt r.slot g.ctl.recNum g.ctl.ganginst (some r.lcid) (some die) seq
  refine ⟨h, hfatal ▸ hh, ⟨{ hskid.regs with }, hskid.length.trans (length_splits_modSplit _ _ _), ?_, fun j hj => ?_⟩, hskid.trap⟩
  · obtain ⟨a, n, m, hsp⟩ := hskid.split r.k
    rw [split_modSplit_same (g.closeWindows r.k) _ hk] at hsp
    exact ⟨_, _, _, _, _, _, hsp⟩
  · obtain ⟨a, n, m, hsp⟩ := hskid.split j
    rw [split_modSplit_other _ _ hj] at hsp
    rw [hsp]
    rfl

/-- The group with TPC and TVAL, and the PC of the split, at the address of the set that the split holds, POS zero (R78). -/
def Group.atTarget (g : Group) (x : Nat × Way) : Group :=
  { g with trap := { g.trap with tpc := atPosZero x.2.pc, tval := atPosZero x.2.pc } }.modSplit x.1 (fun sp =>
    if sp.pc = x.2.pc then { sp with pc := atPosZero x.2.pc } else sp)

theorem split_atTarget {g : Group} {x : Nat × Way} (hk : x.1 < g.splits.length) : (g.atTarget x).split x.1 =
    { g.split x.1 with pc := if (g.split x.1).pc = x.2.pc then atPosZero x.2.pc else (g.split x.1).pc } := by
  have hmod : (g.atTarget x).split x.1 = if (g.split x.1).pc = x.2.pc then { g.split x.1 with pc := atPosZero x.2.pc } else g.split x.1 :=
    split_modSplit_same _ _ hk
  rw [hmod]
  split <;> rfl

/-- The split of `x` raises TARGET for the address of its set, unless it has halted. -/
def State.raiseTarget (r : SplitRef) (s : State) (x : Nat × Way) : State :=
  let rk : SplitRef := { r with k := x.1 }
  let s1 := s.modGroup r.group (fun g => g.atTarget x)
  if (s1.split? rk).any (fun sp => sp.st == .halted) then s else s1.raise s1 rk x.2.mask (Exc.at .target (atPosZero x.2.pc))

theorem halted_atTarget {s : State} {r : SplitRef} {g : Group} {x : Nat × Way} (hg : s.group? r.group = some g) (hk : x.1 < g.splits.length) :
    ((s.modGroup r.group (fun g => g.atTarget x)).split? { r with k := x.1 }).any (fun sp => sp.st == .halted) =
      ((g.split x.1).st == .halted) := by
  rw [State.split?, show ({ r with k := x.1 } : SplitRef).group = r.group from rfl, group_modGroup_same, hg]
  simp [split_atTarget hk]

theorem raiseTargets_eq (s : State) (r : SplitRef) (hs : List (Nat × Way)) :
    s.raiseTargets r hs = (hs.filter (fun x => pcPos x.2.pc != 0)).foldl (State.raiseTarget r) s := rfl

/-- Targets that are header addresses raise nothing. -/
theorem raiseTargets_headers {hs : List (Nat × Way)} (h : ∀ x ∈ hs, pcPos x.2.pc = 0) (s : State) (r : SplitRef) : s.raiseTargets r hs = s := by
  rw [raiseTargets_eq, List.filter_eq_nil_iff.2 (fun x hx => by simp [h x hx])]
  rfl

theorem raiseTarget_halted {s : State} {r : SplitRef} {g : Group} {x : Nat × Way} (hg : s.group? r.group = some g) (hk : x.1 < g.splits.length)
    (hst : (g.split x.1).st = .halted) : s.raiseTarget r x = s := if_pos (by rw [halted_atTarget hg hk, hst]; rfl)

theorem raiseTarget_group {s : State} {r : SplitRef} {g : Group} {x : Nat × Way} (hg : s.group? r.group = some g) (hk : x.1 < g.splits.length)
    (hst : (g.split x.1).st ≠ .halted) : ∃ h, (s.raiseTarget r x).group? r.group = some h ∧
      HaltedAt g h x.1 (if (g.split x.1).pc = x.2.pc then atPosZero x.2.pc else (g.split x.1).pc) ∧
      h.trap.tpc = atPosZero x.2.pc ∧ h.trap.tval = atPosZero x.2.pc := by
  let s1 := s.modGroup r.group (fun g => g.atTarget x)
  have hg1 : s1.group? r.group = some (g.atTarget x) := by
    rw [group_modGroup_same, hg]
    rfl
  have hraise : s.raiseTarget r x = s1.raise s1 { r with k := x.1 } x.2.mask (Exc.at .target (atPosZero x.2.pc)) :=
    if_neg (by simpa [halted_atTarget hg hk] using hst)
  obtain ⟨h, hh, hhalt, htrap⟩ := fatal_group (s := s1.remoteDone (.split { r with k := x.1 })) (r := { r with k := x.1 })
    (e := Exc.at .target (atPosZero x.2.pc)) hg1 (by simpa [Group.atTarget] using hk) (by simp [Exc.at]) x.2.mask false false
  refine ⟨h, hraise ▸ hh, ⟨{ hhalt.regs with }, hhalt.length.trans (length_splits_modSplit _ _ _), ?_, fun j hj => ?_⟩, ?_, ?_⟩
  · obtain ⟨a, b, c, d, n, m, hhere⟩ := hhalt.here
    exact ⟨a, b, c, d, n, m, by rw [hhere, split_atTarget hk]⟩
  · rw [hhalt.others j hj]
    exact congrArg Split.st (split_modSplit_other _ _ hj)
  · rw [htrap]; rfl
  · rw [htrap]; rfl

end Sys2Proof.Machine
end

section
/-! SUPPORT. Control transfers (R31, R35, R36): how the split that stays lands at its set's address, and the transfer as its parts. -/

namespace Sys2Proof.Machine

open Sys2Proof

/-! ## Groups that differ in what their splits wait for -/

/-- `h` is `g` but for what is in flight and what the waiting splits wait for. -/
structure SameButWaits (g h : Group) : Prop where
  regs   : g.SameRegs h
  trap   : h.trap = g.trap
  ctl    : h.ctl = g.ctl
  length : h.splits.length = g.splits.length
  split  : ∀ j, ∃ st, h.split j = { g.split j with st := st } ∧ ((∀ w, (g.split j).st ≠ .wait w) → st = (g.split j).st)

theorem SameButWaits.refl (g : Group) : SameButWaits g g :=
  ⟨⟨rfl, rfl, rfl, rfl, rfl, rfl, rfl, rfl, rfl, rfl, rfl⟩, rfl, rfl, rfl, fun _ => ⟨_, rfl, fun _ => rfl⟩⟩

theorem SameButWaits.trans {g h i : Group} (a : SameButWaits g h) (b : SameButWaits h i) : SameButWaits g i := by
  refine ⟨SameRegs.trans a.regs b.regs, b.trap.trans a.trap, b.ctl.trans a.ctl, b.length.trans a.length, fun j => ?_⟩
  obtain ⟨st, hst, hkeep⟩ := a.split j
  obtain ⟨st', hst', hkeep'⟩ := b.split j
  rw [hst] at hst' hkeep'
  exact ⟨st', hst', fun hw => (hkeep' (by rw [hkeep hw]; exact hw)).trans (hkeep hw)⟩

/-- A split that does not wait is the same. -/
theorem SameButWaits.split_eq {g h : Group} (hs : SameButWaits g h) {j : Nat} (hw : ∀ w, (g.split j).st ≠ .wait w) : h.split j = g.split j := by
  obtain ⟨st, hst, hkeep⟩ := hs.split j
  rw [hst, hkeep hw]

/-- Any split is the same but for its state. -/
theorem SameButWaits.split_ready {g h : Group} (hs : SameButWaits g h) (j : Nat) :
    { h.split j with st := .ready } = { g.split j with st := .ready } := by
  obtain ⟨st, hst, -⟩ := hs.split j
  rw [hst]

theorem sameButWaits_map (g : Group) {f : Split → Split} (hfree : f Split.freeEntry = Split.freeEntry)
    (hf : ∀ sp, ∃ st, f sp = { sp with st := st } ∧ ((∀ w, sp.st ≠ .wait w) → st = sp.st)) :
    SameButWaits g { g with splits := g.splits.map f } := by
  refine ⟨⟨rfl, rfl, rfl, rfl, rfl, rfl, rfl, rfl, rfl, rfl, rfl⟩, rfl, rfl, List.length_map f, fun j => ?_⟩
  obtain ⟨st, hst, hkeep⟩ := hf (g.split j)
  exact ⟨st, (regGet_map Split.freeEntry g.splits hfree j).trans hst, hkeep⟩

theorem sameButWaits_countForWaiters (g : Group) (k : Nat) : SameButWaits g (g.countForWaiters k) := by
  refine sameButWaits_map g rfl (fun sp => ?_)
  split
  · next h => exact ⟨_, rfl, fun hw => absurd h (hw _)⟩
  all_goals exact ⟨_, rfl, fun _ => rfl⟩

theorem sameButWaits_awaitChild (g : Group) (k k2 : Nat) : SameButWaits g (g.awaitChild k k2) := by
  refine sameButWaits_map g rfl (fun sp => ?_)
  split
  · next h =>
    split
    · exact ⟨_, rfl, fun hw => absurd h (hw _)⟩
    · exact ⟨_, rfl, fun _ => rfl⟩
  all_goals exact ⟨_, rfl, fun _ => rfl⟩

theorem sameButWaits_closeWindows (g : Group) (k : Nat) : SameButWaits g (g.closeWindows k) :=
  ⟨⟨rfl, rfl, rfl, rfl, rfl, rfl, rfl, rfl, rfl, rfl, rfl⟩, rfl, rfl, rfl, fun _ => ⟨_, rfl, fun _ => rfl⟩⟩

theorem SameButWaits.modSplit {g h : Group} (hs : SameButWaits g h) {k : Nat} (hw : ∀ w, (g.split k).st ≠ .wait w) (f : Split → Split) :
    SameButWaits (g.modSplit k f) (h.modSplit k f) := by
  refine ⟨{ hs.regs with }, hs.trap, hs.ctl, by simpa using hs.length, fun j => ?_⟩
  by_cases hj : j = k
  · subst hj
    by_cases hlt : j < g.splits.length
    · rw [split_modSplit_same _ _ hlt, split_modSplit_same _ _ (hs.length.symm ▸ hlt), hs.split_eq hw]
      exact ⟨_, rfl, fun _ => rfl⟩
    · rw [modSplit_of_le (Nat.le_of_not_lt hlt), modSplit_of_le (hs.length.symm ▸ Nat.le_of_not_lt hlt)]
      exact hs.split j
  · rw [split_modSplit_other _ _ hj, split_modSplit_other _ _ hj]
    exact hs.split j

/-! ## Landing -/

/-- The split with the lanes of its set, READY at the set's address. -/
def Split.landed (w : Way) (n now : Nat) (y : Bool) (sp : Split) : Split := ({ sp with mask := w.mask, back := n } : Split).goto now w.pc y

/-- The group once split `k` has landed: a backward branch is counted by those that wait, and a taken one closes the split's windows. -/
def Group.land (g : Group) (k now : Nat) (w : Way) (n : Nat) (y back taken : Bool) : Group :=
  let g1 := g.modSplit k (Split.landed w n now y)
  let g2 := if back then g1.countForWaiters k else g1
  if taken then g2.closeWindows k else g2

theorem sameButWaits_land (g : Group) (k now : Nat) (w : Way) (n : Nat) (y back taken : Bool) :
    SameButWaits (g.modSplit k (Split.landed w n now y)) (g.land k now w n y back taken) := by
  have hback : SameButWaits (g.modSplit k (Split.landed w n now y)) (if back then (g.modSplit k (Split.landed w n now y)).countForWaiters k
      else g.modSplit k (Split.landed w n now y)) := by
    split
    · exact sameButWaits_countForWaiters _ k
    · exact SameButWaits.refl _
  unfold Group.land
  dsimp only
  split
  · exact hback.trans (sameButWaits_closeWindows _ k)
  · exact hback

/-! ## Refinements -/

/-- The overrides that refinements write into a split. -/
def Split.refineWith (sp : Split) (refs : List (Nat × Caliper)) : Split :=
  refs.foldl (fun acc x => match x.2 with
    | none => acc
    | some _ => acc.setOverride x.1 x.2) sp

/-- The group calipers that refinements write. -/
def refineCals (cals : List Caliper) (refs : List (Nat × Caliper)) : List Caliper :=
  refs.foldl (fun acc x => match x.2 with
    | none => acc
    | some _ => regSet acc x.1 x.2) cals

theorem modSplit_self (g : Group) (k : Nat) : g.modSplit k (fun sp => sp) = g := by
  have hset : regSet g.splits k (g.split k) = g.splits := by
    by_cases hk : k < g.splits.length
    · rw [Group.split, regGet, List.getD_eq_getElem _ _ hk, regSet, List.set_getElem_self]
    · exact List.set_eq_of_length_le (Nat.le_of_not_lt hk)
  rw [Group.modSplit, Group.setSplit, hset]

theorem modSplit_twice (g : Group) (k : Nat) (a b : Split → Split) : (g.modSplit k a).modSplit k b = g.modSplit k (fun sp => b (a sp)) := by
  by_cases hk : k < g.splits.length
  · exact modSplit_modSplit g hk a b
  · rw [modSplit_of_le (Nat.le_of_not_lt hk), modSplit_of_le (Nat.le_of_not_lt hk), modSplit_of_le (Nat.le_of_not_lt hk)]

theorem refineAll_override (g : Group) (k : Nat) (refs : List (Nat × Caliper)) :
    g.refineAll k .override refs = g.modSplit k (fun sp => sp.refineWith refs) := by
  induction refs generalizing g with
  | nil => exact (modSplit_self g k).symm
  | cons x refs ih =>
    change (g.refine k x.1 .override x.2).refineAll k .override refs = _
    rw [ih]
    cases hx : x.2 with
    | none => simp only [Group.refine, Split.refineWith, List.foldl_cons, hx]
    | some iv => simp only [Group.refine, modSplit_twice, Split.refineWith, List.foldl_cons, hx]

theorem refineAll_groupCal (g : Group) (k : Nat) (refs : List (Nat × Caliper)) :
    g.refineAll k .groupCal refs = { g with cals := refineCals g.cals refs } := by
  induction refs generalizing g with
  | nil => rfl
  | cons x refs ih =>
    change (g.refine k x.1 .groupCal x.2).refineAll k .groupCal refs = _
    rw [ih]
    cases hx : x.2 with
    | none => simp only [Group.refine, refineCals, List.foldl_cons, hx]
    | some iv => simp only [Group.refine, refineCals, List.foldl_cons, hx]

/-- Refinements change the overrides of a split alone. -/
theorem refineWith_eq (sp : Split) (refs : List (Nat × Caliper)) : ∃ o, sp.refineWith refs = { sp with ovr := o } := by
  induction refs generalizing sp with
  | nil => exact ⟨_, rfl⟩
  | cons x refs ih =>
    simp only [Split.refineWith, List.foldl_cons]
    cases x.2 with
    | none => exact ih sp
    | some iv => exact ih (sp.setOverride x.1 (some iv))

/-! ## The parts of a transfer -/

/-- The branch of a transfer goes back (R34, R36). -/
def Transfer.isBack (t : Transfer) (sp : Split) (pc : DWord) : Bool :=
  t.counts && pc != sp.nextHdr && decide ((pcHdr pc).toNat ≤ (pcHdr sp.pc).toNat)

/-- The count of backward branches with that of the transfer. -/
def Transfer.count (t : Transfer) (sp : Split) (pc : DWord) : Nat := if t.isBack sp pc then sp.back + 1 else sp.back

/-- The group once the split that stays has landed with the lanes of `head`. -/
def Transfer.landed (t : Transfer) (g0 g : Group) (k now : Nat) (head : Way) (tail : List Way) : Group :=
  let sp := g0.split k
  let n := t.count sp head.pc
  g.land k now head (if n = 64 then 0 else n) sp.clauseYields (t.isBack sp head.pc) (t.took || !tail.isEmpty || head.pc != sp.nextHdr)

/-- The same with the refinements of every set, none where one is pushed. -/
def Transfer.refined (t : Transfer) (g : Group) (k : Nat) (new : List (Nat × Way)) (head : Way) (tail rest : List Way) : Group :=
  if rest.isEmpty then (new.foldl (fun acc x => acc.refineAll x.1 .override x.2.refs) g).refineAll k
    (if t.whole && tail.isEmpty then .groupCal else .override) head.refs
  else g

/-- A transfer whose set that stays has no effect of its own, once the other sets have found their places. -/
theorem transfer_eq {s s1 s2 : State} {cx : Cx} {g g1 g2 : Group} {k : Nat} {t : Transfer} {head : Way} {tail : List Way} {new : List (Nat × Way)}
    (hsort : sortBy (fun w : Way => w.pc.toNat) t.ways = head :: tail) (hnew : ((List.range 4).filter (fun j => !(g.split j).inUse)).zip tail = new)
    (hspawn : s.spawnAll cx k g new = .ok g1 s1)
    (hpush : s1.pushAll cx k (if t.redo then some (g.split k).pc else none) g1 (tail.drop new.length).reverse = .ok g2 s2)
    (hfix : head.fix = .none) :
    s.transfer cx g k t =
      let g3 := t.refined (t.landed g g2 k s2.cycles head tail) k new head tail (tail.drop new.length)
      let done (x : Group) (rot : Bool) (s : State) : MRes Moved := .ok ⟨x, (new.head?).map (fun y => y.1), !(tail.drop new.length).isEmpty, rot⟩ s
      if t.count (g.split k) head.pc = 64 && !((g3.split k).div.depth == 0) then
        (s2.rotate cx (g3.closeWindows k) k head.pc).bind (fun g4 s3 => done g4 true s3)
      else done g3 false s2 := by
  simp only [State.transfer, hsort, hnew, hspawn, hpush, hfix, MRes.bind, State.applyFix]
  rfl

/-- No path rotates before the 64th backward branch, or without others on the divergence stack. -/
theorem no_rotation {t : Transfer} {sp sp' : Split} {pc : DWord} (h : sp.back < 63 ∨ sp'.div.depth = 0) :
    (decide (t.count sp pc = 64) && !(sp'.div.depth == 0)) = false := by
  rcases h with h | h
  · have hne : t.count sp pc ≠ 64 := by
      unfold Transfer.count
      split <;> omega
    simp [hne]
  · simp [h]

end Sys2Proof.Machine
end

section
/-! SUPPORT. What an instruction that is a control transfer leaves, from what its transfer answers: where every target is a header address, where
that of its only set is none, and where one of several is none. -/

namespace Sys2Proof.Machine

open Sys2Proof

/-! ## Running a transfer -/

theorem traceOnly_traceRotation (s : State) (r : SplitRef) (pc : DWord) (hs : List (Nat × Way)) (m : Moved) :
    TraceOnly s (s.traceRotation r pc hs m) := by
  unfold State.traceRotation
  split
  · split
    · exact traceOnly_traceMask _ _ _ _ _ _ _
    · exact TraceOnly.refl s
  · exact TraceOnly.refl s

/-- A transfer that is carried out: packets are written, and the targets that are no header addresses are raised. -/
theorem runTransfer_ok {s s1 : State} {r : SplitRef} {g : Group} {t : Transfer} {post : State → Moved → State} {m : Moved}
    (hpost : ∀ s m, TraceOnly s (post s m)) (hx : s.transfer (s.cxOf r) g r.k t = .ok m s1) (hst : t.stored = false) :
    ∃ u, TraceOnly ((s1.remoteDone (.split r)).setGroup r.group m.g) u ∧
      runTransfer s r g t post = .jump (u.raiseTargets r (t.holders g r.k)) := by
  refine ⟨_, (hpost _ m).trans (traceOnly_traceRotation _ r (g.split r.k).pc (t.holders g r.k) m), ?_⟩
  simp only [runTransfer, hx, MRes.toRes, hst, Bool.false_eq_true, ↓reduceIte]

section
variable {i : Instr} {s s1 : State} {r : SplitRef} {g g1 : Group} {act : Group → Nat → Mask} {f : State → SplitRef → Group → Group → Res}
  {t : Transfer} {post : State → Moved → State} {m : Moved}

/-- An instruction of split `r.k` that runs the transfer `t`, and that transfer carried out with the group `m.g` in the state `s1`. -/
structure Transfers (i : Instr) (s s1 : State) (r : SplitRef) (g : Group) (act : Group → Nat → Mask) (f : State → SplitRef → Group → Group → Res)
    (t : Transfer) (post : State → Moved → State) (m : Moved) : Prop where
  issuing : Issuing s r g
  exec    : exec i s = runRes act f s
  runs    : f s.entered r (s.reads r g) (g.countWindows r.k) = runTransfer s.entered r (g.countWindows r.k) t post
  traces  : ∀ s m, TraceOnly s (post s m)
  stored  : t.stored = false
  done    : s.entered.transfer (s.entered.cxOf r) (g.countWindows r.k) r.k t = .ok m s1
  still   : ∃ g1, s1.group? r.group = some g1

/-- Every target is a header address. -/
theorem Transfers.headers (h : Transfers i s s1 r g act f t post m) (hh : ∀ x ∈ t.holders (g.countWindows r.k) r.k, pcPos x.2.pc = 0) :
    ∃ u g', Machine.exec i s = .next u ∧ u.group? r.group = some g' ∧ Noted m.g g' r.k ∧ SameMemory s1 u := by
  obtain ⟨u, hu, hrun⟩ := runTransfer_ok h.traces h.done h.stored
  rw [raiseTargets_headers hh] at hrun
  obtain ⟨g1, hg1⟩ := h.still
  have hset : ((s1.remoteDone (.split r)).setGroup r.group m.g).group? r.group = some m.g := group_setGroup_same (g := g1) hg1
  obtain ⟨u', g', hx, hg', hn, hm⟩ := jump_outcome h.issuing h.exec (h.runs.trans hrun) ((hu.group? r.group).trans hset)
  exact ⟨u', g', hx, hg', hn, ((sameMemory_setGroup (s1.remoteDone (.split r)) r.group m.g).trans hu.sameMemory).trans hm⟩

/-- The target of the only set is no header address: its split halts there. -/
theorem Transfers.bad (h : Transfers i s s1 r g act f t post m) {w : Way} (hh : t.holders (g.countWindows r.k) r.k = [(r.k, w)])
    (hpos : pcPos w.pc ≠ 0) (hk : r.k < m.g.splits.length) (hst : (m.g.split r.k).st = .ready) (hpc : (m.g.split r.k).pc = w.pc) :
    ∃ u h g', Machine.exec i s = .next u ∧ u.group? r.group = some g' ∧ Noted h g' r.k ∧ HaltedAt m.g h r.k (atPosZero w.pc) ∧
      h.trap.tpc = atPosZero w.pc ∧ h.trap.tval = atPosZero w.pc := by
  obtain ⟨u, hu, hrun⟩ := runTransfer_ok h.traces h.done h.stored
  obtain ⟨g1, hg1⟩ := h.still
  have hset : ((s1.remoteDone (.split r)).setGroup r.group m.g).group? r.group = some m.g := group_setGroup_same (g := g1) hg1
  have hone : u.raiseTargets r (t.holders (g.countWindows r.k) r.k) = u.raiseTarget r (r.k, w) := by
    rw [raiseTargets_eq, hh]
    simp [hpos]
  obtain ⟨h1, hg, hhalt, htpc, htval⟩ := raiseTarget_group (x := (r.k, w)) ((hu.group? r.group).trans hset) hk (by rw [hst]; simp)
  rw [if_pos hpc] at hhalt
  obtain ⟨u', g', hx, hg', hn, -⟩ := jump_outcome h.issuing h.exec (h.runs.trans hrun) (hone ▸ hg)
  exact ⟨u', h1, g', hx, hg', hn, hhalt, htpc, htval⟩

/-- A split that has halted stays so, and the one that raises halts. -/
theorem raiseTarget_halts {s : State} {r : SplitRef} {g : Group} {x : Nat × Way} (hg : s.group? r.group = some g) (hk : x.1 < g.splits.length) :
    ∃ h, (s.raiseTarget r x).group? r.group = some h ∧ h.splits.length = g.splits.length ∧ (h.split x.1).st = .halted ∧
      ∀ j, (g.split j).st = .halted → (h.split j).st = .halted := by
  by_cases hst : (g.split x.1).st = .halted
  · exact ⟨g, (raiseTarget_halted hg hk hst).symm ▸ hg, rfl, hst, fun _ hj => hj⟩
  · obtain ⟨h, hh, hhalt, -⟩ := raiseTarget_group hg hk hst
    obtain ⟨a, b, c, d, n, m, hhere⟩ := hhalt.here
    have hx : (h.split x.1).st = .halted := by rw [hhere]
    refine ⟨h, hh, hhalt.length, hx, fun j hj => ?_⟩
    by_cases hjx : j = x.1
    · rw [hjx]; exact hx
    · rw [hhalt.others j hjx]; exact hj

theorem raiseTargets_halt {r : SplitRef} (hs : List (Nat × Way)) {s : State} {g : Group} (hg : s.group? r.group = some g)
    (hk : ∀ x ∈ hs, x.1 < g.splits.length) : ∃ h, (s.raiseTargets r hs).group? r.group = some h ∧
      (∀ x ∈ hs, pcPos x.2.pc ≠ 0 → (h.split x.1).st = .halted) ∧ ∀ j, (g.split j).st = .halted → (h.split j).st = .halted := by
  induction hs generalizing s g with
  | nil => exact ⟨g, hg, fun x hx => absurd hx List.not_mem_nil, fun _ hj => hj⟩
  | cons y hs ih =>
    obtain ⟨hy, hrest⟩ := List.forall_mem_cons.1 hk
    by_cases hpos : pcPos y.2.pc = 0
    · have hskip : s.raiseTargets r (y :: hs) = s.raiseTargets r hs := by
        rw [raiseTargets_eq, raiseTargets_eq, List.filter_cons_of_neg (by simp [hpos])]
      obtain ⟨h, hh, hbad, hkeep⟩ := ih hg hrest
      refine ⟨h, hskip ▸ hh, fun x hx hp => ?_, hkeep⟩
      rcases List.mem_cons.1 hx with rfl | hx
      · exact absurd hpos hp
      · exact hbad x hx hp
    · have htake : s.raiseTargets r (y :: hs) = (s.raiseTarget r y).raiseTargets r hs := by
        rw [raiseTargets_eq, raiseTargets_eq, List.filter_cons_of_pos (by simp [hpos]), List.foldl_cons]
      obtain ⟨h1, hg1, hlen, hhalt, hkeep1⟩ := raiseTarget_halts hg hy
      obtain ⟨h, hh, hbad, hkeep⟩ := ih hg1 (fun x hx => hlen ▸ hrest x hx)
      refine ⟨h, htake ▸ hh, fun x hx hp => ?_, fun j hj => hkeep j (hkeep1 j hj)⟩
      rcases List.mem_cons.1 hx with rfl | hx
      · exact hkeep _ hhalt
      · exact hbad x hx hp

/-- A target of several sets is no header address: the split that holds it has halted. -/
theorem Transfers.someBad (h : Transfers i s s1 r g act f t post m) {x : Nat × Way} (hx : x ∈ t.holders (g.countWindows r.k) r.k)
    (hpos : pcPos x.2.pc ≠ 0) (hk : ∀ x ∈ t.holders (g.countWindows r.k) r.k, x.1 < m.g.splits.length) :
    ∃ u g', Machine.exec i s = .next u ∧ u.group? r.group = some g' ∧ (g'.split x.1).st = .halted := by
  obtain ⟨u, hu, hrun⟩ := runTransfer_ok h.traces h.done h.stored
  obtain ⟨g1, hg1⟩ := h.still
  have hset : ((s1.remoteDone (.split r)).setGroup r.group m.g).group? r.group = some m.g := group_setGroup_same (g := g1) hg1
  obtain ⟨h1, hg, hbad, -⟩ := raiseTargets_halt _ ((hu.group? r.group).trans hset) hk
  obtain ⟨u', g', hx', hg', hn, -⟩ := jump_outcome h.issuing h.exec (h.runs.trans hrun) hg
  obtain ⟨a, b, n, y, hsp⟩ := hn.split x.1
  refine ⟨u', g', hx', hg', ?_⟩
  rw [hsp]
  exact hbad x hx hpos

end

end Sys2Proof.Machine
end

section
/-! SUPPORT. The sets of a branch (R31): masks lane by lane, the lanes that are active, and the sets of BRA, BRC, CALL (two-way transfers) and of
BRX (a target in each lane). -/

namespace Sys2Proof.Machine

open Sys2Proof

/-! ## Masks -/

theorem testBit_sum (f : Nat → Bool) (n : Nat) :
    (List.range n).foldl (fun acc j => if f j then acc + 2 ^ j else acc) 0 < 2 ^ n ∧
      ∀ i, ((List.range n).foldl (fun acc j => if f j then acc + 2 ^ j else acc) 0).testBit i = (decide (i < n) && f i) := by
  induction n with
  | zero => exact ⟨by simp, fun i => by simp⟩
  | succ n ih =>
    obtain ⟨hlt, hbit⟩ := ih
    rw [List.range_succ, List.foldl_append]
    simp only [List.foldl_cons, List.foldl_nil]
    generalize (List.range n).foldl (fun acc j => if f j then acc + 2 ^ j else acc) 0 = x at hlt hbit
    have hpow : 2 ^ (n + 1) = 2 ^ n + 2 ^ n := by omega
    by_cases hf : f n
    · have hor : 2 ^ n + x = 2 ^ n ||| x := by simpa using Nat.two_pow_add_eq_or_of_lt hlt 1
      rw [if_pos hf, Nat.add_comm x, hor]
      refine ⟨Nat.or_lt_two_pow (Nat.pow_lt_pow_right (by omega) (by omega)) (by omega), fun i => ?_⟩
      rw [Nat.testBit_or, Nat.testBit_two_pow, hbit]
      by_cases hi : i = n
      · subst hi; simp [hf]
      · have hne : ¬n = i := fun h => hi h.symm
        have hle : (i < n + 1) = (i < n) := by simp only [eq_iff_iff]; omega
        simp [hne, hle]
    · rw [if_neg hf]
      refine ⟨by omega, fun i => ?_⟩
      rw [hbit]
      by_cases hi : i = n
      · subst hi; simp [hf]
      · have hle : (i < n + 1) = (i < n) := by simp only [eq_iff_iff]; omega
        simp [hle]

/-- A lane of the mask of a predicate. -/
theorem has_ofFn (f : Nat → Bool) {j : Nat} (h : j < 32) : Mask.has (Mask.ofFn f) j = f j := by
  have hbit := (testBit_sum f 32).2 j
  simp only [Mask.has, Mask.ofFn, laneIds, BitVec.getLsbD_ofNat, h, decide_true, Bool.true_and]
  simpa [h] using hbit

theorem has_and (a b : Mask) (j : Nat) : Mask.has (a &&& b) j = (Mask.has a j && Mask.has b j) := BitVec.getLsbD_and
theorem has_or (a b : Mask) (j : Nat) : Mask.has (a ||| b) j = (Mask.has a j || Mask.has b j) := BitVec.getLsbD_or
theorem has_not (a : Mask) {j : Nat} (h : j < 32) : Mask.has (~~~a) j = !Mask.has a j := by simp [Mask.has, h]

theorem mask_ext {a b : Mask} (h : ∀ j, j < 32 → Mask.has a j = Mask.has b j) : a = b := BitVec.eq_of_getLsbD_eq h

theorem mem_lanes {m : Mask} {j : Nat} : j ∈ m.lanes ↔ j < 32 ∧ Mask.has m j = true := by
  simp [Mask.lanes, laneIds]

theorem has_lt {m : Mask} {j : Nat} (h : Mask.has m j = true) : j < 32 := by
  by_contra hge
  rw [Mask.has, BitVec.getLsbD_of_ge _ _ (Nat.le_of_not_lt hge)] at h
  exact Bool.false_ne_true h

/-! ## What a branch reads -/

theorem splits_foldl {α : Type} {f : Group → α → Group} (h : ∀ g a, (f g a).splits = g.splits) (l : List α) (g : Group) :
    (l.foldl f g).splits = g.splits := by
  induction l generalizing g with
  | nil => rfl
  | cons a l ih => exact (ih _).trans (h g a)

theorem splits_seen (g : Group) (k d : Nat) : (g.seen k d).splits = g.splits := by
  refine splits_foldl (fun g p => ?_) _ g
  refine (splits_foldl (fun g u => ?_) _ _).trans (splits_foldl (f := seeVec d) (fun _ _ => rfl) p.vecs g)
  cases u with
  | s r x => simp only [seeUni]; split <;> rfl
  | q r x => simp only [seeUni]; split <;> simp

/-- The lanes of a split as its instruction reads them. -/
theorem mask_reads {s : State} {r : SplitRef} {g : Group} (hk : r.k < g.splits.length) : ((s.reads r g).split r.k).mask = (g.split r.k).mask := by
  have hseen : ((g.countWindows r.k).seen r.k s.freeCtr).split r.k = g.split r.k := by
    rw [Group.split, splits_seen]
    rfl
  have hmask : (((g.countWindows r.k).seen r.k s.freeCtr).split r.k).mask = (g.split r.k).mask := congrArg Split.mask hseen
  unfold State.reads Group.asHeld
  split
  · exact hmask
  · next h _ =>
    rw [split_modSplit_same]
    · exact hmask
    · change r.k < ((g.countWindows r.k).seen r.k s.freeCtr).splits.length
      rw [splits_seen]
      exact hk

/-- The active lanes are lanes of the split. -/
theorem active_and_mask {s : State} {r : SplitRef} {g : Group} (hk : r.k < g.splits.length) (gd : Guard) :
    (s.reads r g).active r.k gd &&& (g.split r.k).mask = (s.reads r g).active r.k gd := by
  rw [Group.active, mask_reads hk, BitVec.and_comm, ← BitVec.and_assoc, BitVec.and_self]

/-! ## Two-way transfers -/

theorem twoWays_all {sp : Split} {m : Mask} (hm : m = sp.mask) (h0 : sp.mask ≠ 0) (target : DWord) (fix : WayFix)
    (taken fall : List (Nat × Caliper)) : twoWays sp m target fix taken fall = [⟨target, sp.mask, fix, taken⟩] := by
  subst hm
  have hrest : sp.mask &&& ~~~sp.mask = 0 := by simp
  by_cases ht : target = sp.nextHdr
  · rw [twoWays, if_pos ht, if_neg h0, if_pos rfl]
  · rw [twoWays, if_neg ht, if_neg h0, if_pos hrest]
    rfl

theorem twoWays_none {sp : Split} {m : Mask} (hm : m = 0) (h0 : sp.mask ≠ 0) (target : DWord) (fix : WayFix)
    (taken fall : List (Nat × Caliper)) : twoWays sp m target fix taken fall = [⟨sp.nextHdr, sp.mask, .none, fall⟩] := by
  subst hm
  have hrest : sp.mask &&& ~~~(0 : Mask) = sp.mask := BitVec.and_allOnes
  by_cases ht : target = sp.nextHdr
  · rw [twoWays, if_pos ht, if_pos rfl, if_neg (Ne.symm h0), if_pos rfl, ht]
  · rw [twoWays, if_neg ht, if_pos rfl, hrest, if_neg h0]
    rfl

theorem twoWays_both {sp : Split} {m : Mask} {target : DWord} (hm : m ≠ 0) (hn : sp.mask &&& ~~~m ≠ 0) (ht : target ≠ sp.nextHdr) (fix : WayFix)
    (taken fall : List (Nat × Caliper)) : twoWays sp m target fix taken fall =
      [⟨target, m, fix, taken⟩, ⟨sp.nextHdr, sp.mask &&& ~~~m, .none, fall⟩] := by
  rw [twoWays, if_neg ht, if_neg hm, if_neg hn]
  rfl

/-! ## The sets of BRX -/

/-- The sets of the lanes of a list, each with its target. -/
def laneWays (f : Nat → DWord) (l : List Nat) : List Way := l.foldl (fun ws j => addLane j (f j) ws) []

/-- The lanes of a list for which `p` holds. -/
def maskOf (p : Nat → Bool) (l : List Nat) : Mask := Mask.ofFn (fun i => l.contains i && p i)

/-- The sets are those of the lanes with and of the lanes without `p`, in the order of their first lanes. -/
def TwoSets (p : Nat → Bool) (pc1 pc2 : DWord) (l : List Nat) (ws : List Way) : Prop :=
  (maskOf p l = 0 ∧ maskOf (fun j => !p j) l = 0 ∧ ws = []) ∨
    (maskOf p l ≠ 0 ∧ maskOf (fun j => !p j) l = 0 ∧ ws = [⟨pc1, maskOf p l, .none, []⟩]) ∨
    (maskOf p l = 0 ∧ maskOf (fun j => !p j) l ≠ 0 ∧ ws = [⟨pc2, maskOf (fun j => !p j) l, .none, []⟩]) ∨
    (maskOf p l ≠ 0 ∧ maskOf (fun j => !p j) l ≠ 0 ∧
      (ws = [⟨pc1, maskOf p l, .none, []⟩, ⟨pc2, maskOf (fun j => !p j) l, .none, []⟩] ∨
        ws = [⟨pc2, maskOf (fun j => !p j) l, .none, []⟩, ⟨pc1, maskOf p l, .none, []⟩]))

theorem maskOf_append_true {p : Nat → Bool} {j : Nat} (hp : p j = true) (l : List Nat) :
    maskOf p (l ++ [j]) = maskOf p l ||| Mask.ofFn (fun i => i == j) := by
  refine mask_ext (fun i hi => ?_)
  rw [has_or, maskOf, maskOf, has_ofFn _ hi, has_ofFn _ hi, has_ofFn _ hi]
  by_cases hij : i = j
  · subst hij; simp [hp]
  · simp [hij]

theorem maskOf_append_false {p : Nat → Bool} {j : Nat} (hp : p j = false) (l : List Nat) : maskOf p (l ++ [j]) = maskOf p l := by
  refine mask_ext (fun i hi => ?_)
  rw [maskOf, maskOf, has_ofFn _ hi, has_ofFn _ hi]
  by_cases hij : i = j
  · subst hij; simp [hp]
  · simp [hij]

theorem maskOf_append_ne {p : Nat → Bool} {j : Nat} (hp : p j = true) (hj : j < 32) (l : List Nat) : maskOf p (l ++ [j]) ≠ 0 := by
  intro h
  have hbit : Mask.has (maskOf p (l ++ [j])) j = true := by
    rw [maskOf, has_ofFn _ hj]
    simp [hp]
  rw [h] at hbit
  simp [Mask.has] at hbit

/-- One more lane, with `p`. -/
theorem TwoSets.addTrue {p : Nat → Bool} {pc1 pc2 : DWord} {l : List Nat} {ws : List Way} (h : TwoSets p pc1 pc2 l ws) (hne : pc1 ≠ pc2)
    {j : Nat} (hj : j < 32) (hp : p j = true) : TwoSets p pc1 pc2 (l ++ [j]) (addLane j pc1 ws) := by
  have hA := maskOf_append_true hp l
  have hA0 := maskOf_append_ne hp hj l
  have hB : maskOf (fun j => !p j) (l ++ [j]) = maskOf (fun j => !p j) l := maskOf_append_false (by simp [hp]) l
  have hne' : ¬pc2 = pc1 := fun h => hne h.symm
  unfold TwoSets
  rw [hB, hA] at *
  rcases h with ⟨ha, hb, rfl⟩ | ⟨ha, hb, rfl⟩ | ⟨ha, hb, rfl⟩ | ⟨ha, hb, rfl | rfl⟩
  · exact .inr (.inl ⟨hA0, hb, by simp [addLane, ha]⟩)
  · exact .inr (.inl ⟨hA0, hb, by simp [addLane]⟩)
  · exact .inr (.inr (.inr ⟨hA0, hb, .inr (by simp [addLane, hne', ha])⟩))
  · exact .inr (.inr (.inr ⟨hA0, hb, .inl (by simp [addLane])⟩))
  · exact .inr (.inr (.inr ⟨hA0, hb, .inr (by simp [addLane, hne'])⟩))

theorem TwoSets.swap {p : Nat → Bool} {pc1 pc2 : DWord} {l : List Nat} {ws : List Way} (h : TwoSets p pc1 pc2 l ws) :
    TwoSets (fun j => !p j) pc2 pc1 l ws := by
  have hp : (fun j => !!p j) = p := funext fun j => Bool.not_not (p j)
  unfold TwoSets at *
  rw [hp]
  rcases h with ⟨ha, hb, h⟩ | ⟨ha, hb, h⟩ | ⟨ha, hb, h⟩ | ⟨ha, hb, h | h⟩
  · exact .inl ⟨hb, ha, h⟩
  · exact .inr (.inr (.inl ⟨hb, ha, h⟩))
  · exact .inr (.inl ⟨hb, ha, h⟩)
  · exact .inr (.inr (.inr ⟨hb, ha, .inr h⟩))
  · exact .inr (.inr (.inr ⟨hb, ha, .inl h⟩))

theorem TwoSets.add {p : Nat → Bool} {pc1 pc2 : DWord} {l : List Nat} {ws : List Way} (h : TwoSets p pc1 pc2 l ws) (hne : pc1 ≠ pc2)
    {j : Nat} (hj : j < 32) : TwoSets p pc1 pc2 (l ++ [j]) (addLane j (if p j then pc1 else pc2) ws) := by
  cases hp : p j with
  | true => exact h.addTrue hne hj hp
  | false =>
    have hswap := (h.swap.addTrue hne.symm hj (by simp [hp])).swap
    rw [show (fun j => !!p j) = p from funext fun j => Bool.not_not (p j)] at hswap
    exact hswap

theorem twoSets_laneWays {p : Nat → Bool} {pc1 pc2 : DWord} (hne : pc1 ≠ pc2) {l : List Nat} (hl : ∀ j ∈ l, j < 32) {f : Nat → DWord}
    (hf : ∀ j ∈ l, f j = if p j then pc1 else pc2) : TwoSets p pc1 pc2 l (laneWays f l) := by
  induction l using List.reverseRecOn with
  | nil =>
    have hnil (q : Nat → Bool) : maskOf q [] = 0 := mask_ext (fun i hi => by rw [maskOf, has_ofFn _ hi]; simp [Mask.has])
    exact .inl ⟨hnil _, hnil _, rfl⟩
  | append_singleton l j ih =>
    have hstep : laneWays f (l ++ [j]) = addLane j (f j) (laneWays f l) := by simp [laneWays]
    rw [hstep, hf j (by simp)]
    exact (ih (fun i hi => hl i (by simp [hi])) (fun i hi => hf i (by simp [hi]))).add hne (hl j (by simp))

theorem maskOf_lanes (p : Nat → Bool) (m : Mask) : maskOf p m.lanes = m &&& Mask.ofFn p := by
  refine mask_ext (fun i hi => ?_)
  rw [maskOf, has_ofFn _ hi, has_and, has_ofFn _ hi]
  congr 1
  rw [Bool.eq_iff_iff, List.contains_iff_mem, mem_lanes]
  simp [hi]

/-- All lanes of a split have one target. -/
theorem laneWays_one {m : Mask} (hm : m ≠ 0) {f : Nat → DWord} {pc : DWord} (hf : ∀ j ∈ m.lanes, f j = pc) :
    laneWays f m.lanes = [⟨pc, m, .none, []⟩] := by
  have h := twoSets_laneWays (p := fun _ => true) (pc1 := pc) (pc2 := pc + 1) (by simp) (fun j hj => (mem_lanes.1 hj).1) (f := f)
    (fun j hj => by simpa using hf j hj)
  have hall : maskOf (fun _ => true) m.lanes = m := by
    rw [maskOf_lanes]
    refine mask_ext (fun i hi => ?_)
    rw [has_and, has_ofFn _ hi, Bool.and_true]
  have hnone : maskOf (fun _ => false) m.lanes = 0 := mask_ext (fun i hi => by rw [maskOf, has_ofFn _ hi]; simp [Mask.has])
  simp only [TwoSets, hall, Bool.not_true, hnone] at h
  rcases h with ⟨h0, -⟩ | ⟨-, -, h⟩ | ⟨h0, -⟩ | ⟨-, hn, -⟩
  · exact absurd h0 hm
  · exact h
  · exact absurd h0 hm
  · exact absurd rfl hn

/-- The lanes of `a` have one target, the others another: two sets, in one order or the other. -/
theorem laneWays_two {m a : Mask} (ha : a &&& m = a) (ha0 : a ≠ 0) (hn : m &&& ~~~a ≠ 0) {f : Nat → DWord} {pc1 pc2 : DWord} (hne : pc1 ≠ pc2)
    (hf : ∀ j ∈ m.lanes, f j = if Mask.has a j then pc1 else pc2) :
    laneWays f m.lanes = [⟨pc1, a, .none, []⟩, ⟨pc2, m &&& ~~~a, .none, []⟩] ∨
      laneWays f m.lanes = [⟨pc2, m &&& ~~~a, .none, []⟩, ⟨pc1, a, .none, []⟩] := by
  have h := twoSets_laneWays hne (fun j hj => (mem_lanes.1 hj).1) hf
  have hA : maskOf (fun j => Mask.has a j) m.lanes = a := by
    rw [maskOf_lanes]
    refine mask_ext (fun i hi => ?_)
    rw [has_and, has_ofFn _ hi, Bool.and_comm, ← has_and, ha]
  have hB : maskOf (fun j => !Mask.has a j) m.lanes = m &&& ~~~a := by
    rw [maskOf_lanes]
    refine mask_ext (fun i hi => ?_)
    rw [has_and, has_ofFn _ hi, has_and, has_not _ hi]
  simp only [TwoSets, hA, hB] at h
  rcases h with ⟨h0, -⟩ | ⟨-, h0, -⟩ | ⟨h0, -⟩ | ⟨-, -, h⟩
  · exact absurd h0 ha0
  · exact absurd h0 hn
  · exact absurd h0 ha0
  · exact h

end Sys2Proof.Machine
end

section
/-! SUPPORT. Transfers of one set, and of two: the other set in a free entry (R31), or on the divergence stack (R35). -/

namespace Sys2Proof.Machine

open Sys2Proof

/-! ## Landing, split by split -/

theorem not_wait_landed (w : Way) (n now : Nat) (y : Bool) (sp : Split) (x : Wait) : (sp.landed w n now y).st ≠ .wait x := by
  simp [Split.landed, Split.goto]

theorem split_land {g : Group} {k : Nat} (hk : k < g.splits.length) (now : Nat) (w : Way) (n : Nat) (y back taken : Bool) :
    (g.land k now w n y back taken).split k = (g.split k).landed w n now y := by
  have hsp : (g.modSplit k (Split.landed w n now y)).split k = (g.split k).landed w n now y := split_modSplit_same _ _ hk
  rw [(sameButWaits_land g k now w n y back taken).split_eq (fun x => by rw [hsp]; exact not_wait_landed w n now y _ x), hsp]

theorem split_land_other (g : Group) {k j : Nat} (hj : j ≠ k) (now : Nat) (w : Way) (n : Nat) (y back taken : Bool) :
    ∃ st, (g.land k now w n y back taken).split j = { g.split j with st := st } ∧ ((∀ x, (g.split j).st ≠ .wait x) → st = (g.split j).st) := by
  have h := (sameButWaits_land g k now w n y back taken).split j
  rw [split_modSplit_other _ _ hj] at h
  exact h

theorem length_land (g : Group) (k now : Nat) (w : Way) (n : Nat) (y back taken : Bool) :
    (g.land k now w n y back taken).splits.length = g.splits.length :=
  (sameButWaits_land g k now w n y back taken).length.trans (length_splits_modSplit _ _ _)

theorem sameRegs_land (g : Group) (k now : Nat) (w : Way) (n : Nat) (y back taken : Bool) : g.SameRegs (g.land k now w n y back taken) :=
  SameRegs.trans (sameRegs_modSplit g k _) (sameButWaits_land g k now w n y back taken).regs

theorem ovr_refineWith_congr {a b : Split} (h : a.ovr = b.ovr) (refs : List (Nat × Caliper)) : (a.refineWith refs).ovr = (b.refineWith refs).ovr := by
  induction refs generalizing a b with
  | nil => exact h
  | cons x refs ih =>
    simp only [Split.refineWith, List.foldl_cons]
    cases x.2 with
    | none => exact ih h
    | some iv => exact ih (by simp [Split.setOverride, h])

/-- Split `x` has the lanes of `w` at its address, with the stacks and loop levels of `sp`, and its overrides as `refs` refine them. -/
structure Landed (sp : Split) (w : Way) (refs : List (Nat × Caliper)) (x : Split) : Prop where
  st     : x.st = .ready
  clause : x.clause = none
  pc     : x.pc = w.pc
  mask   : x.mask = w.mask
  ret    : x.ret = sp.ret
  div    : x.div = sp.div
  loops  : x.loops = sp.loops
  ovr    : x.ovr = (sp.refineWith refs).ovr

theorem landed_refineWith {sp sp0 : Split} (hret : sp0.ret = sp.ret) (hdiv : sp0.div = sp.div) (hloops : sp0.loops = sp.loops)
    (hovr : sp0.ovr = sp.ovr) (w : Way) (n now : Nat) (y : Bool) (refs : List (Nat × Caliper)) :
    Landed sp w refs ((sp0.landed w n now y).refineWith refs) := by
  obtain ⟨o, ho⟩ := refineWith_eq (sp0.landed w n now y) refs
  have h : ((sp0.landed w n now y).refineWith refs).ovr = (sp.refineWith refs).ovr :=
    ovr_refineWith_congr (a := sp0.landed w n now y) hovr refs
  rw [ho] at h ⊢
  exact ⟨rfl, rfl, rfl, rfl, hret, hdiv, hloops, h⟩

/-- What counting the issue changes of a landed split is none of this. -/
theorem Landed.noted {g g' : Group} {k j : Nat} {sp : Split} {w : Way} {refs : List (Nat × Caliper)} (hn : Noted g g' k)
    (h : Landed sp w refs (g.split j)) : Landed sp w refs (g'.split j) := by
  obtain ⟨a, b, n, x, hsp⟩ := hn.split j
  rw [hsp]
  exact ⟨h.st, h.clause, h.pc, h.mask, h.ret, h.div, h.loops, h.ovr⟩

/-! ## One set -/

/-- The group after a transfer of one set. -/
def Transfer.one (t : Transfer) (g : Group) (k now : Nat) (w : Way) : Group :=
  (t.landed g g k now w []).refineAll k (if t.whole then .groupCal else .override) w.refs

theorem split_one {t : Transfer} {g : Group} {k now : Nat} {w : Way} (hk : k < g.splits.length) :
    Landed (g.split k) w (if t.whole then [] else w.refs) ((t.one g k now w).split k) := by
  have hland : (t.landed g g k now w []).split k = (g.split k).landed w (if t.count (g.split k) w.pc = 64 then 0 else t.count (g.split k) w.pc)
      now (g.split k).clauseYields := split_land hk _ _ _ _ _ _
  cases hw : t.whole with
  | true =>
    have hone : (t.one g k now w).split k = (t.landed g g k now w []).split k := by
      rw [Transfer.one, hw, if_pos rfl, refineAll_groupCal]
      rfl
    rw [hone, hland]
    exact landed_refineWith rfl rfl rfl rfl w _ _ _ []
  | false =>
    have hlen : k < (t.landed g g k now w []).splits.length := (length_land _ _ _ _ _ _ _ _).symm ▸ hk
    have hone : (t.one g k now w).split k = ((t.landed g g k now w []).split k).refineWith w.refs := by
      rw [Transfer.one, hw, if_neg Bool.false_ne_true, refineAll_override, split_modSplit_same _ _ hlen]
    rw [hone, hland]
    exact landed_refineWith rfl rfl rfl rfl w _ _ _ w.refs

theorem cals_one (t : Transfer) (g : Group) (k now : Nat) (w : Way) :
    (t.one g k now w).cals = if t.whole then refineCals g.cals w.refs else g.cals := by
  have hland : (t.landed g g k now w []).cals = g.cals := (sameRegs_land _ _ _ _ _ _ _ _).cals
  cases hw : t.whole with
  | true => rw [Transfer.one, hw, if_pos rfl, refineAll_groupCal, if_pos rfl, ← hland]
  | false =>
    rw [Transfer.one, hw, if_neg Bool.false_ne_true, refineAll_override, if_neg Bool.false_ne_true, ← hland]
    rfl

/-- The group is otherwise as it was, but for what waiting splits wait for. -/
theorem frame_one (t : Transfer) (g : Group) (k now : Nat) (w : Way) :
    ({ g with cals := (t.one g k now w).cals } : Group).SameRegs (t.one g k now w) ∧ (t.one g k now w).trap = g.trap ∧
      (t.one g k now w).ctl = g.ctl ∧ (t.one g k now w).splits.length = g.splits.length ∧
      ∀ j, j ≠ k → { (t.one g k now w).split j with st := .ready } = { g.split j with st := .ready } := by
  have hregs : g.SameRegs (t.landed g g k now w []) := sameRegs_land _ _ _ _ _ _ _ _
  have hsame := sameButWaits_land g k now w (if t.count (g.split k) w.pc = 64 then 0 else t.count (g.split k) w.pc) (g.split k).clauseYields
    (t.isBack (g.split k) w.pc) (t.took || !([] : List Way).isEmpty || w.pc != (g.split k).nextHdr)
  have hothers : ∀ j, j ≠ k → { (t.landed g g k now w []).split j with st := .ready } = { g.split j with st := .ready } := fun j hj => by
    obtain ⟨st, hst, -⟩ := split_land_other g hj now w (if t.count (g.split k) w.pc = 64 then 0 else t.count (g.split k) w.pc)
      (g.split k).clauseYields (t.isBack (g.split k) w.pc) (t.took || !([] : List Way).isEmpty || w.pc != (g.split k).nextHdr)
    rw [Transfer.landed, hst]
  cases hw : t.whole with
  | true =>
    rw [Transfer.one, hw, if_pos rfl, refineAll_groupCal]
    exact ⟨{ hregs with cals := rfl }, hsame.trap, hsame.ctl, hsame.length.trans (length_splits_modSplit _ _ _), hothers⟩
  | false =>
    rw [Transfer.one, hw, if_neg Bool.false_ne_true, refineAll_override]
    refine ⟨{ hregs with cals := rfl }, hsame.trap, hsame.ctl, ?_, fun j hj => ?_⟩
    · rw [length_splits_modSplit]
      exact hsame.length.trans (length_splits_modSplit _ _ _)
    · rw [split_modSplit_other _ _ hj]
      exact hothers j hj

theorem transfer_one {s : State} {cx : Cx} {g : Group} {k : Nat} {t : Transfer} {w : Way} (hw : t.ways = [w]) (hfix : w.fix = .none)
    (hk : k < g.splits.length) (hrot : (g.split k).back < 63 ∨ (g.split k).div.depth = 0) :
    s.transfer cx g k t = .ok ⟨t.one g k s.cycles w, none, false, false⟩ s := by
  have hone : t.refined (t.landed g g k s.cycles w []) k [] w [] [] = t.one g k s.cycles w := by
    simp only [Transfer.refined, Transfer.one, List.isEmpty_nil, ↓reduceIte, List.foldl_nil, Bool.and_true]
  have hsplit : (g.split k).back < 63 ∨ ((t.one g k s.cycles w).split k).div.depth = 0 := by
    rw [(split_one hk).div]
    exact hrot
  rw [transfer_eq (head := w) (tail := []) (new := []) (g1 := g) (s1 := s) (g2 := g) (s2 := s) (by rw [hw]; rfl) (List.zip_nil_right) rfl rfl hfix]
  simp only [List.drop_nil, hone, no_rotation hsplit, Bool.false_eq_true, ↓reduceIte, List.head?_nil, Option.map_none, List.isEmpty_nil, Bool.not_true]

theorem holders_one {t : Transfer} {w : Way} (hw : t.ways = [w]) (g : Group) (k : Nat) : t.holders g k = [(k, w)] := by
  simp [Transfer.holders, hw, sortBy, insertBy]

/-! ## Two sets -/

/-- The sets of a transfer are two, at different addresses. -/
structure Transfer.Two (t : Transfer) (a b : Way) : Prop where
  ways : t.ways = [a, b] ∨ t.ways = [b, a]
  apart : a.pc ≠ b.pc
  fixes : a.fix = .none ∧ b.fix = .none

theorem Transfer.Two.symm {t : Transfer} {a b : Way} (h : t.Two a b) : t.Two b a := ⟨h.ways.symm, h.apart.symm, h.fixes.symm⟩

/-- The lower address comes first. -/
theorem Transfer.Two.sort {t : Transfer} {a b : Way} (h : t.Two a b) (hle : a.pc.toNat ≤ b.pc.toNat) :
    sortBy (fun w : Way => w.pc.toNat) t.ways = [a, b] := by
  have hlt : ¬b.pc.toNat ≤ a.pc.toNat := fun hge => h.apart (BitVec.eq_of_toNat_eq (Nat.le_antisymm hle hge))
  rcases h.ways with hw | hw <;> simp [hw, sortBy, insertBy, hle, hlt]

/-! ## A free entry takes the other set -/

/-- The split that takes the set of `w` from `sp`. -/
def Split.childOf (sp : Split) (w : Way) (now : Nat) : Split := ({ sp with exempt := false, replay := false } : Split).landed w 0 now false

/-- The group with a new split `k2`, a copy of split `k` with the lanes of `w`. -/
def Group.child (g : Group) (k k2 now : Nat) (w : Way) : Group :=
  let g1 := (g.modSplit k2 (fun _ => (g.split k).childOf w now)).awaitChild k k2
  if g1.trap.inHandler && g1.inFamily k then { g1 with trap := { g1.trap with family := g1.trap.family ||| BitVec.ofNat 4 (2 ^ k2) } } else g1

theorem spawn_ok {s s0 s1 : State} {cx : Cx} {g : Group} {k k2 : Nat} {w : Way} (h0 : s.copySpill cx g k k2 false = .ok () s0)
    (h1 : s0.copySpill cx g k k2 true = .ok () s1) (hfix : w.fix = .none) : s.spawn cx g k k2 w = .ok (g.child k k2 s1.cycles w) s1 := by
  simp only [State.spawn, h0, h1, MRes.bind, hfix, State.applyFix]
  rfl

theorem splits_child (g : Group) (k k2 now : Nat) (w : Way) :
    (g.child k k2 now w).splits = ((g.modSplit k2 (fun _ => (g.split k).childOf w now)).awaitChild k k2).splits := by
  unfold Group.child
  dsimp only
  split <;> rfl

theorem split_child (g : Group) (k k2 now : Nat) (w : Way) (j : Nat) :
    (g.child k k2 now w).split j = ((g.modSplit k2 (fun _ => (g.split k).childOf w now)).awaitChild k k2).split j := by
  simp only [Group.split, splits_child]

theorem child_frame (g : Group) (k k2 now : Nat) (w : Way) : g.SameRegs (g.child k k2 now w) ∧
    (g.child k k2 now w).splits.length = g.splits.length := by
  have h := sameButWaits_awaitChild (g.modSplit k2 (fun _ => (g.split k).childOf w now)) k k2
  refine ⟨?_, ?_⟩
  · unfold Group.child
    dsimp only
    split
    · exact { h.regs with }
    · exact { h.regs with }
  · rw [splits_child]
    exact h.length.trans (length_splits_modSplit _ _ _)

theorem split_child_new {g : Group} {k2 : Nat} (hk : k2 < g.splits.length) (k now : Nat) (w : Way) :
    (g.child k k2 now w).split k2 = (g.split k).childOf w now := by
  have hsp : (g.modSplit k2 (fun _ => (g.split k).childOf w now)).split k2 = (g.split k).childOf w now := split_modSplit_same g _ hk
  rw [split_child, (sameButWaits_awaitChild _ k k2).split_eq (fun x => by rw [hsp]; exact not_wait_landed w 0 now false _ x), hsp]

theorem split_child_other (g : Group) {k2 j : Nat} (hj : j ≠ k2) (k now : Nat) (w : Way) :
    ∃ st, (g.child k k2 now w).split j = { g.split j with st := st } := by
  obtain ⟨st, hst, -⟩ := (sameButWaits_awaitChild (g.modSplit k2 (fun _ => (g.split k).childOf w now)) k k2).split j
  rw [split_modSplit_other _ _ hj] at hst
  exact ⟨st, (split_child g k k2 now w j).trans hst⟩

/-- The group after a transfer that divides its split: the lower set `a` stays. -/
def Transfer.divided (t : Transfer) (g : Group) (k k2 now : Nat) (a b : Way) : Group :=
  ((t.landed g (g.child k k2 now b) k now a [b]).refineAll k2 .override b.refs).refineAll k .override a.refs

section
variable {t : Transfer} {g : Group} {k k2 now : Nat} {a b : Way}

theorem split_divided_stays (hk : k < g.splits.length) (hne : k ≠ k2) : Landed (g.split k) a a.refs ((t.divided g k k2 now a b).split k) := by
  obtain ⟨st, hst⟩ := split_child_other g hne k now b
  have hlen : k < (g.child k k2 now b).splits.length := (child_frame g k k2 now b).2.symm ▸ hk
  have hlen' : k < (t.landed g (g.child k k2 now b) k now a [b]).splits.length := (length_land _ _ _ _ _ _ _ _).symm ▸ hlen
  have hland := split_land hlen now a (if t.count (g.split k) a.pc = 64 then 0 else t.count (g.split k) a.pc) (g.split k).clauseYields
    (t.isBack (g.split k) a.pc) (t.took || !([b] : List Way).isEmpty || a.pc != (g.split k).nextHdr)
  rw [Transfer.divided, refineAll_override, refineAll_override, split_modSplit_same _ _ (by simpa using hlen'), split_modSplit_other _ _ hne,
    Transfer.landed, hland, hst]
  exact landed_refineWith rfl rfl rfl rfl a _ _ _ a.refs

theorem split_divided_new (hk2 : k2 < g.splits.length) (hne : k ≠ k2) : Landed (g.split k) b b.refs ((t.divided g k k2 now a b).split k2) := by
  have hlen : k2 < (g.child k k2 now b).splits.length := (child_frame g k k2 now b).2.symm ▸ hk2
  have hlen' : k2 < (t.landed g (g.child k k2 now b) k now a [b]).splits.length := (length_land _ _ _ _ _ _ _ _).symm ▸ hlen
  obtain ⟨st, hst, hkeep⟩ := split_land_other (g.child k k2 now b) hne.symm now a
    (if t.count (g.split k) a.pc = 64 then 0 else t.count (g.split k) a.pc) (g.split k).clauseYields
    (t.isBack (g.split k) a.pc) (t.took || !([b] : List Way).isEmpty || a.pc != (g.split k).nextHdr)
  rw [split_child_new hk2] at hst hkeep
  rw [hkeep (not_wait_landed b 0 now false _)] at hst
  rw [Transfer.divided, refineAll_override, refineAll_override, split_modSplit_other _ _ hne.symm, split_modSplit_same _ _ hlen', Transfer.landed, hst]
  exact landed_refineWith rfl rfl rfl rfl b 0 now false b.refs

theorem divided_frame (t : Transfer) (g : Group) (k k2 now : Nat) (a b : Way) : g.SameRegs (t.divided g k k2 now a b) ∧
    (t.divided g k k2 now a b).splits.length = g.splits.length ∧
      ∀ j, j ≠ k → j ≠ k2 → { (t.divided g k k2 now a b).split j with st := .ready } = { g.split j with st := .ready } := by
  obtain ⟨hregs, hlen⟩ := child_frame g k k2 now b
  rw [Transfer.divided, refineAll_override, refineAll_override]
  refine ⟨SameRegs.trans (SameRegs.trans (SameRegs.trans hregs (sameRegs_land _ _ _ _ _ _ _ _)) (sameRegs_modSplit _ _ _)) (sameRegs_modSplit _ _ _),
    ?_, fun j hj hj2 => ?_⟩
  · rw [length_splits_modSplit, length_splits_modSplit]
    exact (length_land _ _ _ _ _ _ _ _).trans hlen
  · rw [split_modSplit_other _ _ hj, split_modSplit_other _ _ hj2]
    obtain ⟨st, hst⟩ := split_child_other g hj2 k now b
    obtain ⟨st', hst', -⟩ := split_land_other (g.child k k2 now b) hj now a
      (if t.count (g.split k) a.pc = 64 then 0 else t.count (g.split k) a.pc) (g.split k).clauseYields
      (t.isBack (g.split k) a.pc) (t.took || !([b] : List Way).isEmpty || a.pc != (g.split k).nextHdr)
    rw [Transfer.landed, hst', hst]

end

/-- The lowest free entry comes first. -/
theorem free_entries {g : Group} {k2 : Nat} (hsmall : k2 < 4) (hfree : (g.split k2).st = .free) (hlow : ∀ j, j < k2 → (g.split j).st ≠ .free) :
    ∃ l, (List.range 4).filter (fun j => !(g.split j).inUse) = k2 :: l := by
  obtain ⟨l, hl⟩ : ∃ l, List.range 4 = List.range k2 ++ k2 :: l := by
    interval_cases k2 <;> exact ⟨_, rfl⟩
  have hnone : (List.range k2).filter (fun j => !(g.split j).inUse) = [] := by
    rw [List.filter_eq_nil_iff]
    intro j hj
    simpa [Split.inUse] using hlow j (List.mem_range.1 hj)
  rw [hl, List.filter_append, hnone, List.nil_append, List.filter_cons_of_pos (by simp [Split.inUse, hfree])]
  exact ⟨_, rfl⟩

section
variable {s s0 s1 : State} {cx : Cx} {g : Group} {k k2 : Nat} {t : Transfer} {a b : Way}

theorem transfer_divides (h : t.Two a b) (hle : a.pc.toNat ≤ b.pc.toNat) (hk : k < g.splits.length) (hne : k ≠ k2) (hk2 : k2 < 4)
    (hfree : (g.split k2).st = .free) (hlow : ∀ j, j < k2 → (g.split j).st ≠ .free) (h0 : s.copySpill cx g k k2 false = .ok () s0)
    (h1 : s0.copySpill cx g k k2 true = .ok () s1) (hrot : (g.split k).back < 63 ∨ (g.split k).div.depth = 0) :
    s.transfer cx g k t = .ok ⟨t.divided g k k2 s1.cycles a b, some k2, false, false⟩ s1 := by
  obtain ⟨l, hl⟩ := free_entries hk2 hfree hlow
  have hspawn : s.spawnAll cx k g [(k2, b)] = .ok (g.child k k2 s1.cycles b) s1 := by
    simp only [State.spawnAll, spawn_ok h0 h1 h.fixes.2, MRes.bind]
  have hdiv : t.refined (t.landed g (g.child k k2 s1.cycles b) k s1.cycles a [b]) k [(k2, b)] a [b] [] = t.divided g k k2 s1.cycles a b := by
    simp only [Transfer.refined, Transfer.divided, List.isEmpty_nil, ↓reduceIte, List.foldl_cons, List.foldl_nil, List.isEmpty_cons, Bool.and_false,
      Bool.false_eq_true]
  have hrot' : (g.split k).back < 63 ∨ ((t.divided g k k2 s1.cycles a b).split k).div.depth = 0 := by
    rw [(split_divided_stays hk hne).div]
    exact hrot
  rw [transfer_eq (head := a) (tail := [b]) (new := [(k2, b)]) (h.sort hle) (by rw [hl, List.zip_cons_cons, List.zip_nil_right]) hspawn rfl h.fixes.1]
  simp only [List.length_cons, List.length_nil, List.drop_succ_cons, List.drop_nil, hdiv, no_rotation hrot', Bool.false_eq_true, ↓reduceIte,
    List.head?_cons, Option.map_some, List.isEmpty_nil, Bool.not_true]

theorem holders_divides (h : t.Two a b) (hle : a.pc.toNat ≤ b.pc.toNat) (hk2 : k2 < 4) (hfree : (g.split k2).st = .free)
    (hlow : ∀ j, j < k2 → (g.split j).st ≠ .free) : t.holders g k = [(k, a), (k2, b)] := by
  obtain ⟨l, hl⟩ := free_entries hk2 hfree hlow
  simp [Transfer.holders, h.sort hle, hl]

/-! ## The divergence stack takes the other set -/

/-- The entry of a pushed set. -/
def pushedEntry (redo : Bool) (sp : Split) (w : Way) : StackEntry := ⟨if redo then sp.pc else w.pc, w.mask, .pending⟩

/-- A split with one more entry on its divergence stack. -/
def Split.pushDiv (sp : Split) (e : StackEntry) : Split := { sp with div := { sp.div with chip := sp.div.chip ++ [e], depth := sp.div.depth + 1 } }

theorem push_div {e : StackEntry} (hchip : (g.split k).div.chip.length < 8) (hdepth : (g.split k).div.depth < 1024) :
    s.push cx g k true e = .ok (g.modSplit k (fun sp => { sp with div :=
      { (g.split k).div with chip := (g.split k).div.chip ++ [e], depth := (g.split k).div.depth + 1 } })) s := by
  simp only [State.push, Split.stack, Split.setStack, ↓reduceIte, if_neg (Nat.not_le.2 hdepth), if_pos hchip]

/-- The group after a transfer that pushes the higher set `b`. -/
def Transfer.pushed (t : Transfer) (g : Group) (k now : Nat) (a b : Way) : Group :=
  t.landed g (g.modSplit k (fun sp => { sp with div := ((g.split k).pushDiv (pushedEntry t.redo (g.split k) b)).div })) k now a [b]

theorem no_free_entry (h : ∀ j, j < 4 → (g.split j).st ≠ .free) : (List.range 4).filter (fun j => !(g.split j).inUse) = [] := by
  rw [List.filter_eq_nil_iff]
  intro j hj
  simpa [Split.inUse] using h j (List.mem_range.1 hj)

theorem transfer_pushes (h : t.Two a b) (hle : a.pc.toNat ≤ b.pc.toNat) (hfull : FullTable g k) (hrot : (g.split k).back < 63) :
    s.transfer cx g k t = .ok ⟨t.pushed g k s.cycles a b, none, true, false⟩ s := by
  obtain ⟨hused, hchip, hdepth⟩ := hfull
  have hpush : s.pushAll cx k (if t.redo then some (g.split k).pc else none) g [b] = .ok (g.modSplit k (fun sp =>
      { sp with div := ((g.split k).pushDiv (pushedEntry t.redo (g.split k) b)).div })) s := by
    have hentry : (⟨(if t.redo then some (g.split k).pc else none).getD b.pc, b.mask, .pending⟩ : StackEntry) = pushedEntry t.redo (g.split k) b := by
      unfold pushedEntry
      split <;> rfl
    simp only [State.pushAll, hentry, push_div hchip hdepth, MRes.bind]
    rfl
  rw [transfer_eq (head := a) (tail := [b]) (new := []) (h.sort hle) (by rw [no_free_entry hused]; rfl) rfl hpush h.fixes.1]
  simp only [List.length_nil, List.drop_zero, no_rotation (.inl hrot), Bool.false_eq_true, ↓reduceIte, List.head?_nil, Option.map_none,
    List.isEmpty_cons, Bool.not_false, Transfer.refined]
  rfl

theorem holders_pushes (h : t.Two a b) (hle : a.pc.toNat ≤ b.pc.toNat) (hused : ∀ j, j < 4 → (g.split j).st ≠ .free) :
    t.holders g k = [(k, a), (k, b)] := by
  simp [Transfer.holders, h.sort hle, no_free_entry hused]

theorem split_pushed (hk : k < g.splits.length) (now : Nat) :
    Landed ((g.split k).pushDiv (pushedEntry t.redo (g.split k) b)) a [] ((t.pushed g k now a b).split k) := by
  rw [Transfer.pushed, Transfer.landed, split_land (by simpa using hk), split_modSplit_same _ _ hk]
  exact landed_refineWith (refs := []) rfl rfl rfl rfl a _ _ _

theorem pushed_frame (t : Transfer) (g : Group) (k now : Nat) (a b : Way) : g.SameRegs (t.pushed g k now a b) ∧ (t.pushed g k now a b).trap = g.trap ∧
    (t.pushed g k now a b).ctl = g.ctl ∧ (t.pushed g k now a b).splits.length = g.splits.length ∧
      ∀ j, j ≠ k → { (t.pushed g k now a b).split j with st := .ready } = { g.split j with st := .ready } := by
  have hland := sameButWaits_land (g.modSplit k (fun sp => { sp with div := ((g.split k).pushDiv (pushedEntry t.redo (g.split k) b)).div })) k now a
    (if t.count (g.split k) a.pc = 64 then 0 else t.count (g.split k) a.pc) (g.split k).clauseYields
    (t.isBack (g.split k) a.pc) (t.took || !([b] : List Way).isEmpty || a.pc != (g.split k).nextHdr)
  refine ⟨{ hland.regs with }, hland.trap, hland.ctl, ?_, fun j hj => ?_⟩
  · exact hland.length.trans (by simp)
  · have h := hland.split_ready j
    rw [split_modSplit_other _ _ hj, split_modSplit_other _ _ hj] at h
    exact h

end

end Sys2Proof.Machine
end

section
/-! SUPPORT. Instructions that run a transfer, by what its sets are: one for every lane, two of which one finds a free entry or a place on the
divergence stack, and the 64th backward branch of a path with others (R31, R35, R36). -/

namespace Sys2Proof.Machine

open Sys2Proof

/-- At `s`, instruction `i` of split `r.k` is the transfer `t`. -/
def RunsTransfer (i : Instr) (s : State) (r : SplitRef) (g : Group) (t : Transfer) : Prop :=
  ∃ (act : Group → Nat → Mask) (f : State → SplitRef → Group → Group → Res) (post : State → Moved → State), exec i s = runRes act f s ∧
    f s.entered r (s.reads r g) (g.countWindows r.k) = runTransfer s.entered r (g.countWindows r.k) t post ∧
    (∀ s m, TraceOnly s (post s m)) ∧ t.stored = false

theorem sameRegs_countWindows (g : Group) (k : Nat) : g.SameRegs (g.countWindows k) :=
  ⟨rfl, rfl, rfl, rfl, rfl, rfl, rfl, rfl, rfl, rfl, rfl⟩

section
variable {i : Instr} {s s1 : State} {r : SplitRef} {g : Group} {t : Transfer}

theorem RunsTransfer.transfers (h : RunsTransfer i s r g t) (hi : Issuing s r g) {m : Moved} (hdone : s.entered.transfer (s.entered.cxOf r)
    (g.countWindows r.k) r.k t = .ok m s1) (hstill : s1.group? r.group = some g) :
    ∃ act f post, Transfers i s s1 r g act f t post m := by
  obtain ⟨act, f, post, hx, hruns, htr, hst⟩ := h
  exact ⟨act, f, post, ⟨hi, hx, hruns, htr, hst, hdone, g, hstill⟩⟩

/-! ## One set -/

/-- What a transfer of the one set `w` leaves of its group, and where its address is one of a header, of the state. -/
structure OneSet (s u : State) (g g' : Group) (k : Nat) (t : Transfer) (w : Way) : Prop where
  regs  : ({ g with cals := g'.cals } : Group).SameRegs g'
  cals  : g'.cals = if t.whole then refineCals g.cals w.refs else g.cals
  mask  : (g'.split k).mask = w.mask
  ret   : (g'.split k).ret = (g.split k).ret
  div   : (g'.split k).div = (g.split k).div
  loops : (g'.split k).loops = (g.split k).loops
  ovr   : (g'.split k).ovr = ((g.split k).refineWith (if t.whole then [] else w.refs)).ovr
  here  : pcPos w.pc = 0 → (g'.split k).pc = w.pc ∧ (g'.split k).st = .ready ∧ (g'.split k).clause = none ∧ g'.trap = g.trap ∧ g'.ctl = g.ctl ∧
    (∀ j, j ≠ k → { g'.split j with st := .ready } = { g.split j with st := .ready }) ∧ SameMemory s u
  bad   : pcPos w.pc ≠ 0 → (g'.split k).pc = atPosZero w.pc ∧ (g'.split k).st = .halted ∧ g'.trap.tpc = atPosZero w.pc ∧
    g'.trap.tval = atPosZero w.pc

theorem RunsTransfer.one (h : RunsTransfer i s r g t) (hi : Issuing s r g) {w : Way} (hw : t.ways = [w]) (hfix : w.fix = .none)
    (hrot : (g.split r.k).back < 63 ∨ (g.split r.k).div.depth = 0) :
    ∃ u g', exec i s = .next u ∧ u.group? r.group = some g' ∧ OneSet s u g g' r.k t w := by
  have hk : r.k < (g.countWindows r.k).splits.length := split_lt hi.used
  obtain ⟨act, f, post, htr⟩ := h.transfers hi (transfer_one (s := s.entered) (cx := s.entered.cxOf r) hw hfix hk hrot) hi.group
  have hland : Landed (g.split r.k) w (if t.whole then [] else w.refs) ((t.one (g.countWindows r.k) r.k s.entered.cycles w).split r.k) := split_one hk
  have hcals : (t.one (g.countWindows r.k) r.k s.entered.cycles w).cals = if t.whole then refineCals g.cals w.refs else g.cals := cals_one _ _ _ _ _
  obtain ⟨hregs, htrap, hctl, hlen, hothers⟩ := frame_one t (g.countWindows r.k) r.k s.entered.cycles w
  by_cases hpos : pcPos w.pc = 0
  · obtain ⟨u, g', hx, hg', hn, hm⟩ := htr.headers (by rw [holders_one hw]; simpa using hpos)
    have hsp := hland.noted hn
    have hregs' := hn.sameRegs hregs
    have hoth : ∀ j, j ≠ r.k → { g'.split j with st := .ready } = { g.split j with st := .ready } := fun j hj => by
      rw [hn.other hj]
      exact hothers j hj
    obtain ⟨φ, rfl, -⟩ := hn
    exact ⟨u, _, hx, hg', { hregs' with }, hcals, hsp.mask, hsp.ret, hsp.div, hsp.loops, hsp.ovr,
      fun _ => ⟨hsp.pc, hsp.st, hsp.clause, htrap, hctl, hoth, hm⟩, fun hne => absurd hpos hne⟩
  · obtain ⟨u, h1, g', hx, hg', hn, hhalt, htpc, htval⟩ := htr.bad (holders_one hw _ _) hpos (hlen.symm ▸ hk) hland.st hland.pc
    have hregs' := hn.sameRegs (SameRegs.trans hregs hhalt.regs)
    have hcals' : g'.cals = (t.one (g.countWindows r.k) r.k s.entered.cycles w).cals := (hn.sameRegs hhalt.regs).cals
    obtain ⟨a, b, c, d, n, m, hhere⟩ := hhalt.here
    obtain ⟨a', b', n', x', hsp⟩ := hn.split r.k
    rw [hhere] at hsp
    obtain ⟨φ, rfl, -⟩ := hn
    refine ⟨u, _, hx, hg', ⟨{ hregs' with cals := rfl }, hcals'.trans hcals, ?_, ?_, ?_, ?_, ?_, fun hp => absurd hp hpos, fun _ => ⟨?_, ?_, htpc, htval⟩⟩⟩
    all_goals rw [hsp]
    · exact hland.mask
    · exact hland.ret
    · exact hland.div
    · exact hland.loops
    · exact hland.ovr

/-- Every lane goes to one address, and nothing is refined. -/
theorem RunsTransfer.lands (h : RunsTransfer i s r g t) (hi : Issuing s r g) {pc : DWord} (hw : t.ways = [⟨pc, (g.split r.k).mask, .none, []⟩])
    (hrot : (g.split r.k).back < 63 ∨ (g.split r.k).div.depth = 0) :
    if pcPos pc = 0 then Jumps i s r g pc (g.split r.k).mask (g.split r.k).ret (g.split r.k).div (g.split r.k).loops
    else BadTarget i s r g pc := by
  obtain ⟨u, g', hx, hg', hone⟩ := h.one hi hw rfl hrot
  have hcals : g'.cals = g.cals := hone.cals.trans (by split <;> rfl)
  have hregs : g.SameRegs g' := { hone.regs with cals := hcals }
  by_cases hpos : pcPos pc = 0
  · rw [if_pos hpos]
    obtain ⟨hpc, hst, hcl, htrap, hctl, hoth, hm⟩ := hone.here hpos
    exact ⟨u, g', hx, hg', ⟨hregs, htrap, hctl, hpc, hst, hcl, hone.mask, hone.ret, hone.div, hone.loops, hoth, hm⟩⟩
  · rw [if_neg hpos]
    obtain ⟨hpc, hst, htpc, htval⟩ := hone.bad hpos
    exact ⟨u, g', hx, hg', hregs, hst, hpc, hone.mask, htpc, htval⟩

/-! ## Two sets -/

/-- The lanes of `m` go to `target`, the others to the next header. -/
def sideOn (m : Mask) (target : DWord) (refs : List (Nat × Caliper)) : Way := ⟨target, m, .none, refs⟩
def sideOff (sp : Split) (m : Mask) (refs : List (Nat × Caliper)) : Way := ⟨sp.nextHdr, sp.mask &&& ~~~m, .none, refs⟩

/-- The transfer divides its split; the set `a` of the lower address stays. -/
theorem RunsTransfer.divided (h : RunsTransfer i s r g t) (hi : Issuing s r g) {a b : Way} (htwo : t.Two a b) (hle : a.pc.toNat ≤ b.pc.toNat)
    {k2 : Nat} (hsp : Splits s s1 r g k2) (hrot : (g.split r.k).back < 63 ∨ (g.split r.k).div.depth = 0) :
    (pcPos a.pc = 0 → pcPos b.pc = 0 → ∃ u g', exec i s = .next u ∧ u.group? r.group = some g' ∧ SameMemory s1 u ∧ g.SameRegs g' ∧
      (∀ j, j ≠ r.k → j ≠ k2 → { g'.split j with st := .ready } = { g.split j with st := .ready }) ∧
      Landed (g.split r.k) a a.refs (g'.split r.k) ∧ Landed (g.split r.k) b b.refs (g'.split k2)) ∧
    (pcPos a.pc ≠ 0 ∨ pcPos b.pc ≠ 0 → ∃ u g', exec i s = .next u ∧ u.group? r.group = some g' ∧
      ((g'.split r.k).st = .halted ∨ (g'.split k2).st = .halted)) := by
  have hk : r.k < (g.countWindows r.k).splits.length := split_lt hi.used
  have hk2 : k2 < (g.countWindows r.k).splits.length := lt_of_lt_of_eq hsp.small hsp.table.symm
  have hne : r.k ≠ k2 := fun he => hi.used (he ▸ hsp.free)
  obtain ⟨s0, h0, h1⟩ := hsp.copied
  obtain ⟨act, f, post, htr⟩ := h.transfers hi (transfer_divides htwo hle hk hne hsp.small hsp.free hsp.lowest h0 h1 hrot) hsp.group
  have hhold : t.holders (g.countWindows r.k) r.k = [(r.k, a), (k2, b)] := holders_divides htwo hle hsp.small hsp.free hsp.lowest
  obtain ⟨hregs, hlen, hoth⟩ := divided_frame t (g.countWindows r.k) r.k k2 s1.cycles a b
  constructor
  · intro ha hb
    obtain ⟨u, g', hx, hg', hn, hm⟩ := htr.headers (by rw [hhold]; simp [ha, hb])
    have hstays : Landed (g.split r.k) a a.refs ((t.divided (g.countWindows r.k) r.k k2 s1.cycles a b).split r.k) :=
      split_divided_stays (g := g.countWindows r.k) hk hne
    have hnew : Landed (g.split r.k) b b.refs ((t.divided (g.countWindows r.k) r.k k2 s1.cycles a b).split k2) :=
      split_divided_new (g := g.countWindows r.k) hk2 hne
    have hothers : ∀ j, j ≠ r.k → j ≠ k2 → { g'.split j with st := .ready } = { g.split j with st := .ready } := by
      intro j hj hj2
      rw [hn.other hj]
      exact hoth j hj hj2
    have hsame : g.SameRegs g' := SameRegs.trans (sameRegs_countWindows g r.k) (hn.sameRegs hregs)
    exact ⟨u, g', hx, hg', hm, hsame, hothers, Landed.noted hn hstays, Landed.noted hn hnew⟩
  · intro hbad
    have hlt : ∀ x ∈ t.holders (g.countWindows r.k) r.k, x.1 < (t.divided (g.countWindows r.k) r.k k2 s1.cycles a b).splits.length := by
      rw [hhold, hlen]
      intro x hx
      rcases List.mem_pair.1 hx with rfl | rfl
      · exact hk
      · exact hk2
    rcases hbad with ha | hb
    · obtain ⟨u, g', hx, hg', hst⟩ := htr.someBad (x := (r.k, a)) (by rw [hhold]; simp) ha hlt
      exact ⟨u, g', hx, hg', .inl hst⟩
    · obtain ⟨u, g', hx, hg', hst⟩ := htr.someBad (x := (k2, b)) (by rw [hhold]; simp) hb hlt
      exact ⟨u, g', hx, hg', .inr hst⟩

theorem RunsTransfer.dividesTo (h : RunsTransfer i s r g t) (hi : Issuing s r g) {m : Mask} {target : DWord} {on off : List (Nat × Caliper)}
    (htwo : t.Two (sideOn m target on) (sideOff (g.split r.k) m off)) {k2 : Nat} (hsp : Splits s s1 r g k2)
    (hrot : (g.split r.k).back < 63 ∨ (g.split r.k).div.depth = 0) {also : Split → Split → Prop}
    (halso : ∀ x y : Split, x.ovr = ((g.split r.k).refineWith on).ovr → y.ovr = ((g.split r.k).refineWith off).ovr → also x y) :
    DividesTo i s s1 r g k2 m target (g.split r.k).ret also := by
  by_cases hle : target.toNat ≤ (g.split r.k).nextHdr.toNat
  · obtain ⟨hgood, hbad⟩ := h.divided hi htwo hle hsp hrot
    refine ⟨fun ha hb => ?_, hbad⟩
    obtain ⟨u, g', hx, hg', hm, hregs, hoth, hon, hoff⟩ := hgood ha hb
    refine ⟨u, g', hx, hg', hm, hregs, hoth, ?_⟩
    simp only [if_pos hle]
    exact ⟨⟨hon.st, hon.clause, hon.pc, hon.mask, hon.ret, hon.div, hon.loops⟩,
      ⟨hoff.st, hoff.clause, hoff.pc, hoff.mask, hoff.ret, hoff.div, hoff.loops⟩, halso _ _ hon.ovr hoff.ovr⟩
  · obtain ⟨hgood, hbad⟩ := h.divided hi htwo.symm (Nat.le_of_not_le hle) hsp hrot
    refine ⟨fun ha hb => ?_, fun hne => hbad hne.symm⟩
    obtain ⟨u, g', hx, hg', hm, hregs, hoth, hoff, hon⟩ := hgood hb ha
    refine ⟨u, g', hx, hg', hm, hregs, hoth, ?_⟩
    simp only [if_neg hle]
    exact ⟨⟨hon.st, hon.clause, hon.pc, hon.mask, hon.ret, hon.div, hon.loops⟩,
      ⟨hoff.st, hoff.clause, hoff.pc, hoff.mask, hoff.ret, hoff.div, hoff.loops⟩, halso _ _ hon.ovr hoff.ovr⟩

/-- With every entry in use the set `b` of the higher address goes to the divergence stack. -/
theorem RunsTransfer.pushed (h : RunsTransfer i s r g t) (hi : Issuing s r g) {a b : Way} (htwo : t.Two a b) (hle : a.pc.toNat ≤ b.pc.toNat)
    (hfull : FullTable g r.k) (hrot : (g.split r.k).back < 63) :
    (pcPos a.pc = 0 → pcPos b.pc = 0 → ∃ u g', exec i s = .next u ∧ u.group? r.group = some g' ∧ (g'.split r.k).ovr = (g.split r.k).ovr ∧
      JumpedTo s u g g' r.k a.pc a.mask (g.split r.k).ret ((g.split r.k).pushDiv (pushedEntry t.redo (g.split r.k) b)).div (g.split r.k).loops) ∧
    (pcPos a.pc ≠ 0 ∨ pcPos b.pc ≠ 0 → ∃ u g', exec i s = .next u ∧ u.group? r.group = some g' ∧ (g'.split r.k).st = .halted) := by
  have hk : r.k < (g.countWindows r.k).splits.length := split_lt hi.used
  have hfull' : FullTable (g.countWindows r.k) r.k := hfull
  obtain ⟨act, f, post, htr⟩ := h.transfers hi (transfer_pushes (s := s.entered) (cx := s.entered.cxOf r) htwo hle hfull' hrot) hi.group
  have hhold : t.holders (g.countWindows r.k) r.k = [(r.k, a), (r.k, b)] := holders_pushes htwo hle hfull.1
  obtain ⟨hregs, htrap, hctl, hlen, hoth⟩ := pushed_frame t (g.countWindows r.k) r.k s.entered.cycles a b
  have hland : Landed ((g.split r.k).pushDiv (pushedEntry t.redo (g.split r.k) b)) a []
      ((t.pushed (g.countWindows r.k) r.k s.entered.cycles a b).split r.k) := split_pushed hk _
  constructor
  · intro ha hb
    obtain ⟨u, g', hx, hg', hn, hm⟩ := htr.headers (by rw [hhold]; simp [ha, hb])
    have hj : JumpedTo s s g (t.pushed (g.countWindows r.k) r.k s.entered.cycles a b) r.k a.pc a.mask (g.split r.k).ret
        ((g.split r.k).pushDiv (pushedEntry t.redo (g.split r.k) b)).div (g.split r.k).loops :=
      ⟨{ hregs with }, htrap, hctl, hland.pc, hland.st, hland.clause, hland.mask, hland.ret, hland.div, hland.loops, hoth, SameMemory.refl s⟩
    exact ⟨u, g', hx, hg', (hland.noted hn).ovr, hj.noted hn hm⟩
  · intro hbad
    have hlt : ∀ x ∈ t.holders (g.countWindows r.k) r.k, x.1 < (t.pushed (g.countWindows r.k) r.k s.entered.cycles a b).splits.length := by
      rw [hhold, hlen]
      intro x hx
      rcases List.mem_pair.1 hx with rfl | rfl
      · exact hk
      · exact hk
    rcases hbad with ha | hb
    · exact htr.someBad (x := (r.k, a)) (by rw [hhold]; simp) ha hlt
    · exact htr.someBad (x := (r.k, b)) (by rw [hhold]; simp) hb hlt

theorem RunsTransfer.pushes (h : RunsTransfer i s r g t) (hi : Issuing s r g) {m : Mask} {target : DWord} {on off : List (Nat × Caliper)}
    (htwo : t.Two (sideOn m target on) (sideOff (g.split r.k) m off)) (hredo : t.redo = false) (hfull : FullTable g r.k)
    (hrot : (g.split r.k).back < 63) :
    (pcPos target = 0 → pcPos (g.split r.k).nextHdr = 0 → Pushes i s r g m target false (g.split r.k).ret (g.split r.k).loops) ∧
      (pcPos target ≠ 0 ∨ pcPos (g.split r.k).nextHdr ≠ 0 →
        ∃ u g', exec i s = .next u ∧ u.group? r.group = some g' ∧ (g'.split r.k).st = .halted) := by
  by_cases hle : target.toNat ≤ (g.split r.k).nextHdr.toNat
  · obtain ⟨hgood, hbad⟩ := h.pushed hi htwo hle hfull hrot
    refine ⟨fun ha hb => ?_, hbad⟩
    obtain ⟨u, g', hx, hg', hovr, hj⟩ := hgood ha hb
    refine ⟨u, g', hx, hg', hovr, ?_⟩
    simp only [if_pos hle]
    simpa [pushedEntry, hredo, Split.pushDiv, sideOn, sideOff] using hj
  · obtain ⟨hgood, hbad⟩ := h.pushed hi htwo.symm (Nat.le_of_not_le hle) hfull hrot
    refine ⟨fun ha hb => ?_, fun hne => hbad hne.symm⟩
    obtain ⟨u, g', hx, hg', hovr, hj⟩ := hgood hb ha
    refine ⟨u, g', hx, hg', hovr, ?_⟩
    simp only [if_neg hle]
    simpa [pushedEntry, hredo, Split.pushDiv, sideOn, sideOff] using hj

end

end Sys2Proof.Machine
end

section
/-! SUPPORT. The rotation of serial paths (R36): the 64th backward branch puts its path at the bottom of the divergence stack, and the top one goes
on. -/

namespace Sys2Proof.Machine

open Sys2Proof

/-- The path of `e`, from the top of its split's divergence stack, goes on. -/
def Split.takePath (e : StackEntry) (sp : Split) : Split :=
  { sp with div := sp.div.dropTop, pc := e.resumePc, mask := e.mask, ovr := [], back := 0 }

theorem rotate_of_insert {s s1 : State} {cx : Cx} {g g1 : Group} {k : Nat} {pc : DWord} {es : List StackEntry} {e : StackEntry}
    (h : s.insertBottom cx g k ⟨pc, (g.split k).mask, .pending⟩ = .ok g1 s1) (hk : k < g1.splits.length)
    (hchip : (g1.split k).div.chip = es ++ [e]) (hes : es ≠ []) :
    s.rotate cx g k pc = .ok (g1.modSplit k (Split.takePath e)) s1 := by
  have htop : (g1.split k).top true = some e := by
    simp only [Split.top, Split.stack, ↓reduceIte, hchip, List.getLast?_concat]
  simp only [State.rotate, h, MRes.bind, htop, pop_div_of_chip hk hchip (.inl hes), modSplit_twice]
  rfl

section
variable {s s1 : State} {cx : Cx} {g : Group} {k : Nat} {e : StackEntry}

theorem insertBottom_chip (h8 : (g.split k).div.chip.length < 8) (hd : (g.split k).div.depth ≤ (g.split k).div.chip.length) :
    s.insertBottom cx g k e = .ok (g.modSplit k (fun sp => { sp with div :=
      { (g.split k).div with chip := e :: (g.split k).div.chip, depth := (g.split k).div.depth + 1 } })) s := by
  have h0 : (g.split k).div.spilled = 0 := Nat.sub_eq_zero_of_le hd
  simp [State.insertBottom, h8, h0]

theorem insertBottom_slot (h : 8 ≤ (g.split k).div.chip.length ∨ (g.split k).div.chip.length < (g.split k).div.depth)
    (hw : s.spillWrite cx (spillAddr g k true (((g.split k).div.bot + 1023) % 1024)) (entryBytes e) = .ok () s1) :
    s.insertBottom cx g k e = .ok (g.newTag.modSplit k (fun sp => { sp with div :=
      { (g.split k).div with depth := (g.split k).div.depth + 1, bot := ((g.split k).div.bot + 1023) % 1024, tag := g.ctl.spillCnt + 1 } })) s1 := by
  have hno : ((decide ((g.split k).div.chip.length < 8)) && (g.split k).div.spilled == 0) = false := by
    rcases h with h | h
    · simp [Nat.not_lt.2 h]
    · have : (g.split k).div.spilled ≠ 0 := Nat.sub_ne_zero_of_lt h
      simp [this]
  simp only [State.insertBottom, hno, Bool.false_eq_true, ↓reduceIte, hw]
  rfl

end

/-- Where the path of `e` goes on, seen from a group that differs in what waits, what is in flight and its controls alone. -/
theorem jumpedTo_takePath {s : State} {g g0 : Group} {k : Nat} {c : GroupCtl} {d : Stack} {e : StackEntry} {w : Way} {refs : List (Nat × Caliper)}
    (hk : k < g0.splits.length) (hregs : g.SameRegs g0) (htrap : g0.trap = g.trap) (hctl : g0.ctl = c) (h : Landed (g.split k) w refs (g0.split k))
    (hothers : ∀ j, j ≠ k → { g0.split j with st := .ready } = { g.split j with st := .ready }) :
    JumpedTo s s { g with ctl := c } ((g0.modSplit k (fun sp => { sp with div := d })).modSplit k (Split.takePath e)) k e.resumePc e.mask
      (g.split k).ret d.dropTop (g.split k).loops := by
  rw [modSplit_twice]
  have hsp : (g0.modSplit k (fun sp => ({ sp with div := d } : Split).takePath e)).split k = ({ g0.split k with div := d } : Split).takePath e :=
    split_modSplit_same _ _ hk
  refine ⟨{ hregs with }, htrap, hctl, ?_, ?_, ?_, ?_, ?_, ?_, ?_, fun j hj => ?_, SameMemory.refl s⟩
  case refine_8 =>
    rw [split_modSplit_other _ _ hj]
    exact hothers j hj
  all_goals rw [hsp]
  · rfl
  · exact h.st
  · exact h.clause
  · rfl
  · exact h.ret
  · rfl
  · exact h.loops

theorem transfer_rotates {s s1 : State} {cx : Cx} {g g' : Group} {k : Nat} {t : Transfer} {w : Way} (hw : t.ways = [w]) (hfix : w.fix = .none)
    (hk : k < g.splits.length) (hcount : t.count (g.split k) w.pc = 64) (hdepth : 0 < (g.split k).div.depth)
    (hrot : s.rotate cx ((t.one g k s.cycles w).closeWindows k) k w.pc = .ok g' s1) :
    s.transfer cx g k t = .ok ⟨g', none, false, true⟩ s1 := by
  have hone : t.refined (t.landed g g k s.cycles w []) k [] w [] [] = t.one g k s.cycles w := by
    simp only [Transfer.refined, Transfer.one, List.isEmpty_nil, ↓reduceIte, List.foldl_nil, Bool.and_true]
  have hpaths : (((t.one g k s.cycles w).split k).div.depth == 0) = false := by
    rw [(split_one hk).div]
    exact beq_false_of_ne (Nat.pos_iff_ne_zero.1 hdepth)
  rw [transfer_eq (head := w) (tail := []) (new := []) (g1 := g) (s1 := s) (g2 := g) (s2 := s) (by rw [hw]; rfl) (List.zip_nil_right) rfl rfl hfix]
  simp only [List.drop_nil, hone, hcount, hpaths, decide_true, Bool.not_false, Bool.and_true, ↓reduceIte, hrot, MRes.bind, List.head?_nil,
    Option.map_none, List.isEmpty_nil, Bool.not_true]

/-- A branch back to `pc` of all lanes, the 64th of its path. -/
structure Rotates (s : State) (r : SplitRef) (g : Group) (t : Transfer) (w : Way) : Prop where
  ways   : t.ways = [w]
  fix    : w.fix = .none
  counts : t.counts = true
  whole  : t.whole = false
  header : pcPos w.pc = 0
  back   : (g.split r.k).back = 63
  away   : w.pc ≠ (g.split r.k).nextHdr
  goes   : (pcHdr w.pc).toNat ≤ (pcHdr (g.split r.k).pc).toNat
  depth  : 0 < (g.split r.k).div.depth

section
variable {i : Instr} {s s1 : State} {r : SplitRef} {g : Group} {t : Transfer} {w : Way}

theorem Rotates.count (h : Rotates s r g t w) : t.count (g.split r.k) w.pc = 64 := by
  have hback : t.isBack (g.split r.k) w.pc = true := by simp [Transfer.isBack, h.counts, h.away, h.goes]
  rw [Transfer.count, if_pos hback, h.back]

/-- The rotation, from the group that takes the path in at the bottom. -/
theorem RunsTransfer.rotates (h : RunsTransfer i s r g t) (hi : Issuing s r g) (hr : Rotates s r g t w) (hstill : s1.group? r.group = some g)
    {g0 : Group} {c : GroupCtl} {d : Stack} {es : List StackEntry} {e : StackEntry} (hd : d.chip = es ++ [e]) (hes : es ≠ [])
    (hins : s.entered.insertBottom (s.entered.cxOf r) ((t.one (g.countWindows r.k) r.k s.entered.cycles w).closeWindows r.k) r.k
      ⟨w.pc, w.mask, .pending⟩ = .ok (g0.modSplit r.k (fun sp => { sp with div := d })) s1)
    (hg0 : g0 = { (t.one (g.countWindows r.k) r.k s.entered.cycles w).closeWindows r.k with ctl := c }) :
    ∃ u g', exec i s = .next u ∧ u.group? r.group = some g' ∧ (g'.split r.k).back = 0 ∧ (g'.split r.k).ovr = [] ∧ g'.ctl = c ∧
      JumpedTo s1 u { g with ctl := c } g' r.k e.resumePc e.mask (g.split r.k).ret d.dropTop (g.split r.k).loops := by
  have hk : r.k < (g.countWindows r.k).splits.length := split_lt hi.used
  obtain ⟨hregs, htrap, hctl, hlen, hothers⟩ := frame_one t (g.countWindows r.k) r.k s.entered.cycles w
  have hland : Landed (g.split r.k) w (if t.whole then [] else w.refs) ((t.one (g.countWindows r.k) r.k s.entered.cycles w).split r.k) :=
    split_one (g := g.countWindows r.k) hk
  have hcals : (t.one (g.countWindows r.k) r.k s.entered.cycles w).cals = g.cals := by
    have hc := cals_one t (g.countWindows r.k) r.k s.entered.cycles w
    rwa [hr.whole, if_neg Bool.false_ne_true] at hc
  have hk0 : r.k < g0.splits.length := by
    rw [hg0]
    exact lt_of_lt_of_eq hk hlen.symm
  have hdiv : ((g0.modSplit r.k (fun sp => { sp with div := d })).split r.k).div.chip = es ++ [e] := by
    rw [split_modSplit_same _ _ hk0]
    exact hd
  rw [← hland.mask] at hins
  have hrot := rotate_of_insert hins (by simpa using hk0) hdiv hes
  obtain ⟨act, f, post, htr⟩ := h.transfers hi (transfer_rotates (g := g.countWindows r.k) hr.ways hr.fix hk hr.count hr.depth hrot) hstill
  obtain ⟨u, g', hx, hg', hn, hm⟩ := htr.headers (by rw [holders_one hr.ways]; simpa using hr.header)
  have hregs0 : g.SameRegs g0 := by
    rw [hg0]
    exact { hregs with cals := hcals }
  have hsp0 : Landed (g.split r.k) w (if t.whole then [] else w.refs) (g0.split r.k) := by
    rw [hg0]
    exact hland
  have hj : JumpedTo s1 s1 { g with ctl := c } _ r.k e.resumePc e.mask (g.split r.k).ret d.dropTop (g.split r.k).loops :=
    jumpedTo_takePath hk0 hregs0 (by rw [hg0]; exact htrap) (by rw [hg0]) hsp0 (by rw [hg0]; exact hothers)
  have htake : (((g0.modSplit r.k (fun sp => { sp with div := d })).modSplit r.k (Split.takePath e)).split r.k).back = 0 ∧
      (((g0.modSplit r.k (fun sp => { sp with div := d })).modSplit r.k (Split.takePath e)).split r.k).ovr = [] := by
    rw [split_modSplit_same _ _ (by simpa using hk0)]
    exact ⟨rfl, rfl⟩
  obtain ⟨a, b, n, x, hsp⟩ := hn.split r.k
  have hjumped := hj.noted hn hm
  refine ⟨u, g', hx, hg', ?_, ?_, hjumped.ctl, hjumped⟩
  · rw [hsp]
    exact htake.1
  · rw [hsp]
    exact htake.2

/-- The path fits at the bottom on chip. -/
theorem RunsTransfer.rotatesOnChip (h : RunsTransfer i s r g t) (hi : Issuing s r g) (hr : Rotates s r g t w) {es : List StackEntry} {e : StackEntry}
    (hchip : (g.split r.k).div.chip = es ++ [e]) (h8 : (g.split r.k).div.chip.length < 8)
    (hd : (g.split r.k).div.depth ≤ (g.split r.k).div.chip.length) :
    ∃ u g', exec i s = .next u ∧ u.group? r.group = some g' ∧ (g'.split r.k).back = 0 ∧ (g'.split r.k).ovr = [] ∧
      JumpedTo s u g g' r.k e.resumePc e.mask (g.split r.k).ret { (g.split r.k).div with chip := ⟨w.pc, w.mask, .pending⟩ :: es }
        (g.split r.k).loops := by
  have hk : r.k < (g.countWindows r.k).splits.length := split_lt hi.used
  have hdiv : ((t.one (g.countWindows r.k) r.k s.entered.cycles w).split r.k).div = (g.split r.k).div := (split_one (g := g.countWindows r.k) hk).div
  have hctl : (t.one (g.countWindows r.k) r.k s.entered.cycles w).ctl = g.ctl := (frame_one t (g.countWindows r.k) r.k s.entered.cycles w).2.2.1
  have hins := insertBottom_chip (s := s.entered) (cx := s.entered.cxOf r) (e := ⟨w.pc, w.mask, .pending⟩)
    (g := (t.one (g.countWindows r.k) r.k s.entered.cycles w).closeWindows r.k) (k := r.k) (by rw [closeWindows_split, hdiv]; exact h8)
    (by rw [closeWindows_split, hdiv]; exact hd)
  rw [closeWindows_split, hdiv] at hins
  obtain ⟨u, g', hx, hg', hback, hovr, -, hj⟩ := h.rotates hi hr (s1 := s.entered) hi.group (c := g.ctl)
    (d := { (g.split r.k).div with chip := ⟨w.pc, w.mask, .pending⟩ :: (g.split r.k).div.chip, depth := (g.split r.k).div.depth + 1 })
    (es := ⟨w.pc, w.mask, .pending⟩ :: es) (e := e) (by simp [hchip]) (by simp) hins (by rw [← hctl]; rfl)
  refine ⟨u, g', hx, hg', hback, hovr, ?_⟩
  have hdrop : ({ (g.split r.k).div with chip := ⟨w.pc, w.mask, .pending⟩ :: (g.split r.k).div.chip, depth := (g.split r.k).div.depth + 1 } : Stack).dropTop
      = { (g.split r.k).div with chip := ⟨w.pc, w.mask, .pending⟩ :: es } := by
    simp [Stack.dropTop, hchip, List.dropLast_cons_of_ne_nil]
  rw [← hdrop]
  exact { hj with mem := (SameMemory.refl s).trans hj.mem }

/-- The path goes to its slot at the bottom, with a new spill tag. -/
theorem RunsTransfer.rotatesToSlot (h : RunsTransfer i s r g t) (hi : Issuing s r g) (hr : Rotates s r g t w) {es : List StackEntry} {e : StackEntry}
    (hchip : (g.split r.k).div.chip = es ++ [e]) (hes : es ≠ [])
    (hfull : 8 ≤ (g.split r.k).div.chip.length ∨ (g.split r.k).div.chip.length < (g.split r.k).div.depth)
    (hw : s.entered.spillWrite (s.entered.cxOf r) (spillAddr g r.k true (((g.split r.k).div.bot + 1023) % 1024))
      (entryBytes ⟨w.pc, w.mask, .pending⟩) = .ok () s1) (hstill : s1.group? r.group = some g) :
    ∃ u g', exec i s = .next u ∧ u.group? r.group = some g' ∧ (g'.split r.k).back = 0 ∧ (g'.split r.k).ovr = [] ∧
      g'.ctl = { g.ctl with spillCnt := g.ctl.spillCnt + 1 } ∧
      JumpedTo s1 u { g with ctl := g'.ctl } g' r.k e.resumePc e.mask (g.split r.k).ret
        { (g.split r.k).div with chip := es, bot := ((g.split r.k).div.bot + 1023) % 1024, tag := g.ctl.spillCnt + 1 } (g.split r.k).loops := by
  have hk : r.k < (g.countWindows r.k).splits.length := split_lt hi.used
  have hdiv : ((t.one (g.countWindows r.k) r.k s.entered.cycles w).split r.k).div = (g.split r.k).div := (split_one (g := g.countWindows r.k) hk).div
  have hctl : (t.one (g.countWindows r.k) r.k s.entered.cycles w).ctl = g.ctl := (frame_one t (g.countWindows r.k) r.k s.entered.cycles w).2.2.1
  have hctl' : ((t.one (g.countWindows r.k) r.k s.entered.cycles w).closeWindows r.k).ctl = g.ctl := hctl
  have hins := insertBottom_slot (s := s.entered) (s1 := s1) (cx := s.entered.cxOf r) (e := ⟨w.pc, w.mask, .pending⟩)
    (g := (t.one (g.countWindows r.k) r.k s.entered.cycles w).closeWindows r.k) (k := r.k) (by rw [closeWindows_split, hdiv]; exact hfull)
    (by rw [closeWindows_split, hdiv, spillAddr, hctl']; exact hw)
  rw [closeWindows_split, hdiv, hctl'] at hins
  obtain ⟨u, g', hx, hg', hback, hovr, hc, hj⟩ := h.rotates hi hr hstill (c := { g.ctl with spillCnt := g.ctl.spillCnt + 1 })
    (d := { (g.split r.k).div with depth := (g.split r.k).div.depth + 1, bot := ((g.split r.k).div.bot + 1023) % 1024, tag := g.ctl.spillCnt + 1 })
    (es := es) (e := e) hchip hes hins (by rw [Group.newTag, hctl'])
  refine ⟨u, g', hx, hg', hback, hovr, hc, ?_⟩
  rw [hc]
  have hdrop : ({ (g.split r.k).div with
      depth := (g.split r.k).div.depth + 1, bot := ((g.split r.k).div.bot + 1023) % 1024, tag := g.ctl.spillCnt + 1 } : Stack).dropTop
      = { (g.split r.k).div with chip := es, bot := ((g.split r.k).div.bot + 1023) % 1024, tag := g.ctl.spillCnt + 1 } := by
    simp [Stack.dropTop, hchip]
  rw [← hdrop]
  exact hj

end

end Sys2Proof.Machine
end

section
/-! SUPPORT. The lanes that a BRC takes, and what it refines (R65, R66, R325). -/

namespace Sys2Proof.Machine

open Sys2Proof

/-! ## The condition -/

theorem condHolds_eq_condTrue (c : Cond) (x y : Word) : condHolds c x.toInt y.toInt x.toNat y.toNat = condTrue 32 x y c := by
  cases c with
  | eq | ne =>
    rw [Bool.eq_iff_iff]
    simp [condHolds, condTrue, BitVec.toNat_inj]
  | lt | le | gt | ge => simp [condHolds, condTrue, BitVec.slt, BitVec.sle]
  | ltu | leu | gtu | geu => simp [condHolds, condTrue, BitVec.ult, BitVec.ule]

theorem brcTaken_eq (src : Group) (k : Nat) (gd : Guard) (cond : Cond) (a : VReg) (b : Src) :
    brcTaken src k gd cond a b =
      Mask.ofFn (fun j => Mask.has (src.active k gd) j && condTrue 32 (src.v a.toNat j) (b.word src j) cond) := by
  refine mask_ext (fun j hj => ?_)
  rw [brcTaken, has_and, has_ofFn _ hj, has_ofFn _ hj, condHolds_eq_condTrue]

/-! ## What is refined -/

theorem mirror_eq_condSwap (c : Cond) : mirror c = condSwap c := by cases c <;> rfl

theorem refineSigned_signedTwin (c : Cond) (taken : Bool) (x y : Interval) :
    refineSigned (signedTwin c).1 taken x y = refinedInterval (if taken then c else condNot c) x y := by
  cases taken <;> cases c <;> rfl

theorem signedTwin_snd (c : Cond) : (signedTwin c).2 = condUnsigned c := by cases c <;> rfl

theorem refineCal_of_refines {c : Cond} {taken : Bool} {a b : Caliper} {iv : Interval} (h : Refines c taken a b iv) :
    refineCal c taken a b = some iv := by
  obtain ⟨x, y, rfl, rfl, hsign, rfl, hle⟩ := h
  have hno : (condUnsigned c && (decide (x.lo < 0) || decide (y.lo < 0))) = false := by
    cases hc : condUnsigned c with
    | false => rfl
    | true =>
      obtain ⟨hx, hy⟩ := hsign hc
      simp [hx, hy]
  simp only [refineCal, signedTwin_snd, refineSigned_signedTwin, hno, Bool.false_eq_true, ↓reduceIte, if_pos hle]

theorem refineCal_unknown {c : Cond} {taken : Bool} {a b : Caliper} (h : a = none ∨ b = none) : refineCal c taken a b = none := by
  rcases h with rfl | rfl
  · cases b <;> rfl
  · cases a <;> rfl

/-! ## Where it is written -/

/-- At most two refinements, of different registers. -/
def FewApart (refs : List (Nat × Caliper)) : Prop := refs.length ≤ 2 ∧ (refs.map Prod.fst).Nodup

theorem override_congr {x y : Split} (h : x.ovr = y.ovr) (n : Nat) : x.override? n = y.override? n := by rw [Split.override?, h, Split.override?]

/-- The entry of a register is the last one, no other entry being of that register. -/
theorem override_last {sp : Split} {l : List Override} {n : Nat} {c : Caliper} (h : sp.ovr = l ++ [⟨n, c⟩]) (hl : ∀ o ∈ l, o.reg ≠ n) :
    sp.override? n = some c := by
  have hnone : l.find? (fun o => o.reg == n) = none := List.find?_eq_none.2 (fun o ho => by simpa using hl o ho)
  simp [Split.override?, h, List.find?_append, hnone]

theorem setOverride_ends (sp : Split) (n : Nat) (c : Caliper) :
    ∃ l, (sp.setOverride n c).ovr = l ++ [⟨n, c⟩] ∧ ∀ o ∈ l, o.reg ≠ n := by
  refine ⟨_, rfl, fun o ho => ?_⟩
  have hmem : o ∈ sp.ovr.filter (fun o => o.reg != n) := by
    split at ho
    · exact ho
    · exact List.mem_of_mem_drop ho
  simpa using (List.mem_filter.1 hmem).2

theorem override_setOverride_same (sp : Split) (n : Nat) (c : Caliper) : (sp.setOverride n c).override? n = some c := by
  obtain ⟨l, hl, hfree⟩ := setOverride_ends sp n c
  exact override_last hl hfree

/-- The eviction of the oldest entry (R58) spares the newest. -/
theorem override_setOverride_newest {sp : Split} {l : List Override} {n m : Nat} {c c' : Caliper} (h : sp.ovr = l ++ [⟨n, c⟩])
    (hl : ∀ o ∈ l, o.reg ≠ n) (hne : n ≠ m) : (sp.setOverride m c').override? n = some c := by
  have hrest : sp.ovr.filter (fun o => o.reg != m) = l.filter (fun o => o.reg != m) ++ [⟨n, c⟩] := by
    rw [h, List.filter_append]
    simp [hne]
  obtain ⟨l', hl', hsub⟩ : ∃ l', (sp.setOverride m c').ovr = l' ++ [⟨n, c⟩] ++ [⟨m, c'⟩] ∧ ∀ o ∈ l', o ∈ l := by
    simp only [Split.setOverride, hrest]
    split
    · exact ⟨_, rfl, fun o ho => (List.mem_filter.1 ho).1⟩
    · next hfull =>
      have hpos : 1 ≤ (l.filter (fun o => o.reg != m)).length := by
        simp only [List.length_append, List.length_cons, List.length_nil] at hfull
        omega
      rw [List.drop_append_of_le_length hpos]
      exact ⟨_, rfl, fun o ho => (List.mem_filter.1 (List.mem_of_mem_drop ho)).1⟩
  have hnone : l'.find? (fun o => o.reg == n) = none := List.find?_eq_none.2 (fun o ho => by simpa using hl o (hsub o ho))
  simp [Split.override?, hl', List.find?_append, hnone]

theorem override_refineWith {sp : Split} {refs : List (Nat × Caliper)} (hr : FewApart refs) {n : Nat} {iv : Interval} (h : (n, some iv) ∈ refs) :
    (sp.refineWith refs).override? n = some (some iv) := by
  obtain ⟨hlen, hnd⟩ := hr
  match refs, hlen, hnd, h with
  | [x], _, _, h =>
    obtain rfl := (List.mem_singleton.1 h).symm
    exact override_setOverride_same sp n (some iv)
  | [x, y], _, hnd, h =>
    have hne : x.1 ≠ y.1 := by simpa using hnd
    rcases List.mem_pair.1 h with rfl | rfl
    · obtain ⟨l, hl, hfree⟩ := setOverride_ends sp n (some iv)
      cases hy : y.2 with
      | none => simpa only [Split.refineWith, List.foldl_cons, List.foldl_nil, hy] using override_setOverride_same sp n (some iv)
      | some z => simpa only [Split.refineWith, List.foldl_cons, List.foldl_nil, hy] using override_setOverride_newest hl hfree hne
    · simpa only [Split.refineWith, List.foldl_cons, List.foldl_nil] using override_setOverride_same _ n (some iv)

theorem regGet_refineCals_other {cals : List Caliper} {refs : List (Nat × Caliper)} {n : Nat} (h : ∀ x ∈ refs, x.1 ≠ n) :
    regGet none (refineCals cals refs) n = regGet none cals n := by
  induction refs generalizing cals with
  | nil => rfl
  | cons x refs ih =>
    have hrest : ∀ y ∈ refs, y.1 ≠ n := fun y hy => h y (List.mem_cons_of_mem x hy)
    simp only [refineCals, List.foldl_cons]
    cases x.2 with
    | none => exact ih hrest
    | some iv => exact (ih hrest).trans (regGet_regSet_other (h x List.mem_cons_self).symm)

theorem regGet_refineCals {cals : List Caliper} {refs : List (Nat × Caliper)} (hnd : (refs.map Prod.fst).Nodup) {n : Nat} {iv : Interval}
    (h : (n, some iv) ∈ refs) (hn : n < cals.length) : regGet none (refineCals cals refs) n = some iv := by
  induction refs generalizing cals with
  | nil => exact absurd h List.not_mem_nil
  | cons x refs ih =>
    rw [List.map_cons, List.nodup_cons] at hnd
    obtain ⟨hfirst, hnd'⟩ := hnd
    rcases List.mem_cons.1 h with rfl | hmem
    · have hother : ∀ y ∈ refs, y.1 ≠ n := fun y hy he => hfirst (by simpa [he] using List.mem_map_of_mem (f := Prod.fst) hy)
      exact (regGet_refineCals_other hother).trans (regGet_regSet_same hn)
    · simp only [refineCals, List.foldl_cons]
      cases x.2 with
      | none => exact ih hnd' hmem hn
      | some z => exact ih hnd' hmem (by simpa [regSet] using hn)

/-- Refinements of nothing write nothing. -/
theorem refineWith_none {sp : Split} {refs : List (Nat × Caliper)} (h : ∀ x ∈ refs, x.2 = none) : sp.refineWith refs = sp := by
  induction refs with
  | nil => rfl
  | cons x refs ih =>
    simp only [Split.refineWith, List.foldl_cons, h x List.mem_cons_self]
    exact ih (fun y hy => h y (List.mem_cons_of_mem x hy))

theorem refineCals_none {cals : List Caliper} {refs : List (Nat × Caliper)} (h : ∀ x ∈ refs, x.2 = none) : refineCals cals refs = cals := by
  induction refs with
  | nil => rfl
  | cons x refs ih =>
    simp only [refineCals, List.foldl_cons, h x List.mem_cons_self]
    exact ih (fun y hy => h y (List.mem_cons_of_mem x hy))

/-! ## The refinements of a BRC -/

section
variable {src : Group} {k : Nat} {cond : Cond} {a : VReg} {b : Src} {taken : Bool}

theorem brcRefs_cases (src : Group) (k : Nat) (cond : Cond) (a : VReg) (b : Src) (taken : Bool) :
    ((∀ v, b = .v v → v = a) ∧ brcRefs src k cond a b taken = [(a.toNat, refineCal cond taken (src.view k a.toNat) (b.cal src k))]) ∨
      ∃ v, b = .v v ∧ v ≠ a ∧ brcRefs src k cond a b taken = [(a.toNat, refineCal cond taken (src.view k a.toNat) (b.cal src k)),
        (v.toNat, refineCal (condSwap cond) taken (b.cal src k) (src.view k a.toNat))] := by
  cases b with
  | s r => exact .inl ⟨fun v hv => by simp at hv, rfl⟩
  | imm i => exact .inl ⟨fun v hv => by simp at hv, rfl⟩
  | v r =>
    by_cases hr : r = a
    · exact .inl ⟨fun v hv => (Src.v.inj hv) ▸ hr, by simp [brcRefs, hr]⟩
    · exact .inr ⟨r, rfl, hr, by simp [brcRefs, hr, mirror_eq_condSwap]⟩

theorem fewApart_brcRefs : FewApart (brcRefs src k cond a b taken) := by
  rcases brcRefs_cases src k cond a b taken with ⟨-, h⟩ | ⟨v, -, hne, h⟩
  · simp [FewApart, h]
  · have hnat : a.toNat ≠ v.toNat := fun he => hne (BitVec.eq_of_toNat_eq he).symm
    simp [FewApart, h, hnat]

theorem mem_brcRefs_first {iv : Interval} (h : Refines cond taken (src.view k a.toNat) (b.cal src k) iv) :
    (a.toNat, some iv) ∈ brcRefs src k cond a b taken := by
  rw [← refineCal_of_refines h]
  exact List.mem_append_left _ List.mem_cons_self

theorem mem_brcRefs_second {v : VReg} {iv : Interval} (hb : b = .v v) (hne : v ≠ a)
    (h : Refines (condSwap cond) taken (b.cal src k) (src.view k a.toNat) iv) : (v.toNat, some iv) ∈ brcRefs src k cond a b taken := by
  rw [← refineCal_of_refines h]
  rcases brcRefs_cases src k cond a b taken with ⟨hall, -⟩ | ⟨w, hw, -, hrefs⟩
  · exact absurd (hall v hb) hne
  · obtain rfl : w = v := Src.v.inj (hw.symm.trans hb)
    simp [hrefs]

/-- Nothing but the vector operands is refined. -/
theorem brcRefs_reg {n : Nat} (hn : n ≠ a.toNat) (hb : ∀ v, b = .v v → n ≠ v.toNat) : ∀ x ∈ brcRefs src k cond a b taken, x.1 ≠ n := by
  rcases brcRefs_cases src k cond a b taken with ⟨-, h⟩ | ⟨v, hv, -, h⟩
  · simpa [h] using hn.symm
  · simpa [h] using ⟨hn.symm, (hb v hv).symm⟩

theorem brcRefs_unknown (h : src.view k a.toNat = none ∨ b.cal src k = none) : ∀ x ∈ brcRefs src k cond a b taken, x.2 = none := by
  rcases brcRefs_cases src k cond a b taken with ⟨-, hrefs⟩ | ⟨v, -, -, hrefs⟩
  · simp [hrefs, refineCal_unknown h]
  · simp [hrefs, refineCal_unknown h, refineCal_unknown h.symm]

end

end Sys2Proof.Machine
end

section
/-! PROOF. BRA, BRC and BRX: one set, two sets, and the rotation (R31, R35, R36, R65, R66, R324, R325, R328). -/

namespace Sys2Proof.Machine

open Sys2Proof

/-! ## A branch is a transfer of two sides -/

/-- Instruction `i` is the transfer `t` that sends the lanes of `m` to `target` and the others to the next header, and refines `side true` on the
one path and `side false` on the other. -/
structure Forks (i : Instr) (s : State) (r : SplitRef) (g : Group) (t : Transfer) (m : Mask) (target : DWord)
    (side : Bool → List (Nat × Caliper)) : Prop where
  runs : RunsTransfer i s r g t
  redo : t.redo = false
  one  : m = (g.split r.k).mask ∨ m = 0 → (g.split r.k).mask ≠ 0 →
    t.ways = [⟨if m = 0 then (g.split r.k).nextHdr else target, (g.split r.k).mask, .none, side (decide (m ≠ 0))⟩]
  two  : m ≠ 0 → (g.split r.k).mask &&& ~~~m ≠ 0 → target ≠ (g.split r.k).nextHdr →
    t.Two (sideOn m target (side true)) (sideOff (g.split r.k) m (side false))

/-- The sets of a two-way transfer. -/
theorem forks_twoWays {i : Instr} {s : State} {r : SplitRef} {g : Group} {t : Transfer} {m : Mask} {target : DWord}
    {side : Bool → List (Nat × Caliper)} (h : RunsTransfer i s r g t) (hredo : t.redo = false)
    (hw : t.ways = twoWays (g.split r.k) m target .none (side true) (side false)) : Forks i s r g t m target side := by
  refine ⟨h, hredo, fun hm h0 => ?_, fun hm hn ht => ⟨.inl (hw.trans (twoWays_both hm hn ht _ _ _)), ht, rfl, rfl⟩⟩
  rw [hw]
  by_cases hz : m = 0
  · rw [twoWays_none hz h0, if_pos hz, decide_eq_false (not_not.2 hz)]
  · rw [twoWays_all (hm.resolve_right hz) h0, if_neg hz, decide_eq_true hz]

section
variable {i : Instr} {s s1 : State} {r : SplitRef} {g : Group} {t : Transfer} {m : Mask} {target : DWord}

/-- R31: a branch without refinements whose lanes all go one way. -/
theorem Forks.goes (h : Forks i s r g t m target fun _ => []) (hi : Issuing s r g) (h0 : (g.split r.k).mask ≠ 0)
    (hrot : (g.split r.k).back < 63 ∨ (g.split r.k).div.depth = 0) :
    (m = (g.split r.k).mask → if pcPos target = 0 then Jumps i s r g target (g.split r.k).mask (g.split r.k).ret (g.split r.k).div (g.split r.k).loops
      else BadTarget i s r g target) ∧
    (m = 0 → if pcPos (g.split r.k).nextHdr = 0 then Jumps i s r g (g.split r.k).nextHdr (g.split r.k).mask (g.split r.k).ret (g.split r.k).div
      (g.split r.k).loops else BadTarget i s r g (g.split r.k).nextHdr) := by
  refine ⟨fun hall => h.runs.lands hi ?_ hrot, fun hnone => h.runs.lands hi ?_ hrot⟩
  · have hne : m ≠ 0 := hall ▸ h0
    have hw := h.one (.inl hall) h0
    rwa [if_neg hne] at hw
  · have hw := h.one (.inr hnone) h0
    rwa [if_pos hnone] at hw

/-- R31: one that divides its split. -/
theorem Forks.divides (h : Forks i s r g t m target fun _ => []) (hi : Issuing s r g)
    (hrot : (g.split r.k).back < 63 ∨ (g.split r.k).div.depth = 0) {k2 : Nat} (hsp : Splits s s1 r g k2)
    (hparts : m ≠ 0 ∧ (g.split r.k).mask &&& ~~~m ≠ 0 ∧ target ≠ (g.split r.k).nextHdr) :
    DividesTo i s s1 r g k2 m target (g.split r.k).ret (fun on off => on.ovr = (g.split r.k).ovr ∧ off.ovr = (g.split r.k).ovr) :=
  h.runs.dividesTo hi (h.two hparts.1 hparts.2.1 hparts.2.2) hsp hrot (fun _ _ hx hy => ⟨hx, hy⟩)

/-- R35: one that finds no free entry. -/
theorem Forks.pushes {side : Bool → List (Nat × Caliper)} (h : Forks i s r g t m target side) (hi : Issuing s r g) (hfull : FullTable g r.k)
    (hback : (g.split r.k).back < 63) (hparts : m ≠ 0 ∧ (g.split r.k).mask &&& ~~~m ≠ 0 ∧ target ≠ (g.split r.k).nextHdr) :
    (pcPos target = 0 → pcPos (g.split r.k).nextHdr = 0 → Pushes i s r g m target false (g.split r.k).ret (g.split r.k).loops) ∧
      (pcPos target ≠ 0 ∨ pcPos (g.split r.k).nextHdr ≠ 0 →
        ∃ u g', exec i s = .next u ∧ u.group? r.group = some g' ∧ (g'.split r.k).st = .halted) :=
  h.runs.pushes hi (h.two hparts.1 hparts.2.1 hparts.2.2) h.redo hfull hback

end

/-! ## BRA and BRX -/

section
variable {s s1 : State} {r : SplitRef} {g : Group}

/-- The transfer of a BRA. -/
def braTransfer (s : State) (r : SplitRef) (g : Group) (gd : Guard) (disp : BitVec 32) : Transfer :=
  ⟨twoWays (g.split r.k) ((s.reads r g).active r.k gd) (pcWord (g.split r.k).pc + disp.signExtend 64) .none [] [], false, true,
    (s.reads r g).active r.k gd != 0, false, false⟩

theorem runs_bra (s : State) (r : SplitRef) (g : Group) (gd : Guard) (disp : BitVec 32) :
    RunsTransfer (.bra gd disp) s r g (braTransfer s r g gd disp) :=
  ⟨laneAct gd, braRes gd disp, fun s _ => s, rfl, rfl, fun s _ => TraceOnly.refl s, rfl⟩

theorem forks_bra (s : State) (r : SplitRef) (g : Group) (gd : Guard) (disp : BitVec 32) :
    Forks (.bra gd disp) s r g (braTransfer s r g gd disp) ((s.reads r g).active r.k gd) (pcWord (g.split r.k).pc + disp.signExtend 64)
      fun _ => [] :=
  forks_twoWays (runs_bra s r g gd disp) rfl rfl

/-- The transfer of a BRX. -/
def brxTransfer (s : State) (r : SplitRef) (g : Group) (gd : Guard) (o : BrxOp) : Transfer :=
  ⟨laneWays (fun j => if Mask.has ((s.reads r g).active r.k gd) j then brxTarget (s.reads r g) (pcWord (g.split r.k).pc) j o
    else (g.split r.k).nextHdr) (g.split r.k).mask.lanes, false, true, (s.reads r g).active r.k gd != 0, false, false⟩

theorem runs_brx (s : State) (r : SplitRef) (g : Group) (gd : Guard) (o : BrxOp) : RunsTransfer (.brx gd o) s r g (brxTransfer s r g gd o) :=
  ⟨laneAct gd, brxRes gd o, fun s1 _ => if (s.reads r g).active r.k gd = 0 then s1 else
    s1.traceFlow r (g.split r.k).pc (brxFlow (s.reads r g) (pcWord (g.split r.k).pc) ((s.reads r g).active r.k gd) o), rfl, rfl, fun s1 _ => by
      split
      · exact TraceOnly.refl s1
      · exact traceOnly_traceFlow _ _ _ _, rfl⟩

/-- A BRX whose lanes have one target. -/
theorem forks_brx (hi : Issuing s r g) {gd : Guard} {o : BrxOp} {target : DWord}
    (htarget : ∀ j, Mask.has ((s.reads r g).active r.k gd) j = true → brxTarget (s.reads r g) (pcWord (g.split r.k).pc) j o = target) :
    Forks (.brx gd o) s r g (brxTransfer s r g gd o) ((s.reads r g).active r.k gd) target fun _ => [] := by
  have hlanes : ∀ j ∈ (g.split r.k).mask.lanes, (if Mask.has ((s.reads r g).active r.k gd) j then
      brxTarget (s.reads r g) (pcWord (g.split r.k).pc) j o else (g.split r.k).nextHdr) =
        if Mask.has ((s.reads r g).active r.k gd) j then target else (g.split r.k).nextHdr := by
    intro j _
    split
    · next hj => exact htarget j hj
    · rfl
  refine ⟨runs_brx s r g gd o, rfl, fun hm h0 => ?_, fun hm hn ht => ?_⟩
  · refine laneWays_one h0 (fun j hj => (hlanes j hj).trans ?_)
    rcases hm with hm | hm
    · have hne : (s.reads r g).active r.k gd ≠ 0 := hm ▸ h0
      rw [if_neg hne, hm, if_pos (mem_lanes.1 hj).2]
    · simp [hm, Mask.has]
  · exact ⟨laneWays_two (active_and_mask (split_lt hi.used) gd) hm hn ht hlanes, ht, rfl, rfl⟩

end

/-! ## BRC -/

section
variable {s s1 : State} {r : SplitRef} {g : Group} {gd : Guard} {cond : Cond} {a : VReg} {b : Src}

/-- What a BRC refines on its taken and on its other path: that one in the unguarded form alone. -/
def brcSide (src : Group) (k : Nat) (gd : Guard) (cond : Cond) (a : VReg) (b : Src) (taken : Bool) : List (Nat × Caliper) :=
  if taken = true ∨ gd = .always then brcRefs src k cond a b taken else []

/-- The transfer of a BRC. -/
def brcTransfer (s : State) (r : SplitRef) (g : Group) (gd : Guard) (cond : Cond) (a : VReg) (b : Src) (disp : BitVec 24) : Transfer :=
  ⟨twoWays (g.split r.k) (brcTaken (s.reads r g) r.k gd cond a b) (pcWord (g.split r.k).pc + (disp.signExtend 64 <<< 3)) .none
      (brcRefs (s.reads r g) r.k cond a b true) (if gd = .always then brcRefs (s.reads r g) r.k cond a b false else []),
    false, true, brcTaken (s.reads r g) r.k gd cond a b != 0, g.onlySplit r.k && (s.reads r g).active r.k gd == g.ctl.live, false⟩

theorem runs_brc (s : State) (r : SplitRef) (g : Group) (gd : Guard) (cond : Cond) (a : VReg) (b : Src) (disp : BitVec 24) :
    RunsTransfer (.brc gd cond a b disp) s r g (brcTransfer s r g gd cond a b disp) :=
  ⟨laneAct gd, brcRes gd cond a b disp, fun s1 m => branchPacket s1 r (g.split r.k).pc ((s.reads r g).active r.k gd)
    (brcTaken (s.reads r g) r.k gd cond a b) m, rfl, rfl, fun _ _ => traceOnly_branchPacket _ _ _ _ _ _, rfl⟩

theorem forks_brc (s : State) (r : SplitRef) (g : Group) (gd : Guard) (cond : Cond) (a : VReg) (b : Src) (disp : BitVec 24) :
    Forks (.brc gd cond a b disp) s r g (brcTransfer s r g gd cond a b disp)
      (Mask.ofFn fun j => Mask.has ((s.reads r g).active r.k gd) j && condTrue 32 ((s.reads r g).v a.toNat j) (b.word (s.reads r g) j) cond)
      (pcWord (g.split r.k).pc + (disp.signExtend 64 <<< 3)) (brcSide (s.reads r g) r.k gd cond a b) := by
  rw [← brcTaken_eq]
  refine forks_twoWays (runs_brc s r g gd cond a b disp) rfl ?_
  simp [brcTransfer, brcSide]

theorem fewApart_brcSide {src : Group} {k : Nat} {taken : Bool} : FewApart (brcSide src k gd cond a b taken) := by
  unfold brcSide
  split
  · exact fewApart_brcRefs
  · exact ⟨Nat.zero_le 2, List.nodup_nil⟩

theorem brcSide_reg {src : Group} {k n : Nat} {taken : Bool} (hn : n ≠ a.toNat) (hb : ∀ v, b = .v v → n ≠ v.toNat) :
    ∀ x ∈ brcSide src k gd cond a b taken, x.1 ≠ n := by
  unfold brcSide
  split
  · exact brcRefs_reg hn hb
  · exact fun x hx => absurd hx List.not_mem_nil

theorem brcSide_nothing {src : Group} {k : Nat} {taken : Bool}
    (h : (taken = false ∧ gd ≠ .always) ∨ src.view k a.toNat = none ∨ b.cal src k = none) : ∀ x ∈ brcSide src k gd cond a b taken, x.2 = none := by
  unfold brcSide
  split
  · next hside =>
    rcases h with ⟨ht, hgd⟩ | h
    · simp [ht, hgd] at hside
    · exact brcRefs_unknown h
  · exact fun x hx => absurd hx List.not_mem_nil

/-- What `P` says of a register and its interval holds of everything that a path of a BRC refines. -/
theorem brcSide_all {src : Group} {k : Nat} {taken : Bool} {P : Nat → Interval → Prop} (hside : taken = true ∨ gd = .always)
    (h : ∀ n iv, (n, some iv) ∈ brcSide src k gd cond a b taken → P n iv) :
    (∀ iv, Refines cond taken (src.view k a.toNat) (b.cal src k) iv → P a.toNat iv) ∧
      ∀ v iv, b = .v v → v ≠ a → Refines (condSwap cond) taken (b.cal src k) (src.view k a.toNat) iv → P v.toNat iv := by
  rw [brcSide, if_pos hside] at h
  exact ⟨fun iv hr => h _ _ (mem_brcRefs_first hr), fun v iv hb hne hr => h _ _ (mem_brcRefs_second hb hne hr)⟩

end

/-! ## What one set refines -/

section
variable {s u : State} {g g' : Group} {k : Nat} {t : Transfer} {w : Way}

/-- R66: the interval `iv` refines register `n` in the group's calipers for a split alone with every live lane active, in the override of the split
else. -/
def RefinedCal (src g g' : Group) (k : Nat) (gd : Guard) (n : Nat) (iv : Interval) : Prop :=
  n < g.cals.length →
    if g.onlySplit k = true ∧ src.active k gd = g.ctl.live then g'.cal n = some iv
    else g'.cal n = g.cal n ∧ (g'.split k).override? n = some (some iv)

theorem OneSet.refined (h : OneSet s u g g' k t w) (hw : FewApart w.refs) {n : Nat} {iv : Interval} (hmem : (n, some iv) ∈ w.refs)
    (hn : n < g.cals.length) :
    if t.whole then g'.cal n = some iv else g'.cal n = g.cal n ∧ (g'.split k).override? n = some (some iv) := by
  have hcals := h.cals
  have hovr := h.ovr
  cases ht : t.whole with
  | true =>
    rw [ht, if_pos rfl] at hcals
    rw [if_pos rfl, Group.cal, hcals]
    exact regGet_refineCals hw.2 hmem hn
  | false =>
    rw [ht, if_neg Bool.false_ne_true] at hcals hovr
    rw [if_neg Bool.false_ne_true]
    exact ⟨by rw [Group.cal, hcals, Group.cal], (override_congr hovr n).trans (override_refineWith hw hmem)⟩

theorem OneSet.cal_other (h : OneSet s u g g' k t w) {n : Nat} (hn : ∀ x ∈ w.refs, x.1 ≠ n) : g'.cal n = g.cal n := by
  rw [Group.cal, h.cals, Group.cal]
  split
  · exact regGet_refineCals_other hn
  · rfl

theorem OneSet.unrefined (h : OneSet s u g g' k t w) (hw : ∀ x ∈ w.refs, x.2 = none) : g'.cals = g.cals ∧ (g'.split k).ovr = (g.split k).ovr := by
  refine ⟨h.cals.trans ?_, h.ovr.trans ?_⟩
  · split
    · exact refineCals_none hw
    · rfl
  · split
    · rfl
    · rw [refineWith_none hw]

theorem OneSet.lands (h : OneSet s u g g' k t w) :
    if pcPos w.pc = 0 then (g'.split k).pc = w.pc ∧ (g'.split k).st = .ready
    else (g'.split k).pc = atPosZero w.pc ∧ (g'.split k).st = .halted := by
  split
  · next hpos => exact ⟨(h.here hpos).1, (h.here hpos).2.1⟩
  · next hpos => exact ⟨(h.bad hpos).1, (h.bad hpos).2.1⟩

end

/-- Settles O15: every branch is a transfer of one or of two sets, whose outcome the transfer lemmas give; what is left are its sets, the lanes that
take it, and for BRC what it refines. -/
theorem branches : Obligations.Branches := by
  refine ⟨?oneWay, ?twoWay, ?rotation⟩
  case oneWay =>
    intro s r g gd disp disp24 cond a b u hi h0 hrot
    refine ⟨(forks_bra s r g gd disp).goes hi h0 hrot, (forks_brx hi (o := .uni u disp) fun _ _ => rfl).goes hi h0 hrot,
      (forks_brx hi (o := .full u) fun _ _ => rfl).goes hi h0 hrot,
      fun target ht => (forks_brx hi (o := .vec a disp) fun j hj => ht j (has_lt hj)).goes hi h0 hrot, fun htaken => ?_⟩
    have hforks := forks_brc s r g gd cond a b disp24
    obtain ⟨u, g', hx, hg', hone⟩ := hforks.runs.one hi (hforks.one htaken h0) rfl hrot
    refine ⟨u, g', hx, hg', hone.lands, hone.mask, hone.ret, hone.div, hone.loops, hone.regs.vregs, hone.regs.sregs, hone.regs.pregs,
      hone.regs.qregs, fun n hn hb => hone.cal_other (brcSide_reg hn hb), fun hpos => (hone.here hpos).2.2.2.2.2.2,
      fun hway => brcSide_all (P := RefinedCal (s.reads r g) g g' r.k gd) hway fun n iv hmem hn => ?_, fun hno => hone.unrefined (brcSide_nothing hno)⟩
    simpa [brcTransfer] using hone.refined fewApart_brcSide hmem hn
  case twoWay =>
    intro s s1 r g gd disp disp24 cond a x b u k2 hi hrot
    have hbra := forks_bra s r g gd disp
    have hbrc := forks_brc s r g gd cond a b disp24
    have huni := forks_brx hi (gd := gd) (o := .uni u disp) fun _ _ => rfl
    have hfull := forks_brx hi (gd := gd) (o := .full u) fun _ _ => rfl
    refine ⟨fun hsp => ⟨hbra.divides hi hrot hsp, fun hparts => ?_, huni.divides hi hrot hsp, hfull.divides hi hrot hsp,
      fun target ht => (forks_brx hi (o := .vec x disp) ht).divides hi hrot hsp⟩,
      fun htable hback => ⟨hbra.pushes hi htable hback, hbrc.pushes hi htable hback, huni.pushes hi htable hback, hfull.pushes hi htable hback⟩⟩
    refine hbrc.runs.dividesTo hi (hbrc.two hparts.1 hparts.2.1 hparts.2.2) hsp hrot fun on off hon hoff =>
      ⟨brcSide_all (.inl rfl) fun n iv hmem => (override_congr hon n).trans (override_refineWith fewApart_brcSide hmem),
        fun hgd => brcSide_all (.inr hgd) fun n iv hmem => (override_congr hoff n).trans (override_refineWith fewApart_brcSide hmem),
        fun hgd => ?_, fun hno => ⟨?_, ?_⟩⟩
    · rw [hoff, refineWith_none (brcSide_nothing (.inl ⟨rfl, hgd⟩))]
    · rw [hon, refineWith_none (brcSide_nothing (.inr hno))]
    · rw [hoff, refineWith_none (brcSide_nothing (.inr hno))]
  case rotation =>
    intro s s1 r g gd disp es e hi sp target mine on hall h0 hback hpos haway hgoes hchip hdepth
    have hways : (braTransfer s r g gd disp).ways = [⟨target, sp.mask, .none, []⟩] := twoWays_all hall h0 target .none [] []
    have hrot : Rotates s r g (braTransfer s r g gd disp) ⟨target, sp.mask, .none, []⟩ :=
      ⟨hways, rfl, rfl, rfl, hpos, hback, haway, hgoes, hdepth⟩
    have hon : e.resumePc = on := by
      cases hkind : e.kind <;> simp [on, StackEntry.resumePc, afterReconv, nextHdr, hkind]
    rw [← hon]
    exact ⟨fun h8 hd => (runs_bra s r g gd disp).rotatesOnChip hi hrot hchip h8 hd,
      fun hslot hes hw hstill => (runs_bra s r g gd disp).rotatesToSlot hi hrot hchip hes hslot hw hstill⟩

end Sys2Proof.Machine
end

section
/-! SUPPORT. A split that overrides one register twice. -/

namespace Sys2Proof.Machine

open Sys2Proof

/-- Eight overrides, the oldest two of register 1: the newer of them, which no view reads, does not hold zero. -/
def crowdedSplit : Split := { issueSplit 1 with ovr := ⟨1, none⟩ :: ⟨1, some ⟨1, 1⟩⟩ :: (List.range 6).map (fun n => ⟨2 + n, none⟩) }

/-- A group of that split alone, all of whose registers read zero and whose calipers are unknown. -/
def crowdedGroup : Group := issueGroup 1 [crowdedSplit]

def crowdedState : State := issueState [(issueRef.group, crowdedGroup)]

/-- No value is known in the view of the split. -/
theorem view_crowdedGroup (n : Nat) : crowdedGroup.view 0 n = none := by
  have hcal : crowdedGroup.cal n = none := by cases n <;> rfl
  have hovr : ∀ o ∈ crowdedSplit.ovr, o.cal ≠ none → o.reg = 1 := by decide
  rw [Group.view, hcal]
  show (crowdedSplit.override? n).getD none = none
  cases hf : crowdedSplit.override? n with
  | none => rfl
  | some c =>
    obtain ⟨o, ho, rfl⟩ := Option.map_eq_some_iff.mp hf
    by_contra hne
    have hn : o.reg = n := by simpa using List.find?_some ho
    rw [hovr o (List.mem_of_find?_eq_some ho) hne] at hn
    subst hn
    exact hne (by injection hf with hf; exact hf.symm)

/-- Only entry 0 of the split table is in use. -/
theorem split_crowdedGroup {k : Nat} (h : k ≠ 0) : crowdedGroup.split k = Split.freeEntry := by
  obtain ⟨k, rfl⟩ := Nat.exists_eq_succ_of_ne_zero h
  rfl

theorem has_zero (j : Nat) : Mask.has 0 j = false := by simp [Mask.has]

theorem lanesApart_crowdedGroup : LanesApart crowdedGroup := by
  intro k j hj
  by_cases hk : k = 0
  · subst hk
    refine ⟨hj, fun i hi => ?_⟩
    rw [split_crowdedGroup hi]
    exact has_zero j
  · rw [split_crowdedGroup hk] at hj
    exact absurd hj (by rw [show Split.freeEntry.mask = 0 from rfl, has_zero]; decide)

theorem covers_none (x : Word) : Covers none x := fun _ h => nomatch h

theorem caliperInvariant_crowdedGroup : CaliperInvariant crowdedGroup := by
  refine fun n j _ => ⟨fun _ => ?_, fun k hk => ?_⟩
  · have hcal : crowdedGroup.cal n = none := by cases n <;> rfl
    rw [hcal]
    exact covers_none _
  · by_cases h0 : k = 0
    · rw [h0, view_crowdedGroup]
      exact covers_none _
    · rw [split_crowdedGroup h0] at hk
      exact absurd hk (by rw [show Split.freeEntry.mask = 0 from rfl, has_zero]; decide)

/-- MOVI to register 0 pushes the oldest override out, and the view of register 1 is the one behind it. -/
theorem movi_crowdedState : nextGroup (exec (.movi .always (.v 0) 0) crowdedState) issueRef.group
    (fun g' => decide (Mask.has (g'.split 0).mask 0 = true ∧ g'.view 0 1 = some ⟨1, 1⟩ ∧ g'.v 1 0 = 0)) = true := by decide +kernel

/-- Refutes O25: nothing keeps a split from two overrides of one register. The older is the view (R57); once a ninth register's write has
evicted it (R58), the newer one is, which need not hold the register's values. -/
theorem not_caliperInvariantKept : ¬ Obligations.CaliperInvariantKept := by
  unfold Obligations.CaliperInvariantKept
  intro h
  have hissuing : Issuing crowdedState issueRef crowdedGroup := issuing_issueState (g := crowdedGroup) (by decide) []
  obtain ⟨hstays, -⟩ := h crowdedState issueRef crowdedGroup .always (.v 0) (.imm 0) (.imm 0) (.imm 0) .i32 false 0 0 ⟨false, 0⟩ hissuing
    ⟨by decide +kernel, rfl⟩ lanesApart_crowdedGroup (by decide +kernel : 0 + 0 < 1) (by decide +kernel : 0 + 0 < 1)
  obtain ⟨t, g', ht, hg', hinv⟩ := (hstays caliperInvariant_crowdedGroup).1 (.movi .always (.v 0) 0) (by simp)
  obtain ⟨hlane, hview, hval⟩ := of_decide_eq_true (of_nextGroup movi_crowdedState ht hg')
  obtain ⟨hlo, -⟩ := (hinv 1 0 (by decide)).2 0 hlane ⟨1, 1⟩ hview
  rw [hval] at hlo
  exact absurd hlo (by decide)

end Sys2Proof.Machine
end

section
/-! SUPPORT. From what a meaning answers to the outcome of its instruction: an effect that leaves the overrides of its own split as the meaning
wrote them, a user cause whose handler may be entered (R264), and a fatal cause (R269). -/

namespace Sys2Proof.Machine

open Sys2Proof

/-! ## Effects -/

/-- Entering an instruction changes nothing that a statement names. -/
theorem onlyGroupAfter_entered (s : State) (r : GroupRef) : OnlyGroupAfter s s.entered r := by
  constructor <;> intros <;> rfl

/-- An effect after accesses that did nothing, and that end no peer's request. -/
theorem effect_of_effectAfter {i : Instr} {s : State} {r : SplitRef} {g : Group} {w : Writes} {P : Group → Prop}
    (h : EffectAfter i s s r g w P) (hp : ∀ t, exec i s = .next t → t.pkg = s.pkg) : Effect i s r g w P := by
  obtain ⟨t, g', ht, hg, hP, hk, hw, ho⟩ := h
  exact ⟨t, g', ht, hg, hP, hk, hw, { ho with pkg := hp t ht }⟩

/-- From a meaning that answers `next` with a state `x` that differs from `s` in the group and issue slots only. The split's overrides are those
that the meaning has written. -/
theorem effect_of_state {i : Instr} {s x : State} {r : SplitRef} {g gx : Group} {w : Writes} {P : Group → Prop}
    {act : Group → Nat → Mask} {f : State → SplitRef → Group → Group → Res} (h : Issuing s r g) (hi : exec i s = runRes act f s)
    (hf : f s.entered r (s.reads r g) (g.countWindows r.k) = .next x) (hx : x.group? r.group = some gx)
    (ho : OnlyGroupAfter s x r.group) (hp : x.pkg = s.pkg) (hk : g.Keeps gx r.k w) (hs : g.SameSplit gx r.k)
    (hP : ∀ φ : Split → Split, (∀ sp, (φ sp).ovr = sp.ovr) → P (gx.modSplit r.k φ)) : Effect i s r g w P := by
  refine effect_of_effectAfter (effectAfter_of_next h hi hf hx ho hk hs (split_lt h.used) hP) (fun t ht => ?_)
  rw [hi, runRes_next h hf] at ht
  injection ht with ht
  subst ht
  simp [State.counted, hp]

/-- The same, where the meaning answers with its group set. -/
theorem effect_of_views {i : Instr} {s : State} {r : SplitRef} {g gx : Group} {w : Writes} {P : Group → Prop}
    {act : Group → Nat → Mask} {f : State → SplitRef → Group → Group → Res} (h : Issuing s r g) (hi : exec i s = runRes act f s)
    (hf : f s.entered r (s.reads r g) (g.countWindows r.k) = .next (s.entered.setGroup r.group gx))
    (hk : g.Keeps gx r.k w) (hs : g.SameSplit gx r.k)
    (hP : ∀ φ : Split → Split, (∀ sp, (φ sp).ovr = sp.ovr) → P (gx.modSplit r.k φ)) : Effect i s r g w P :=
  effect_of_state h hi hf (group_setGroup_same (s := s.entered) h.group) ((onlyGroupAfter_entered s r.group).modGroup _)
    (by simp [State.entered]) hk hs hP

/-- An instruction that leaves its group as it is. -/
theorem effect_nothing {i : Instr} {s : State} {r : SplitRef} {g : Group} {act : Group → Nat → Mask}
    {f : State → SplitRef → Group → Group → Res} (h : Issuing s r g) (hi : exec i s = runRes act f s)
    (hf : f s.entered r (s.reads r g) (g.countWindows r.k) = .next (s.entered.setGroup r.group (g.countWindows r.k))) :
    Effect i s r g {} (fun _ => True) :=
  effect_of_group h hi hf (fun _ => trivial) (keeps_count g r.k _) (same_count g r.k)

/-- R84: an instruction under a uniform guard that fails. -/
theorem effect_unguarded {i : Instr} {s : State} {r : SplitRef} {g : Group} {act : Group → Nat → Mask} {gd : Guard}
    {f : State → SplitRef → Group → Group → Res} (h : Issuing s r g) (hi : exec i s = runRes act (underQ gd f) s)
    (hpass : (s.reads r g).passes gd = false) : Effect i s r g {} (fun _ => True) :=
  effect_nothing h hi (if_neg (ne_true_of_eq_false hpass))

/-! ## User causes -/

/-- `g` as a user cause finds it: what the raising rule may write first are FFLAGS and VIOLMASK (R263). -/
def Group.raisedWith (g : Group) (l : List Pending) (v : Mask) (f : DWord) : Group := { g with inflight := l, viol := v, fflags := f }

theorem trapEntered_enterTrap {s s1 t t' : State} {g g' : Group} {k : Nat} (hk : k < g.splits.length) {l : List Pending} {v : Mask} {f : DWord}
    {m : Mask} {e : Exc} (hn : Noted ((g.raisedWith l v f).enterTrap k m e) g' k) (hm : SameMemory s s1) (hm1 : SameMemory s1 t)
    (hm2 : SameMemory t t') : TrapEntered s t' g g' k m (causeCode e.cause) e.tval := by
  obtain ⟨a, b, n, x, hsp⟩ := hn.split k
  have hlen : k < ({ g.raisedWith l v f with trap := { g.trap with
      inHandler := true, hsplit := k, hmask := (g.split k).mask, family := BitVec.ofNat 4 (2 ^ k), tpc := (g.split k).pc, tmask := m,
      tcause := BitVec.ofNat 64 (causeCode e.cause), tval := e.tval } }.closeWindows k).splits.length := hk
  have here : ((g.raisedWith l v f).enterTrap k m e).split k =
      { g.split k with st := .issuing, clause := none, pc := g.handler, exempt := false, replay := false, held := none } :=
    split_modSplit_same _ _ hlen
  rw [here] at hsp
  have hothers : ∀ j, j ≠ k → g'.split j = g.split j := fun j hj => (hn.other hj).trans (split_modSplit_other _ _ hj)
  have hsplit := hsp
  obtain ⟨φ, rfl, -⟩ := hn
  exact
    { trap := rfl
      pc := by rw [hsplit]; rfl
      st := by rw [hsplit]
      clause := by rw [hsplit]
      mask := by rw [hsplit]
      ret := by rw [hsplit]
      div := by rw [hsplit]
      loops := by rw [hsplit]
      others := hothers
      vregs := rfl
      cals := rfl
      sregs := rfl
      pregs := rfl
      qregs := rfl
      aregs := rfl
      hregs := rfl
      ctl := rfl
      mem := hm.trans (hm1.trans hm2) }

/-- R264: where the handler may be entered, a user cause diverts its split to it. -/
theorem userTrap_enters {s0 s : State} {r : SplitRef} {g : Group} (hg : s.group? r.group = some g) (hmay : g.mayTrap) (m : Mask) (e : Exc) :
    s0.userTrap s r m e = (s.setGroup r.group (g.enterTrap r.k m e)).traceFlow r (g.split r.k).pc g.handler := by
  obtain ⟨hen, hin, hpos⟩ := hmay
  have hpos' : g.handler.extractLsb' 56 4 = 0 := hpos
  simp [State.userTrap, hg, Group.tvecEn, hen, hin, hpos']

/-- From a meaning that answers with a user cause. -/
theorem takesTrap_of_trap {i : Instr} {s s1 : State} {r : SplitRef} {g : Group} {act : Group → Nat → Mask}
    {f : State → SplitRef → Group → Group → Res} {e : Exc} {l : List Pending} {v : Mask} {fl : Flags} (h : Issuing s r g) (hmay : g.mayTrap)
    (hi : exec i s = runRes act f s) (hf : f s.entered r (s.reads r g) (g.countWindows r.k) = .trap e s1)
    (hc : causeClass e.cause = .user) (hg : s1.group? r.group = some (g.raisedWith l v (g.fflags ||| fl.setWidth 64)))
    (hm : SameMemory s s1) : TakesTrap i s r g (act g r.k) (causeCode e.cause) e.tval fl := by
  let gx := g.raisedWith l v (g.fflags ||| fl.setWidth 64)
  let x := ((s1.remoteDone (.split r)).setGroup r.group (gx.enterTrap r.k (act g r.k) e)).traceFlow r (gx.split r.k).pc gx.handler
  have hraise : s.entered.raise s1 r (act g r.k) e = x := by
    simp only [State.raise, hc]
    exact userTrap_enters (s := s1.remoteDone (.split r)) hg hmay _ e
  have htrace : TraceOnly ((s1.remoteDone (.split r)).setGroup r.group (gx.enterTrap r.k (act g r.k) e)) x := traceOnly_traceFlow _ _ _ _
  have hx : x.group? r.group = some (gx.enterTrap r.k (act g r.k) e) :=
    (htrace.group? r.group).trans (group_setGroup_same (s := s1.remoteDone (.split r)) hg)
  obtain ⟨φ, hφ, hsp⟩ := group_counted_same (s := s) (g := g) hx
  have hdone : SameMemory s1 (s1.remoteDone (.split r)) := SameMemory.refl s1
  have hmem : SameMemory s1 x := hdone.trans ((sameMemory_setGroup _ _ _).trans htrace.sameMemory)
  exact ⟨_, _, by rw [hi, runRes_trap h hf, hraise], hφ,
    trapEntered_enterTrap (split_lt h.used) ⟨φ, rfl, hsp⟩ hm hmem (sameMemory_counted s x r g), rfl⟩

/-- A user cause of a meaning over the group, which leaves the group as it is. -/
theorem takesTrap_of_group {i : Instr} {s : State} {r : SplitRef} {g : Group} {act : Group → Nat → Mask}
    {f : State → SplitRef → Group → Group → Res} {e : Exc} (h : Issuing s r g) (hmay : g.mayTrap) (hi : exec i s = runRes act f s)
    (hf : f s.entered r (s.reads r g) (g.countWindows r.k) = .trap e (s.entered.setGroup r.group (g.countWindows r.k)))
    (hc : causeClass e.cause = .user) : TakesTrap i s r g (act g r.k) (causeCode e.cause) e.tval 0 := by
  have hfl : g.countWindows r.k = g.raisedWith (g.countWindows r.k).inflight g.viol (g.fflags ||| (0 : Flags).setWidth 64) := by
    simp [Group.raisedWith, Group.countWindows]
  refine takesTrap_of_trap (l := (g.countWindows r.k).inflight) (v := g.viol) h hmay hi hf hc ?_ (sameMemory_setGroup s.entered _ _)
  rw [group_setGroup_same (s := s.entered) h.group, ← hfl]

/-! ## Fatal causes -/

theorem ctxs_logEcc (s : State) (slot die : Nat) (core : Option Nat) (e : Exc) : (s.logEcc slot die core e).ctxs = s.ctxs := by
  unfold State.logEcc
  split
  · simp
  · split <;> simp

/-- From a meaning that answers with a fatal cause, with the registers and splits of its group as they were. -/
theorem haltsAt_of_trap {i : Instr} {s s1 : State} {r : SplitRef} {g g1 : Group} {act : Group → Nat → Mask}
    {f : State → SplitRef → Group → Group → Res} {e : Exc} (h : Issuing s r g) (hi : exec i s = runRes act f s)
    (hf : f s.entered r (s.reads r g) (g.countWindows r.k) = .trap e s1) (hc : causeClass e.cause = .fatal)
    (hg : s1.group? r.group = some g1) (hr : g.SameRegs g1) (hs : g1.splits = g.splits) : HaltsAt i s r g (causeCode e.cause) := by
  have hne : e.cause ≠ .bound := fun hb => by rw [hb] at hc; exact absurd hc (by decide)
  let x := (s1.remoteDone (.split r)).logEcc r.slot (s1.dieOf r.slot r.lcid) (s1.portOf r.slot r.lcid).core e
  have hx : x.group? r.group = some g1 := by
    simp only [State.group?, State.ctx, x, ctxs_logEcc, State.remoteDone_ctxs] at hg ⊢
    exact hg
  have hsplit : g1.split r.k = g.split r.k := by rw [Group.split, hs, Group.split]
  obtain ⟨g2, hg2, hhalt, -⟩ := fatal_group hx (by rw [hs]; exact split_lt h.used) hne (act g r.k) false false
  have hraise : s.entered.raise s1 r (act g r.k) e = x.fatal r (act g r.k) e false false := by
    simp only [State.raise, hc]
    rfl
  obtain ⟨φ, hφ, hsp⟩ := group_counted_same (s := s) (g := g) hg2
  have hn : Noted g2 (g2.modSplit r.k φ) r.k := ⟨φ, rfl, hsp⟩
  obtain ⟨a, b, c, d, n, m, here⟩ := hhalt.here
  obtain ⟨a', b', n', d', hend⟩ := hn.split r.k
  rw [here, hsplit] at hend
  have hregs : g.SameRegs g2 := by
    obtain ⟨e1, e2, e3, e4, e5, e6, e7, e8, e9, e10, e11⟩ := hhalt.regs
    exact ⟨e1.trans hr.vregs, e2.trans hr.cals, e3.trans hr.sregs, e4.trans hr.pregs, e5.trans hr.qregs, e6.trans hr.aregs, e7.trans hr.hregs,
      e8.trans hr.viol, e9.trans hr.fflags, e10.trans hr.storeQ, e11.trans hr.batches⟩
  refine ⟨_, _, s1, act g r.k, e, hi.trans (runRes_trap h hf), rfl, hc, rfl, by rw [hraise]; exact hφ, hn.sameRegs hregs, ?_, ?_, ?_⟩ <;>
    rw [hend]

end Sys2Proof.Machine
end

section
/-! PROOF. NOP, SRD, GTIMER.GET, MERID and MERID.DEV (R55, R349, R363, R370, R395). -/

namespace Sys2Proof.Machine

open Sys2Proof

/-- An instruction whose whole effect is a value for a uniform register under its guard. -/
theorem effect_setS {i : Instr} {s : State} {r : SplitRef} {g : Group} {act : Group → Nat → Mask} {f : State → SplitRef → Group → Group → Res}
    {n : Nat} {pass : Bool} {x : DWord} (h : Issuing s r g) (hn : n < g.sregs.length) (hi : exec i s = runRes act f s)
    (hf : f s.entered r (s.reads r g) (g.countWindows r.k) =
      .next (s.entered.setGroup r.group (if pass then (g.countWindows r.k).setS n x else g.countWindows r.k))) :
    Effect i s r g { s := [n] } (fun g' => g'.s n = if pass then x else g.s n) := by
  cases pass with
  | true => exact effect_of_group h hi hf (fun _ => s_setS_same _ x hn) (keeps_setS (keeps_count g r.k _) (by simp) x) (same_count g r.k)
  | false => exact effect_of_group h hi hf (fun _ => rfl) (keeps_count g r.k _) (same_count g r.k)

theorem srdRes_uni (gd : Guard) (u : SReg) (n : BitVec 8) (s : State) (r : SplitRef) (src g : Group) :
    srdRes gd (.uni u n) s r src g =
      .next (s.setGroup r.group (if src.passes gd then g.setS u.toNat (specialVal s r g n) else g)) := rfl

/-- LANEID or LORIGIN of lane `j` (Table 3.2). -/
def laneSpecial (g : Group) (n : BitVec 8) (j : Nat) : Word := if n = 0 then BitVec.ofNat 32 j else regGet 0 g.ctl.lorigin j

/-- R395: SRD of a per-lane register. -/
theorem srd_vec {s : State} {r : SplitRef} {g : Group} (h : Issuing s r g) (gd : Guard) (d : VReg) (n : BitVec 8)
    (hd : d.toNat < g.vregs.length) :
    Effect (.srd gd (.vec d n)) s r g { v := [d.toNat] } (fun g' => ∀ j, j < 32 → g'.v d.toNat j =
      if Mask.has ((s.reads r g).active r.k gd) j then laneSpecial g n j else g.v d.toNat j) := by
  have hwrite : ∀ (x : Lanes) (c : Caliper), (∀ j, j < 32 → regGet 0 x j = laneSpecial g n j) →
      srdRes gd (.vec d n) s.entered r (s.reads r g) (g.countWindows r.k) =
        .next (s.entered.setGroup r.group ((g.countWindows r.k).writeVec r.k d.toNat ((s.reads r g).active r.k gd) x c)) →
      Effect (.srd gd (.vec d n)) s r g { v := [d.toNat] } (fun g' => ∀ j, j < 32 → g'.v d.toNat j =
        if Mask.has ((s.reads r g).active r.k gd) j then laneSpecial g n j else g.v d.toNat j) := by
    intro x c hx hf
    refine effect_of_group (act := laneAct gd) h rfl hf (fun _ j hj => ?_) (keeps_writeVec (keeps_count g r.k _) (by simp) _ _ _)
      (same_writeVec (same_count g r.k) (split_lt h.used) _ _ _ _)
    rw [v_modSplit, v_writeVec (g.countWindows r.k) _ _ _ _ hd hj, hx j hj]
    rfl
  by_cases hn : n = 0
  · exact hwrite (perLane (fun j => BitVec.ofNat 32 j)) (some ⟨0, 31⟩) (fun j hj => by rw [regGet_perLane hj, laneSpecial, if_pos hn])
      (by simp [srdRes, hn])
  · exact hwrite g.ctl.lorigin none (fun j _ => by rw [laneSpecial, if_neg hn]) (by simp only [srdRes, if_neg hn]; rfl)

/-- Table 3.2: each register by its number. -/
theorem specialVal_table {s : State} {c : Context} (r : SplitRef) (g : Group) (hc : s.ctx r.slot = some c) :
    specialVal s r g 0x05 = BitVec.ofNat 64 (c.lc r.lcid).dieGrp ∧ specialVal s r g 0x18 = c.ctxclk ∧
      specialVal s r g 0x19 = (c.lc r.lcid).tags := by
  have hlc : s.lc r.slot r.lcid = c.lc r.lcid := by rw [State.lc, hc]
  refine ⟨?_, ?_, ?_⟩
  · rw [← hlc]; rfl
  · show (match s.ctx r.slot with | some c => c.ctxclk | none => 0) = _
    rw [hc]
  · rw [← hlc]; rfl

/-- The cohort slot registers (R45). -/
theorem specialVal_cohort (s : State) (r : SplitRef) (g : Group) {k : Nat} (hk : k < 4) :
    specialVal s r g (BitVec.ofNat 8 (9 + k)) = cohortReg g k := by
  interval_cases k <;> rfl

/-- Settles O22: each reads its register into the destination, and a number of Table 3.2 names one register. -/
theorem systemReads : Obligations.SystemReads := by
  refine ⟨fun s r g c gd u d n h hc => ⟨?_, fun hu => ?_, fun hu => ?_, fun hu => ?_, fun hu => ?_, ?_⟩, fun s r g c hc => ?_⟩
  · exact effect_nothing (act := laneAct gd) (f := liftG (fun src g k => .ok (nopOp src g k))) h rfl rfl
  · exact effect_setS (act := laneAct gd) h hu rfl (srdRes_uni _ _ _ _ _ _ _)
  · refine effect_setS (act := uniAct gd) (f := liftG (fun src g k => .ok (gtimerGetOp gd u src g k))) h hu rfl rfl
  · have hmer : s.entered.ctxMeridian r.slot = s.meridian + c.merOff := by
      have hc' : s.entered.ctx r.slot = some c := hc
      rw [State.ctxMeridian, hc']
      rfl
    rw [← hmer]
    exact effect_setS (act := uniAct gd) (f := meridRes false gd u) h hu rfl rfl
  · exact effect_setS (act := uniAct gd) (f := meridRes true gd u) h hu rfl rfl
  · exact srd_vec h gd d n
  · obtain ⟨hdie, hclk, htags⟩ := specialVal_table r g hc
    exact ⟨rfl, rfl, rfl, rfl, hdie, rfl, rfl, fun k hk => specialVal_cohort s r g hk, rfl, rfl, rfl, rfl, rfl, rfl, rfl, rfl, hclk, htags, rfl⟩

end Sys2Proof.Machine
end

section
/-! PROOF. SWR, GTIMER and TRACEMARK (R55, R268, R309, R349, R399, R402). -/

namespace Sys2Proof.Machine

open Sys2Proof

/-! ## SWR and GTIMER -/

/-- An instruction whose effect `gx` touches no register and no split. -/
theorem effect_control {i : Instr} {s : State} {r : SplitRef} {g : Group} {w : Writes} {P : Group → Prop} {act : Group → Nat → Mask}
    {op : Group → Group → Nat → Group} (gx : Group) (h : Issuing s r g) (hi : exec i s = runOk act op s)
    (hop : op (s.reads r g) (g.countWindows r.k) r.k = gx) (hk : g.Keeps gx r.k w) (hs : gx.splits = g.splits)
    (hP : ∀ f, P (gx.modSplit r.k f)) : Effect i s r g w P :=
  effect_of_group (act := act) (f := liftG (fun src g k => .ok (op src g k))) h hi (by rw [liftG, hop]) hP hk
    ⟨⟨(g.split r.k).ovr, by rw [Group.split, hs]; rfl⟩, by rw [hs]⟩

/-- R399: SWR of the registers that it may write. -/
theorem swr_writes {s : State} {r : SplitRef} {g : Group} (h : Issuing s r g) (gd : Guard) (a : SReg) (hpass : (s.reads r g).passes gd = true) :
    let x := (s.reads r g).s a.toNat
    Effect (.swr gd 0x10 a) s r g { viol := true } (fun g' => g'.viol = x.extractLsb' 0 32) ∧
    Effect (.swr gd 0x11 a) s r g { flags := true } (fun g' => g'.fflags = x &&& 0x1F1F) ∧
    Effect (.swr gd 0x12 a) s r g { trap := true } (fun g' => g'.trap = { g.trap with tvec := x &&& ~~~6 }) ∧
    Effect (.swr gd 0x13 a) s r g { trap := true } (fun g' => g'.trap = { g.trap with tpc := x &&& ~~~7 }) := by
  intro x
  have hgd : ¬(!(s.reads r g).passes gd) = true := by simp [hpass]
  let gx := g.countWindows r.k
  refine ⟨?_, ?_, ?_, ?_⟩
  · exact effect_control (act := uniAct gd) (op := swrOp gd 0x10 a) { gx with viol := x.extractLsb' 0 32 } h rfl (if_neg hgd)
      { keeps_count g r.k _ with viol := fun e => absurd e Bool.noConfusion } rfl (fun _ => rfl)
  · exact effect_control (act := uniAct gd) (op := swrOp gd 0x11 a) { gx with fflags := x &&& 0x1F1F } h rfl (if_neg hgd)
      { keeps_count g r.k _ with flags := fun e => absurd e Bool.noConfusion } rfl (fun _ => rfl)
  · exact effect_control (act := uniAct gd) (op := swrOp gd 0x12 a) { gx with trap := { g.trap with tvec := x &&& ~~~6 } } h rfl (if_neg hgd)
      { keeps_count g r.k _ with trap := fun e => absurd e Bool.noConfusion } rfl (fun _ => rfl)
  · exact effect_control (act := uniAct gd) (op := swrOp gd 0x13 a) { gx with trap := { g.trap with tpc := x &&& ~~~7 } } h rfl (if_neg hgd)
      { keeps_count g r.k _ with trap := fun e => absurd e Bool.noConfusion } rfl (fun _ => rfl)

/-- R349: GTIMER. -/
theorem gtimer_writes {s : State} {r : SplitRef} {g : Group} (h : Issuing s r g) (gd : Guard) (a : SReg)
    (hpass : (s.reads r g).passes gd = true) :
    Effect (.gtimer gd a) s r g { trap := true } (fun g' => g'.trap =
      { g.trap with gtimer := ((s.reads r g).s a.toNat).toNat, tpend := false, tdue := false, tsplit := none }) :=
  effect_control (act := uniAct gd) (op := gtimerOp gd a) { g.countWindows r.k with trap :=
      { g.trap with gtimer := ((s.reads r g).s a.toNat).toNat, tpend := false, tdue := false, tsplit := none } } h rfl (if_pos hpass)
    { keeps_count g r.k _ with trap := fun e => absurd e Bool.noConfusion } rfl (fun _ => rfl)

/-! ## TRACEMARK -/

/-- The trace packets of a slot are no part of what counting an issue changes of a die. -/
theorem tickPkts_ended (s x : State) (r : SplitRef) (g : Group) (d slot : Nat) :
    (((s.counted (x.advance r) r g).die d).slot slot).tickPkts = ((x.die d).slot slot).tickPkts := by
  have hslots := congrArg Die.slots (die_counted s (x.advance r) r g d)
  dsimp only at hslots
  rw [Die.slot, hslots]
  simp [State.die, Die.slot]

/-- With a failing guard, or while EN or MK is clear, no packet is put. -/
theorem tracemark_off {s : State} {r : SplitRef} {src g : Group} {gd : Guard} {a : SReg}
    (hoff : (src.passes gd && traceOn ((s.die (s.dieOf r.slot r.lcid)).slot r.slot).trace &&
      ((s.die (s.dieOf r.slot r.lcid)).slot r.slot).trace.base.getLsbD 5) = false) :
    tracemarkRes gd a s r src g = .next (s.setGroup r.group g) := by
  unfold tracemarkRes underQ
  split
  · next hpass =>
    simp only [hpass, Bool.true_and, Bool.and_eq_false_iff] at hoff
    dsimp only
    split
    · next hmk =>
      have hen : traceOn ((s.die (s.dieOf r.slot r.lcid)).slot r.slot).trace = false := hoff.resolve_right (by simp [hmk])
      rw [State.traceAt, State.trace, hen]
      rfl
    · rfl
  · rfl

/-- R402: the MARK packet, while EN and MK are set. -/
theorem tracemark_on {s : State} {r : SplitRef} {src g : Group} {gd : Guard} {a : SReg}
    (hpass : src.passes gd = true) (hmk : ((s.die (s.dieOf r.slot r.lcid)).slot r.slot).trace.base.getLsbD 5 = true) :
    tracemarkRes gd a s r src g = .next ((s.traceAt r (g.split r.k).pc { type := 5, w := src.s a.toNat }).setGroup r.group g) := by
  refine (if_pos hpass).trans ?_
  simp only [hmk, if_true]

theorem tracemark_marks {s : State} {r : SplitRef} {g : Group} (h : Issuing s r g) (gd : Guard) (a : SReg) :
    let die := s.dieOf r.slot r.lcid
    let regs (t : State) : SlotRegs := (t.die die).slot r.slot
    (s.reads r g).passes gd = true → traceOn (regs s).trace = true → (regs s).trace.base.getLsbD 5 = true →
      die < s.dies.length → r.slot < (s.die die).slots.length →
        ∃ t g', exec (.tracemark gd a) s = .next t ∧ t.group? r.group = some g' ∧
          g.Keeps g' r.k {} ∧ WentOn (g.split r.k) (g'.split r.k) ∧ SameMemory s t ∧
          (regs t).tickPkts = (regs s).tickPkts ++
            [{ type := 5, r := r, hdr := pcHdr (g.split r.k).pc, pos := pcPos (g.split r.k).pc, w := (s.reads r g).s a.toNat }] := by
  intro die regs hpass hen hmk hdie hslot
  let p : Packet := { type := 5, w := (s.reads r g).s a.toNat }
  let s1 := s.entered.traceAt r (g.split r.k).pc p
  let x := s1.setGroup r.group (g.countWindows r.k)
  have hf : tracemarkRes gd a s.entered r (s.reads r g) (g.countWindows r.k) = .next x := tracemark_on (s := s.entered) hpass hmk
  have htrace : TraceOnly s s1 := TraceOnly.trans (t := s.entered) ⟨rfl, rfl⟩ (traceOnly_traceAt _ _ _ _)
  have hx : x.group? r.group = some (g.countWindows r.k) := group_setGroup_same ((htrace.group? r.group).trans h.group)
  obtain ⟨t, g', ht, hg', -, hkeep, hwent, -⟩ := effectAfter_of_next (i := .tracemark gd a) (s1 := x) (w := {}) (P := fun _ => True) (act := uniAct gd)
    (f := tracemarkRes gd a) h rfl hf hx (OnlyGroupAfter.refl x _) (keeps_count g r.k _) (same_count g r.k) (split_lt h.used) (fun _ _ => trivial)
  have htx : t = s.counted (x.advance r) r g := by
    have hrun : exec (.tracemark gd a) s = .next (s.counted (x.advance r) r g) := runRes_next (act := uniAct gd) h hf
    rw [hrun] at ht
    injection ht with ht
    exact ht.symm
  refine ⟨t, g', ht, hg', hkeep, hwent, ?_, ?_⟩
  · rw [htx]
    exact htrace.sameMemory.trans ((sameMemory_setGroup s1 _ _).trans ((sameMemory_modGroup x _ _).trans (sameMemory_counted s _ r g)))
  · have hput : regs x = { regs s with tickPkts := (regs s).tickPkts ++
        [{ type := 5, r := r, hdr := pcHdr (g.split r.k).pc, pos := pcPos (g.split r.k).pc, w := (s.reads r g).s a.toNat }] } := by
      have hs1 : s1 = s.entered.modSlotRegs die r.slot (fun y => { y with tickPkts := y.tickPkts ++
          [{ type := 5, r := r, hdr := pcHdr (g.split r.k).pc, pos := pcPos (g.split r.k).pc, w := (s.reads r g).s a.toNat }] }) := if_pos hen
      show ((x.die die).slot r.slot) = _
      rw [show x.die die = s1.die die by simp [State.die, x], hs1]
      exact slot_modSlotRegs_same (s := s.entered) hdie hslot _
    show ((t.die die).slot r.slot).tickPkts = _
    rw [htx, tickPkts_ended]
    exact congrArg SlotRegs.tickPkts hput

/-- Settles O23: SWR and GTIMER write their field and nothing else; TRACEMARK puts its packet while EN and MK are set. -/
theorem systemWrites : Obligations.SystemWrites := by
  refine ⟨fun s r g gd a n h => ⟨fun hpass => ?_, fun hpass => ⟨?_, ?_⟩⟩, fun s r g gd a h => ⟨fun hon => ?_, fun hoff => ?_⟩⟩
  · obtain ⟨h10, h11, h12, h13⟩ := swr_writes h gd a hpass
    exact ⟨h10, h11, h12, h13, gtimer_writes h gd a hpass⟩
  · exact effect_control (act := uniAct gd) (op := swrOp gd n a) (g.countWindows r.k) h rfl (if_pos (by simp [hpass])) (keeps_count g r.k _) rfl
      (fun _ => trivial)
  · exact effect_control (act := uniAct gd) (op := gtimerOp gd a) (g.countWindows r.k) h rfl (if_neg (by simp [hpass])) (keeps_count g r.k _) rfl
      (fun _ => trivial)
  · simp only [Bool.and_eq_true] at hon
    exact tracemark_marks h gd a hon.1.1 hon.1.2 hon.2
  · exact effect_nothing (act := uniAct gd) (f := tracemarkRes gd a) h rfl (tracemark_off (s := s.entered) hoff)

end Sys2Proof.Machine
end

section
/-! PROOF. ASET, AGET and AOFF (R68, R69, R314). -/

namespace Sys2Proof.Machine

open Sys2Proof

/-! ## A descriptor in four doublewords -/

/-- A word of 256 bits is its four doublewords. -/
theorem doublewords_append (x : BitVec 256) :
    x.extractLsb' 192 64 ++ x.extractLsb' 128 64 ++ x.extractLsb' 64 64 ++ x.extractLsb' 0 64 = x := by
  apply BitVec.eq_of_getLsbD_eq
  intro i hi
  simp only [BitVec.getLsbD_append, BitVec.getLsbD_extractLsb']
  split
  · next h => simp [h]
  · next h =>
    split
    · next h1 => simp [h1, show 64 + (i - 64) = i by omega]
    · next h1 =>
      split
      · next h2 => simp [h2, show 128 + (i - 64 - 64) = i by omega]
      · next h2 => simp [show i - 64 - 64 - 64 < 64 by omega, show 192 + (i - 64 - 64 - 64) = i by omega]

/-- The group with a descriptor in four uniform registers (R69). -/
def Group.setFour (g : Group) (n : Nat) (x : BitVec 256) : Group :=
  (((g.setS n (x.extractLsb' 0 64)).setS (n + 1) (x.extractLsb' 64 64)).setS (n + 2) (x.extractLsb' 128 64)).setS (n + 3)
    (x.extractLsb' 192 64)

theorem agetOp_passes {gd : Guard} {src : Group} (hpass : src.passes gd = true) (d : SReg) (a : AReg) (g : Group) (k : Nat) :
    agetOp gd d a src g k = g.setFour d.toNat (src.a a.toNat) := if_neg (by simp [hpass])

/-- The four registers, in any group whose uniform registers these are. -/
theorem setFour_read {g g' : Group} {n : Nat} {x : BitVec 256} (hs : g'.sregs = (g.setFour n x).sregs) (hn : n + 3 < g.sregs.length) :
    g'.s (n + 3) ++ g'.s (n + 2) ++ g'.s (n + 1) ++ g'.s n = x := by
  have heq : ∀ m, g'.s m = (g.setFour n x).s m := fun m => by rw [Group.s, hs, Group.s]
  have h0 : g'.s n = x.extractLsb' 0 64 := by
    rw [heq, Group.setFour, s_setS_other _ _ (by omega), s_setS_other _ _ (by omega), s_setS_other _ _ (by omega), s_setS_same _ _ (by omega)]
  have h1 : g'.s (n + 1) = x.extractLsb' 64 64 := by
    rw [heq, Group.setFour, s_setS_other _ _ (by omega), s_setS_other _ _ (by omega), s_setS_same _ _ (by simp [Group.setS]; omega)]
  have h2 : g'.s (n + 2) = x.extractLsb' 128 64 := by
    rw [heq, Group.setFour, s_setS_other _ _ (by omega), s_setS_same _ _ (by simp [Group.setS]; omega)]
  have h3 : g'.s (n + 3) = x.extractLsb' 192 64 := by
    rw [heq, Group.setFour, s_setS_same _ _ (by simp [Group.setS]; omega)]
  rw [h0, h1, h2, h3, doublewords_append]

theorem keeps_setFour {g g1 : Group} {k n : Nat} (h : g.Keeps g1 k { s := [n, n + 1, n + 2, n + 3] }) (x : BitVec 256) :
    g.Keeps (g1.setFour n x) k { s := [n, n + 1, n + 2, n + 3] } :=
  keeps_setS (keeps_setS (keeps_setS (keeps_setS h (by simp) _) (by simp) _) (by simp) _) (by simp) _

theorem same_setFour {g g1 : Group} {k : Nat} (h : g.SameSplit g1 k) (n : Nat) (x : BitVec 256) : g.SameSplit (g1.setFour n x) k :=
  same_setS (same_setS (same_setS (same_setS h _ _) _ _) _ _) _ _

/-! ## AOFF -/

/-- The bits of a descriptor that hold BASE, EXTENT and nothing else (Table 3.7). -/
def baseExtentMask : BitVec 256 := 0x7FFFFFFFFFFFFFFFFFFFFFFF

/-- A descriptor with another BASE and EXTENT. -/
def withExtent (x : BitVec 256) (base : DWord) (n : Nat) : BitVec 256 :=
  (x &&& ~~~baseExtentMask) ||| base.setWidth 256 ||| (BitVec.ofNat 256 n <<< 64)

theorem getLsbD_baseExtentMask (i : Nat) : baseExtentMask.getLsbD i = decide (i < 95) := by
  have h : baseExtentMask = BitVec.ofNat 256 (2 ^ 95 - 1) := by decide
  rw [h, BitVec.getLsbD_ofNat, Nat.testBit_two_pow_sub_one]
  by_cases hi : i < 95
  · simp [hi, show i < 256 by omega]
  · simp [hi]

/-- A bit of the new descriptor: of BASE, of EXTENT, or of the old one. -/
theorem getLsbD_withExtent (x : BitVec 256) (base : DWord) {n i : Nat} (hn : n < 2 ^ 31) (hi : i < 256) :
    (withExtent x base n).getLsbD i = if i < 64 then base.getLsbD i else if i < 95 then n.testBit (i - 64) else x.getLsbD i := by
  simp only [withExtent, BitVec.getLsbD_or, BitVec.getLsbD_and, BitVec.getLsbD_not, getLsbD_baseExtentMask, BitVec.getLsbD_setWidth,
    BitVec.getLsbD_shiftLeft, BitVec.getLsbD_ofNat, hi]
  by_cases h1 : i < 64
  · simp [h1, show i < 95 by omega]
  · have hbase : base.getLsbD i = false := BitVec.getLsbD_of_ge _ _ (by omega)
    by_cases h2 : i < 95
    · simp [h1, h2, hbase, show i - 64 < 256 by omega]
    · have hext : n.testBit (i - 64) = false := Nat.testBit_lt_two_pow (lt_of_lt_of_le hn (Nat.pow_le_pow_right (by omega) (by omega)))
      simp [h1, h2, hbase, hext]

theorem arBase_withExtent (x : BitVec 256) (base : DWord) {n : Nat} (hn : n < 2 ^ 31) : arBase (withExtent x base n) = base := by
  apply BitVec.eq_of_getLsbD_eq
  intro i hi
  rw [arBase, BitVec.getLsbD_extractLsb', Nat.zero_add, getLsbD_withExtent x base hn (by omega)]
  simp [hi]

theorem arExtent_withExtent (x : BitVec 256) (base : DWord) {n : Nat} (hn : n < 2 ^ 31) : arExtent (withExtent x base n) = n := by
  have h : (withExtent x base n).extractLsb' 64 31 = BitVec.ofNat 31 n := by
    apply BitVec.eq_of_getLsbD_eq
    intro i hi
    rw [BitVec.getLsbD_extractLsb', getLsbD_withExtent x base hn (by omega), BitVec.getLsbD_ofNat]
    simp [hi, show 64 + i < 95 by omega]
  rw [arExtent, h, BitVec.toNat_ofNat, Nat.mod_eq_of_lt hn]

theorem rest_withExtent (x : BitVec 256) (base : DWord) {n : Nat} (hn : n < 2 ^ 31) :
    (withExtent x base n).extractLsb' 95 161 = x.extractLsb' 95 161 := by
  apply BitVec.eq_of_getLsbD_eq
  intro i hi
  rw [BitVec.getLsbD_extractLsb', BitVec.getLsbD_extractLsb', getLsbD_withExtent x base hn (by omega)]
  simp [show ¬(95 + i < 64) by omega]

theorem arExtent_lt (x : BitVec 256) : arExtent x < 2 ^ 31 := (x.extractLsb' 64 31).isLt

section
variable {gd : Guard} {d a : AReg} {b : SReg} {src g : Group} {k : Nat} {n : Int}

/-- The order of AOFF's checks: BOUND, then ALIGN (R69). -/
theorem aoffOp_accepted (hpass : src.passes gd = true) (hbad : arBad (src.a a.toNat) = false)
    (hn : n = ((src.s b.toNat).extractLsb' 0 32).toInt) :
    aoffOp gd d a b src g k =
      if n < 0 ∨ (arExtent (src.a a.toNat) : Int) < n then .trap (Exc.plain .bound (BitVec.ofInt 64 n)) g
      else if (arEsz (src.a a.toNat) = 6 ∧ n % 2 ≠ 0) ∨ (arEsz (src.a a.toNat) = 5 ∧ n % 4 ≠ 0) then
        .trap (Exc.plain .align (BitVec.ofInt 64 n)) g
      else .ok (g.setA d.toNat (withExtent (src.a a.toNat)
        (arBase (src.a a.toNat) + BitVec.ofNat 64 (n.toNat * eszBits (arEsz (src.a a.toNat)) / 8)) (arExtent (src.a a.toNat) - n.toNat))) := by
  subst hn
  exact (if_neg (by simp [hpass])).trans (if_neg (by simp [hbad]))

end

section
variable {s : State} {r : SplitRef} {g : Group} (h : Issuing s r g) (gd : Guard) (d a : AReg) (u v : SReg)
include h

/-- R68: ASET holds an accepted descriptor whole. -/
theorem aset_holds {x : BitVec 256} (hpass : (s.reads r g).passes gd = true)
    (hx : x = (s.reads r g).s (u.toNat + 3) ++ (s.reads r g).s (u.toNat + 2) ++ (s.reads r g).s (u.toNat + 1) ++ (s.reads r g).s u.toNat)
    (hbad : arBad x = false) (hbase : arMisbased x = false) (hd : d.toNat < g.aregs.length) :
    Effect (.aset gd d u) s r g { a := [d.toNat] } (fun g' => g'.a d.toNat = x) := by
  have hop : asetOp gd d u (s.reads r g) (g.countWindows r.k) r.k = .ok ((g.countWindows r.k).setA d.toNat x) := by
    simp [asetOp, hpass, ← hx, hbad, hbase]
  exact effect_of_group (act := uniAct gd) (f := liftG (asetOp gd d u)) (g' := (g.countWindows r.k).setA d.toNat x) h rfl
    (by rw [liftG, hop]) (fun _ => a_setA_same (g.countWindows r.k) x hd) (keeps_setA (keeps_count g r.k _) (by simp) x) (same_count g r.k)

/-- R69: AGET reads a descriptor back. -/
theorem aget_reads (hpass : (s.reads r g).passes gd = true) (hv : v.toNat + 3 < g.sregs.length) :
    Effect (.aget gd v a) s r g { s := [v.toNat, v.toNat + 1, v.toNat + 2, v.toNat + 3] }
      (fun g' => g'.s (v.toNat + 3) ++ g'.s (v.toNat + 2) ++ g'.s (v.toNat + 1) ++ g'.s v.toNat = (s.reads r g).a a.toNat) := by
  exact effect_of_group (act := uniAct gd) (f := liftG (fun src g k => .ok (agetOp gd v a src g k)))
    (g' := (g.countWindows r.k).setFour v.toNat ((s.reads r g).a a.toNat)) h rfl (by rw [liftG, agetOp_passes hpass])
    (fun f => setFour_read (Group.modSplit_sregs _ _ _) hv) (keeps_setFour (keeps_count g r.k _) _) (same_setFour (same_count g r.k) _ _)

section
variable {x : BitVec 256} {n : Int} (hpass : (s.reads r g).passes gd = true) (hx : x = (s.reads r g).a a.toNat) (hbad : arBad x = false)
  (hn : n = (((s.reads r g).s u.toNat).extractLsb' 0 32).toInt)
include hpass hx hbad hn

/-- R69: AOFF advances a descriptor to its element N. -/
theorem aoff_advances (h0 : 0 ≤ n) (hle : n ≤ arExtent x) (h6 : arEsz x = 6 → n % 2 = 0) (h5 : arEsz x = 5 → n % 4 = 0)
    (hd : d.toNat < g.aregs.length) :
    Effect (.aoff gd d a u) s r g { a := [d.toNat] } (fun g' =>
      arBase (g'.a d.toNat) = arBase x + BitVec.ofNat 64 (n.toNat * eszBits (arEsz x) / 8) ∧
      (arExtent (g'.a d.toNat) : Int) = arExtent x - n ∧ (g'.a d.toNat).extractLsb' 95 161 = x.extractLsb' 95 161) := by
  subst hx
  have hop := aoffOp_accepted (d := d) (g := g.countWindows r.k) (k := r.k) hpass hbad hn
  rw [if_neg (by omega), if_neg (by rintro (⟨he, ho⟩ | ⟨he, ho⟩); exacts [ho (h6 he), ho (h5 he)])] at hop
  have hext : arExtent ((s.reads r g).a a.toNat) - n.toNat < 2 ^ 31 := lt_of_le_of_lt (Nat.sub_le _ _) (arExtent_lt _)
  refine effect_of_group (act := uniAct gd) (f := liftG (aoffOp gd d a u)) h rfl (by rw [liftG, hop]) (fun f => ?_)
    (keeps_setA (keeps_count g r.k _) (by simp) _) (same_count g r.k)
  rw [a_modSplit, a_setA_same (g.countWindows r.k) _ hd]
  exact ⟨arBase_withExtent _ _ hext, by rw [arExtent_withExtent _ _ hext]; omega, rest_withExtent _ _ hext⟩

/-- R69, R314: an element in the middle of a byte is ALIGN. -/
theorem aoff_align (hmay : g.mayTrap) (h0 : 0 ≤ n) (hle : n ≤ arExtent x)
    (hodd : (arEsz x = 6 ∧ n % 2 ≠ 0) ∨ (arEsz x = 5 ∧ n % 4 ≠ 0)) :
    TakesTrap (.aoff gd d a u) s r g (g.split r.k).mask 7 (BitVec.ofInt 64 n) 0 := by
  subst hx
  have hop := aoffOp_accepted (d := d) (g := g.countWindows r.k) (k := r.k) hpass hbad hn
  rw [if_neg (by omega), if_pos hodd] at hop
  exact takesTrap_of_group (i := .aoff gd d a u) (e := Exc.plain .align (BitVec.ofInt 64 n)) (act := uniAct gd)
    (f := liftG (aoffOp gd d a u)) h hmay rfl (by rw [liftG, hop]) rfl

/-- R69: an element beyond EXTENT is BOUND. -/
theorem aoff_bound (hmay : g.mayTrap) (hrange : n < 0 ∨ (arExtent x : Int) < n) :
    TakesTrap (.aoff gd d a u) s r g (g.split r.k).mask 5 (BitVec.ofInt 64 n) 0 := by
  subst hx
  have hop := aoffOp_accepted (d := d) (g := g.countWindows r.k) (k := r.k) hpass hbad hn
  rw [if_pos hrange] at hop
  exact takesTrap_of_group (i := .aoff gd d a u) (e := Exc.plain .bound (BitVec.ofInt 64 n)) (act := uniAct gd)
    (f := liftG (aoffOp gd d a u)) h hmay rfl (by rw [liftG, hop]) rfl

end

/-- R84: with a failing guard the three do nothing. -/
theorem arrays_unguarded (hpass : (s.reads r g).passes gd = false) :
    Effect (.aset gd d u) s r g {} (fun _ => True) ∧ Effect (.aget gd v a) s r g {} (fun _ => True) ∧
      Effect (.aoff gd d a u) s r g {} (fun _ => True) := by
  have hgd : (!(s.reads r g).passes gd) = true := by simp [hpass]
  exact ⟨effect_nothing (act := uniAct gd) (f := liftG (asetOp gd d u)) h rfl (by rw [liftG, asetOp, if_pos hgd]),
    effect_nothing (act := uniAct gd) (f := liftG (fun src g k => .ok (agetOp gd v a src g k))) h rfl (by rw [liftG, agetOp, if_pos hgd]),
    effect_nothing (act := uniAct gd) (f := liftG (aoffOp gd d a u)) h rfl (by rw [liftG, aoffOp, if_pos hgd])⟩

end

/-- Settles O13: the three instructions where their descriptor is accepted, AOFF with its checks in their order. -/
theorem arrayRegisters : Obligations.ArrayRegisters := by
  intro s r g gd d a u v x n h
  exact ⟨aset_holds h gd d u, aget_reads h gd a v, fun hpass hx hbad hn =>
    ⟨fun hrange => ⟨fun h6 h5 hd => aoff_advances h gd d a u hpass hx hbad hn hrange.1 hrange.2 h6 h5 hd,
      fun hmay hodd => aoff_align h gd d a u hpass hx hbad hn hmay hrange.1 hrange.2 hodd⟩,
      fun hmay hrange => aoff_bound h gd d a u hpass hx hbad hn hmay hrange⟩,
    arrays_unguarded h gd d a u v⟩

end Sys2Proof.Machine
end

section
/-! PROOF. CALGET, CALSET, CALTOP and WIDEN (R58, R67, R329, R406). -/

namespace Sys2Proof.Machine

open Sys2Proof

/-! ## Views after a write -/

/-- A change of the split that leaves its overrides leaves every view. -/
theorem view_modSplit {g : Group} {k : Nat} {φ : Split → Split} (hφ : ∀ sp, (φ sp).ovr = sp.ovr) (j n : Nat) :
    (g.modSplit k φ).view j n = g.view j n := by
  have hovr : ((g.modSplit k φ).split j).ovr = (g.split j).ovr := by
    by_cases hj : j = k
    · by_cases hk : k < g.splits.length
      · rw [hj, split_modSplit_same _ _ hk, hφ]
      · rw [modSplit_of_le (Nat.le_of_not_lt hk)]
    · rw [split_modSplit_other _ _ hj]
  rw [Group.view, Split.override?, hovr]
  rfl

/-- R58: the view of the split that writes, in the register that it writes. -/
theorem view_calWrite {g : Group} {k : Nat} (hk : k < g.splits.length) (r : Nat) {m : Mask} (hm : m ≠ 0) (c : Caliper) :
    (g.calWrite k r m c).view k r = if maskCovers m (g.split k).mask then c else hull (g.view k r) c := by
  rw [Group.calWrite, if_neg hm, Group.view, split_modSplit_same _ _ (by exact hk), override_setOverride_same, Option.getD_some]

/-- R67: after a reset of a caliper every split views it. -/
theorem view_calReset {g : Group} {r : Nat} {c : Caliper} (hr : c = none ∨ r < g.cals.length) (k : Nat) : (g.calReset r c).view k r = c := by
  have hcal : (g.calReset r c).cal r = c := by
    by_cases hlt : r < g.cals.length
    · exact regGet_regSet_same hlt
    · rw [hr.resolve_right hlt]
      simp [Group.cal, Group.calReset, regGet, regSet, Nat.le_of_not_lt hlt]
  have hovr : ((g.calReset r c).split k).override? r = none := by
    rw [Split.override?, Option.map_eq_none_iff, List.find?_eq_none]
    intro o ho
    have hsplit : (g.calReset r c).split k = (g.split k).dropOverride r ∨ (g.calReset r c).split k = Split.freeEntry := by
      by_cases hk : k < g.splits.length
      · exact .inl (by simp [Group.split, Group.calReset, regGet, hk])
      · exact .inr (by simp [Group.split, Group.calReset, regGet, hk])
    rcases hsplit with h | h <;> rw [h] at ho
    · simpa using (List.mem_filter.mp ho).2
    · exact absurd ho (List.not_mem_nil)
  rw [Group.view, hovr, hcal]
  rfl

/-! ## CALGET, CALSET, CALTOP -/

theorem keeps_calReset {g g1 : Group} {k r : Nat} {w : Writes} (h : g.Keeps g1 k w) (hr : r ∈ w.v) (ho : w.ovr = true) (c : Caliper) :
    g.Keeps (g1.calReset r c) k w :=
  { h with
    cal := fun n hn => (regGet_regSet_other (fun e : n = r => hn (e ▸ hr))).trans (h.cal n hn)
    splits := fun e => absurd e (by simp [ho])
    others := fun j hj => by
      rw [← h.others j hj]
      by_cases hlt : j < g1.splits.length <;> simp [Group.split, Group.calReset, regGet, hlt, Split.dropOverride] }

theorem same_calReset {g g1 : Group} {k : Nat} (h : g.SameSplit g1 k) (hk : k < g.splits.length) (r : Nat) (c : Caliper) :
    g.SameSplit (g1.calReset r c) k := by
  obtain ⟨⟨o, e⟩, hl⟩ := h
  have hk1 : k < g1.splits.length := by rw [hl]; exact hk
  have hs : (g1.calReset r c).split k = (g1.split k).dropOverride r := by simp [Group.split, Group.calReset, regGet, hk1]
  exact ⟨⟨_, by rw [hs, e]; rfl⟩, by simp [Group.calReset, hl]⟩

/-- An instruction that sets the caliper of a register in every split. -/
theorem effect_calReset {i : Instr} {s : State} {r : SplitRef} {g : Group} {act : Group → Nat → Mask}
    {f : State → SplitRef → Group → Group → Res} {n : Nat} {c : Caliper} (h : Issuing s r g) (hi : exec i s = runRes act f s)
    (hf : f s.entered r (s.reads r g) (g.countWindows r.k) = .next (s.entered.setGroup r.group ((g.countWindows r.k).calReset n c)))
    (hn : c = none ∨ n < g.cals.length) :
    Effect i s r g { v := [n], ovr := true } (fun g' => (∀ k, g'.view k n = c) ∧ g'.vec n = g.vec n) :=
  effect_of_views h hi hf (keeps_calReset (keeps_count g r.k _) (by simp) rfl c) (same_calReset (same_count g r.k) (split_lt h.used) n c)
    (fun _ hφ => ⟨fun k => (view_modSplit hφ k n).trans (view_calReset (g := g.countWindows r.k) hn k), rfl⟩)

/-! ## WIDEN -/

/-- The state in which WIDEN writes: with an inserted cycle, unless the view proves the bounds. -/
def widenState (s : State) (r : SplitRef) (proven : Bool) : State := if proven then s.entered else s.entered.insertCycle r

theorem onlyGroupAfter_widenState (s : State) (r : SplitRef) (p : Bool) : OnlyGroupAfter s (widenState s r p) r.group := by
  unfold widenState
  split
  · exact onlyGroupAfter_entered s _
  · exact (onlyGroupAfter_entered s _).insertCycle r

theorem widenState_parts (s : State) (r : SplitRef) (p : Bool) :
    (widenState s r p).pkg = s.pkg ∧ (widenState s r p).mem = s.mem ∧ (widenState s r p).ctxs = s.ctxs := by
  unfold widenState
  split
  · exact ⟨rfl, rfl, rfl⟩
  · unfold State.insertCycle
    split <;> simp [State.entered]

/-- The bounds of WIDEN, and the lanes that they refuse. -/
def widenBound (src : Group) (a : SReg) : Int := ((src.s a.toNat).extractLsb' 0 32).toInt

def widenOut (src : Group) (k : Nat) (gd : Guard) (d : VReg) (lo hi : Int) : Mask :=
  src.active k gd &&& Mask.ofFn (fun j => decide ((src.v d.toNat j).toInt < lo) || decide (hi < (src.v d.toNat j).toInt))

/-- Each active lane clamped to the bounds. -/
def widenLanes (src : Group) (d : VReg) (lo hi : Int) : Lanes := perLane (fun j => BitVec.ofInt 32 (min (max (src.v d.toNat j).toInt lo) hi))

section
variable {src g : Group} {gd : Guard} {d : VReg} {a b : SReg} {lo hi : Int} (hlo : widenBound src a = lo) (hhi : widenBound src b = hi)
  (hle : lo ≤ hi)
include hlo hhi hle

theorem widenRes_eq (clamp : Bool) (s : State) (r : SplitRef) :
    widenRes clamp gd d a b s r src g =
      let proven := provenIn (src.view r.k d.toNat) lo hi
      let s1 := if proven then s else s.insertCycle r
      let m := src.active r.k gd
      let out := widenOut src r.k gd d lo hi
      if !proven && !clamp && out != 0 then .trap (Exc.plain .caliper (out.setWidth 64)) (s1.setGroup r.group g)
      else .next (s1.setGroup r.group ((if !proven && clamp then g.setVec d.toNat m (widenLanes src d lo hi) else g).calWrite r.k d.toNat m
        (some ⟨lo, hi⟩))) := by
  subst hlo hhi
  exact if_neg (not_lt.mpr hle)

theorem widenRes_clamps (s : State) (r : SplitRef) (hp : provenIn (src.view r.k d.toNat) lo hi = false) :
    widenRes true gd d a b s r src g = .next ((s.insertCycle r).setGroup r.group
      ((g.setVec d.toNat (src.active r.k gd) (widenLanes src d lo hi)).calWrite r.k d.toNat (src.active r.k gd) (some ⟨lo, hi⟩))) := by
  rw [widenRes_eq hlo hhi hle]
  simp [hp]

/-- No lane is compared, or none lies outside: the caliper alone is written. -/
theorem widenRes_accepts (clamp : Bool) (s : State) (r : SplitRef)
    (h : provenIn (src.view r.k d.toNat) lo hi = true ∨ (clamp = false ∧ widenOut src r.k gd d lo hi = 0)) :
    widenRes clamp gd d a b s r src g = .next ((if provenIn (src.view r.k d.toNat) lo hi then s else s.insertCycle r).setGroup r.group
      (g.calWrite r.k d.toNat (src.active r.k gd) (some ⟨lo, hi⟩))) := by
  rw [widenRes_eq hlo hhi hle]
  rcases h with hp | ⟨hc, ho⟩
  · simp [hp]
  · simp [hc, ho]

theorem widenRes_traps (s : State) (r : SplitRef) (hp : provenIn (src.view r.k d.toNat) lo hi = false)
    (ho : widenOut src r.k gd d lo hi ≠ 0) :
    widenRes false gd d a b s r src g =
      .trap (Exc.plain .caliper ((widenOut src r.k gd d lo hi).setWidth 64)) ((s.insertCycle r).setGroup r.group g) := by
  rw [widenRes_eq hlo hhi hle]
  simpa [hp] using ho

end

/-- What WIDEN writes: a caliper, in a group `g1` whose calipers and overrides are still those before. -/
theorem effect_widen {i : Instr} {s : State} {r : SplitRef} {g g1 : Group} {act : Group → Nat → Mask}
    {f : State → SplitRef → Group → Group → Res} {n : Nat} {m : Mask} {c : Caliper} {p : Bool} (h : Issuing s r g)
    (hi : exec i s = runRes act f s) (hf : f s.entered r (s.reads r g) (g.countWindows r.k) =
      .next ((widenState s r p).setGroup r.group (g1.calWrite r.k n m c)))
    (hk : g.Keeps g1 r.k { v := [n] }) (hs : g1.splits = g.splits) (hc : g1.cals = g.cals) :
    Effect i s r g { v := [n] } (fun g' =>
      (m ≠ 0 → g'.view r.k n = if maskCovers m (g.split r.k).mask then c else hull (g.view r.k n) c) ∧ ∀ j, g'.vec j = g1.vec j) := by
  obtain ⟨hpkg, -, hctxs⟩ := widenState_parts s r p
  have hsplit : ∀ j, g1.split j = g.split j := fun j => by rw [Group.split, hs, Group.split]
  have hlen : r.k < g1.splits.length := by rw [hs]; exact split_lt h.used
  have hview : g1.view r.k n = g.view r.k n := by rw [Group.view, hsplit, Group.cal, hc]; rfl
  have hg : (widenState s r p).group? r.group = some g := by
    rw [← h.group, State.group?, State.group?, State.ctx, hctxs]
    rfl
  refine effect_of_state h hi hf (group_setGroup_same hg) ((onlyGroupAfter_widenState s r p).modGroup _) (by simp [hpkg])
    (keeps_calWrite hk (by simp) m c) (same_calWrite ⟨⟨(g.split r.k).ovr, by rw [hsplit]⟩, by rw [hs]⟩ (split_lt h.used) n m c)
    (fun φ hφ => ⟨fun hm => ?_, fun j => vec_calWrite g1 r.k n m c j⟩)
  rw [view_modSplit hφ, view_calWrite hlen n hm, hsplit, hview]

section
variable {s : State} {r : SplitRef} {g : Group} {gd : Guard} {d : VReg} {a b : SReg} {lo hi : Int}

/-- R67, R406: a write of the caliper alone. -/
theorem widen_accepts {i : Instr} (h : Issuing s r g) (clamp : Bool)
    (hexec : exec i s = runRes (laneAct gd) (widenRes clamp gd d a b) s)
    (hlo : widenBound (s.reads r g) a = lo) (hhi : widenBound (s.reads r g) b = hi) (hle : lo ≤ hi)
    (hp : provenIn ((s.reads r g).view r.k d.toNat) lo hi = true ∨ (clamp = false ∧ widenOut (s.reads r g) r.k gd d lo hi = 0)) :
    let m := (s.reads r g).active r.k gd
    Effect i s r g { v := [d.toNat] } (fun g' =>
      (m ≠ 0 → g'.view r.k d.toNat = if maskCovers m (g.split r.k).mask then some ⟨lo, hi⟩ else hull (g.view r.k d.toNat) (some ⟨lo, hi⟩)) ∧
        g'.vec d.toNat = g.vec d.toNat) := by
  have hw := effect_widen (g1 := g.countWindows r.k) h hexec (widenRes_accepts hlo hhi hle clamp s.entered r hp) (keeps_count g r.k _) rfl rfl
  obtain ⟨t, g', ht, hg', ⟨hcal, hvec⟩, hrest⟩ := hw
  exact ⟨t, g', ht, hg', ⟨hcal, hvec _⟩, hrest⟩

/-- R67, R406: a clamp of the active lanes. -/
theorem widen_clamps (h : Issuing s r g) (hd : d.toNat < g.vregs.length)
    (hlo : widenBound (s.reads r g) a = lo) (hhi : widenBound (s.reads r g) b = hi) (hle : lo ≤ hi)
    (hp : ¬provenIn ((s.reads r g).view r.k d.toNat) lo hi = true) :
    let m := (s.reads r g).active r.k gd
    Effect (.widenClamp gd d a b) s r g { v := [d.toNat] } (fun g' =>
      (m ≠ 0 → g'.view r.k d.toNat = if maskCovers m (g.split r.k).mask then some ⟨lo, hi⟩ else hull (g.view r.k d.toNat) (some ⟨lo, hi⟩)) ∧
        ∀ j, j < 32 → g'.v d.toNat j = if Mask.has m j then BitVec.ofInt 32 (min (max ((s.reads r g).v d.toNat j).toInt lo) hi)
          else g.v d.toNat j) := by
  intro m
  have hp' := eq_false_of_ne_true hp
  have hkeep : g.Keeps ((g.countWindows r.k).setVec d.toNat m (widenLanes (s.reads r g) d lo hi)) r.k { v := [d.toNat] } :=
    { keeps_count g r.k _ with vec := fun n hn => vec_setVec_other (g.countWindows r.k) _ _ (by simpa using hn) }
  have hf := widenRes_clamps (d := d) (gd := gd) (g := g.countWindows r.k) hlo hhi hle s.entered r hp'
  obtain ⟨t, g', ht, hg', ⟨hcal, hvec⟩, hrest⟩ := effect_widen (i := .widenClamp gd d a b) (act := laneAct gd)
    (f := widenRes true gd d a b) (p := false) h rfl hf hkeep rfl rfl
  refine ⟨t, g', ht, hg', ⟨hcal, fun j hj => ?_⟩, hrest⟩
  rw [Group.v, hvec]
  refine (v_setVec_same (g.countWindows r.k) m _ hd hj).trans ?_
  rw [widenLanes, regGet_perLane hj]
  rfl

/-- R406: lanes outside the bounds are CALIPER. -/
theorem widen_traps (h : Issuing s r g) (hmay : g.mayTrap)
    (hlo : widenBound (s.reads r g) a = lo) (hhi : widenBound (s.reads r g) b = hi) (hle : lo ≤ hi)
    (hp : ¬provenIn ((s.reads r g).view r.k d.toNat) lo hi = true) (ho : widenOut (s.reads r g) r.k gd d lo hi ≠ 0) :
    TakesTrap (.widenTrap gd d a b) s r g (g.active r.k gd) 6 ((widenOut (s.reads r g) r.k gd d lo hi).setWidth 64) 0 := by
  have hf := widenRes_traps (g := g.countWindows r.k) hlo hhi hle s.entered r (eq_false_of_ne_true hp) ho
  have hg : (s.entered.insertCycle r).group? r.group = some g := (group_insertCycle s.entered r r.group).trans h.group
  have hmem : SameMemory s (s.entered.insertCycle r) := sameMemory_of_ctxs (by simp [State.entered]) (by simp [State.entered])
  refine takesTrap_of_trap (i := .widenTrap gd d a b) (l := (g.countWindows r.k).inflight) (v := g.viol) (act := laneAct gd)
    (f := widenRes false gd d a b) (e := Exc.plain .caliper _) h hmay rfl hf rfl ?_ (hmem.trans (sameMemory_setGroup _ _ _))
  rw [group_setGroup_same hg]
  simp [Group.raisedWith, Group.countWindows]

end

/-- Settles O14: the caliper instructions set views or read them; WIDEN by what the view proves of the lanes. -/
theorem calipers : Obligations.Calipers := by
  refine ⟨fun s r g c gd u a h hc => ⟨fun hpass hu => ?get, fun hpass hsup hle ha => ?set, fun hpass => ?top, fun hpass => ?unguarded⟩,
    fun s r g gd d a b h hd hle => ⟨fun hp => ?clamp, fun hp => ?proven, fun hp => ?accept, fun hmay hp ho => ?trap⟩⟩
  case get =>
    have hgd : ¬(!(s.reads r g).passes gd) = true := by simp [hpass]
    refine effect_of_group (act := uniAct gd) (f := liftG (fun src g k => .ok (calgetOp gd u a src g k))) h rfl
      (by rw [liftG, calgetOp, if_neg hgd]) (fun _ => ?_) (keeps_setS (keeps_count g r.k _) (by simp) _) (same_count g r.k)
    rw [s_modSplit, s_setS_same (g.countWindows r.k) _ hu]
    cases (s.reads r g).view r.k a.toNat <;> rfl
  case set =>
    refine effect_calReset (act := uniAct gd) (f := calsetRes gd a u (wordOf (.calset gd a u))) h rfl ?_ (.inr ha)
    have hc' : s.entered.ctx r.slot = some c := hc
    simp only [calsetRes, underQ, if_pos hpass, hc', hsup]
    exact if_neg (not_lt.mpr hle)
  case top =>
    exact effect_calReset (act := uniAct gd) (f := liftG (fun src g k => .ok (caltopOp gd a src g k))) h rfl
      (by rw [liftG, caltopOp, if_pos hpass]) (.inl rfl)
  case unguarded =>
    have hgd : ¬(s.reads r g).passes gd = true := by simp [hpass]
    exact ⟨effect_nothing (act := uniAct gd) (f := liftG (fun src g k => .ok (calgetOp gd u a src g k))) h rfl
        (by rw [liftG, calgetOp, if_pos (by simp [hpass])]),
      effect_unguarded (act := uniAct gd) h rfl hpass,
      effect_nothing (act := uniAct gd) (f := liftG (fun src g k => .ok (caltopOp gd a src g k))) h rfl (by rw [liftG, caltopOp, if_neg hgd])⟩
  case clamp => exact widen_clamps h hd rfl rfl hle hp
  case proven => exact widen_accepts (i := .widenClamp gd d a b) h true rfl rfl rfl hle (.inl hp)
  case accept => exact widen_accepts (i := .widenTrap gd d a b) h false rfl rfl rfl hle (hp.imp_right fun ho => ⟨rfl, ho⟩)
  case trap => exact widen_traps h hmay rfl rfl hle hp ho

end Sys2Proof.Machine
end

section
/-! PROOF. Forms that are fatal at issue (R85, R133, R67 to R69, R129, R131). -/

namespace Sys2Proof.Machine

open Sys2Proof

/-! ## Fatal causes of a meaning -/

section
variable {i : Instr} {s : State} {r : SplitRef} {g : Group} {act : Group → Nat → Mask} {f : State → SplitRef → Group → Group → Res} {e : Exc}

/-- From a meaning that touches no group before its cause. -/
theorem haltsAt_bare (h : Issuing s r g) (hi : exec i s = runRes act f s)
    (hf : f s.entered r (s.reads r g) (g.countWindows r.k) = .trap e s.entered) (hc : causeClass e.cause = .fatal) :
    HaltsAt i s r g (causeCode e.cause) :=
  haltsAt_of_trap h hi hf hc h.group ⟨rfl, rfl, rfl, rfl, rfl, rfl, rfl, rfl, rfl, rfl, rfl⟩ rfl

/-- From a meaning that puts its group back as it was. -/
theorem haltsAt_kept (h : Issuing s r g) (hi : exec i s = runRes act f s)
    (hf : f s.entered r (s.reads r g) (g.countWindows r.k) = .trap e (s.entered.setGroup r.group (g.countWindows r.k)))
    (hc : causeClass e.cause = .fatal) : HaltsAt i s r g (causeCode e.cause) :=
  haltsAt_of_trap h hi hf hc (group_setGroup_same (s := s.entered) h.group) (sameRegs_countWindows g r.k) rfl

end

/-! ## The forms -/

section
variable (s : State) (r : SplitRef) (src g : Group)

theorem retRes_empty (gd : Guard) (w : DWord) (h : (g.split r.k).ret.chip = []) :
    retRes gd w s r src g = .trap (Exc.plain .illegal w) s := by
  have htop : (g.split r.k).top false = none := by
    rw [Split.top]
    exact List.getLast?_eq_none_iff.mpr h
  rw [retRes, htop]
  rfl

theorem loopRes_full (a : SReg) (disp : BitVec 32) (w : DWord) (h : (g.split r.k).openLevels = 4) :
    loopRes a disp w s r src g = .trap (Exc.plain .illegal w) s := if_pos h

theorem loopEndRes_closed (w : DWord) (h : (g.split r.k).innermost = none) : loopEndRes w s r src g = .trap (Exc.plain .illegal w) s := by
  rw [loopEndRes, h]
  rfl

theorem breaklRes_closed (gd : Guard) (w : DWord) (h : (g.split r.k).innermost = none) :
    breaklRes gd w s r src g = .trap (Exc.plain .illegal w) s := by
  rw [breaklRes, h]
  rfl

theorem rteRes_outside (next : Bool) (w : DWord)
    (h : g.trap.inHandler = false ∨ g.trap.hsplit ≠ r.k ∨ (g.split r.k).mask ≠ g.trap.hmask) :
    rteRes next w s r src g = .trap (Exc.plain .illegal w) s := by
  refine if_pos ?_
  rcases h with h | h | h <;> simp [h]

variable {src g} in
theorem widenRes_crossed (clamp : Bool) (gd : Guard) (d : VReg) {a b : SReg}
    (h : ((src.s b.toNat).extractLsb' 0 32).toInt < ((src.s a.toNat).extractLsb' 0 32).toInt) :
    widenRes clamp gd d a b s r src g = .trap (Exc.plain .format 0) (s.setGroup r.group g) := if_pos h

variable {fmt : BitVec 8} in
theorem withNarrow_other (f : NarrowFmt → GRes) (h : ∀ nf, elemFmt fmt ≠ some (.narrow nf)) :
    withNarrow fmt g f = .trap (Exc.plain .format 0) g := by
  unfold withNarrow
  split
  · exact absurd ‹_› (h _)
  · rfl
  · rfl

/-! ### MMA, MLD and MST -/

/-- R133: the group is whole and converged where no lane is missing. -/
theorem diverged_iff (k : Nat) : diverged g k = true ↔ ¬(g.ctl.live = Mask.full ∧ (g.split k).mask = Mask.full) := by
  simp only [diverged, Bool.or_eq_true, bne_iff_ne]
  tauto

variable {src g}

theorem mmaRes_diverged {o : MmaOp} (hp : src.passes o.g = true) (hd : diverged g r.k = true) (z : Bool) (w : DWord) :
    mmaRes z o w s r src g = .trap (Exc.plain .convergence w) s := (if_pos hp).trans (if_pos hd)

theorem mmaRes_malformed {o : MmaOp} (hp : src.passes o.g = true) (hd : ¬diverged g r.k = true)
    (h : ∀ f, fmtBlock (pairBits src o.f) = some f → MOperand.parse src f.tra o.a = none ∨ MOperand.parse src f.trb o.b = none)
    (z : Bool) (w : DWord) : mmaRes z o w s r src g = .trap (Exc.plain .format 0) s := by
  refine (if_pos hp).trans ((if_neg hd).trans ?_)
  cases hf : fmtBlock (pairBits src o.f) with
  | none => rfl
  | some f =>
    rcases h f hf with ha | hb
    · simp only [ha]
    · cases ha : MOperand.parse src f.tra o.a <;> simp only [ha, hb]

theorem mldRes_diverged {o : MldOp} (hp : src.passes o.g = true) (hd : diverged g r.k = true) (w : DWord) :
    mldRes o w s r src g = .trap (Exc.plain .convergence w) s := (if_pos hp).trans (if_pos hd)

theorem mldRes_malformed {o : MldOp} (hp : src.passes o.g = true) (hd : ¬diverged g r.k = true)
    (h : (fmtBlock (pairBits src o.f)).isNone = true ∨ spPair (pairBits src o.a) = none) (w : DWord) :
    mldRes o w s r src g = .trap (Exc.plain .format 0) s := by
  refine (if_pos hp).trans ((if_neg hd).trans ?_)
  cases ha : spPair (pairBits src o.a) with
  | none => rfl
  | some p =>
    have hf : fmtBlock (pairBits src o.f) = none := Option.isNone_iff_eq_none.mp (h.resolve_right (by simp [ha]))
    simp only [hf]

theorem mstRes_diverged {o : MstOp} (hp : src.passes o.g = true) (hd : diverged g r.k = true) (sum : Bool) (w : DWord) :
    mstRes sum o w s r src g = .trap (Exc.plain .convergence w) s := (if_pos hp).trans (if_pos hd)

theorem mstRes_malformed {o : MstOp} (hp : src.passes o.g = true) (hd : ¬diverged g r.k = true)
    (h : (fmtBlock (pairBits src o.f)).isNone = true ∨ spPair (pairBits src o.a) = none) (sum : Bool) (w : DWord) :
    mstRes sum o w s r src g = .trap (Exc.plain .format 0) s := by
  refine (if_pos hp).trans ((if_neg hd).trans ?_)
  cases ha : spPair (pairBits src o.a) with
  | none => rfl
  | some p =>
    have hf : fmtBlock (pairBits src o.f) = none := Option.isNone_iff_eq_none.mp (h.resolve_right (by simp [ha]))
    simp only [hf]

end

/-- Settles O21: each form's meaning answers with its fatal cause before it writes anything. -/
theorem fatalForms : Obligations.FatalForms := by
  intro s r g gd u v d a x y fmt disp ty rnd sat c o l m h hc
  have hctx : s.entered.ctx r.slot = some c := hc
  have hdiv := diverged_iff (g.countWindows r.k) r.k
  refine ⟨fun hret => ?ret, fun hfull => ?loop, fun hclosed => ?closed, fun hrte => ?rte, fun hp hbad => ?aset, fun hp hbad => ?aoff,
    fun hwide => ?cvtn, fun hp hsup => ?priv, fun hp hsup hlt => ?calset, fun hlt => ?widen,
    fun hp => ⟨fun hw => ?mmaDiverged, fun hw hbad => ?mma⟩, fun hp => ⟨fun hw => ?mldDiverged, fun hw hbad => ?mld⟩,
    fun hp => ⟨fun hw => ?mstDiverged, fun hw hbad => ?mst⟩⟩
  case ret => exact haltsAt_bare (act := laneAct gd) (f := retRes gd (wordOf (.ret gd))) h rfl (retRes_empty s.entered r _ _ gd _ hret) rfl
  case loop =>
    exact haltsAt_bare (act := uniAct Guard.always) (f := loopRes u disp (wordOf (.loop u disp))) h rfl
      (loopRes_full s.entered r _ _ u disp _ hfull) rfl
  case closed =>
    exact ⟨haltsAt_bare (act := uniAct Guard.always) (f := loopEndRes (wordOf .loopEnd)) h rfl (loopEndRes_closed s.entered r _ _ _ hclosed) rfl,
      haltsAt_bare (act := laneAct gd) (f := breaklRes gd (wordOf (.breakl gd))) h rfl (breaklRes_closed s.entered r _ _ gd _ hclosed) rfl⟩
  case rte =>
    exact ⟨haltsAt_bare (act := uniAct Guard.always) (f := rteRes false (wordOf .rte)) h rfl (rteRes_outside s.entered r _ _ false _ hrte) rfl,
      haltsAt_bare (act := uniAct Guard.always) (f := rteRes true (wordOf .rteNext)) h rfl (rteRes_outside s.entered r _ _ true _ hrte) rfl⟩
  case aset =>
    refine haltsAt_kept (e := Exc.plain .format 0) (act := uniAct gd) (f := liftG (asetOp gd d u)) h rfl ?_ rfl
    rw [liftG, asetOp, if_neg (by simp [hp]), if_pos (by simpa using hbad)]
  case aoff =>
    refine haltsAt_kept (e := Exc.plain .format 0) (act := uniAct gd) (f := liftG (aoffOp gd d a u)) h rfl ?_ rfl
    rw [liftG, aoffOp, if_neg (by simp [hp]), if_pos hbad]
  case cvtn =>
    refine haltsAt_kept (e := Exc.plain .format 0) (act := laneAct gd) (f := liftG (cvtnOp ⟨gd, x, y, ty, fmt, rnd, sat⟩)) h rfl ?_ rfl
    rw [liftG, cvtnOp, withNarrow_other _ _ hwide]
  case priv =>
    refine haltsAt_kept (e := Exc.plain .priv (wordOf (.calset gd x u))) (act := uniAct gd) (f := calsetRes gd x u (wordOf (.calset gd x u)))
      h rfl ?_ rfl
    simp only [calsetRes, underQ, if_pos hp, hctx, hsup]
    rfl
  case calset =>
    refine haltsAt_kept (e := Exc.plain .format 0) (act := uniAct gd) (f := calsetRes gd x u (wordOf (.calset gd x u))) h rfl ?_ rfl
    simp only [calsetRes, underQ, if_pos hp, hctx, hsup]
    exact if_pos hlt
  case widen =>
    exact ⟨haltsAt_kept (act := laneAct gd) (f := widenRes false gd x u v) h rfl (widenRes_crossed s.entered r false gd x hlt) rfl,
      haltsAt_kept (act := laneAct gd) (f := widenRes true gd x u v) h rfl (widenRes_crossed s.entered r true gd x hlt) rfl⟩
  case mmaDiverged =>
    have hd := hdiv.mpr hw
    exact ⟨haltsAt_bare (act := uniAct o.g) (f := mmaRes false o (wordOf (.mma o))) h rfl (mmaRes_diverged s.entered r hp hd _ _) rfl,
      haltsAt_bare (act := uniAct o.g) (f := mmaRes true o (wordOf (.mmaZ o))) h rfl (mmaRes_diverged s.entered r hp hd _ _) rfl⟩
  case mma =>
    have hd := mt hdiv.mp (not_not_intro hw)
    exact ⟨haltsAt_bare (act := uniAct o.g) (f := mmaRes false o (wordOf (.mma o))) h rfl (mmaRes_malformed s.entered r hp hd hbad _ _) rfl,
      haltsAt_bare (act := uniAct o.g) (f := mmaRes true o (wordOf (.mmaZ o))) h rfl (mmaRes_malformed s.entered r hp hd hbad _ _) rfl⟩
  case mldDiverged =>
    exact haltsAt_bare (act := uniAct l.g) (f := mldRes l (wordOf (.mld l))) h rfl (mldRes_diverged s.entered r hp (hdiv.mpr hw) _) rfl
  case mld =>
    exact haltsAt_bare (act := uniAct l.g) (f := mldRes l (wordOf (.mld l))) h rfl
      (mldRes_malformed s.entered r hp (mt hdiv.mp (not_not_intro hw)) hbad _) rfl
  case mstDiverged =>
    have hd := hdiv.mpr hw
    exact ⟨haltsAt_bare (act := uniAct m.g) (f := mstRes false m (wordOf (.mst m))) h rfl (mstRes_diverged s.entered r hp hd _ _) rfl,
      haltsAt_bare (act := uniAct m.g) (f := mstRes true m (wordOf (.mstSum m))) h rfl (mstRes_diverged s.entered r hp hd _ _) rfl⟩
  case mst =>
    have hd := mt hdiv.mp (not_not_intro hw)
    exact ⟨haltsAt_bare (act := uniAct m.g) (f := mstRes false m (wordOf (.mst m))) h rfl (mstRes_malformed s.entered r hp hd hbad _ _) rfl,
      haltsAt_bare (act := uniAct m.g) (f := mstRes true m (wordOf (.mstSum m))) h rfl (mstRes_malformed s.entered r hp hd hbad _ _) rfl⟩

end Sys2Proof.Machine
end

section
/-! PROOF. Completions of long-latency instructions (R60, R95, R113, R369). -/

namespace Sys2Proof.Machine

open Sys2Proof

/-! ## What one vector result changes -/

/-- `g'` is `g` but for vector registers of `regs`, their calipers, and overrides. -/
structure Group.ResultFrame (regs : List Nat) (g g' : Group) : Prop where
  fields : ∃ v c sp, g' = { g with vregs := v, cals := c, splits := sp }
  vlen   : g'.vregs.length = g.vregs.length
  clen   : g'.cals.length = g.cals.length
  used   : g'.usedSplits = g.usedSplits
  vec    : ∀ n, n ∉ regs → g'.vec n = g.vec n
  cal    : ∀ n, n ∉ regs → g'.cal n = g.cal n

theorem Group.ResultFrame.refl (g : Group) : g.ResultFrame [] g := ⟨⟨_, _, _, rfl⟩, rfl, rfl, rfl, fun _ _ => rfl, fun _ _ => rfl⟩

theorem Group.ResultFrame.ctl {regs : List Nat} {g g' : Group} (h : g.ResultFrame regs g') : g'.ctl = g.ctl := by
  obtain ⟨v, c, sp, e⟩ := h.fields
  rw [e]

theorem Group.ResultFrame.trans {a b : List Nat} {g g1 g2 : Group} (h : g.ResultFrame a g1) (h' : g1.ResultFrame b g2) :
    g.ResultFrame (a ++ b) g2 := by
  obtain ⟨v, c, sp, e⟩ := h.fields
  obtain ⟨v', c', sp', e'⟩ := h'.fields
  refine ⟨⟨v', c', sp', by rw [e', e]⟩, h'.vlen.trans h.vlen, h'.clen.trans h.clen, h'.used.trans h.used, fun n hn => ?_, fun n hn => ?_⟩
  · rw [List.mem_append, not_or] at hn
    exact (h'.vec n hn.2).trans (h.vec n hn.1)
  · rw [List.mem_append, not_or] at hn
    exact (h'.cal n hn.2).trans (h.cal n hn.1)

theorem usedSplits_congr {g g' : Group} (h : ∀ k, (g'.split k).st = (g.split k).st) : g'.usedSplits = g.usedSplits := by
  simp only [Group.usedSplits, Split.inUse, h]

/-! ### Splits changed in turn -/

section
variable {φ : Nat → Split → Split} {skip : Nat → Prop} [DecidablePred skip]

theorem foldl_modSplit_fields (ks : List Nat) (g : Group) :
    ∃ sp, ks.foldl (fun acc k => if skip k then acc else acc.modSplit k (φ k)) g = { g with splits := sp } := by
  induction ks generalizing g with
  | nil => exact ⟨_, rfl⟩
  | cons k ks ih =>
    rw [List.foldl_cons]
    split
    · exact ih g
    · obtain ⟨sp, e⟩ := ih (g.modSplit k (φ k))
      exact ⟨sp, e⟩

theorem st_foldl_modSplit (hφ : ∀ k sp, (φ k sp).st = sp.st) (ks : List Nat) (g : Group) (j : Nat) :
    ((ks.foldl (fun acc k => if skip k then acc else acc.modSplit k (φ k)) g).split j).st = (g.split j).st := by
  induction ks generalizing g with
  | nil => rfl
  | cons k ks ih =>
    rw [List.foldl_cons, ih]
    split
    · rfl
    · by_cases hj : j = k
      · by_cases hk : k < g.splits.length
        · rw [hj, split_modSplit_same _ _ hk, hφ]
        · rw [modSplit_of_le (Nat.le_of_not_lt hk)]
      · rw [split_modSplit_other _ _ hj]

/-- A split that the list does not name, or names and skips, stays. -/
theorem split_foldl_modSplit_other {ks : List Nat} {j : Nat} (hj : j ∉ ks) (g : Group) :
    (ks.foldl (fun acc k => if skip k then acc else acc.modSplit k (φ k)) g).split j = g.split j := by
  induction ks generalizing g with
  | nil => rfl
  | cons k ks ih =>
    rw [List.mem_cons, not_or] at hj
    rw [List.foldl_cons, ih hj.2]
    split
    · rfl
    · exact split_modSplit_other _ _ hj.1

theorem split_foldl_modSplit_same {ks : List Nat} (hn : ks.Nodup) {j : Nat} (hj : j ∈ ks) (hs : ¬skip j) {g : Group}
    (hlt : j < g.splits.length) :
    (ks.foldl (fun acc k => if skip k then acc else acc.modSplit k (φ k)) g).split j = φ j (g.split j) := by
  induction ks generalizing g with
  | nil => cases hj
  | cons k ks ih =>
    obtain ⟨hk, hn'⟩ := List.nodup_cons.mp hn
    rw [List.foldl_cons]
    rcases List.mem_cons.mp hj with rfl | hj'
    · rw [if_neg hs, split_foldl_modSplit_other hk, split_modSplit_same _ _ hlt]
    · have hne : j ≠ k := fun e => hk (e ▸ hj')
      split
      · exact ih hn' hj' hlt
      · rw [ih hn' hj' (by simpa using hlt), split_modSplit_other _ _ hne]

end

/-! ### The final interval -/

/-- The group caliper, and a split with its override, as `calFinal` leaves them. -/
def Group.finalCal (g : Group) (n : Nat) (m : Mask) (c : Caliper) : Caliper :=
  if decide (g.usedSplits.length ≤ 1) && maskCovers m g.ctl.live then c else hull (g.cal n) c

def Group.finalSplit (g : Group) (n : Nat) (m : Mask) (c : Caliper) (k : Nat) (sp : Split) : Split :=
  sp.setOverride n (if maskCovers m (g.split k).mask then c else hull (g.view k n) c)

section
variable (g : Group) (n : Nat) (m : Mask) (c : Caliper)

theorem calFinal_eq : g.calFinal n m c = if m = 0 then g else
    g.usedSplits.foldl (fun acc k => if (g.split k).mask &&& m = 0 then acc else acc.modSplit k (g.finalSplit n m c k))
      { g with cals := regSet g.cals n (g.finalCal n m c) } := rfl

theorem calFinal_fields : ∃ sp, g.calFinal n m c =
    { g with cals := if m = 0 then g.cals else regSet g.cals n (g.finalCal n m c), splits := sp } := by
  rw [calFinal_eq]
  split
  · exact ⟨g.splits, rfl⟩
  · exact foldl_modSplit_fields _ _

theorem vec_calFinal (j : Nat) : (g.calFinal n m c).vec j = g.vec j := by
  obtain ⟨sp, e⟩ := calFinal_fields g n m c
  rw [e]
  rfl

theorem used_calFinal : (g.calFinal n m c).usedSplits = g.usedSplits := by
  rw [calFinal_eq]
  split
  · rfl
  · exact usedSplits_congr (st_foldl_modSplit (φ := g.finalSplit n m c) (skip := fun k => (g.split k).mask &&& m = 0) (fun _ _ => rfl)
      g.usedSplits { g with cals := regSet g.cals n (g.finalCal n m c) })

theorem resultFrame_calFinal : g.ResultFrame [n] (g.calFinal n m c) := by
  obtain ⟨sp, e⟩ := calFinal_fields g n m c
  refine ⟨⟨_, _, _, e⟩, by rw [e], ?_, used_calFinal g n m c, fun j _ => vec_calFinal g n m c j, fun j hj => ?_⟩ <;> rw [e]
  · by_cases hm : m = 0 <;> simp only [hm, if_true, if_false, length_regSet]
  · by_cases hm : m = 0 <;> simp only [Group.cal, hm, if_true, if_false]
    exact regGet_regSet_other (by simpa using hj)

variable {g n} in
theorem cal_calFinal (hn : n < g.cals.length) : (g.calFinal n m c).cal n = if m = 0 then g.cal n
    else if g.usedSplits.length ≤ 1 ∧ g.ctl.live &&& ~~~m = 0 then c else hull (g.cal n) c := by
  obtain ⟨sp, e⟩ := calFinal_fields g n m c
  rw [e]
  by_cases hm : m = 0
  · simp [hm, Group.cal]
  · simp only [Group.cal, hm, if_false]
    refine (regGet_regSet_same hn).trans ?_
    simp [Group.finalCal, maskCovers, Group.cal]

end

theorem nodup_usedSplits (g : Group) : g.usedSplits.Nodup := List.nodup_range.filter _

theorem lt_of_mem_usedSplits {g : Group} {k : Nat} (hk : k ∈ g.usedSplits) : k < g.splits.length := by
  by_contra hlt
  have hfree : g.split k = Split.freeEntry := by simp [Group.split, regGet, Nat.le_of_not_lt hlt]
  have huse : (g.split k).inUse = true := (List.mem_filter.mp hk).2
  rw [hfree] at huse
  exact absurd huse (by decide)

theorem view_calFinal {g : Group} {k : Nat} (hk : k ∈ g.usedSplits) (n : Nat) {m : Mask} (hm : (g.split k).mask &&& m ≠ 0) (c : Caliper) :
    (g.calFinal n m c).view k n = if (g.split k).mask &&& ~~~m = 0 then c else hull (g.view k n) c := by
  have hm0 : m ≠ 0 := fun e => hm (by rw [e]; exact BitVec.and_zero)
  have hsplit : (g.calFinal n m c).split k = g.finalSplit n m c k (g.split k) := by
    rw [calFinal_eq, if_neg hm0]
    exact split_foldl_modSplit_same (skip := fun k => (g.split k).mask &&& m = 0) (nodup_usedSplits g) hk hm
      (g := { g with cals := regSet g.cals n (g.finalCal n m c) }) (lt_of_mem_usedSplits hk)
  rw [Group.view, hsplit, Group.finalSplit, override_setOverride_same, Option.getD_some]
  simp [maskCovers]

/-! ### One result -/

/-- What a completion does for one of its vector results. -/
def Group.finishVec (g : Group) (d : VecDest) : Group :=
  let m := d.mask &&& g.ctl.live
  if d.all then (g.setVec d.reg d.mask d.vals).calReset d.reg none
  else (g.setVec d.reg m d.vals).calFinal d.reg m d.cal

/-- What it does for one of its uniform results. -/
def Group.finishUni (g : Group) : UniDest → Group
  | .s r x => g.setS r x
  | .q r x => g.setQ r x

theorem finish_eq (g : Group) (p : Pending) :
    g.finish p = { (p.unis.foldl Group.finishUni (p.vecs.foldl Group.finishVec g)).accrue p.flags with
      inflight := (p.unis.foldl Group.finishUni (p.vecs.foldl Group.finishVec g)).inflight.filter (fun x => x.id != p.id) } := rfl

theorem resultFrame_setVec (g : Group) (n : Nat) (m : Mask) (x : Lanes) : g.ResultFrame [n] (g.setVec n m x) :=
  ⟨⟨_, _, _, rfl⟩, length_regSet, rfl, rfl, fun _ hj => vec_setVec_other g m x (by simpa using hj), fun _ _ => rfl⟩

theorem resultFrame_calReset (g : Group) (n : Nat) (c : Caliper) : g.ResultFrame [n] (g.calReset n c) := by
  refine ⟨⟨_, _, _, rfl⟩, rfl, length_regSet, usedSplits_congr (fun j => ?_), fun _ _ => rfl,
    fun _ hj => regGet_regSet_other (by simpa using hj)⟩
  by_cases hj : j < g.splits.length <;> simp [Group.split, Group.calReset, regGet, hj, Split.dropOverride]

theorem resultFrame_finishVec (g : Group) (d : VecDest) : g.ResultFrame [d.reg] (g.finishVec d) := by
  have key {g1 g2 : Group} (h : g.ResultFrame [d.reg] g1) (h' : g1.ResultFrame [d.reg] g2) : g.ResultFrame [d.reg] g2 := by
    obtain ⟨a, b, c, e, f, i⟩ := h.trans h'
    exact ⟨a, b, c, e, fun n hn => f n (by simpa using hn), fun n hn => i n (by simpa using hn)⟩
  unfold Group.finishVec
  extract_lets m
  split
  · exact key (resultFrame_setVec g d.reg d.mask d.vals) (resultFrame_calReset _ _ _)
  · exact key (resultFrame_setVec g d.reg m d.vals) (resultFrame_calFinal _ _ _ _)

theorem v_finishVec {g : Group} {d : VecDest} (hd : d.reg < g.vregs.length) {j : Nat} (hj : j < 32) :
    (g.finishVec d).v d.reg j = if Mask.has d.mask j && (d.all || Mask.has g.ctl.live j) then regGet 0 d.vals j else g.v d.reg j := by
  unfold Group.finishVec
  extract_lets m
  split
  case isTrue hall =>
    refine (v_setVec_same g d.mask d.vals hd hj).trans ?_
    simp [hall]
  case isFalse hall =>
    rw [Group.v, vec_calFinal]
    refine (v_setVec_same g m d.vals hd hj).trans ?_
    simp [hall, m, Mask.has]

theorem cal_finishVec {g : Group} {d : VecDest} (hd : d.reg < g.cals.length) :
    (g.finishVec d).cal d.reg = if d.all then none else if d.mask &&& g.ctl.live = 0 then g.cal d.reg
      else if g.usedSplits.length ≤ 1 ∧ g.ctl.live &&& ~~~(d.mask &&& g.ctl.live) = 0 then d.cal else hull (g.cal d.reg) d.cal := by
  unfold Group.finishVec
  extract_lets m
  split
  · exact regGet_regSet_same hd
  · exact cal_calFinal (g := g.setVec d.reg m d.vals) m d.cal hd

theorem view_finishVec {g : Group} {d : VecDest} (hall : d.all = false) {k : Nat} (hk : k ∈ g.usedSplits)
    (hm : (g.split k).mask &&& (d.mask &&& g.ctl.live) ≠ 0) : (g.finishVec d).view k d.reg =
      if (g.split k).mask &&& ~~~(d.mask &&& g.ctl.live) = 0 then d.cal else hull (g.view k d.reg) d.cal := by
  unfold Group.finishVec
  rw [if_neg (by simp [hall])]
  exact view_calFinal (g := g.setVec d.reg (d.mask &&& g.ctl.live) d.vals) hk d.reg hm d.cal

/-! ### All of them -/

theorem resultFrame_foldl (ds : List VecDest) (g : Group) : g.ResultFrame (ds.map (fun d => d.reg)) (ds.foldl Group.finishVec g) := by
  induction ds generalizing g with
  | nil => exact .refl g
  | cons d ds ih => exact (resultFrame_finishVec g d).trans (ih (g.finishVec d))

/-- A result of a register that no other result of the list writes is as it would be alone. -/
theorem foldl_finishVec_of_mem {ds : List VecDest} (hn : (ds.map (fun d => d.reg)).Nodup) {d : VecDest} (hd : d ∈ ds) (g : Group) :
    ∃ g1 a, d.reg ∉ a ∧ g.ResultFrame a g1 ∧ (ds.foldl Group.finishVec g).vec d.reg = (g1.finishVec d).vec d.reg ∧
      (ds.foldl Group.finishVec g).cal d.reg = (g1.finishVec d).cal d.reg := by
  obtain ⟨pre, post, rfl⟩ := List.append_of_mem hd
  rw [List.map_append, List.map_cons, List.nodup_append] at hn
  obtain ⟨-, hpost, hpre⟩ := hn
  have hp := resultFrame_foldl post ((pre.foldl Group.finishVec g).finishVec d)
  rw [List.foldl_append, List.foldl_cons]
  exact ⟨_, _, fun hmem => hpre _ hmem _ (List.mem_cons_self) rfl, resultFrame_foldl pre g,
    hp.vec _ (List.nodup_cons.mp hpost).1, hp.cal _ (List.nodup_cons.mp hpost).1⟩

theorem v_foldl_finishVec {ds : List VecDest} (hn : (ds.map (fun d => d.reg)).Nodup) {d : VecDest} (hd : d ∈ ds) {g : Group}
    (hlt : d.reg < g.vregs.length) {j : Nat} (hj : j < 32) : (ds.foldl Group.finishVec g).v d.reg j =
      if Mask.has d.mask j && (d.all || Mask.has g.ctl.live j) then regGet 0 d.vals j else g.v d.reg j := by
  obtain ⟨g1, a, hna, hfr, hvec, -⟩ := foldl_finishVec_of_mem hn hd g
  rw [Group.v, hvec]
  refine (v_finishVec (hfr.vlen ▸ hlt) hj).trans ?_
  rw [hfr.ctl, Group.v, hfr.vec _ hna]
  rfl

theorem cal_foldl_finishVec {ds : List VecDest} (hn : (ds.map (fun d => d.reg)).Nodup) {d : VecDest} (hd : d ∈ ds) {g : Group}
    (hlt : d.reg < g.cals.length) : (ds.foldl Group.finishVec g).cal d.reg =
      if d.all then none else if d.mask &&& g.ctl.live = 0 then g.cal d.reg
        else if g.usedSplits.length ≤ 1 ∧ g.ctl.live &&& ~~~(d.mask &&& g.ctl.live) = 0 then d.cal else hull (g.cal d.reg) d.cal := by
  obtain ⟨g1, a, hna, hfr, -, hcal⟩ := foldl_finishVec_of_mem hn hd g
  rw [hcal, cal_finishVec (hfr.clen ▸ hlt), hfr.ctl, hfr.used, hfr.cal _ hna]

/-! ### Uniform results and the rest -/

theorem foldl_finishUni_fields (us : List UniDest) (g : Group) :
    ∃ s q, us.foldl Group.finishUni g = { g with sregs := s, qregs := q } := by
  induction us generalizing g with
  | nil => exact ⟨_, _, rfl⟩
  | cons u us ih =>
    obtain ⟨s, q, e⟩ := ih (g.finishUni u)
    rw [List.foldl_cons, e]
    cases u with
    | s n x => exact ⟨_, _, rfl⟩
    | q n x => by_cases h : n = 7 <;> simp [Group.finishUni, Group.setQ, h]

/-- The group after a completion, by what changes: vector results, uniform results, flags, and what is in flight. -/
theorem finish_fields (g : Group) (p : Pending) : ∃ s q, g.finish p = { p.vecs.foldl Group.finishVec g with
    sregs := s, qregs := q, fflags := g.fflags ||| p.flags.setWidth 64, inflight := g.inflight.filter (fun x => x.id != p.id) } := by
  obtain ⟨s, q, e⟩ := foldl_finishUni_fields p.unis (p.vecs.foldl Group.finishVec g)
  obtain ⟨v, c, sp, hfr⟩ := (resultFrame_foldl p.vecs g).fields
  refine ⟨s, q, ?_⟩
  rw [finish_eq, e, hfr]
  rfl

section
variable {g : Group} {p : Pending} {n : Nat}

theorem finish_s {x : DWord} (h : p.unis = [.s n x]) (hn : n < g.sregs.length) : (g.finish p).s n = x := by
  obtain ⟨v, c, sp, hfr⟩ := (resultFrame_foldl p.vecs g).fields
  rw [finish_eq, h, hfr]
  exact regGet_regSet_same hn

theorem finish_q {x : Bool} (h : p.unis = [.q n x]) (h7 : n < 7) (hn : n < g.qregs.length) : (g.finish p).q n = x := by
  obtain ⟨v, c, sp, hfr⟩ := (resultFrame_foldl p.vecs g).fields
  have hq : (g.finish p).qregs = regSet g.qregs n x := by
    rw [finish_eq, h, hfr]
    simp [Group.finishUni, Group.setQ, Group.accrue, Nat.ne_of_lt h7]
  rw [Group.q, if_neg (Nat.ne_of_lt h7), hq, regGet_regSet_same hn]

theorem finish_q7 {x : Bool} (h : p.unis = [.q 7 x]) : (g.finish p).qregs = g.qregs := by
  obtain ⟨v, c, sp, hfr⟩ := (resultFrame_foldl p.vecs g).fields
  rw [finish_eq, h, hfr]
  rfl

theorem finish_noUnis (h : p.unis = []) : (g.finish p).sregs = g.sregs ∧ (g.finish p).qregs = g.qregs := by
  obtain ⟨v, c, sp, hfr⟩ := (resultFrame_foldl p.vecs g).fields
  rw [finish_eq, h, hfr]
  exact ⟨rfl, rfl⟩

end

/-! ## Stores that leave a queue -/

/-- What names an instruction in flight and the event that ends it. -/
def Pending.tag (p : Pending) : Nat × Unit3 := (p.id, p.kind)

/-- The group has `q` in its store queue, and the instructions of `tags` in flight. -/
def Holds (s : State) (r : GroupRef) (q : List StoreEnt) (tags : List (Nat × Unit3)) : Prop :=
  ∃ g, s.group? r = some g ∧ g.storeQ = q ∧ g.inflight.map Pending.tag = tags

section
variable {s t : State} {r : GroupRef} {q : List StoreEnt} {tags : List (Nat × Unit3)}

theorem Holds.congr (h : Holds s r q tags) (hc : t.group? r = s.group? r) : Holds t r q tags := by
  obtain ⟨g, hg, hq⟩ := h
  exact ⟨g, hc.trans hg, hq⟩

theorem Holds.of_ctxs (h : Holds s r q tags) (hc : t.ctxs = s.ctxs) : Holds t r q tags :=
  h.congr (by simp only [State.group?, State.ctx, hc])

theorem Holds.modGroup (h : Holds s r q tags) (x : GroupRef) {f : Group → Group}
    (hf : ∀ g, (f g).storeQ = g.storeQ ∧ (f g).inflight.map Pending.tag = g.inflight.map Pending.tag) : Holds (s.modGroup x f) r q tags := by
  by_cases hx : r = x
  · obtain ⟨g, hg, hq, ht⟩ := h
    obtain ⟨hfq, hft⟩ := hf g
    refine ⟨f g, ?_, hfq.trans hq, hft.trans ht⟩
    rw [← hx, group_modGroup_same, hg]
    rfl
  · exact h.congr (group_modGroup_other s f hx)

theorem group_modLc (s : State) (slot lcid : Nat) (f : LogicalCore → LogicalCore) (r : GroupRef) :
    (s.modLc slot lcid f).group? r = s.group? r := by
  by_cases hs : r.slot = slot
  · rw [State.group?, State.group?, hs, State.modLc, ctx_modCtx_same]
    cases s.ctx slot <;> rfl
  · rw [State.group?, State.group?, State.modLc, ctx_modCtx_other s _ hs]

theorem queue_windowPut (g : Group) (cls idx : Nat) (b : Byte) :
    (windowPut g cls idx b).storeQ = g.storeQ ∧ (windowPut g cls idx b).inflight = g.inflight := by
  unfold windowPut
  split
  · extract_lets n j
    split <;> exact ⟨rfl, rfl⟩
  · exact ⟨rfl, rfl⟩
  · split
    · unfold Group.setP
      split <;> exact ⟨rfl, rfl⟩
    · generalize List.range 8 = l
      induction l generalizing g with
      | nil => exact ⟨rfl, rfl⟩
      | cons k l ih =>
        obtain ⟨hq, hi⟩ := ih (g.setQ k (b.getLsbD k))
        rw [List.foldl_cons, hq, hi]
        unfold Group.setQ
        split <;> exact ⟨rfl, rfl⟩
  · exact ⟨rfl, rfl⟩

theorem Holds.putByteWr (h : Holds s r q tags) (slot : Nat) (w : ByteWr) : Holds (s.putByteWr slot w) r q tags := by
  unfold State.putByteWr
  split
  · split
    · exact h
    · exact h.of_ctxs rfl
  · exact h.congr (group_modLc s _ _ _ r)
  · exact h.modGroup _ fun g => by
      obtain ⟨hq, hi⟩ := queue_windowPut g _ _ _
      exact ⟨hq, by rw [hi]⟩

theorem ctxs_rewrite (s : State) (ws : List (Nat × Loc)) : (s.rewrite ws).ctxs = s.ctxs := by
  unfold State.rewrite
  split <;> rfl

theorem Holds.putAll (h : Holds s r q tags) (slot : Nat) (ws : List ByteWr) : Holds (s.putAll slot ws) r q tags := by
  suffices hw : Holds (ws.foldl (fun acc w => acc.putByteWr slot w) s) r q tags from hw.of_ctxs (ctxs_rewrite _ _)
  induction ws generalizing s with
  | nil => exact h
  | cons w ws ih => exact ih (h.putByteWr slot w)

theorem Holds.leave (h : Holds s r q tags) (x : GroupRef) (e : StoreEnt) : Holds (s.leave x e) r q tags := by
  have hcore (s1 : State) (h1 : Holds s1 r q tags) (here : List Nat) (ws : List ByteWr) :
      Holds ((s1.putAll x.slot ws).modGroup x (fun g => g.wrote here)) r q tags :=
    (h1.putAll x.slot ws).modGroup x fun g => ⟨rfl, by simp [Group.wrote, Pending.tag, Function.comp_def]⟩
  unfold State.leave
  extract_lets s1 here s2 w
  have h1 : Holds s1 r q tags := by
    simp only [s1]
    split
    · exact h.of_ctxs rfl
    · exact h
  have h2 : Holds s2 r q tags := hcore s1 h1 _ _
  split
  · exact h2
  · exact h2.congr (group_modLc s2 _ _ _ r)

/-- The oldest store leaves, and nothing else of the queue. -/
theorem Holds.drainHead (h : Holds s r q tags) : Holds (s.drainHead r) r q.tail tags := by
  obtain ⟨g, hg, hq, ht⟩ := h
  unfold State.drainHead
  simp only [hg, hq]
  cases q with
  | nil => exact ⟨g, hg, hq, ht⟩
  | cons e es => exact Holds.leave (s := s.setGroup r { g with storeQ := es }) ⟨_, group_setGroup_same hg, rfl, ht⟩ r e

theorem Holds.drain (h : Holds s r q tags) (n : Nat) : Holds (iterate (fun x => x.drainHead r) n s) r (q.drop n) tags := by
  induction n generalizing s q with
  | zero => exact h
  | succ n ih =>
    have := ih h.drainHead
    rwa [List.drop_tail] at this

/-- R369: with the last store of an MST all before it have left, and only those. -/
theorem Holds.drainMst (h : Holds s r q tags) (n : Nat) :
    ∃ left rest, q = left ++ rest ∧ (∀ e ∈ rest, e.mst ≠ some n) ∧ Holds (s.drainMst r n) r rest tags := by
  obtain ⟨g, hg, hq, ht⟩ := h
  let f : StoreEnt → Bool := fun e => e.mst != some n
  have hcut : q = (q.reverse.dropWhile f).reverse ++ (q.reverse.takeWhile f).reverse := by
    rw [← List.reverse_append, List.takeWhile_append_dropWhile, List.reverse_reverse]
  have hdrop : q.drop (q.length - (q.reverse.takeWhile f).length) = (q.reverse.takeWhile f).reverse := by
    have hlen := congrArg List.length hcut
    have hleft := List.drop_left (l₁ := (q.reverse.dropWhile f).reverse) (l₂ := (q.reverse.takeWhile f).reverse)
    rw [← hcut] at hleft
    rw [← hleft]
    simp only [List.length_append, List.length_reverse] at hlen ⊢
    congr 1
    omega
  refine ⟨_, _, hcut, fun e he => ?_, ?_⟩
  · simpa [f] using List.mem_takeWhile_imp (List.mem_reverse.mp he)
  · have hd := Holds.drain (s := s) (r := r) ⟨g, hg, hq, ht⟩ (q.length - (q.reverse.takeWhile f).length)
    rw [hdrop] at hd
    simpa only [State.drainMst, hg, hq] using hd

/-- Without a store of the MST none leaves. -/
theorem drainMst_none {g : Group} (hg : s.group? r = some g) {n : Nat} (h : ∀ e ∈ g.storeQ, e.mst ≠ some n) : s.drainMst r n = s := by
  have hall : g.storeQ.reverse.takeWhile (fun e => e.mst != some n) = g.storeQ.reverse :=
    List.takeWhile_eq_self_iff.mpr fun e he => by simpa using h e (List.mem_reverse.mp he)
  simp only [State.drainMst, hg, hall, List.length_reverse, Nat.sub_self]
  rfl

end

/-! ## The events -/

theorem find?_and {α : Type} {l : List α} {f h : α → Bool} {x : α} (hf : l.find? f = some x) (hx : h x = true) :
    l.find? (fun y => f y && h y) = some x := by
  obtain ⟨hfx, as, bs, rfl, has⟩ := List.find?_eq_some_iff_append.mp hf
  exact List.find?_eq_some_iff_append.mpr ⟨by simp [hfx, hx], as, bs, rfl, fun a ha => by
    rw [Bool.not_eq_true', Bool.and_eq_false_iff]
    exact .inl (by simpa using has a ha)⟩

/-- What a completion event does to its group. -/
def Group.completed (n : Nat) (kind : Unit3) (g : Group) : Group :=
  match g.inflight.find? (fun p => p.id == n && p.kind == kind) with
  | some p => g.finish p
  | none => g

theorem completed_of_find {g : Group} {p : Pending} {n : Nat} (h : g.inflight.find? (fun x => x.id == n) = some p) :
    g.completed n p.kind = g.finish p := by
  rw [Group.completed, find?_and (h := fun x => x.kind == p.kind) h (by simp)]

theorem complete_eq {s : State} (hc : s.clocked = true) (r : GroupRef) (n : Nat) (kind : Unit3) : s.complete r n kind =
    (if kind = .matrix then (s.mmaRead r (fun p => p.id == n)).drainMst r n else s).modGroup r (Group.completed n kind) := by
  unfold State.complete
  rw [if_neg (by simp [hc])]
  rfl

theorem tag_read (p : Pending) (g : Group) (n : Nat) (now : Cells) : (p.read g n now).tag = p.tag := by
  unfold Pending.read
  split
  · rfl
  · extract_lets m
    split <;> rfl

theorem read_noJob {p : Pending} (h : p.job = none) (g : Group) (n : Nat) (now : Cells) : p.read g n now = p := by
  rw [Pending.read, h]

/-- An MMA of a group reads: what is in flight changes, one by one. -/
theorem group_mmaRead {s : State} {r : GroupRef} {g : Group} (hg : s.group? r = some g) (which : Pending → Bool) :
    ∃ (d : Nat) (now : Cells), (s.mmaRead r which).group? r =
      some { g with inflight := g.inflight.map (fun p => if which p then p.read g d now else p) } := by
  refine ⟨s.freeCtr, (s.draw.2.lc r.slot r.lcid).scratch, ?_⟩
  have hd : s.draw.2.group? r = some g := hg
  exact (group_modGroup_same s.draw.2 r _).trans (by rw [hd]; rfl)

theorem sameMemory_mmaRead (s : State) (r : GroupRef) (which : Pending → Bool) : SameMemory s (s.mmaRead r which) :=
  sameMemory_modGroup s.draw.2 r _

/-- A completion of another kind, in place. -/
theorem complete_plain {s : State} (hc : s.clocked = true) {r : GroupRef} {g : Group} (hg : s.group? r = some g) {p : Pending}
    (hp : g.inflight.find? (fun x => x.id == p.id) = some p) (hk : p.kind ≠ .matrix) :
    (s.complete r p.id p.kind).group? r = some (g.finish p) ∧ SameMemory s (s.complete r p.id p.kind) := by
  rw [complete_eq hc, if_neg hk, group_modGroup_same, hg, Option.map_some, completed_of_find hp]
  exact ⟨rfl, sameMemory_modGroup s r _⟩

/-- A matrix completion with nothing to read and no store of its own: as the others, and what else has its number is gone too. -/
theorem complete_matrix {s : State} (hc : s.clocked = true) {r : GroupRef} {g : Group} (hg : s.group? r = some g) {p : Pending}
    (hp : g.inflight.find? (fun x => x.id == p.id) = some p) (hk : p.kind = .matrix) (hj : p.job = none)
    (hq : ∀ e ∈ g.storeQ, e.mst ≠ some p.id) :
    ∃ l, l.filter (fun x => x.id != p.id) = g.inflight.filter (fun x => x.id != p.id) ∧
      (s.complete r p.id .matrix).group? r = some ({ g with inflight := l }.finish p) ∧ SameMemory s (s.complete r p.id .matrix) := by
  obtain ⟨d, now, hread⟩ := group_mmaRead hg (fun x => x.id == p.id)
  let f : Pending → Pending := fun x => if x.id == p.id then x.read g d now else x
  have hid (x : Pending) : (f x).id = x.id := by
    simp only [f]
    split
    · exact congrArg Prod.fst (tag_read x g d now)
    · rfl
  have hfind : (g.inflight.map f).find? (fun x => x.id == p.id) = some p := by
    have hfp : f p = p := by simp [f, read_noJob hj]
    rw [List.find?_map, show (fun x : Pending => x.id == p.id) ∘ f = fun x => x.id == p.id from funext fun x => by simp [hid], hp,
      Option.map_some, hfp]
  refine ⟨g.inflight.map f, ?_, ?_, ?_⟩
  · rw [List.filter_map, show (fun x : Pending => x.id != p.id) ∘ f = fun x => x.id != p.id from funext fun x => by simp [hid]]
    refine (List.map_congr_left fun x hx => ?_).trans (List.map_id _)
    have hne : x.id ≠ p.id := by simpa using (List.mem_filter.mp hx).2
    simp [f, hne]
  · rw [complete_eq hc, if_pos rfl, drainMst_none hread hq, group_modGroup_same, hread, Option.map_some, ← hk,
      completed_of_find (g := { g with inflight := g.inflight.map f }) hfind]
  · rw [complete_eq hc, if_pos rfl, drainMst_none hread hq]
    exact (sameMemory_mmaRead s r _).trans (sameMemory_modGroup _ r _)

/-- R369: whatever a matrix instruction still reads or stores, its completion takes it out of flight and its rows out of the queue. -/
theorem complete_matrix_queue {s : State} (hc : s.clocked = true) {r : GroupRef} {g : Group} (hg : s.group? r = some g) {p : Pending}
    (hp : g.inflight.find? (fun x => x.id == p.id) = some p) (hk : p.kind = .matrix) :
    ∃ g', (s.complete r p.id .matrix).group? r = some g' ∧
      g'.inflight.map (fun x => x.id) = (g.inflight.filter (fun x => x.id != p.id)).map (fun x => x.id) ∧
      ∃ left, g.storeQ = left ++ g'.storeQ ∧ ∀ e ∈ g'.storeQ, e.mst ≠ some p.id := by
  obtain ⟨d, now, hread⟩ := group_mmaRead hg (fun x => x.id == p.id)
  have hholds : Holds (s.mmaRead r (fun x => x.id == p.id)) r g.storeQ (g.inflight.map Pending.tag) := by
    refine ⟨_, hread, rfl, ?_⟩
    rw [List.map_map]
    refine List.map_congr_left fun x _ => ?_
    simp only [Function.comp_apply]
    split
    · exact tag_read x g d now
    · rfl
  obtain ⟨left, rest, hcut, hrest, g2, hg2, hq2, ht2⟩ := hholds.drainMst p.id
  have hfind2 : ∃ x, g2.inflight.find? (fun x => x.id == p.id && x.kind == .matrix) = some x ∧ x.id = p.id := by
    obtain ⟨y, hy, htag⟩ : ∃ y ∈ g2.inflight, y.tag = p.tag := by
      have hm : p.tag ∈ g2.inflight.map Pending.tag := ht2 ▸ List.mem_map_of_mem (List.mem_of_find?_eq_some hp)
      simpa using hm
    obtain ⟨hid, hkind⟩ : y.id = p.id ∧ y.kind = p.kind := by simpa [Pending.tag] using htag
    cases hf : g2.inflight.find? (fun x => x.id == p.id && x.kind == .matrix) with
    | none => exact absurd (List.find?_eq_none.mp hf y hy) (by simp [hid, hkind, hk])
    | some x =>
      have hx := List.find?_some hf
      rw [Bool.and_eq_true, beq_iff_eq] at hx
      exact ⟨x, rfl, hx.1⟩
  obtain ⟨x, hx, hxid⟩ := hfind2
  obtain ⟨sr, qr, hfin⟩ := finish_fields g2 x
  obtain ⟨v, c, sp, hfr⟩ := (resultFrame_foldl x.vecs g2).fields
  refine ⟨g2.finish x, ?_, ?_, left, ?_, ?_⟩
  · rw [complete_eq hc, if_pos rfl, group_modGroup_same, hg2, Option.map_some, Group.completed, hx]
  · have hids : g2.inflight.map (fun x => x.id) = g.inflight.map (fun x => x.id) := by
      have := congrArg (List.map Prod.fst) ht2
      simpa [Pending.tag, Function.comp_def] using this
    have hfilter (l : List Pending) :
        (l.filter (fun x => x.id != p.id)).map (fun x => x.id) = (l.map (fun x => x.id)).filter (fun n => n != p.id) := by
      rw [List.filter_map]
      rfl
    rw [hfin, hxid]
    exact (hfilter _).trans (by rw [hids, hfilter])
  · rw [hfin, hfr]
    exact hcut.trans (by rw [hq2])
  · rw [hfin, hfr]
    intro e he
    exact hrest e (hq2 ▸ he)

/-- Settles O12: the result of each register by a fold over distinct registers; the queue by the stores that leave it one at a time. -/
theorem completion : Obligations.Completion := by
  intro s r g p hg hp hc hn hlt done
  have key (i : Instr) (t : State) (l : List Pending) (hi : exec i s = .next t) (ht : t.group? r = some ({ g with inflight := l }.finish p))
      (hl : l.filter (fun x => x.id != p.id) = g.inflight.filter (fun x => x.id != p.id)) (hm : SameMemory s t) : done i := by
    let g0 : Group := { g with inflight := l }
    obtain ⟨sr, qr, hfin⟩ := finish_fields g0 p
    have hfr := resultFrame_foldl p.vecs g0
    obtain ⟨v, c, sp, hfields⟩ := hfr.fields
    refine ⟨t, g0.finish p, hi, ht, fun d hd j hj => ?vec, fun n hout => ?frame, fun d hd hcal => ⟨?cal, fun hone hall k hk hm => ?view⟩,
      fun n x hu hlt => finish_s (g := g0) hu hlt,
      fun n x hu => ⟨fun h7 hlt => finish_q (g := g0) hu h7 hlt, fun h7 => finish_q7 (g := g0) (h7 ▸ hu)⟩, fun hu => finish_noUnis (g := g0) hu, ?rest⟩
    case vec =>
      rw [hfin]
      exact v_foldl_finishVec (g := g0) hn hd (hlt d hd) hj
    case frame =>
      rw [hfin]
      exact ⟨hfr.vec n hout, hfr.cal n hout⟩
    case cal =>
      rw [hfin]
      exact cal_foldl_finishVec (g := g0) hn hd hcal
    case view =>
      rw [hfin, hone]
      exact view_finishVec (g := g0) hall hk hm
    case rest =>
      rw [hfin, hfields]
      exact ⟨rfl, hl, rfl, rfl, rfl, rfl, hm⟩
  refine ⟨fun hk => ?alu, fun hk => ?load, fun hk hj hq => ?matrix, fun hk => ?queue⟩
  case alu =>
    obtain ⟨ht, hm⟩ := complete_plain hc hg hp (by simp [hk])
    rw [hk] at ht hm
    exact key _ _ g.inflight rfl ht rfl hm
  case load =>
    obtain ⟨ht, hm⟩ := complete_plain hc hg hp (by simp [hk])
    rw [hk] at ht hm
    exact key _ _ g.inflight rfl ht rfl hm
  case matrix =>
    obtain ⟨l, hl, ht, hm⟩ := complete_matrix hc hg hp hk hj hq
    exact key _ _ l rfl ht hl hm
  case queue =>
    obtain ⟨g', ht, hrest⟩ := complete_matrix_queue hc hg hp hk
    exact ⟨_, g', rfl, ht, hrest⟩

end Sys2Proof.Machine
end

section
/-! SUPPORT. Path-S addresses, scratchpad elements, and instructions that end in `done` (R356, R357, R396, R424). -/

namespace Sys2Proof.Machine

open Sys2Proof

/-! ## Little-endian numbers -/

theorem leNat_lt (b : List Byte) : leNat b < 256 ^ b.length := by
  induction b with
  | nil => simp [leNat]
  | cons x b ih =>
    have := x.isLt
    simp only [leNat, List.length_cons, pow_succ]
    omega

theorem getElem_natLe (n x i : Nat) (h : i < (natLe n x).length) : (natLe n x)[i] = BitVec.ofNat 8 (x / 256 ^ i) := by
  induction n generalizing x i with
  | zero => simp [natLe] at h
  | succ n ih =>
    cases i with
    | zero => simp [natLe]
    | succ i =>
      have hi : i < (natLe n (x / 256)).length := by simpa [natLe] using h
      have := ih (x / 256) i hi
      rw [Nat.div_div_eq_div_mul, ← pow_succ'] at this
      simpa [natLe] using this

/-! ## Path S -/

theorem toNat_pathS {a : Nat} (h : a < 2 ^ 20) : (pathS a).toNat = 3 * 2 ^ 60 + a := by
  have hbase : (0x3000000000000000 : DWord).toNat = 3 * 2 ^ 60 := rfl
  rw [pathS, BitVec.ofInt_natCast, BitVec.toNat_add, BitVec.toNat_ofNat, hbase]
  omega

theorem pathS_inj {a b : Nat} (ha : a < 2 ^ 20) (hb : b < 2 ^ 20) (h : pathS a = pathS b) : a = b := by
  have := congrArg BitVec.toNat h
  rw [toNat_pathS ha, toNat_pathS hb] at this
  omega

theorem pathS_add (a i : Nat) : pathS a + BitVec.ofNat 64 i = pathS ((a + i : Nat) : Int) := by
  rw [pathS, pathS, BitVec.ofInt_natCast, BitVec.ofInt_natCast, BitVec.add_assoc, ← BitVec.ofNat_add]

theorem addrPath_pathS {a : Nat} (h : a < 2 ^ 20) : addrPath (pathS a) = 3 := by
  rw [addrPath, BitVec.extractLsb'_toNat, toNat_pathS h, Nat.shiftRight_eq_div_pow]
  omega

theorem placeOf_pathS (c : Context) (lcid : Nat) {a : Nat} (h : a < 2 ^ 20) : placeOf c lcid (pathS a) = some (.scratch lcid a) := by
  have hzero : bitsOf (pathS a).toNat 20 40 = 0 := by
    rw [toNat_pathS h, bitsOf]
    omega
  have hoff : bitsOf (pathS a).toNat 0 20 = a := by
    rw [toNat_pathS h, bitsOf]
    omega
  simp only [placeOf, addrPath_pathS h, hzero, hoff, if_true]

/-! ## Scratchpad elements -/

/-- `w` bytes of the logical core's own scratchpad from `a`. -/
def scratchElem (w a : Nat) : Elem := Elem.plain (pathS a) w

/-- A byte of the scratchpad as the group sees it (R241). -/
def State.scratchByte (s : State) (cx : Cx) (a : Nat) : Byte :=
  forward (s.ownWrites cx) (.scratch cx.lcid a) (Cells.get (s.lc cx.slot cx.lcid).scratch a)

def State.scratchRun (s : State) (cx : Cx) (w a : Nat) : List Byte := (List.range w).map (fun i => s.scratchByte cx (a + i))

theorem spElems_eq (w n : Nat) {ls : List (Nat × Int)} (h : ∀ l ∈ ls, 0 ≤ l.2) :
    spElems w n ls = ls.map (fun l => (l.1, (List.range n).map (fun e => scratchElem w (l.2.toNat + e * w)))) := by
  refine List.map_congr_left fun l hl => ?_
  have hcast : (l.2.toNat : Int) = l.2 := Int.toNat_of_nonneg (h l hl)
  simp only [scratchElem, Nat.cast_add, hcast]

section
variable {s : State} {cx : Cx} {c : Context} {w : Nat} (hc : s.ctx cx.slot = some c) (hw : 0 < w)
include hc hw

theorem loadElem_scratch (generic : Bool) (hint : Nat) {a : Nat} (ha : a + w ≤ 2 ^ 20) (hsoft : s.softScratch cx.slot cx.lcid a w = false) :
    s.loadElem cx generic hint (scratchElem w a) = .ok (s.scratchRun cx w a) s := by
  have hp := placeOf_pathS c cx.lcid (a := a) (by omega)
  have hfit : ¬Config.scratchBytes < a + w := by
    rw [Config.scratchBytes]
    omega
  have hbytes : scratchBytes s cx (s.ownWrites cx) cx.lcid a w = s.scratchRun cx w a :=
    List.ext_getElem (by simp [scratchBytes, State.scratchRun, Cells.read])
      (fun i h1 h2 => by simp [scratchBytes, State.scratchRun, State.scratchByte, Cells.read])
  simp only [State.loadElem, hc, scratchElem, Elem.plain, hp, State.loadPlace, if_neg hfit, hsoft, hbytes]
  simp

/-- What the lanes before have read of the scratchpad is what stands there. -/
def SeenScratch (s : State) (cx : Cx) (seen : Seen) : Prop := ∀ y ∈ seen, ∀ a : Nat, a < 2 ^ 20 → y.1 = pathS a → y.2 = s.scratchByte cx a

omit hc hw in
theorem seen_over_scratch {seen : Seen} (h : SeenScratch s cx seen) {a : Nat} (ha : a + w ≤ 2 ^ 20) :
    Seen.over seen (pathS a) (s.scratchRun cx w a) = s.scratchRun cx w a := by
  refine List.ext_getElem (by simp [Seen.over]) (fun i h1 h2 => ?_)
  have hi : i < w := by simpa [State.scratchRun] using h2
  simp only [Seen.over, List.getElem_map, List.getElem_zipIdx, Nat.zero_add]
  split
  · next y hy =>
    have hkey : y.1 = pathS a + BitVec.ofNat 64 i := by simpa using List.find?_some hy
    rw [pathS_add] at hkey
    rw [h y (List.mem_of_find?_eq_some hy) (a + i) (by omega) hkey]
    simp [State.scratchRun]
  · rfl

omit hc hw in
theorem seen_append_scratch {seen : Seen} (h : SeenScratch s cx seen) {a : Nat} (ha : a + w ≤ 2 ^ 20) :
    SeenScratch s cx (seen ++ (s.scratchRun cx w a).zipIdx.map (fun x => (pathS a + BitVec.ofNat 64 x.2, x.1))) := by
  intro y hy b hb hyb
  rcases List.mem_append.mp hy with hy | hy
  · exact h y hy b hb hyb
  · obtain ⟨x, hx, rfl⟩ := List.mem_map.mp hy
    obtain ⟨i, hi, hx'⟩ := List.getElem_of_mem hx
    have hw' : i < w := by simpa [State.scratchRun] using hi
    obtain ⟨v, j⟩ := x
    simp only [List.getElem_zipIdx, Nat.zero_add, Prod.mk.injEq] at hx'
    obtain ⟨rfl, rfl⟩ := hx'
    rw [pathS_add] at hyb
    rw [← pathS_inj (a := a + i) (by omega) hb hyb]
    simp [State.scratchRun]

omit hc hw in
theorem value_scratch (a : Nat) : (scratchElem w a).value (s.scratchRun cx w a) = leNat (s.scratchRun cx w a) := by
  have hlt := leNat_lt (s.scratchRun cx w a)
  rw [State.scratchRun, List.length_map, List.length_range] at hlt
  rw [Elem.value, scratchElem, Elem.plain, pow_zero, Nat.div_one, pow_mul]
  exact Nat.mod_eq_of_lt hlt

theorem loadElems_scratch (generic : Bool) (hint : Nat) {as : List Nat}
    (h : ∀ a ∈ as, a + w ≤ 2 ^ 20 ∧ s.softScratch cx.slot cx.lcid a w = false) {seen : Seen} (hs : SeenScratch s cx seen) (acc : List Nat) :
    ∃ seen', SeenScratch s cx seen' ∧ s.loadElems cx generic hint (as.map (scratchElem w)) seen acc =
      .ok (seen', acc ++ as.map (fun a => leNat (s.scratchRun cx w a))) s := by
  induction as generalizing seen acc with
  | nil => exact ⟨seen, hs, by simp [State.loadElems]⟩
  | cons a as ih =>
    obtain ⟨hfit, hsoft⟩ := h a List.mem_cons_self
    obtain ⟨seen', hs', e⟩ := ih (fun b hb => h b (List.mem_cons_of_mem _ hb)) (seen_append_scratch (w := w) hs hfit)
      (acc ++ [leNat (s.scratchRun cx w a)])
    refine ⟨seen', hs', ?_⟩
    have hover : Seen.over seen (scratchElem w a).addr (s.scratchRun cx w a) = s.scratchRun cx w a := seen_over_scratch hs hfit
    simp only [List.map_cons, State.loadElems, loadElem_scratch hc hw generic hint hfit hsoft, hover, value_scratch]
    rw [show (scratchElem w a).addr = pathS a from rfl, e]
    simp

/-- R356: the values of every lane, where their bytes lie in the scratchpad. -/
theorem loadLanes_scratch (generic : Bool) (hint : Nat) {ls : List (Nat × List Nat)}
    (h : ∀ l ∈ ls, ∀ a ∈ l.2, a + w ≤ 2 ^ 20 ∧ s.softScratch cx.slot cx.lcid a w = false) {seen : Seen} (hs : SeenScratch s cx seen)
    (acc : List (Nat × List Nat)) : s.loadLanes cx generic hint (ls.map (fun l => (l.1, l.2.map (scratchElem w)))) seen acc =
      .ok (acc ++ ls.map (fun l => (l.1, l.2.map (fun a => leNat (s.scratchRun cx w a))))) s := by
  induction ls generalizing seen acc with
  | nil => simp [State.loadLanes]
  | cons l ls ih =>
    obtain ⟨seen', hs', e⟩ := loadElems_scratch hc hw generic hint (h l List.mem_cons_self) hs []
    simp only [List.map_cons, State.loadLanes, e]
    rw [ih (fun b hb => h b (List.mem_cons_of_mem _ hb)) hs']
    simp

end

/-! ## Stores to the scratchpad -/

/-- The writes of a value of `w` bytes to the scratchpad. -/
def scratchWrites (lcid w a x : Nat) : List ByteWr :=
  (List.range w).map (fun i => ⟨.scratch lcid (a + i), BitVec.ofNat 8 (x / 256 ^ i), 0xFF⟩)

theorem bytes_scratch (w a x : Nat) :
    (scratchElem w a).bytes x = (List.range w).map (fun i => (BitVec.ofNat 8 (x / 256 ^ i), (0xFF : Byte))) := by
  refine List.ext_getElem (by simp [Elem.bytes, scratchElem, Elem.plain, length_natLe]) (fun i h1 h2 => ?_)
  have hi : i < w := by simpa using h2
  have hpow : 2 ^ (8 * w) = 256 ^ (w - 1 - i) * 256 * 256 ^ i := by
    rw [pow_mul, ← pow_succ, ← pow_add]
    congr 1
    omega
  have hval : BitVec.ofNat 8 (x % 2 ^ (8 * w) / 256 ^ i) = BitVec.ofNat 8 (x / 256 ^ i) := by
    rw [hpow, Nat.mul_comm _ (256 ^ i), Nat.mod_mul_right_div_self]
    apply BitVec.eq_of_toNat_eq
    rw [BitVec.toNat_ofNat, BitVec.toNat_ofNat]
    exact Nat.mod_mul_left_mod _ _ _
  have hones : BitVec.ofNat 8 ((2 ^ (8 * w) - 1) / 256 ^ i) = 0xFF := by
    have hdiv : (2 ^ (8 * w) - 1) / 256 ^ i = 256 ^ (w - 1 - i) * 256 - 1 := by
      have hpos : 0 < 256 ^ i * (256 ^ (w - 1 - i) * 256) := by positivity
      rw [hpow, Nat.mul_comm _ (256 ^ i), Nat.mul_sub_div 0 _ _ hpos, Nat.zero_div]
    have hpos : 0 < 256 ^ (w - 1 - i) := by positivity
    apply BitVec.eq_of_toNat_eq
    rw [hdiv, BitVec.toNat_ofNat]
    show (256 ^ (w - 1 - i) * 256 - 1) % 256 = 255
    omega
  simp only [Elem.bytes, scratchElem, Elem.plain, pow_zero, Nat.mul_one, List.getElem_zip, getElem_natLe, List.getElem_map, List.getElem_range,
    hval, hones]

section
variable {s : State} {cx : Cx} {c : Context} {w : Nat}

theorem transElems_scratch (acc : Acc) {as : List Nat} (h : ∀ a ∈ as, a < 2 ^ 20) :
    s.transElems cx acc (as.map (scratchElem w)) = .ok () s := by
  induction as with
  | nil => rfl
  | cons a as ih =>
    have hp : 2 < addrPath (scratchElem w a).addr := by
      rw [show (scratchElem w a).addr = pathS a from rfl, addrPath_pathS (h a List.mem_cons_self)]
      decide
    rw [List.map_cons, State.transElems, if_pos hp]
    exact ih fun b hb => h b (List.mem_cons_of_mem _ hb)

theorem storeElems_scratch (hc : s.ctx cx.slot = some c) (hw : 0 < w) (hint : Nat) {ps : List (Nat × Nat)} (h : ∀ p ∈ ps, p.1 + w ≤ 2 ^ 20)
    (wr : List ByteWr) (ln : List Nat) : s.storeElems cx hint (ps.map (fun p => (scratchElem w p.1, p.2))) wr ln =
      .ok (wr ++ ps.flatMap (fun p => scratchWrites cx.lcid w p.1 p.2), ln) s := by
  induction ps generalizing wr ln with
  | nil => simp [State.storeElems]
  | cons p ps ih =>
    have hfit := h p List.mem_cons_self
    have hplace := placeOf_pathS c cx.lcid (a := p.1) (by omega)
    have hlen : ((scratchElem w p.1).bytes p.2).length = w := by simp [bytes_scratch]
    have hstore : s.storePlace cx (pathS p.1) ((scratchElem w p.1).bytes p.2) (scratchElem w p.1).packed hint (.scratch cx.lcid p.1) =
        .ok (scratchWrites cx.lcid w p.1 p.2, []) s := by
      simp only [State.storePlace, hlen]
      rw [if_neg (by rw [Config.scratchBytes]; omega)]
      congr 2
      exact List.ext_getElem (by simp [bytes_scratch, scratchWrites]) (fun i h1 h2 => by simp [bytes_scratch, scratchWrites])
    simp only [List.map_cons, State.storeElems, hc, show (scratchElem w p.1).addr = pathS p.1 from rfl, hplace, hstore]
    rw [ih fun q hq => h q (List.mem_cons_of_mem _ hq)]
    simp

end

/-! ## Instructions that end in `done` -/

section
variable {i : Instr} {s s1 : State} {r : SplitRef} {g g1 : Group} {w : Writes} {P : Group → Prop} {act : Group → Nat → Mask}
  {f : State → SplitRef → Group → Group → Res}

/-- From a meaning that ends with a change of the group of `s1`. -/
theorem effectAfter_done {φ : Group → Group} (h : Issuing s r g) (hi : exec i s = runRes act f s)
    (hf : f s.entered r (s.reads r g) (g.countWindows r.k) = .next (s1.done r φ)) (hs : Still s1 r g1)
    (hk : g1.Keeps (φ (g1.countWindows r.k)) r.k w) (hsame : g1.SameSplit (φ (g1.countWindows r.k)) r.k)
    (hP : ∀ ψ : Split → Split, (∀ sp, (ψ sp).ovr = sp.ovr) → P ((φ (g1.countWindows r.k)).modSplit r.k ψ)) :
    EffectAfter i s s1 r g1 w P := by
  obtain ⟨hg, hu⟩ := hs
  have hgx : (s1.done r φ).group? r.group = some (φ (g1.countWindows r.k)) := by rw [group_done, hg, Option.map_some]
  exact effectAfter_of_next h hi hf hgx ((OnlyGroupAfter.refl s1 r.group).done _) hk hsame (split_lt hu) hP

/-- From a meaning that ends by opening a long-latency instruction. -/
theorem effectAfter_open {la : LA} {kind : Unit3} {vecs : List VecDest} {unis : List UniDest} {fl : Flags} (h : Issuing s r g)
    (hi : exec i s = runRes act f s) (hs : Still s1 r g1) (ha : ∀ d ∈ vecs, d.all = false)
    (hf : f s.entered r (s.reads r g) (g.countWindows r.k) = .next (s1.done r (fun x => x.issueLong r.k la kind vecs unis fl))) :
    EffectAfter i s s1 r g1 { v := vecs.map (fun d => d.reg), long := true } (fun g' => Opens g1 g' r.k kind la vecs unis fl) :=
  have hk : r.k < g1.splits.length := split_lt hs.2
  effectAfter_done h hi hf hs
    (keeps_issueLong ha (keeps_count g1 r.k { v := vecs.map (fun d => d.reg), long := true }) (fun _ hd => List.mem_map_of_mem hd) rfl la kind
      unis fl)
    (same_issueLong ha (same_count g1 r.k) hk la kind unis fl)
    (fun _ hφ => opens_issueLong (g1 := g1.countWindows r.k) ha hk rfl rfl rfl rfl la kind unis fl hφ)

/-- From a meaning that ends by entering a store in its group's queue. -/
theorem effectAfter_enqueue {wr : List ByteWr} {ln : List Nat} (h : Issuing s r g) (hi : exec i s = runRes act f s) (hs : Still s1 r g1)
    (hf : f s.entered r (s.reads r g) (g.countWindows r.k) = .next (s1.done r (fun x => x.enqueue wr ln))) :
    EffectAfter i s s1 r g1 { stores := true } (fun g' => g'.storeQ = (g1.enqueue wr ln).storeQ) := by
  have henq : (g1.countWindows r.k).enqueue wr ln = { g1.countWindows r.k with storeQ := (g1.enqueue wr ln).storeQ } := by
    unfold Group.enqueue
    split <;> rfl
  refine effectAfter_done h hi hf hs ?_ ?_ (fun _ _ => ?_) <;> rw [henq]
  · exact { keeps_count g1 r.k { stores := true } with storeQ := fun e => absurd e (by simp) }
  · exact same_count g1 r.k
  · rfl

end

end Sys2Proof.Machine
end

section
/-! PROOF. LDS, STS, SPILL and FILL (R74, R346, R356, R357, R394, R396). -/

namespace Sys2Proof.Machine

open Sys2Proof

/-! ## LDS and STS -/

theorem count_pos (n : NElem) : 0 < n.count := by cases n <;> decide
theorem bytes_pos (z : SpSize) : 0 < z.bytes := by cases z <;> decide

/-- R357: the accesses of a lane are aligned, and lie in the scratchpad. -/
def SpFits (w n : Nat) (ls : List (Nat × Int)) : Prop :=
  ∀ l ∈ ls, 0 ≤ l.2 ∧ l.2 % (min (w * n) 16 : Nat) = 0 ∧ l.2 + w * n ≤ Config.scratchBytes

section
variable {w n : Nat} {ls : List (Nat × Int)} (h : SpFits w n ls)
include h

theorem spFault_none : spFault w n ls = none := by
  have halign : ls.find? (fun l => decide (l.2 % ((min (w * n) 16 : Nat) : Int) ≠ 0)) = none :=
    List.find?_eq_none.mpr fun l hl => by simp only [(h l hl).2.1, ne_eq, not_true_eq_false, decide_false, Bool.false_eq_true, not_false_eq_true]
  rw [spFault, halign, Option.map_eq_none_iff, List.find?_eq_none]
  intro l hl
  obtain ⟨h0, -, hend⟩ := h l hl
  simp only [Bool.or_eq_true, decide_eq_true_eq, not_or]
  exact ⟨not_lt.mpr h0, not_lt.mpr hend⟩

/-- Each element of a lane lies within the lane's bytes. -/
theorem SpFits.elem {l : Nat × Int} (hl : l ∈ ls) {e : Nat} (he : e < n) :
    e * w + w ≤ w * n ∧ l.2.toNat + w * n ≤ 2 ^ 20 := by
  obtain ⟨h0, -, hend⟩ := h l hl
  have hmul : (e + 1) * w ≤ n * w := Nat.mul_le_mul_right w he
  rw [Nat.succ_mul, Nat.mul_comm n w] at hmul
  refine ⟨hmul, ?_⟩
  have hend' : l.2 + ((w * n : Nat) : Int) ≤ (2 ^ 20 : Nat) := by
    push_cast
    simpa [Config.scratchBytes] using hend
  omega

end

section
variable {s : State} {r : SplitRef} {g g0 : Group} {o : MemS}

theorem ctx_of_still (h : Still s r g) : ∃ c, s.ctx r.slot = some c := by
  cases hc : s.ctx r.slot with
  | some c => exact ⟨c, rfl⟩
  | none =>
    have := h.1
    simp [State.group?, SplitRef.group, hc] at this

/-- An error in a part of a range is one in the range (Table 12.6). -/
theorem softScratch_part {slot lcid off n a w : Nat} (h : s.softScratch slot lcid off n = false) (h1 : off ≤ a) (h2 : a + w ≤ off + n) :
    s.softScratch slot lcid a w = false := by
  rw [State.softScratch, List.any_eq_false] at h ⊢
  intro p hp
  have hne := h p hp
  cases p with
  | scratch k l chunk =>
    simp only [Bool.and_eq_true, decide_eq_true_eq, not_and, beq_iff_eq] at hne ⊢
    rintro ⟨hkl, hlt⟩ hge
    exact hne ⟨hkl, by omega⟩ (by omega)
  | stack _ => simp
  | l2 _ => simp
  | group _ => simp

theorem exists_lane {m : Mask} (h : m ≠ 0) : ∃ j, j ∈ m.lanes := by
  by_contra hno
  refine h (BitVec.eq_of_getLsbD_eq fun j hj => ?_)
  have hj' : j ∉ m.lanes := fun hm => hno ⟨j, hm⟩
  simpa [mem_lanes, hj, Mask.has] using hj'

/-- The values that LDS reads in its lanes. -/
def scratchValues (s : State) (cx : Cx) (w n : Nat) (ls : List (Nat × Int)) : List (Nat × List Nat) :=
  ls.map (fun l => (l.1, (List.range n).map (fun e => leNat (s.scratchRun cx w (l.2.toNat + e * w)))))

/-- The element accesses of STS with their values, each by its first byte. -/
def scratchStores (src : Group) (d w n : Nat) (ls : List (Nat × Int)) : List (Nat × Nat) :=
  ls.flatMap (fun l => (List.range n).map (fun e => (l.2.toNat + e * w, storeValue src d l.1 e (8 * w))))

section
variable {w n : Nat} {ls : List (Nat × Int)} (h : SpFits w n ls)
include h

theorem loadLanes_spElems {cx : Cx} {c : Context} (hc : s.ctx cx.slot = some c) (hw : 0 < w)
    (hsoft : ∀ l ∈ ls, s.softScratch cx.slot cx.lcid l.2.toNat (w * n) = false) (generic : Bool) (hint : Nat) :
    s.loadLanes cx generic hint (spElems w n ls) [] [] = .ok (scratchValues s cx w n ls) s := by
  have hload := loadLanes_scratch (s := s) (cx := cx) hc hw generic hint
    (ls := ls.map (fun l => (l.1, (List.range n).map (fun e => l.2.toNat + e * w)))) (seen := []) (by
      intro l' hl' a ha
      obtain ⟨l, hl, rfl⟩ := List.mem_map.mp hl'
      obtain ⟨e, he, rfl⟩ := List.mem_map.mp ha
      obtain ⟨hin, hend⟩ := h.elem hl (List.mem_range.mp he)
      exact ⟨by omega, softScratch_part (hsoft l hl) (by omega) (by omega)⟩) (fun y hy => absurd hy (List.not_mem_nil)) []
  simpa [spElems_eq w n fun l hl => (h l hl).1, scratchValues, Function.comp_def] using hload

theorem stores_spElems (src : Group) (d : Nat) :
    (spElems w n ls).flatMap (fun l => l.2.zipIdx.map (fun e => (e.1, storeValue src d l.1 e.2 (8 * w)))) =
      (scratchStores src d w n ls).map (fun p => (scratchElem w p.1, p.2)) := by
  rw [spElems_eq w n fun l hl => (h l hl).1, List.flatMap_map, scratchStores, List.map_flatMap]
  congr 1
  funext l
  exact List.ext_getElem (by simp) (fun i h1 h2 => by simp)

theorem scratchStores_fit (src : Group) (d : Nat) : ∀ p ∈ scratchStores src d w n ls, p.1 + w ≤ 2 ^ 20 := by
  intro p hp
  obtain ⟨l, hl, hp⟩ := List.mem_flatMap.mp hp
  obtain ⟨e, he, rfl⟩ := List.mem_map.mp hp
  obtain ⟨hin, hend⟩ := h.elem hl (List.mem_range.mp he)
  show l.2.toNat + e * w + w ≤ 2 ^ 20
  omega

end

theorem ldsRes_ok {src gx : Group} {vals : List (Nat × List Nat)} {s1 : State}
    (hf : spFault o.size.bytes o.n.count (spLanes src (src.active r.k o.g) o.x o.off) = none)
    (hv : (s.before r o.ord o.scope).loadLanes (s.cxOf r) false 0
      (spElems o.size.bytes o.n.count (spLanes src (src.active r.k o.g) o.x o.off)) [] [] = .ok vals s1) :
    ldsRes o s r src gx = .next (s1.done r (fun x => x.issueLong r.k o.la .load
      (loadDests o.d.toNat (src.active r.k o.g) o.sx o.n.count (8 * o.size.bytes) vals) [] 0)) := by
  simp only [ldsRes, hf, hv, MRes.toRes]

/-- A store whose elements can be reached enters the queue, where that has room. -/
theorem storeRun_ok {ord : Ord} {scope : Scope} {hint : Nat} {es : List (Elem × Nat)} {f : State → State} {s1 s2 : State}
    {wr : List ByteWr × List Nat} (hfull : s.storeFull r.group = false)
    (ht : (s.before r ord scope .write).transElems (s.cxOf r) .write (es.map (fun e => e.1)) = .ok () s1)
    (hs : s1.storeElems (s1.cxOf r) hint es [] [] = .ok wr s2) (hord : ord ≠ .sc) :
    storeRun ord scope hint es s r f = .next ((f s2).done r (fun x => x.enqueue wr.1 wr.2)) := by
  simp only [storeRun, hfull, ht, MRes.bind, hs, MRes.toRes, State.storeDone, if_neg hord, Bool.false_eq_true, if_false]

theorem stsRes_ok {src gx : Group} (hf : spFault o.size.bytes o.n.count (spLanes src (src.active r.k o.g) o.x o.off) = none) :
    stsRes o s r src gx = storeRun o.ord o.scope 0 ((spElems o.size.bytes o.n.count (spLanes src (src.active r.k o.g) o.x o.off)).flatMap
      (fun l => l.2.zipIdx.map (fun e => (e.1, storeValue src o.d.toNat l.1 e.2 (8 * o.size.bytes))))) s r (fun x => x) := by
  simp only [stsRes, hf]

/-- R356, R357: LDS reads the scratchpad's bytes. -/
theorem lds_opens (h : Issuing s r g) :
    let src := s.reads r g
    let act := src.active r.k o.g
    let n := NElem.count o.n
    let w := o.size.bytes
    let ls := spFirst src act o.x o.off
    let s0 := s.entered.before r o.ord o.scope
    let dests := loadDests o.d.toNat act o.sx n (8 * w) (scratchValues s0 (s.cxOf r) w n ls)
    SpFits w n ls → Still s0 r g0 → (∀ l ∈ ls, s0.softScratch r.slot r.lcid l.2.toNat (w * n) = false) →
      EffectAfter (.lds o) s s0 r g0 { v := dests.map (fun d => d.reg), long := true } (fun g' => Opens g0 g' r.k .load o.la dests [] 0) := by
  intro src act n w ls s0 dests hfit hstill hsoft
  obtain ⟨c, hc⟩ := ctx_of_still hstill
  exact effectAfter_open (act := laneAct o.g) (f := ldsRes o) h rfl hstill (loadDests_lanes _ _ _ _ _ _)
    (ldsRes_ok (s := s.entered) (spFault_none hfit) (loadLanes_spElems hfit (cx := s.cxOf r) hc (bytes_pos _) hsoft false 0))

/-- R396, R397: STS enters the bytes of its lanes' values in the store queue. -/
theorem sts_enters (h : Issuing s r g) :
    let src := s.reads r g
    let act := src.active r.k o.g
    let n := NElem.count o.n
    let w := o.size.bytes
    let ls := spFirst src act o.x o.off
    let s1 := s.entered.before r o.ord o.scope .write
    let wr := ls.flatMap (fun l => (List.range n).flatMap (fun e =>
      scratchWrites r.lcid w (l.2.toNat + e * w) (storeValue src o.d.toNat l.1 e (8 * w))))
    SpFits w n ls → Still s1 r g0 → o.ord ≠ .sc → act ≠ 0 → g.queueFull = false →
      EffectAfter (.sts o) s s1 r g0 { stores := true } (fun g' => g'.storeQ = g0.storeQ ++ [⟨wr, [], none⟩]) := by
  intro src act n w ls s1 wr hfit hstill hord hact hfull
  obtain ⟨c, hc⟩ := ctx_of_still hstill
  have hps := scratchStores_fit hfit src o.d.toNat
  have hwr : (scratchStores src o.d.toNat w n ls).flatMap (fun p => scratchWrites r.lcid w p.1 p.2) = wr := by
    simp only [scratchStores, wr, List.flatMap_assoc, List.flatMap_map]
  have hne : wr ≠ [] := by
    obtain ⟨j, hj⟩ := exists_lane hact
    have hl : (j, ((src.v o.x.toNat j).toNat : Int) + o.off.toInt) ∈ ls := List.mem_map_of_mem hj
    exact List.ne_nil_of_mem (List.mem_flatMap.mpr ⟨_, hl, List.mem_flatMap.mpr ⟨0, List.mem_range.mpr (count_pos _),
      List.mem_map_of_mem (List.mem_range.mpr (bytes_pos o.size))⟩⟩)
  have hroom : s.entered.storeFull r.group = false := by
    rw [State.storeFull, show s.entered.group? r.group = some g from h.group]
    exact hfull
  have htrans := transElems_scratch (s := s1) (cx := s.cxOf r) (w := w) .write (as := (scratchStores src o.d.toNat w n ls).map (fun p => p.1))
    (by
      intro a ha
      obtain ⟨p, hp, rfl⟩ := List.mem_map.mp ha
      have := hps p hp
      have := bytes_pos o.size
      omega)
  have hstore := storeElems_scratch (s := s1) (cx := s1.cxOf r) (w := w) hc (bytes_pos _) 0 hps [] []
  rw [List.nil_append, show (s1.cxOf r).lcid = r.lcid from rfl, hwr, ← stores_spElems hfit] at hstore
  have hfst : ((scratchStores src o.d.toNat w n ls).map (fun p => p.1)).map (scratchElem w) =
      ((spElems w n ls).flatMap (fun l => l.2.zipIdx.map (fun e => (e.1, storeValue src o.d.toNat l.1 e.2 (8 * w))))).map (fun e => e.1) := by
    rw [stores_spElems hfit]
    simp [Function.comp_def]
  rw [hfst] at htrans
  have hrun := storeRun_ok (s := s.entered) (r := r) (f := fun x => x) hroom htrans hstore hord
  have henq := effectAfter_enqueue (wr := wr) (ln := []) (i := .sts o) (act := laneAct o.g) (f := stsRes o) h rfl hstill
    ((stsRes_ok (s := s.entered) (spFault_none hfit)).trans hrun)
  simpa only [Group.enqueue, List.isEmpty_iff, if_neg hne] using henq

end

/-! ## SPILL -/

section
variable {s : State} {r : SplitRef} {g : Group} {o : SpillOp}

theorem spillRes_idle {src gx : Group} (h : src.active r.k o.g = 0) : spillRes o s r src gx = .next (s.setGroup r.group gx) := if_pos h

/-- The bytes of a slot with the bits that SPILL changes (Table 3.9). -/
def spillBytes (src : Group) (k : Nat) (o : SpillOp) : List (Byte × Byte) :=
  laneIds.flatMap (fun j => (natLe 4 (src.v o.d.toNat j).toNat).map (fun x => (x, if Mask.has (src.active k o.g) j then (0xFF : Byte) else 0))) ++
    (spillTail (src.view k o.d.toNat)).map (fun x => (x, (0xFF : Byte)))

/-- The request of a spill slot. -/
def spillReq (addr : DWord) : VReq := ⟨addr, bitsOf addr.toNat 0 57, 256, .write, false, true⟩

theorem spillOp_write {α : Type} {addr : DWord} (hpath : addrPath addr ≤ 1) (hbits : bitsOf addr.toNat 57 3 = 0)
    (f : State → VReq → MRes α) : s.spillOp addr 256 .write f = f s (spillReq addr) := by
  have hperm : pathPermits (addrPath addr) .write = true := by
    rcases Nat.le_one_iff_eq_zero_or_eq_one.mp hpath with e | e <;> rw [e] <;> rfl
  rw [State.spillOp, if_neg]
  · rfl
  · rw [hperm, hbits]
    simp only [Bool.not_true, Bool.false_eq_true, ne_eq, not_true_eq_false, or_false]
    omega

/-- SPILL whose slot can be reached enters it in the store queue. -/
theorem spillRes_ok {src gx : Group} {addr : DWord} {s1 s2 s3 : State} {ps : List (TRes × Nat)} (haddr : spillSlot gx o.k = addr)
    (hact : src.active r.k o.g ≠ 0)
    (hwatch : s.watchStop r (gx.split r.k) ⟨false, true⟩ (spillWatch addr (src.active r.k o.g)) s = none)
    (hroom : s.storeFull r.group = false) (hpath : addrPath addr ≤ 1) (hbits : bitsOf addr.toNat 57 3 = 0)
    (htrans : (s.asking r .write .plain .group).transRange (s.cxOf r) (spillReq addr) = .ok ps s1)
    (hs2 : s2 = if hasRemote ps then s1.drainAll r.group else s1)
    (hsend : (s2.sendPieces (s1.cxOf r) (spillReq addr) ps (spillBytes src r.k o)).bind
      (fun _ y => .ok () ((y.touchPieces 0 ps).farDrop (s1.cxOf r) (spillReq addr) ps)) = .ok () s3) :
    spillRes o s r src gx = .next (s3.done r (fun x => x.enqueue ((pieceWrites ps (spillBytes src r.k o)).filter (fun w => w.bits != 0))
      (linesOf (bitsOf addr.toNat 0 57) 256))) := by
  subst haddr
  have hcx : (s.asking r .write .plain .group).cxOf r = s.cxOf r := rfl
  unfold spillRes
  simp only [if_neg hact, hwatch, hroom, Bool.false_eq_true, if_false, spillOp_write hpath hbits, hcx, htrans]
  rw [← spillBytes]
  simp only [MRes.bind] at hsend ⊢
  rw [← hs2]
  cases hp : s2.sendPieces (s1.cxOf r) (spillReq (spillSlot gx o.k)) ps (spillBytes src r.k o) with
  | ok u y =>
    rw [hp] at hsend
    cases hsend
    rfl
  | fault e =>
    rw [hp] at hsend
    cases hsend
  | wait y =>
    rw [hp] at hsend
    cases hsend

/-! ## FILL -/

/-- What a slot's bytes say (Table 3.9): a lane's word, the interval, and the byte that says whether it is known. -/
def fillWord (b : List Byte) (j : Nat) : Word := BitVec.ofNat 32 (leNat ((b.drop (4 * j)).take 4))
def fillLo (b : List Byte) : Int := (BitVec.ofNat 32 (leNat ((b.drop 128).take 4))).toInt
def fillHi (b : List Byte) : Int := (BitVec.ofNat 32 (leNat ((b.drop 132).take 4))).toInt
def fillTail (b : List Byte) : Nat := leNat (b.drop 136)

/-- The active lanes outside the interval. -/
def fillOut (act : Mask) (b : List Byte) : Mask :=
  act &&& Mask.ofFn (fun j => decide ((fillWord b j).toInt < fillLo b) || decide (fillHi b < (fillWord b j).toInt))

section
variable {src gx : Group} {addr : DWord} {s1 : State} {b : List Byte} (haddr : spillSlot gx o.k = addr)
  (hwatch : s.watchStop r (gx.split r.k) ⟨true, false⟩ (spillWatch addr (src.active r.k o.g)) s = none)
  (hread : (s.asking r .read .plain .group).spillRead (s.cxOf r) addr 256 = .ok b s1)
include haddr hwatch hread

/-- FILL whose slot has been read: what its bytes then say. -/
theorem fillRes_eq : fillRes o s r src gx =
    if 1 < fillTail b ∨ (decide (fillTail b % 2 = 1) ∧ fillHi b < fillLo b) then .trap (Exc.plain .format 0) s1
    else if decide (fillTail b % 2 = 1) && fillOut (src.active r.k o.g) b != 0 then
      .trap (Exc.plain .caliper ((fillOut (src.active r.k o.g) b).setWidth 64)) s1
    else .next (s1.done r (fun y => y.issueLong r.k o.la .load [⟨o.d.toNat, src.active r.k o.g, perLane (fillWord b),
      if decide (fillTail b % 2 = 1) then some ⟨fillLo b, fillHi b⟩ else none, false⟩] [] 0)) := by
  subst haddr
  simp only [fillRes, hwatch, hread, MRes.toRes]
  rfl

theorem fillRes_ok (htail : fillTail b ≤ 1) (hk : fillTail b = 1 → fillLo b ≤ fillHi b ∧ fillOut (src.active r.k o.g) b = 0) :
    fillRes o s r src gx = .next (s1.done r (fun y => y.issueLong r.k o.la .load [⟨o.d.toNat, src.active r.k o.g, perLane (fillWord b),
      if fillTail b = 1 then some ⟨fillLo b, fillHi b⟩ else none, false⟩] [] 0)) := by
  rw [fillRes_eq haddr hwatch hread]
  rcases Nat.le_one_iff_eq_zero_or_eq_one.mp htail with h0 | h1
  · simp [h0]
  · obtain ⟨hle, hout⟩ := hk h1
    simp [h1, hout, not_lt.mpr hle]

theorem fillRes_traps (htail : fillTail b = 1) (hle : fillLo b ≤ fillHi b) (hout : fillOut (src.active r.k o.g) b ≠ 0) :
    fillRes o s r src gx = .trap (Exc.plain .caliper ((fillOut (src.active r.k o.g) b).setWidth 64)) s1 := by
  rw [fillRes_eq haddr hwatch hread]
  rw [if_neg (by simp [htail, not_lt.mpr hle]), if_pos (by simpa [htail] using hout)]

end

end

/-- Settles O29: LDS and STS through the elements of their lanes, SPILL and FILL through their slot's bytes. -/
theorem scratchpadAndSpill : Obligations.ScratchpadAndSpill := by
  refine ⟨fun s r g g0 o h _ hfit hs0 hs1 => ⟨fun hsoft => ?lds, fun hord hact hfull => ?sts⟩,
    fun s s1 s2 s3 r g g1 o ps b h => ⟨fun hact => ?idle, fun hact hmeet hfull hpath hbits htrans hs2 hsend hs3 => ?spill,
      fun hmeet hread hs1 htail hk => ?fill, fun hmeet hread hctxs hmem hmay htail hle hout => ?trap⟩⟩
  case lds => exact lds_opens h hfit hs0 hsoft
  case sts => exact sts_enters h hfit hs1 hord hact hfull
  case idle => exact effect_nothing (act := laneAct o.g) (f := spillRes o) h rfl (spillRes_idle hact)
  case spill =>
    have hroom : s.entered.storeFull r.group = false := by
      rw [State.storeFull, show s.entered.group? r.group = some g from h.group]
      exact hfull
    exact effectAfter_enqueue (i := .spill o) (act := laneAct o.g) (f := spillRes o) h rfl hs3
      (spillRes_ok (s := s.entered) rfl hact (not_not.mp hmeet) hroom hpath hbits htrans hs2 hsend)
  case fill =>
    exact effectAfter_open (i := .fill o) (act := laneAct o.g) (f := fillRes o) h rfl hs1 (by simp)
      (fillRes_ok (s := s.entered) rfl (not_not.mp hmeet) hread htail hk)
  case trap =>
    have hg : s1.group? r.group = some g := by
      rw [← h.group, State.group?, State.group?, State.ctx, State.ctx, hctxs]
    refine takesTrap_of_trap (i := .fill o) (l := g.inflight) (v := g.viol) (act := laneAct o.g) (f := fillRes o) (e := Exc.plain .caliper _) h
      hmay rfl (fillRes_traps (s := s.entered) rfl (not_not.mp hmeet) hread htail hle hout) rfl ?_
      (sameMemory_of_ctxs hmem hctxs)
    rw [hg]
    simp [Group.raisedWith]

end Sys2Proof.Machine
end

section
/-! PROOF. PREF where memory is not in canonical form: the byte that a pull writes as zero hides another page's byte (R174, R379). -/

namespace Sys2Proof.Machine

open Sys2Proof

/-- The tables of the placed context (log 7), which map page 1 to frame 1; then a byte of frame 1 before a byte of frame 0 with a lower address, which it
hides: memory that no operation of the device makes. -/
def hidingMem : Cells :=
  ([(0x4000, 0x8001), (0x8000, 0xA001), (0xA000, 0xC001), (0xC008, placePte)] : List (Nat × Nat)).foldl
    (fun m x => Cells.write m x.1 (natLe 8 x.2)) [] ++ [(0x11000, 1), (0xF000, 2)]

/-- A group whose array register 0 describes 100 words at 0x11000, and whose index register 0 is known to be zero. -/
def prefGroup : Group :=
  { issueGroup Mask.full [issueSplit Mask.full] with
    cals := [some ⟨0, 0⟩], aregs := [BitVec.ofNat 256 (0x11000 + 100 * 2 ^ 64 + 2 * 2 ^ 128)] }

/-- Frame 1 is the destination of a placement move from frame 2, of which nothing has been pulled. -/
def prefState : State :=
  { (issueState [(issueRef.group, prefGroup)]).modDie 0 (fun d => { d with moves := [⟨0, 1, 0xC008, some 2, 0, 1, []⟩] }) with mem := hidingMem }

def prefOp : PrefOp := ⟨.always, 0, 0, 0, 0, .fromArray, true⟩

/-- A next state that satisfies `f`. -/
def nextState (o : Host.Outcome State Fault Refusal) (f : State → Bool) : Bool :=
  match o with
  | .next t => f t
  | .fault _ | .refused _ => false

/-- The pull of the line writes zero at 0x11000, whose entry then no longer stands before that of 0xF000. -/
theorem pref_uncovers : nextState (exec (.pref prefOp) prefState) (fun t => Cells.get t.mem 0xF000 == 2) = true := by
  decide +kernel

/-- Refutes O30: the statement does not ask for canonical memory, and without it PREF changes a byte of a page that does not move. -/
theorem not_footprints : ¬ Obligations.Footprints := by
  unfold Obligations.Footprints
  intro h
  have hissuing : Issuing prefState issueRef prefGroup := ⟨rfl, rfl, by decide⟩
  obtain ⟨-, -, hpref⟩ := h prefState prefState issueRef prefGroup prefGroup ⟨.always, 0, 0, 0, 0, 0, .plain, .group, false, .fromArray, .one, 0⟩
    ⟨.always, 0, 0, 0, 0, 0, 0⟩ prefOp ⟨0, 0⟩ [] ⟨0, 0, fun _ => 0, false⟩ hissuing
  obtain ⟨t, g', ht, -, -, -, hbytes, -⟩ := hpref (by decide +kernel)
  have hhidden : Cells.get t.mem 0xF000 = 0 := by
    rw [hbytes 0xF000 (by decide +kernel)]
    decide +kernel
  have hshown : Cells.get t.mem 0xF000 = 2 := by simpa [nextState, ht] using pref_uncovers
  rw [hhidden] at hshown
  exact absurd hshown (by decide)

end Sys2Proof.Machine
end

section
/-! PROOF. Per instruction, that decoding and encoding agree (R84 to R94): a decoded instruction is well-formed and encodes to its word
(`wf_encode_of_decode`), and the fields of a well-formed instruction's word name that instruction again. -/

namespace Sys2Proof.Laws.Agree

open Sys2Proof

/-- Decoding and encoding agree for an instruction. -/
def Agrees (i : Instr) : Prop := ∀ w, decode w = .ok i ↔ i.wf = true ∧ encode i = some w

/-- What decodes is well-formed, and its word is the one it was decoded from. -/
theorem wf_encode_of_decode {i : Instr} {w : DWord} (h : decode w = .ok i) : i.wf = true ∧ encode i = some w := by
  unfold decode at h
  split at h
  · cases h
  split at h
  · cases h
  split at h
  · cases h
  next henc =>
    split at h
    · cases h
    next hwf =>
      cases h
      exact ⟨by simpa using hwf, by simpa using henc⟩

/-- A word decodes to a well-formed instruction whose word it is, where its guard is one and its fields name that instruction. -/
theorem decode_of_fields {i : Instr} {w : DWord} (hg : (wordGuard w).ok = true) (hwf : i.wf = true) (he : encode i = some w)
    (hf : decodeFields w = some i) : decode w = .ok i := by
  simp [decode, hg, hf, he, hwf]

/-- An event has no word. -/
theorem of_event {i : Instr} (h : i.wf = false) : Agrees i := fun w =>
  ⟨wf_encode_of_decode, fun hw => absurd hw.1 (by simp [h])⟩

/-! ## From the fields of a word, by the range of its major -/

section Majors

variable {i : Instr} {m : BitVec 8} {la : LA} {g : Guard} {p : BitVec 48}

theorem of_fields (hfit : FieldsFit.Statement i) (he : encode i = some (word m la g p))
    (hd : i.wf = true → decodeFields (word m la g p) = some i) : Agrees i := by
  intro w
  refine ⟨wf_encode_of_decode, fun ⟨hwf, hw⟩ => ?_⟩
  obtain ⟨w', hw', hg⟩ := hfit hwf
  obtain rfl : w' = w := Option.some.inj (hw'.symm.trans hw)
  obtain rfl : word m la g p = w' := Option.some.inj (he.symm.trans hw')
  exact decode_of_fields hg hwf he (hd hwf)

theorem decodeFields_control (hm : m.toNat < 0x10) : decodeFields (word m la g p) = decControl m.toNat g p := by
  simp [decodeFields, hm]

/-- A uniform major stands 0x20 above its vector major. -/
theorem decodeFields_int (uni : Bool) (hlo : 0x10 ≤ m.toNat) (hhi : m.toNat < 0x30) :
    decodeFields (word (uniMaj m uni) la g p) = decInt m.toNat uni g p := by
  cases uni with
  | false => simp [decodeFields, uniMaj, hhi, Nat.not_lt.mpr hlo]
  | true =>
    have hmaj : (m + 0x20).toNat = m.toNat + 0x20 := by
      rw [BitVec.toNat_add]
      exact Nat.mod_eq_of_lt (show m.toNat + 32 < 256 by omega)
    simp (disch := omega) only [decodeFields, uniMaj, wordMaj_word, wordGuard_word, wordBits_word, if_true, hmaj, if_neg, if_pos,
      Nat.add_sub_cancel]

theorem decodeFields_float (hlo : 0x50 ≤ m.toNat) (hhi : m.toNat < 0x70) :
    decodeFields (word m la g p) = decFloat m.toNat la g p := by
  simp (disch := omega) only [decodeFields, wordMaj_word, wordLA_word, wordGuard_word, wordBits_word, if_neg, if_pos]

theorem decodeFields_cross (hlo : 0x70 ≤ m.toNat) (hhi : m.toNat < 0x80) :
    decodeFields (word m la g p) = decCross m.toNat la g p := by
  simp (disch := omega) only [decodeFields, wordMaj_word, wordLA_word, wordGuard_word, wordBits_word, if_neg, if_pos]

theorem decodeFields_mem (hlo : 0x80 ≤ m.toNat) (hhi : m.toNat < 0xC0) :
    decodeFields (word m la g p) = decMem m.toNat la g p := by
  simp (disch := omega) only [decodeFields, wordMaj_word, wordLA_word, wordGuard_word, wordBits_word, if_neg, if_pos]

theorem decodeFields_sys (hlo : 0xC0 ≤ m.toNat) : decodeFields (word m la g p) = decSys m.toNat la g p := by
  simp (disch := omega) only [decodeFields, wordMaj_word, wordLA_word, wordGuard_word, wordBits_word, if_neg]

theorem of_control (hfit : FieldsFit.Statement i) (he : encode i = some (word m la g p)) (hm : m.toNat < 0x10)
    (hd : i.wf = true → decControl m.toNat g p = some i) : Agrees i :=
  of_fields hfit he (fun h => (decodeFields_control hm).trans (hd h))

theorem of_int {uni : Bool} (hfit : FieldsFit.Statement i) (he : encode i = some (word (uniMaj m uni) la g p))
    (hm : 0x10 ≤ m.toNat ∧ m.toNat < 0x30) (hd : i.wf = true → decInt m.toNat uni g p = some i) : Agrees i :=
  of_fields hfit he (fun h => (decodeFields_int uni hm.1 hm.2).trans (hd h))

theorem of_float (hfit : FieldsFit.Statement i) (he : encode i = some (word m la g p)) (hm : 0x50 ≤ m.toNat ∧ m.toNat < 0x70)
    (hd : i.wf = true → decFloat m.toNat la g p = some i) : Agrees i :=
  of_fields hfit he (fun h => (decodeFields_float hm.1 hm.2).trans (hd h))

theorem of_cross (hfit : FieldsFit.Statement i) (he : encode i = some (word m la g p)) (hm : 0x70 ≤ m.toNat ∧ m.toNat < 0x80)
    (hd : i.wf = true → decCross m.toNat la g p = some i) : Agrees i :=
  of_fields hfit he (fun h => (decodeFields_cross hm.1 hm.2).trans (hd h))

theorem of_mem (hfit : FieldsFit.Statement i) (he : encode i = some (word m la g p)) (hm : 0x80 ≤ m.toNat ∧ m.toNat < 0xC0)
    (hd : i.wf = true → decMem m.toNat la g p = some i) : Agrees i :=
  of_fields hfit he (fun h => (decodeFields_mem hm.1 hm.2).trans (hd h))

theorem of_sys (hfit : FieldsFit.Statement i) (he : encode i = some (word m la g p)) (hm : 0xC0 ≤ m.toNat)
    (hd : i.wf = true → decSys m.toNat la g p = some i) : Agrees i :=
  of_fields hfit he (fun h => (decodeFields_sys hm).trans (hd h))

end Majors

/-! ## Fields that an entry leaves zero -/

@[simp] theorem ord_ofCode_zero : Ord.ofCode 0#3 = some .plain := rfl
@[simp] theorem scope_ofCode_zero : Scope.ofCode 0#3 = some .group := rfl
@[simp] theorem nElem_ofCode_zero : NElem.ofCode 0#2 = some .one := rfl

/-! ## Sources -/

theorem lastSrc_of_regSrc {u w : Bool} {a : Src} (h : regSrc u w a = true) : lastSrc u w a = true := by
  simp_all [regSrc, lastSrc]

theorem regSrc_of_plainSrc {u w : Bool} {a : Src} (h : plainSrc u w a = true) : regSrc u w a = true := by
  simp_all [plainSrc]

/-- In a vector form every last source reads back. -/
@[simp] theorem src_lastOf_vector (b : Src) : Src.lastOf false b.isImm (b.k false) b.field = b :=
  src_lastOf_field (w := false) (by cases b <;> rfl)

theorem bin_sources {o : Bin} {satOk shift : Bool} {tyOk : IntTy → Bool} (h : o.ok satOk tyOk shift = true) :
    regSrc o.d.isS o.ty.wide o.a = true ∧ lastSrc o.d.isS (o.ty.wide && !shift) o.b = true := by
  simp only [Bin.ok, Bool.and_eq_true] at h
  obtain ⟨⟨-, ha⟩, hb⟩ := h
  exact ⟨ha, hb⟩

theorem un_source {o : Un} {satOk : Bool} {tyOk : IntTy → Bool} (h : o.ok satOk tyOk = true) :
    regSrc o.d.isS o.ty.wide o.a = true := by
  simp only [Un.ok, Bool.and_eq_true] at h
  exact h.2

theorem fBin_sources {o : FBin} (h : o.ok = true) : regSrc false o.ty.wide o.a = true ∧ regSrc false o.ty.wide o.b = true := by
  simp only [FBin.ok, fSrc, Bool.and_eq_true] at h
  obtain ⟨⟨-, ha⟩, hb⟩ := h
  exact ⟨ha, hb⟩

theorem fMinMax_sources {o : FMinMax} (h : o.ok = true) :
    regSrc false o.ty.wide o.a = true ∧ regSrc false o.ty.wide o.b = true := by
  simp only [FMinMax.ok, fSrc, Bool.and_eq_true] at h
  obtain ⟨⟨-, ha⟩, hb⟩ := h
  exact ⟨ha, hb⟩

/-! ## Control -/

theorem bra (g : Guard) (disp : BitVec 32) : Agrees (.bra g disp) :=
  of_control (FieldsFit.bra g disp) rfl (by decide) (fun _ => by simp [decControl])
theorem brc (g : Guard) (cond : Cond) (a : VReg) (b : Src) (disp : BitVec 24) : Agrees (.brc g cond a b disp) :=
  of_control (FieldsFit.brc g cond a b disp) rfl (by decide) (fun _ => by simp [decControl])
theorem brx (g : Guard) (o : BrxOp) : Agrees (.brx g o) :=
  match o with
  | .vec a disp => of_control (FieldsFit.brx g (.vec a disp)) rfl (by decide) (fun _ => by simp [decControl])
  | .uni a disp => of_control (FieldsFit.brx g (.uni a disp)) rfl (by decide) (fun _ => by simp [decControl])
  | .full a => of_control (FieldsFit.brx g (.full a)) rfl (by decide) (fun _ => by simp [decControl])
theorem call (g : Guard) (o : CallOp) : Agrees (.call g o) :=
  match o with
  | .direct disp => of_control (FieldsFit.call g (.direct disp)) rfl (by decide) (fun _ => by simp [decControl])
  | .reg a => of_control (FieldsFit.call g (.reg a)) rfl (by decide) (fun _ => by simp [decControl])
theorem ret (g : Guard) : Agrees (.ret g) := of_control (FieldsFit.ret g) rfl (by decide) (fun _ => rfl)
theorem loop (a : SReg) (disp : BitVec 32) : Agrees (.loop a disp) :=
  of_control (FieldsFit.loop a disp) rfl (by decide) (fun _ => by simp [decControl])
theorem loopEnd : Agrees .loopEnd := of_control FieldsFit.loopEnd rfl (by decide) (fun _ => rfl)
theorem breakl (g : Guard) : Agrees (.breakl g) := of_control (FieldsFit.breakl g) rfl (by decide) (fun _ => rfl)
theorem reconv : Agrees .reconv := of_control FieldsFit.reconv rfl (by decide) (fun _ => rfl)
theorem exit (g : Guard) : Agrees (.exit g) := of_control (FieldsFit.exit g) rfl (by decide) (fun _ => rfl)
theorem yield : Agrees .yield := of_control FieldsFit.yield rfl (by decide) (fun _ => rfl)
theorem nop (g : Guard) : Agrees (.nop g) := of_control (FieldsFit.nop g) rfl (by decide) (fun _ => rfl)

/-! ## Integer and logic -/

/-- A two-source instruction, whose major and SUB lead to `decBin`. -/
theorem of_bin {o : Bin} {m : BitVec 8} {sub : BitVec 5} {satOk shift : Bool} (c : Bin → Instr)
    (tyOk : IntTy → Bool) (hfit : FieldsFit.Statement (c o)) (he : encode (c o) = some (encBin m sub o)) (hwf : (c o).wf = o.ok satOk tyOk shift)
    (hm : 0x10 ≤ m.toNat ∧ m.toNat < 0x30)
    (hd : ∀ p, (FieldsV.of p).sub = sub → decInt m.toNat o.d.isS o.g p = (decBin o.d.isS o.g (FieldsV.of p)).map c) : Agrees (c o) :=
  of_int hfit he hm (fun h => by
    obtain ⟨ha, hb⟩ := bin_sources (hwf.symm.trans h)
    rw [hd _ (by rw [fieldsV_of_bits])]
    simp [decBin, src_of_field ha, src_lastOf_field hb])

/-- A one-source instruction, whose major and SUB lead to `decUn`. -/
theorem of_un {o : Un} {m : BitVec 8} {sub : BitVec 5} {satOk : Bool} (c : Un → Instr)
    (tyOk : IntTy → Bool) (hfit : FieldsFit.Statement (c o)) (he : encode (c o) = some (encUn m sub o)) (hwf : (c o).wf = o.ok satOk tyOk)
    (hm : 0x10 ≤ m.toNat ∧ m.toNat < 0x30)
    (hd : ∀ p, (FieldsV.of p).sub = sub → decInt m.toNat o.d.isS o.g p = (decUn o.d.isS o.g (FieldsV.of p)).map c) : Agrees (c o) :=
  of_int hfit he hm (fun h => by
    have ha := un_source (hwf.symm.trans h)
    rw [hd _ (by rw [fieldsV_of_bits])]
    simp [decUn, src_of_field ha])

/-- A three-source instruction, whose major leads to `decTern`. -/
theorem of_tern {o : Tern} {m : BitVec 8} {wa wb wc : Bool} (c : Tern → Instr) (hfit : FieldsFit.Statement (c o))
    (he : encode (c o) = some (encTern m o)) (hm : 0x10 ≤ m.toNat ∧ m.toNat < 0x30)
    (hsrc : (c o).wf = true → regSrc o.d.isS wa o.a = true ∧ regSrc o.d.isS wb o.b = true ∧ lastSrc o.d.isS wc o.c = true)
    (hd : ∀ p, decInt m.toNat o.d.isS o.g p = (decTern o.d.isS o.g (FieldsV.of p)).map c) : Agrees (c o) :=
  of_int hfit he hm (fun h => by
    obtain ⟨ha, hb, hc⟩ := hsrc h
    simp [hd, decTern, src_of_field ha, src_of_field hb, src_lastOf_field hc])

theorem iadd (o : Bin) : Agrees (.iadd o) := of_bin .iadd (fun _ => true) (FieldsFit.iadd o) rfl rfl (by decide) (fun _ _ => rfl)
theorem isub (o : Bin) : Agrees (.isub o) := of_bin .isub (fun _ => true) (FieldsFit.isub o) rfl rfl (by decide) (fun _ _ => rfl)
theorem imul (o : Bin) : Agrees (.imul o) := of_bin .imul (fun _ => true) (FieldsFit.imul o) rfl rfl (by decide) (fun _ _ => rfl)
theorem imulh (o : Bin) : Agrees (.imulh o) := of_bin .imulh (fun _ => true) (FieldsFit.imulh o) rfl rfl (by decide) (fun _ _ => rfl)
theorem imin (o : Bin) : Agrees (.imin o) := of_bin .imin (fun _ => true) (FieldsFit.imin o) rfl rfl (by decide) (fun _ _ => rfl)
theorem imax (o : Bin) : Agrees (.imax o) := of_bin .imax (fun _ => true) (FieldsFit.imax o) rfl rfl (by decide) (fun _ _ => rfl)
theorem shl (o : Bin) : Agrees (.shl o) := of_bin .shl (fun _ => true) (FieldsFit.shl o) rfl rfl (by decide) (fun _ _ => rfl)
theorem shr (o : Bin) : Agrees (.shr o) := of_bin .shr (fun _ => true) (FieldsFit.shr o) rfl rfl (by decide) (fun _ _ => rfl)
theorem shra (o : Bin) : Agrees (.shra o) := of_bin .shra IntTy.signed (FieldsFit.shra o) rfl rfl (by decide) (fun _ _ => rfl)
theorem and (o : Bin) : Agrees (.and o) := of_bin .and (fun _ => true) (FieldsFit.and o) rfl rfl (by decide) (fun _ h => by
  simp [decInt, h, pick3, Option.map_eq_bind])
theorem or (o : Bin) : Agrees (.or o) := of_bin .or (fun _ => true) (FieldsFit.or o) rfl rfl (by decide) (fun _ h => by
  simp [decInt, h, pick3, Option.map_eq_bind])
theorem xor (o : Bin) : Agrees (.xor o) := of_bin .xor (fun _ => true) (FieldsFit.xor o) rfl rfl (by decide) (fun _ h => by
  simp [decInt, h, pick3, Option.map_eq_bind])
theorem andn (o : Bin) : Agrees (.andn o) := of_bin .andn (fun _ => true) (FieldsFit.andn o) rfl rfl (by decide) (fun _ h => by
  simp [decInt, h, Option.map_eq_bind])
theorem not (o : Un) : Agrees (.not o) := of_un .not (fun _ => true) (FieldsFit.not o) rfl rfl (by decide) (fun _ h => by
  simp [decInt, h])
theorem iabs (o : Un) : Agrees (.iabs o) := of_un .iabs IntTy.signed (FieldsFit.iabs o) rfl rfl (by decide) (fun _ h => by
  simp [decInt, h, Option.map_eq_bind])
theorem ineg (o : Un) : Agrees (.ineg o) := of_un .ineg IntTy.signed (FieldsFit.ineg o) rfl rfl (by decide) (fun _ h => by
  simp [decInt, h, Option.map_eq_bind])
theorem popc (o : Un) : Agrees (.popc o) := of_un .popc (fun _ => true) (FieldsFit.popc o) rfl rfl (by decide) (fun _ h => by
  simp [decInt, h, pick3, Option.map_eq_bind])
theorem clz (o : Un) : Agrees (.clz o) := of_un .clz (fun _ => true) (FieldsFit.clz o) rfl rfl (by decide) (fun _ h => by
  simp [decInt, h, pick3, Option.map_eq_bind])
theorem brev (o : Un) : Agrees (.brev o) := of_un .brev (fun _ => true) (FieldsFit.brev o) rfl rfl (by decide) (fun _ h => by
  simp [decInt, h, pick3, Option.map_eq_bind])

theorem imad (o : Tern) : Agrees (.imad o) :=
  of_tern .imad (FieldsFit.imad o) rfl (by decide) (fun h => by
    simp only [Instr.wf, imadOk, Bool.and_eq_true] at h
    obtain ⟨⟨⟨-, ha⟩, hb⟩, hc⟩ := h
    exact ⟨ha, hb, hc⟩) (fun _ => rfl)
theorem bfx (o : Tern) : Agrees (.bfx o) :=
  of_tern .bfx (FieldsFit.bfx o) rfl (by decide) (fun h => by
    simp only [Instr.wf, bfxOk, Bool.and_eq_true] at h
    obtain ⟨⟨⟨-, ha⟩, hb⟩, hc⟩ := h
    exact ⟨regSrc_of_plainSrc ha, hb, hc⟩) (fun _ => rfl)
theorem bfi (o : Tern) : Agrees (.bfi o) :=
  of_tern .bfi (FieldsFit.bfi o) rfl (by decide) (fun h => by
    simp only [Instr.wf, bfiOk, Bool.and_eq_true] at h
    obtain ⟨⟨⟨-, ha⟩, hb⟩, hc⟩ := h
    exact ⟨regSrc_of_plainSrc ha, regSrc_of_plainSrc hb, lastSrc_of_regSrc hc⟩) (fun _ => rfl)
theorem lea (o : LeaOp) : Agrees (.lea o) :=
  of_int (FieldsFit.lea o) rfl (by decide) (fun h => by
    simp only [Instr.wf, LeaOp.ok, Bool.and_eq_true] at h
    obtain ⟨⟨-, ha⟩, hb⟩ := h
    simp [decInt, decBin, src_of_field ha, src_lastOf_field hb])
theorem icmp (o : IcmpOp) : Agrees (.icmp o) :=
  of_int (FieldsFit.icmp o) rfl (by decide) (fun h => by
    simp only [Instr.wf, IcmpOp.ok, Bool.and_eq_true] at h
    obtain ⟨⟨-, ha⟩, hb⟩ := h
    simp [decInt, decBin, src_of_field ha, src_lastOf_field hb])
theorem sel (o : SelOp) : Agrees (.sel o) :=
  of_int (FieldsFit.sel o) rfl (by decide) (fun h => by
    simp only [Instr.wf, SelOp.ok, Bool.and_eq_true] at h
    obtain ⟨⟨⟨-, ha⟩, hb⟩, hc⟩ := h
    simp [decInt, decBin, src_of_field ha, src_lastOf_field hb, psrc_of_field hc])
theorem mov (g : Guard) (o : MovOp) : Agrees (.mov g o) :=
  match o with
  | .reg d a ty => of_int (FieldsFit.mov g (.reg d a ty)) rfl (by decide) (fun h => by
      simp only [Instr.wf, movOk, Bool.and_eq_true] at h
      obtain ⟨-, -, ha⟩ := h
      simp [decInt, decUn, src_of_field ha])
  | .toHandle d a => of_int (uni := true) (m := 0x22) (FieldsFit.mov g (.toHandle d a)) rfl (by decide) (fun _ => by simp [decInt])
  | .fromHandle d a => of_int (uni := true) (m := 0x22) (FieldsFit.mov g (.fromHandle d a)) rfl (by decide) (fun _ => by simp [decInt])
theorem movi (g : Guard) (d : Dst) (imm : BitVec 32) : Agrees (.movi g d imm) :=
  of_int (FieldsFit.movi g d imm) rfl (by decide) (fun _ => by simp [decInt])
theorem moviHi (g : Guard) (d : SReg) (imm : BitVec 32) : Agrees (.moviHi g d imm) :=
  of_int (uni := true) (m := 0x23) (FieldsFit.moviHi g d imm) rfl (by decide) (fun _ => by simp [decInt])

/-- The operation of PLOP reads back from its SUB and its sources (Table 18.6). -/
theorem decPlop_encPlop {uni : Bool} {o : PlopOp} (h : plopOk uni o = true) (d : BitVec 8) :
    decPlop uni { encPlop uni o with d := d } = some o := by
  cases o with
  | and a b | or a b | xor a b | andn a b =>
    have hab : (!uni || a.uni) = true ∧ (!uni || b.uni) = true := by cases uni <;> simp_all [plopOk]
    simp [decPlop, encPlop, psrc_of_field hab.1, psrc_of_field hab.2]
  | not a | mov a => simp [decPlop, encPlop, psrc_of_field h]
  | sel a b c =>
    have habc : (!uni || a.uni) = true ∧ (!uni || b.uni) = true ∧ (!uni || c.uni) = true := by cases uni <;> simp_all [plopOk]
    simp [decPlop, encPlop, psrc_of_field habc.1, psrc_of_field habc.2.1, psrc_of_field habc.2.2]
  | setm a => simp [decPlop, encPlop]

theorem plop (g : Guard) (uni : Bool) (d : PReg) (o : PlopOp) : Agrees (.plop g uni d o) :=
  of_int (FieldsFit.plop g uni d o) rfl (by decide) (fun h => by
    simp only [Instr.wf, Bool.and_eq_true] at h
    simp [decInt, decPlop_encPlop h.2])

/-! ## Floating point and conversions -/

/-- A two-source instruction, whose major leads to `decFBin`. -/
theorem of_fbin {o : FBin} {m : BitVec 8} (c : FBin → Instr) (hfit : FieldsFit.Statement (c o)) (he : encode (c o) = some (encFBin m o))
    (hwf : (c o).wf = o.ok) (hm : 0x50 ≤ m.toNat ∧ m.toNat < 0x70)
    (hd : ∀ p, decFloat m.toNat 0 o.g p = (decFBin o.g (FieldsV.of p)).map c) : Agrees (c o) :=
  of_float hfit he hm (fun h => by
    obtain ⟨ha, hb⟩ := fBin_sources (hwf.symm.trans h)
    rw [hd]
    simp [decFBin, src_of_field ha, src_of_field hb])

/-- FMIN and FMAX, whose majors lead to `decFMinMax`. -/
theorem of_fminmax {o : FMinMax} {m : BitVec 8} (c : FMinMax → Instr) (hfit : FieldsFit.Statement (c o))
    (he : encode (c o) = some (encFMinMax m o)) (hwf : (c o).wf = o.ok) (hm : 0x50 ≤ m.toNat ∧ m.toNat < 0x70)
    (hd : ∀ p, decFloat m.toNat 0 o.g p = (decFMinMax o.g (FieldsV.of p)).map c) : Agrees (c o) :=
  of_float hfit he hm (fun h => by
    obtain ⟨ha, hb⟩ := fMinMax_sources (hwf.symm.trans h)
    rw [hd]
    simp [decFMinMax, src_of_field ha, src_of_field hb])

/-- A special function, whose SUB leads `decSfu` to it. -/
theorem of_sfu {o : SfuOp} {sub : BitVec 5} {modes : Bool} (c : SfuOp → Instr) (hfit : FieldsFit.Statement (c o))
    (he : encode (c o) = some (encSfu sub o)) (hwf : (c o).wf = o.ok modes)
    (hd : ∀ f : FieldsV, f.sub = sub → decSfu o.la o.g f = some (c ⟨o.g, o.la, f.d, Src.of false f.ka f.a, Rnd.ofCode f.rnd⟩)) :
    Agrees (c o) :=
  of_float hfit he (by decide) (fun h => by
    have ha : regSrc false false o.a = true := by
      have hok := hwf.symm.trans h
      simp only [SfuOp.ok, fSrc, Bool.and_eq_true] at hok
      exact hok.2
    simp [decFloat, hd, src_of_field ha])

theorem fadd (o : FBin) : Agrees (.fadd o) := of_fbin .fadd (FieldsFit.fadd o) rfl rfl (by decide) (fun _ => rfl)
theorem fsub (o : FBin) : Agrees (.fsub o) := of_fbin .fsub (FieldsFit.fsub o) rfl rfl (by decide) (fun _ => rfl)
theorem fmul (o : FBin) : Agrees (.fmul o) := of_fbin .fmul (FieldsFit.fmul o) rfl rfl (by decide) (fun _ => rfl)
theorem ffma (o : FTern) : Agrees (.ffma o) :=
  of_float (FieldsFit.ffma o) rfl (by decide) (fun h => by
    simp only [Instr.wf, FTern.ok, fSrc, Bool.and_eq_true] at h
    obtain ⟨⟨⟨-, ha⟩, hb⟩, hc⟩ := h
    simp [decFloat, decFBin, src_of_field ha, src_of_field hb, src_of_field hc])
theorem fmin (o : FMinMax) : Agrees (.fmin o) := of_fminmax .fmin (FieldsFit.fmin o) rfl rfl (by decide) (fun _ => rfl)
theorem fmax (o : FMinMax) : Agrees (.fmax o) := of_fminmax .fmax (FieldsFit.fmax o) rfl rfl (by decide) (fun _ => rfl)
theorem fcmp (o : FcmpOp) : Agrees (.fcmp o) :=
  of_float (FieldsFit.fcmp o) rfl (by decide) (fun h => by
    simp only [Instr.wf, FcmpOp.ok, fSrc, Bool.and_eq_true] at h
    obtain ⟨⟨-, ha⟩, hb⟩ := h
    simp only [decFloat, decFBin, fieldsV_of_bits, fRel_sub, fcmp_sig]
    simp [src_of_field ha, src_of_field hb])
theorem fclass (o : FclassOp) : Agrees (.fclass o) :=
  of_float (FieldsFit.fclass o) rfl (by decide) (fun h => by
    simp only [Instr.wf, FclassOp.ok, fSrc, Bool.and_eq_true] at h
    simp [decFloat, decFBin, src_of_field h.2])
theorem frcp (o : SfuOp) : Agrees (.frcp o) := of_sfu .frcp (FieldsFit.frcp o) rfl rfl (fun _ h => by simp [decSfu, h])
theorem frsq (o : SfuOp) : Agrees (.frsq o) := of_sfu .frsq (FieldsFit.frsq o) rfl rfl (fun _ h => by simp [decSfu, h])
theorem fsqrt (o : SfuOp) : Agrees (.fsqrt o) := of_sfu .fsqrt (FieldsFit.fsqrt o) rfl rfl (fun _ h => by simp [decSfu, h])
theorem fexp2 (o : SfuOp) : Agrees (.fexp2 o) := of_sfu .fexp2 (FieldsFit.fexp2 o) rfl rfl (fun _ h => by simp [decSfu, h])
theorem flog2 (o : SfuOp) : Agrees (.flog2 o) := of_sfu .flog2 (FieldsFit.flog2 o) rfl rfl (fun _ h => by simp [decSfu, h])
theorem fsin (o : SfuOp) : Agrees (.fsin o) := of_sfu .fsin (FieldsFit.fsin o) rfl rfl (fun _ h => by simp [decSfu, h])
theorem fcos (o : SfuOp) : Agrees (.fcos o) := of_sfu .fcos (FieldsFit.fcos o) rfl rfl (fun _ h => by simp [decSfu, h])
theorem ftanh (o : SfuOp) : Agrees (.ftanh o) := of_sfu .ftanh (FieldsFit.ftanh o) rfl rfl (fun _ h => by simp [decSfu, h])
theorem cvt (o : CvtOp) : Agrees (.cvt o) :=
  of_float (FieldsFit.cvt o) rfl (by decide) (fun h => by
    simp only [Instr.wf, CvtOp.ok, fSrc, Bool.and_eq_true] at h
    simp [decFloat, src_of_field h.2])
theorem cvtn (o : CvtnOp) : Agrees (.cvtn o) :=
  of_float (FieldsFit.cvtn o) rfl (by decide) (fun h => by
    simp only [Instr.wf, CvtnOp.ok, fSrc, Bool.and_eq_true] at h
    simp [decFloat, src_of_field h.2])
theorem cvtw (o : CvtwOp) : Agrees (.cvtw o) :=
  of_float (FieldsFit.cvtw o) rfl (by decide) (fun h => by
    simp only [Instr.wf, CvtwOp.ok, fSrc, Bool.and_eq_true] at h
    simp [decFloat, src_of_field h.2])
theorem pack (o : PackOp) : Agrees (.pack o) := of_float (FieldsFit.pack o) rfl (by decide) (fun _ => by simp [decFloat])
theorem unpack (o : PackOp) : Agrees (.unpack o) := of_float (FieldsFit.unpack o) rfl (by decide) (fun _ => by simp [decFloat])
theorem qscale (o : QscaleOp) : Agrees (.qscale o) := of_float (FieldsFit.qscale o) rfl (by decide) (fun _ => by simp [decFloat])

/-! ## Across lanes -/

theorem shfl (o : ShflOp) : Agrees (.shfl o) := of_cross (FieldsFit.shfl o) rfl (by decide) (fun _ => by simp [decCross])
theorem gshuf (o : GshufOp) : Agrees (.gshuf o) := of_cross (FieldsFit.gshuf o) rfl (by decide) (fun _ => by simp [decCross])
theorem bcast (o : BcastOp) : Agrees (.bcast o) := of_cross (FieldsFit.bcast o) rfl (by decide) (fun _ => by simp [decCross])
theorem vote (g : Guard) (la : LA) (o : VoteOp) : Agrees (.vote g la o) :=
  match o with
  | .any d a => of_cross (FieldsFit.vote g la (.any d a)) rfl (by decide) (fun _ => by simp [decCross, decVote])
  | .all d a => of_cross (FieldsFit.vote g la (.all d a)) rfl (by decide) (fun _ => by simp [decCross, decVote])
  | .uni d a => of_cross (FieldsFit.vote g la (.uni d a)) rfl (by decide) (fun _ => by simp [decCross, decVote])
  | .ballot d a => of_cross (FieldsFit.vote g la (.ballot d a)) rfl (by decide) (fun _ => by simp [decCross, decVote])
theorem redux (o : ReduxOp) : Agrees (.redux o) :=
  of_cross (FieldsFit.redux o) rfl (by decide) (fun _ => by
    simp only [decCross, fieldsV_of_bits, redOp_sub]
    simp)
theorem scan (o : ScanOp) : Agrees (.scan o) :=
  of_cross (FieldsFit.scan o) rfl (by decide) (fun _ => by
    simp only [decCross, fieldsV_of_bits, redOp_scan, scan_excl]
    simp)
theorem segred (o : SegredOp) : Agrees (.segred o) :=
  of_cross (FieldsFit.segred o) rfl (by decide) (fun _ => by
    simp only [decCross, fieldsV_of_bits, redOp_sub]
    simp)
theorem conflict (o : ConflictOp) : Agrees (.conflict o) :=
  of_cross (FieldsFit.conflict o) rfl (by decide) (fun _ => by simp [decCross])
theorem conflictAll (o : ConflictOp) : Agrees (.conflictAll o) :=
  of_cross (FieldsFit.conflictAll o) rfl (by decide) (fun _ => by simp [decCross])
theorem regroup (la : LA) (k : BitVec 2) (p : PReg) : Agrees (.regroup la k p) :=
  of_cross (FieldsFit.regroup la k p) rfl (by decide) (fun _ => by simp [decCross])

/-! ## Calipers, arrays and memory -/

/-- A vector access, whose major leads to `decMemV`. -/
theorem of_memV {o : MemV} {m : BitVec 8} (c : MemV → Instr) (hfit : FieldsFit.Statement (c o)) (he : encode (c o) = some (encMemV m o))
    (hm : 0x80 ≤ m.toNat ∧ m.toNat < 0xC0) (hd : ∀ p, decMem m.toNat o.la o.g p = (decMemV o.la o.g (FieldsM.of p)).map c) :
    Agrees (c o) :=
  of_mem hfit he hm (fun _ => by
    simp only [hd, decMemV, fieldsM_of_bits, sub_sx]
    simp)

/-- LDU and STU, whose majors lead to `decMemU`. -/
theorem of_memU {o : MemU} {m : BitVec 8} (c : MemU → Instr) (hfit : FieldsFit.Statement (c o)) (he : encode (c o) = some (encMemU m o))
    (hm : 0x80 ≤ m.toNat ∧ m.toNat < 0xC0) (hd : ∀ p, decMem m.toNat o.la o.g p = (decMemU o.la o.g (FieldsM.of p)).map c) :
    Agrees (c o) :=
  of_mem hfit he hm (fun _ => by
    simp only [hd, decMemU, decMemV, fieldsM_of_bits, sub_sx]
    simp)

/-- LDS and STS, whose majors lead to `decMemS`. -/
theorem of_memS {o : MemS} {m : BitVec 8} (c : MemS → Instr) (hfit : FieldsFit.Statement (c o)) (he : encode (c o) = some (encMemS m o))
    (hm : 0x80 ≤ m.toNat ∧ m.toNat < 0xC0) (hd : ∀ p, decMem m.toNat o.la o.g p = (decMemS o.la o.g (FieldsM.of p)).map c) :
    Agrees (c o) :=
  of_mem hfit he hm (fun _ => by
    simp only [hd, decMemS, fieldsM_of_bits, memS_size, memS_sx]
    simp [decMemV])

/-- ATOM and RED, whose majors lead to `decAtom`. -/
theorem of_atom {o : AtomInstr} {m : BitVec 8} (c : AtomInstr → Instr) (hfit : FieldsFit.Statement (c o))
    (he : encode (c o) = some (encAtom m o)) (hm : 0x80 ≤ m.toNat ∧ m.toNat < 0xC0)
    (hd : ∀ p, decMem m.toNat o.la o.g p = (decAtom o.la o.g (FieldsA.of p)).map c) : Agrees (c o) :=
  of_mem hfit he hm (fun _ => by simp [hd, decAtom])

theorem ld (o : MemV) : Agrees (.ld o) := of_memV .ld (FieldsFit.ld o) rfl (by decide) (fun _ => rfl)
theorem st (o : MemV) : Agrees (.st o) := of_memV .st (FieldsFit.st o) rfl (by decide) (fun _ => rfl)
theorem ldp (o : MemV) : Agrees (.ldp o) := of_memV .ldp (FieldsFit.ldp o) rfl (by decide) (fun _ => rfl)
theorem stp (o : MemV) : Agrees (.stp o) := of_memV .stp (FieldsFit.stp o) rfl (by decide) (fun _ => rfl)
theorem ldu (o : MemU) : Agrees (.ldu o) := of_memU .ldu (FieldsFit.ldu o) rfl (by decide) (fun _ => rfl)
theorem stu (o : MemU) : Agrees (.stu o) := of_memU .stu (FieldsFit.stu o) rfl (by decide) (fun _ => rfl)
theorem lds (o : MemS) : Agrees (.lds o) := of_memS .lds (FieldsFit.lds o) rfl (by decide) (fun _ => rfl)
theorem sts (o : MemS) : Agrees (.sts o) := of_memS .sts (FieldsFit.sts o) rfl (by decide) (fun _ => rfl)
theorem atom (o : AtomInstr) : Agrees (.atom o) := of_atom .atom (FieldsFit.atom o) rfl (by decide) (fun _ => rfl)
theorem red (o : AtomInstr) : Agrees (.red o) := of_atom .red (FieldsFit.red o) rfl (by decide) (fun _ => rfl)
theorem cas (o : CasOp) : Agrees (.cas o) := of_mem (FieldsFit.cas o) rfl (by decide) (fun _ => by simp [decMem])
theorem ldlines (o : LdlinesOp) : Agrees (.ldlines o) :=
  of_mem (FieldsFit.ldlines o) rfl (by decide) (fun _ => by simp [decMem, decMemV])
theorem pref (o : PrefOp) : Agrees (.pref o) :=
  of_mem (FieldsFit.pref o) rfl (by decide) (fun _ => by
    simp only [decMem, decMemV, fieldsM_of_bits, sub_sx]
    simp)
theorem spill (o : SpillOp) : Agrees (.spill o) := of_mem (FieldsFit.spill o) rfl (by decide) (fun _ => by simp [decMem])
theorem fill (o : SpillOp) : Agrees (.fill o) := of_mem (FieldsFit.fill o) rfl (by decide) (fun _ => by simp [decMem])
theorem cpa (o : CpaOp) : Agrees (.cpa o) :=
  of_mem (FieldsFit.cpa o) rfl (by decide) (fun _ => by
    simp only [decMem, fieldsM_of_bits, two_bits]
    simp [decMemV])
theorem fence (g : Guard) (ord : Ord) (scope : Scope) : Agrees (.fence g ord scope) :=
  of_mem (FieldsFit.fence g ord scope) rfl (by decide) (fun _ => by
    simp only [decMem, fieldsV_of_bits, scope_field, fenceSub_ord]
    simpa using fenceSub_ne ord)
theorem fenceEngRel (g : Guard) (scope : Scope) : Agrees (.fenceEngRel g scope) :=
  of_mem (FieldsFit.fenceEngRel g scope) rfl (by decide) (fun _ => by
    simp only [decMem, fieldsV_of_bits, scope_field]
    simp)
theorem publish (g : Guard) (a : SOrN) (scope : Scope) : Agrees (.publish g a scope) :=
  match a with
  | .s r => of_mem (FieldsFit.publish g (.s r) scope) rfl (by decide) (fun _ => by
      simp only [decMem, fieldsV_of_bits, scope_field]
      simp [decSOrN])
  | .n k => of_mem (FieldsFit.publish g (.n k) scope) rfl (by decide) (fun _ => by
      simp only [decMem, fieldsV_of_bits, scope_field]
      simp [decSOrN])
theorem cpwait (g : Guard) (n : BitVec 3) : Agrees (.cpwait g n) :=
  of_mem (FieldsFit.cpwait g n) rfl (by decide) (fun _ => by
    simp only [decMem, fieldsV_of_bits, three_bits]
    simp)
theorem cpseal (g : Guard) : Agrees (.cpseal g) := of_mem (FieldsFit.cpseal g) rfl (by decide) (fun _ => rfl)
theorem aget (g : Guard) (d : SReg) (a : AReg) : Agrees (.aget g d a) :=
  of_mem (FieldsFit.aget g d a) rfl (by decide) (fun _ => by simp [decMem])
theorem aoff (g : Guard) (d a : AReg) (b : SReg) : Agrees (.aoff g d a b) :=
  of_mem (FieldsFit.aoff g d a b) rfl (by decide) (fun _ => by simp [decMem])
theorem aset (g : Guard) (d : AReg) (a : SReg) : Agrees (.aset g d a) :=
  of_mem (FieldsFit.aset g d a) rfl (by decide) (fun _ => by simp [decMem])
theorem calget (g : Guard) (d : SReg) (a : VReg) : Agrees (.calget g d a) :=
  of_mem (FieldsFit.calget g d a) rfl (by decide) (fun _ => by simp [decMem])
theorem calset (g : Guard) (d : VReg) (a : SReg) : Agrees (.calset g d a) :=
  of_mem (FieldsFit.calset g d a) rfl (by decide) (fun _ => by simp [decMem])
theorem caltop (g : Guard) (d : VReg) : Agrees (.caltop g d) :=
  of_mem (FieldsFit.caltop g d) rfl (by decide) (fun _ => by simp [decMem])
theorem widenTrap (g : Guard) (d : VReg) (a b : SReg) : Agrees (.widenTrap g d a b) :=
  of_mem (FieldsFit.widenTrap g d a b) rfl (by decide) (fun _ => by simp [decMem])
theorem widenClamp (g : Guard) (d : VReg) (a b : SReg) : Agrees (.widenClamp g d a b) :=
  of_mem (FieldsFit.widenClamp g d a b) rfl (by decide) (fun _ => by simp [decMem])
theorem kick (g : Guard) (d : HReg) (a : SReg) (n : BitVec 8) : Agrees (.kick g d a n) :=
  of_mem (FieldsFit.kick g d a n) rfl (by decide) (fun _ => by simp [decMem])
theorem tagwaitAny (g : Guard) (a : SReg) : Agrees (.tagwaitAny g a) :=
  of_mem (FieldsFit.tagwaitAny g a) rfl (by decide) (fun _ => by simp [decMem])
theorem tagwaitAll (g : Guard) (a : SReg) : Agrees (.tagwaitAll g a) :=
  of_mem (FieldsFit.tagwaitAll g a) rfl (by decide) (fun _ => by simp [decMem])
theorem tagfind (g : Guard) (d a : SReg) : Agrees (.tagfind g d a) :=
  of_mem (FieldsFit.tagfind g d a) rfl (by decide) (fun _ => by simp [decMem])
theorem hwait (g : Guard) (a : HReg) : Agrees (.hwait g a) := of_mem (FieldsFit.hwait g a) rfl (by decide) (fun _ => by simp [decMem])
theorem htest (g : Guard) (d : SReg) (a : HReg) : Agrees (.htest g d a) :=
  of_mem (FieldsFit.htest g d a) rfl (by decide) (fun _ => by simp [decMem])
theorem hcancel (g : Guard) (a : HReg) : Agrees (.hcancel g a) :=
  of_mem (FieldsFit.hcancel g a) rfl (by decide) (fun _ => by simp [decMem])
theorem tbinit (g : Guard) (a b : SReg) : Agrees (.tbinit g a b) :=
  of_mem (FieldsFit.tbinit g a b) rfl (by decide) (fun _ => by simp [decMem])
theorem tbarrive (g : Guard) (a : SReg) : Agrees (.tbarrive g a) :=
  of_mem (FieldsFit.tbarrive g a) rfl (by decide) (fun _ => by simp [decMem])
theorem tbarriveTx (g : Guard) (a b : SReg) : Agrees (.tbarriveTx g a b) :=
  of_mem (FieldsFit.tbarriveTx g a b) rfl (by decide) (fun _ => by simp [decMem])
theorem tbexpect (g : Guard) (a b : SReg) : Agrees (.tbexpect g a b) :=
  of_mem (FieldsFit.tbexpect g a b) rfl (by decide) (fun _ => by simp [decMem])
theorem tbwait (g : Guard) (a b : SReg) : Agrees (.tbwait g a b) :=
  of_mem (FieldsFit.tbwait g a b) rfl (by decide) (fun _ => by simp [decMem])

/-! ## Matrices, join and system -/

theorem mma (o : MmaOp) : Agrees (.mma o) := of_sys (FieldsFit.mma o) rfl (by decide) (fun _ => by simp [decSys])
theorem mmaZ (o : MmaOp) : Agrees (.mmaZ o) := of_sys (FieldsFit.mmaZ o) rfl (by decide) (fun _ => by simp [decSys])
theorem mld (o : MldOp) : Agrees (.mld o) := of_sys (FieldsFit.mld o) rfl (by decide) (fun _ => by simp [decSys])
theorem mst (o : MstOp) : Agrees (.mst o) := of_sys (FieldsFit.mst o) rfl (by decide) (fun _ => by simp [decSys])
theorem mstSum (o : MstOp) : Agrees (.mstSum o) := of_sys (FieldsFit.mstSum o) rfl (by decide) (fun _ => by simp [decSys])
theorem post (g : Guard) (a : SReg) (b : SOrH) : Agrees (.post g a b) :=
  match b with
  | .s r => of_sys (FieldsFit.post g a (.s r)) rfl (by decide) (fun _ => by simp [decSys, decSOrH])
  | .h r => of_sys (FieldsFit.post g a (.h r)) rfl (by decide) (fun _ => by simp [decSys, decSOrH])
theorem postq (g : Guard) (d : PReg) (a : SReg) (b : SOrH) : Agrees (.postq g d a b) :=
  match b with
  | .s r => of_sys (FieldsFit.postq g d a (.s r)) rfl (by decide) (fun _ => by simp [decSys, decSOrH])
  | .h r => of_sys (FieldsFit.postq g d a (.h r)) rfl (by decide) (fun _ => by simp [decSys, decSOrH])
theorem patload (g : Guard) (a : SReg) (bank : BitVec 4) : Agrees (.patload g a bank) :=
  of_sys (FieldsFit.patload g a bank) rfl (by decide) (fun _ => by simp [decSys])
theorem launch (g : Guard) (a b : SReg) (n : BitVec 8) : Agrees (.launch g a b n) :=
  of_sys (FieldsFit.launch g a b n) rfl (by decide) (fun _ => by simp [decSys])
theorem fsopen (g : Guard) (a : SReg) : Agrees (.fsopen g a) :=
  of_sys (FieldsFit.fsopen g a) rfl (by decide) (fun _ => by simp [decSys])
theorem fsclose (g : Guard) (a : SOrN) : Agrees (.fsclose g a) :=
  match a with
  | .s r => of_sys (FieldsFit.fsclose g (.s r)) rfl (by decide) (fun _ => by simp [decSys, decSOrN])
  | .n k => of_sys (FieldsFit.fsclose g (.n k)) rfl (by decide) (fun _ => by simp [decSys, decSOrN])
theorem fswait (g : Guard) (a : SOrN) : Agrees (.fswait g a) :=
  match a with
  | .s r => of_sys (FieldsFit.fswait g (.s r)) rfl (by decide) (fun _ => by simp [decSys, decSOrN])
  | .n k => of_sys (FieldsFit.fswait g (.n k)) rfl (by decide) (fun _ => by simp [decSys, decSOrN])
theorem bar (g : Guard) (k : BitVec 2) : Agrees (.bar g k) :=
  of_sys (FieldsFit.bar g k) rfl (by decide) (fun _ => by simp [decSys, pick3])
theorem bararr (g : Guard) (d : SReg) (k : BitVec 2) : Agrees (.bararr g d k) :=
  of_sys (FieldsFit.bararr g d k) rfl (by decide) (fun _ => by simp [decSys, pick3])
theorem barwait (g : Guard) (k : BitVec 2) (b : SReg) : Agrees (.barwait g k b) :=
  of_sys (FieldsFit.barwait g k b) rfl (by decide) (fun _ => by simp [decSys, pick3])
theorem srd (g : Guard) (o : SrdOp) : Agrees (.srd g o) :=
  match o with
  | .uni d reg => of_sys (FieldsFit.srd g (.uni d reg)) rfl (by decide) (fun _ => by simp [decSys])
  | .vec d reg => of_sys (FieldsFit.srd g (.vec d reg)) rfl (by decide) (fun _ => by simp [decSys])
theorem swr (g : Guard) (reg : BitVec 8) (a : SReg) : Agrees (.swr g reg a) :=
  of_sys (FieldsFit.swr g reg a) rfl (by decide) (fun _ => by simp [decSys])
theorem merid (g : Guard) (d : SReg) : Agrees (.merid g d) := of_sys (FieldsFit.merid g d) rfl (by decide) (fun _ => by simp [decSys])
theorem meridDev (g : Guard) (d : SReg) : Agrees (.meridDev g d) :=
  of_sys (FieldsFit.meridDev g d) rfl (by decide) (fun _ => by simp [decSys])
theorem gtimer (g : Guard) (a : SReg) : Agrees (.gtimer g a) :=
  of_sys (FieldsFit.gtimer g a) rfl (by decide) (fun _ => by simp [decSys])
theorem gtimerGet (g : Guard) (d : SReg) : Agrees (.gtimerGet g d) :=
  of_sys (FieldsFit.gtimerGet g d) rfl (by decide) (fun _ => by simp [decSys])
theorem trap (g : Guard) (code : BitVec 32) : Agrees (.trap g code) :=
  of_sys (FieldsFit.trap g code) rfl (by decide) (fun _ => by simp [decSys])
theorem bkpt (g : Guard) (code : BitVec 16) : Agrees (.bkpt g code) :=
  of_sys (FieldsFit.bkpt g code) rfl (by decide) (fun _ => by simp [decSys, two_bytes])
theorem park (g : Guard) : Agrees (.park g) := of_sys (FieldsFit.park g) rfl (by decide) (fun _ => by simp [decSys])
theorem tracemark (g : Guard) (a : SReg) : Agrees (.tracemark g a) :=
  of_sys (FieldsFit.tracemark g a) rfl (by decide) (fun _ => by simp [decSys])
theorem rte : Agrees .rte := of_sys FieldsFit.rte rfl (by decide) (fun _ => by simp [decSys])
theorem rteNext : Agrees .rteNext := of_sys FieldsFit.rteNext rfl (by decide) (fun _ => by simp [decSys])

end Sys2Proof.Laws.Agree
end

section
/-! PROOF. The encoding of every instruction (R84 to R94), and the words of the spec's own examples. -/

namespace Sys2Proof.Laws

open Sys2Proof

/-- Settles O53: each instruction's fields read back what its encoder writes (`Agree`), and an event has no word. -/
theorem decodeOfEncode : Obligations.DecodeOfEncode := by
  unfold Obligations.DecodeOfEncode
  intro i
  cases i
  case aget g d a => exact Agree.aget g d a
  case aoff g d a b => exact Agree.aoff g d a b
  case aset g d a => exact Agree.aset g d a
  case and o => exact Agree.and o
  case or o => exact Agree.or o
  case xor o => exact Agree.xor o
  case andn o => exact Agree.andn o
  case not o => exact Agree.not o
  case atom o => exact Agree.atom o
  case bar g k => exact Agree.bar g k
  case bararr g d k => exact Agree.bararr g d k
  case barwait g k b => exact Agree.barwait g k b
  case bcast o => exact Agree.bcast o
  case bfi o => exact Agree.bfi o
  case bfx o => exact Agree.bfx o
  case bkpt g code => exact Agree.bkpt g code
  case bra g disp => exact Agree.bra g disp
  case brc g cond a b disp => exact Agree.brc g cond a b disp
  case breakl g => exact Agree.breakl g
  case brev o => exact Agree.brev o
  case clz o => exact Agree.clz o
  case brx g o => exact Agree.brx g o
  case calget g d a => exact Agree.calget g d a
  case calset g d a => exact Agree.calset g d a
  case caltop g d => exact Agree.caltop g d
  case call g o => exact Agree.call g o
  case cas o => exact Agree.cas o
  case conflict o => exact Agree.conflict o
  case conflictAll o => exact Agree.conflictAll o
  case cpa o => exact Agree.cpa o
  case cpseal g => exact Agree.cpseal g
  case cpwait g n => exact Agree.cpwait g n
  case cvt o => exact Agree.cvt o
  case cvtn o => exact Agree.cvtn o
  case cvtw o => exact Agree.cvtw o
  case exit g => exact Agree.exit g
  case fadd o => exact Agree.fadd o
  case fsub o => exact Agree.fsub o
  case fmul o => exact Agree.fmul o
  case ffma o => exact Agree.ffma o
  case fmin o => exact Agree.fmin o
  case fmax o => exact Agree.fmax o
  case fclass o => exact Agree.fclass o
  case fcmp o => exact Agree.fcmp o
  case frcp o => exact Agree.frcp o
  case frsq o => exact Agree.frsq o
  case fsqrt o => exact Agree.fsqrt o
  case fexp2 o => exact Agree.fexp2 o
  case flog2 o => exact Agree.flog2 o
  case fsin o => exact Agree.fsin o
  case fcos o => exact Agree.fcos o
  case ftanh o => exact Agree.ftanh o
  case fence g ord scope => exact Agree.fence g ord scope
  case fenceEngRel g scope => exact Agree.fenceEngRel g scope
  case fill o => exact Agree.fill o
  case fsopen g a => exact Agree.fsopen g a
  case fsclose g a => exact Agree.fsclose g a
  case fswait g a => exact Agree.fswait g a
  case gshuf o => exact Agree.gshuf o
  case gtimer g a => exact Agree.gtimer g a
  case gtimerGet g d => exact Agree.gtimerGet g d
  case hwait g a => exact Agree.hwait g a
  case htest g d a => exact Agree.htest g d a
  case hcancel g a => exact Agree.hcancel g a
  case iadd o => exact Agree.iadd o
  case isub o => exact Agree.isub o
  case imul o => exact Agree.imul o
  case imulh o => exact Agree.imulh o
  case imad o => exact Agree.imad o
  case imin o => exact Agree.imin o
  case imax o => exact Agree.imax o
  case iabs o => exact Agree.iabs o
  case ineg o => exact Agree.ineg o
  case icmp o => exact Agree.icmp o
  case kick g d a n => exact Agree.kick g d a n
  case launch g a b n => exact Agree.launch g a b n
  case ld o => exact Agree.ld o
  case ldu o => exact Agree.ldu o
  case ldp o => exact Agree.ldp o
  case lds o => exact Agree.lds o
  case ldlines o => exact Agree.ldlines o
  case lea o => exact Agree.lea o
  case loop a disp => exact Agree.loop a disp
  case loopEnd => exact Agree.loopEnd
  case merid g d => exact Agree.merid g d
  case meridDev g d => exact Agree.meridDev g d
  case mld o => exact Agree.mld o
  case mma o => exact Agree.mma o
  case mmaZ o => exact Agree.mmaZ o
  case mov g o => exact Agree.mov g o
  case movi g d imm => exact Agree.movi g d imm
  case moviHi g d imm => exact Agree.moviHi g d imm
  case mst o => exact Agree.mst o
  case mstSum o => exact Agree.mstSum o
  case nop g => exact Agree.nop g
  case pack o => exact Agree.pack o
  case park g => exact Agree.park g
  case patload g a bank => exact Agree.patload g a bank
  case plop g uni d o => exact Agree.plop g uni d o
  case popc o => exact Agree.popc o
  case post g a b => exact Agree.post g a b
  case postq g d a b => exact Agree.postq g d a b
  case pref o => exact Agree.pref o
  case publish g a scope => exact Agree.publish g a scope
  case qscale o => exact Agree.qscale o
  case reconv => exact Agree.reconv
  case red o => exact Agree.red o
  case redux o => exact Agree.redux o
  case regroup la k p => exact Agree.regroup la k p
  case ret g => exact Agree.ret g
  case rte => exact Agree.rte
  case rteNext => exact Agree.rteNext
  case scan o => exact Agree.scan o
  case segred o => exact Agree.segred o
  case sel o => exact Agree.sel o
  case shfl o => exact Agree.shfl o
  case shl o => exact Agree.shl o
  case shr o => exact Agree.shr o
  case shra o => exact Agree.shra o
  case spill o => exact Agree.spill o
  case srd g o => exact Agree.srd g o
  case st o => exact Agree.st o
  case stu o => exact Agree.stu o
  case sts o => exact Agree.sts o
  case stp o => exact Agree.stp o
  case swr g reg a => exact Agree.swr g reg a
  case tagfind g d a => exact Agree.tagfind g d a
  case tagwaitAny g a => exact Agree.tagwaitAny g a
  case tagwaitAll g a => exact Agree.tagwaitAll g a
  case tbinit g a b => exact Agree.tbinit g a b
  case tbarrive g a => exact Agree.tbarrive g a
  case tbarriveTx g a b => exact Agree.tbarriveTx g a b
  case tbexpect g a b => exact Agree.tbexpect g a b
  case tbwait g a b => exact Agree.tbwait g a b
  case tracemark g a => exact Agree.tracemark g a
  case trap g code => exact Agree.trap g code
  case unpack o => exact Agree.unpack o
  case vote g la o => exact Agree.vote g la o
  case widenTrap g d a b => exact Agree.widenTrap g d a b
  case widenClamp g d a b => exact Agree.widenClamp g d a b
  case yield => exact Agree.yield
  all_goals exact Agree.of_event rfl

/-- Settles O52: each word runs through the decoder to its instruction, or to the rule it breaks. -/
theorem decodeSpecWords : Obligations.DecodeSpecWords := by
  unfold Obligations.DecodeSpecWords
  decide

end Sys2Proof.Laws
end

section
/-! PROOF. The special functions of major 0x58 (R95, R114, R115, R344). -/

namespace Sys2Proof.Machine

open Sys2Proof

/-- A long-latency instruction over the group that has lane destinations and raises nothing opens. -/
theorem effect_open {i : Instr} {s : State} {r : SplitRef} {g : Group} {act : Group → Nat → Mask}
    {op : Group → Group → Nat → GRes} {la : LA} {kind : Unit3} {vecs : List VecDest} {unis : List UniDest} {fl : Flags}
    (h : Issuing s r g) (hi : exec i s = runG act op s) (ha : ∀ d ∈ vecs, d.all = false)
    (hop : op (s.reads r g) (g.countWindows r.k) r.k = .ok ((g.countWindows r.k).issueLong r.k la kind vecs unis fl)) :
    Effect i s r g (longWrites vecs) (fun g' => Opens g g' r.k kind la vecs unis fl) :=
  have hk : r.k < g.splits.length := split_lt h.used
  effect_of_views (f := liftG op) h hi (by rw [liftG, hop])
    (keeps_issueLong ha (keeps_count g r.k (longWrites vecs)) (fun _ hd => List.mem_map_of_mem hd) rfl la kind unis fl)
    (same_issueLong ha (same_count g r.k) hk la kind unis fl)
    (fun _ hφ => opens_issueLong (g1 := g.countWindows r.k) ha hk rfl rfl rfl rfl la kind unis fl hφ)

/-- R114: a long-latency floating-point instruction that raises no enabled flag opens, with no lookahead while an enable is set. -/
theorem longFp_ok {g : Group} {m : Mask} {fl : Nat → Flags} (hfl : orFlags m fl &&& g.enables = 0) (k : Nat) (la : LA) (vecs : List VecDest)
    (unis : List UniDest) :
    longFp g k la m fl vecs unis = .ok (g.issueLong k (if g.enables = 0 then la else 0) .alu vecs unis (orFlags m fl)) :=
  if_pos hfl

/-- Each instruction of major 0x58 runs `sfuOp` of its function (R344). -/
theorem exec_specialFn : ∀ row ∈ specialFns, ∀ (o : SfuOp) (s : State), exec (row.1 o) s = runG (laneAct o.g) (sfuOp row.2 o) s := by
  simp only [specialFns, List.forall_mem_cons, List.not_mem_nil, false_implies, implies_true, and_true]
  exact ⟨exec_frcp, exec_frsq, exec_fsqrt, exec_fexp2, exec_flog2, exec_fsin, exec_fcos, exec_ftanh⟩

/-- Settles O9: every special function opens as a long-latency floating-point instruction (`longFp_ok`). -/
theorem specialFunctions : Obligations.SpecialFunctions := by
  unfold Obligations.SpecialFunctions
  intro row hrow s r g gd la d a rnd h src m f vecs hfl
  exact effect_open h (exec_specialFn row hrow _ s) (by simp [vecs])
    (longFp_ok (g := g.countWindows r.k) hfl r.k la vecs [])

end Sys2Proof.Machine
end

section
/-! PROOF. ST, STP and STU (R82, R229, R396 to R398): what a store does whose checks have passed, by the room in its group's queue and by its
ordering; and that the three forms come to it. -/

namespace Sys2Proof.Machine

open Sys2Proof

/-! ## The footprint sampler -/

theorem sample_frame (s : State) (r : SplitRef) (fp : Option Footprint) : (s.sample r fp).mem = s.mem ∧ (s.sample r fp).ctxs = s.ctxs := by
  have hpages (ps : List Nat) (f : State → Nat → State) (hf : ∀ x p, (f x p).mem = x.mem ∧ (f x p).ctxs = x.ctxs) (x : State) :
      (ps.foldl f x).mem = x.mem ∧ (ps.foldl f x).ctxs = x.ctxs := by
    induction ps generalizing x with
    | nil => exact ⟨rfl, rfl⟩
    | cons p ps ih =>
      obtain ⟨hm, hc⟩ := ih (f x p)
      obtain ⟨hm', hc'⟩ := hf x p
      exact ⟨hm.trans hm', hc.trans hc'⟩
  unfold State.sample
  split
  · exact ⟨rfl, rfl⟩
  · split
    · exact ⟨rfl, rfl⟩
    · refine hpages _ _ (fun x p => ?_) s
      split <;> exact ⟨rfl, rfl⟩

theorem group_sample (s : State) (r : SplitRef) (fp : Option Footprint) (x : GroupRef) : (s.sample r fp).group? x = s.group? x := by
  simp only [State.group?, State.ctx, (sample_frame s r fp).2]

/-! ## A stall -/

/-- R82: an instruction that stalls stands where it is. -/
theorem stalls_in_place {i : Instr} {s x : State} {r : SplitRef} {g : Group} {act : Group → Nat → Mask}
    {f : State → SplitRef → Group → Group → Res} (h : Issuing s r g) (hi : exec i s = runRes act f s)
    (hf : f s.entered r (s.reads r g) (g.countWindows r.k) = .stall x) (hm : x.mem = s.mem) (hc : x.ctxs = s.ctxs) :
    ∃ t, exec i s = .next t ∧ SameMemory s t ∧ SplitComes t r g (fun y => y.st = (g.split r.k).st) := by
  refine ⟨x.keepHeld r (s.reads r g), by rw [hi, runRes_issuing h, hf], ?_⟩
  have hg : x.group? r.group = some g := by simpa only [State.group?, State.ctx, hc] using h.group
  have hsame : SameMemory s x := sameMemory_of_ctxs hm hc
  have hheld (φ : Split → Split) : (x.modSplit r φ).group? r.group = some (g.modSplit r.k φ) := by
    rw [State.modSplit, group_modGroup_same, hg]
    rfl
  unfold State.keepHeld
  extract_lets peer
  split
  · exact ⟨hsame, g, hg, ⟨rfl, rfl, rfl, rfl, rfl, rfl, rfl, rfl, rfl, rfl, rfl⟩, rfl, rfl, rfl⟩
  · refine ⟨hsame.trans (sameMemory_modGroup x r.group _), _, hheld _, sameRegs_modSplit g r.k _, ?_⟩
    rw [split_modSplit_same g _ (split_lt h.used)]
    exact ⟨rfl, rfl, rfl⟩

/-! ## The queue of a release -/

section
variable {s : State} {r : GroupRef} {q : List StoreEnt} {tags : List (Nat × Unit3)}

theorem Holds.drainAll (h : Holds s r q tags) : Holds (s.drainAll r) r [] tags := by
  have hall := h.drain q.length
  obtain ⟨g, hg, rfl, -⟩ := h
  rw [List.drop_length] at hall
  simpa only [State.drainAll, hg] using hall

theorem Holds.performAll (h : Holds s r q tags) (slot lcid : Nat) : Holds (s.performAll slot lcid) r q tags := by
  refine Holds.congr ?_ (group_modLc _ slot lcid _ r)
  generalize (s.lc slot lcid).outbound = es
  induction es generalizing s with
  | nil => exact h
  | cons e es ih => exact ih (h.putAll slot e)

/-- A release at a scope wider than the group leaves its queue without a store (R229; log 24). -/
theorem Holds.releaseAt (h : Holds s r q tags) (sc : Scope) : ∃ q', Holds (s.releaseAt r sc) r q' tags ∧ (sc ≠ .group → q' = []) := by
  cases sc with
  | group => exact ⟨q, h, fun hne => absurd rfl hne⟩
  | core => exact ⟨[], h.drainAll, fun _ => rfl⟩
  | die | device | system => exact ⟨[], h.drainAll.performAll _ _, fun _ => rfl⟩

end

/-- From a meaning that answers `next`: the queue that its state holds is the one that the instruction leaves. -/
theorem exec_next_storeQ {i : Instr} {s x : State} {r : SplitRef} {g : Group} {act : Group → Nat → Mask}
    {f : State → SplitRef → Group → Group → Res} {q : List StoreEnt} {tags : List (Nat × Unit3)} (h : Issuing s r g)
    (hi : exec i s = runRes act f s) (hf : f s.entered r (s.reads r g) (g.countWindows r.k) = .next x) (hx : Holds x r.group q tags) :
    ∃ t g', exec i s = .next t ∧ t.group? r.group = some g' ∧ g'.storeQ = q := by
  obtain ⟨gx, hadv, hq, -⟩ : Holds (x.advance r) r.group q tags := hx.modGroup r.group fun _ => ⟨rfl, rfl⟩
  obtain ⟨φ, hcounted, -⟩ := group_counted_same (s := s) (g := g) hadv
  exact ⟨_, _, by rw [hi, runRes_next h hf], hcounted, hq⟩

/-! ## A store whose checks have passed -/

section
variable {s s1 : State} {r : SplitRef} {g g1 : Group} {i : Instr} {act : Group → Nat → Mask} {f : State → SplitRef → Group → Group → Res}
  {ord : Ord} {scope : Scope} {hint : Nat} {es : List (Elem × Nat)} {φ : State → State} {c : Checked} {w : List ByteWr × List Nat}

theorem storeRun_full (hfull : s.storeFull r.group = true) : storeRun ord scope hint es s r φ = .stall s := if_pos hfull

theorem storeRun_next (hroom : s.storeFull r.group = false)
    (hw : ((s.before r ord scope .write).transElems (s.cxOf r) .write (es.map (fun e => e.1))).bind (fun _ x =>
      x.storeElems (x.cxOf r) hint es [] []) = .ok w s1) :
    storeRun ord scope hint es s r φ = .next ((φ s1).storeDone r ord scope w) := by
  rw [storeRun, if_neg (ne_true_of_eq_false hroom), hw, MRes.toRes]

/-- A store enters the queue and nothing else of its group. -/
theorem enqueue_eq {g h : Group} (hq : h.storeQ = g.storeQ) (wr : List ByteWr) (ln : List Nat) :
    h.enqueue wr ln = { h with storeQ := (g.enqueue wr ln).storeQ } := by
  unfold Group.enqueue
  split
  · rw [← hq]
  · rw [hq]

/-- R396: a store that is not SC enters the queue, VIOLMASK as its check leaves it. -/
theorem effectAfter_stored (h : Issuing s r g) (hi : exec i s = runRes act f s) (hs : Still s1 r g1)
    (hf : f s.entered r (s.reads r g) (g.countWindows r.k) = .next ((s1.checked r c).done r (fun x => x.enqueue w.1 w.2))) :
    EffectAfter i s s1 r g1 { viol := true, stores := true } (fun g' => g'.storeQ = (g1.enqueue w.1 w.2).storeQ ∧ g'.viol = c.viol) := by
  obtain ⟨hg, hu⟩ := hs
  have hgx : ((s1.checked r c).done r (fun x => x.enqueue w.1 w.2)).group? r.group =
      some { g1.countWindows r.k with viol := c.viol, storeQ := (g1.enqueue w.1 w.2).storeQ } := by
    rw [group_done, group_checked, hg]
    exact congrArg some (enqueue_eq (g := g1) (h := (Group.withViol c.viol g1).countWindows r.k) rfl w.1 w.2)
  refine effectAfter_of_next h hi hf hgx (((OnlyGroupAfter.refl s1 r.group).checked c).done _)
    { keeps_count g1 r.k { viol := true, stores := true } with
      viol := fun e => absurd e Bool.noConfusion, storeQ := fun e => absurd e Bool.noConfusion }
    (same_count g1 r.k) (split_lt hu) (fun _ _ => ⟨rfl, rfl⟩)

/-- R229: an SC store leaves its group's queue as its release does (log 24). -/
theorem stored_sc (h : Issuing s r g) (hi : exec i s = runRes act f s) (hs : Still s1 r g1)
    (hf : f s.entered r (s.reads r g) (g.countWindows r.k) = .next ((s1.checked r c).storeDone r .sc scope w)) :
    ∃ t g', exec i s = .next t ∧ t.group? r.group = some g' ∧ (scope ≠ .group → g'.storeQ = []) := by
  have hdone : ∃ gx, ((s1.checked r c).done r (fun x => x.enqueue w.1 w.2)).group? r.group = some gx := by
    rw [group_done, group_checked, hs.1]
    exact ⟨_, rfl⟩
  obtain ⟨gx, hgx⟩ := hdone
  obtain ⟨q, hq, hempty⟩ := Holds.releaseAt ⟨gx, hgx, rfl, rfl⟩ scope
  obtain ⟨t, g', ht, hg', hsq⟩ := exec_next_storeQ h hi hf hq
  exact ⟨t, g', ht, hg', fun hne => hsq.trans (hempty hne)⟩

end

/-- What a store whose checks have passed comes to: it stands where its group's queue is full; otherwise, once its elements have been
translated, which gives `s1`, it enters the queue, and an SC store's release follows. -/
def StoreOutcome (i : Instr) (s s1 : State) (r : SplitRef) (g g1 : Group) (ord : Ord) (scope : Scope) (hint : Nat) (s0 : State)
    (es : List (Elem × Nat)) (c : Checked) (w : List ByteWr × List Nat) : Prop :=
  (g.queueFull = true → ∃ t, exec i s = .next t ∧ SameMemory s t ∧ SplitComes t r g (fun x => x.st = (g.split r.k).st)) ∧
  (g.queueFull = false →
    ((s0.before r ord scope .write).transElems (s0.cxOf r) .write (es.map (fun e => e.1))).bind (fun _ s2 =>
      s2.storeElems (s2.cxOf r) hint es [] []) = .ok w s1 →
    Still s1 r g1 →
      (ord ≠ .sc → EffectAfter i s s1 r g1 { viol := true, stores := true }
        (fun g' => g'.storeQ = (g1.enqueue w.1 w.2).storeQ ∧ g'.viol = c.viol)) ∧
      (ord = .sc → ∃ t g', exec i s = .next t ∧ t.group? r.group = some g' ∧ (scope ≠ .group → g'.storeQ = [])))

theorem storeOutcome_of_run {s s1 : State} {r : SplitRef} {g g1 : Group} {i : Instr} {act : Group → Nat → Mask}
    {f : State → SplitRef → Group → Group → Res} {ord : Ord} {scope : Scope} {hint : Nat} {es : List (Elem × Nat)} {c : Checked}
    {w : List ByteWr × List Nat} {fp : Option Footprint} (h : Issuing s r g) (hi : exec i s = runRes act f s)
    (hf : f s.entered r (s.reads r g) (g.countWindows r.k) =
      storeRun ord scope hint es (s.entered.sample r fp) r (fun x => x.checked r c)) :
    StoreOutcome i s s1 r g g1 ord scope hint (s.entered.sample r fp) es c w := by
  have hqueue : (s.entered.sample r fp).storeFull r.group = g.queueFull := by
    rw [State.storeFull, group_sample, show s.entered.group? r.group = some g from h.group]
  refine ⟨fun hfull => ?_, fun hroom hw hs => ?_⟩
  · obtain ⟨hm, hc⟩ := sample_frame s.entered r fp
    exact stalls_in_place h hi (hf.trans (storeRun_full (hqueue.trans hfull))) hm hc
  · have hnext := hf.trans (storeRun_next (hqueue.trans hroom) hw)
    refine ⟨fun hord => ?_, fun hord => ?_⟩
    · rw [State.storeDone, if_neg hord] at hnext
      exact effectAfter_stored h hi hs hnext
    · subst hord
      exact stored_sc h hi hs hnext

/-! ## The three forms -/

theorem exec_store (ptr : Bool) (o : MemV) (s : State) :
    exec (if ptr then .stp o else .st o) s = runRes (laneAct o.g) (stRes ptr o) s := by
  cases ptr <;> rfl

/-- Lanes whose further checks pass store their elements. -/
theorem storeLanes_run {o : MemV} {a : BitVec 256} {src : Group} {c : Checked} {s : State} {r : SplitRef} {g : Group}
    (hl : s.laneChecks r (g.split r.k) .write ⟨false, true⟩ (eszBits (arEsz a) / 8 * NElem.count o.n) (c.elems a (NElem.count o.n))
      (s.checked r c) = none) :
    storeLanes o a src c s r g = storeRun o.ord o.scope (accessHint o.rc a) ((c.elems a (NElem.count o.n)).flatMap (fun l =>
      l.2.zipIdx.map (fun e => (e.1, storeValue src o.d.toNat l.1 e.2 (eszBits (arEsz a)))))) s r (fun x => x.checked r c) := by
  simp only [storeLanes, hl]

/-- A vector store whose descriptor and block are accepted, and whose check passes, goes on with its lanes. -/
theorem stRes_checked {ptr : Bool} {o : MemV} {s : State} {r : SplitRef} {src g : Group} {c : Checked}
    (hformat : (arBad (src.a o.arr.toNat) || (ptr && decide (5 ≤ arEsz (src.a o.arr.toNat))) ||
      blockBad g o.d (arEsz (src.a o.arr.toNat)) (NElem.count o.n)) = false)
    (hstop : ∀ x, s.codeStop r x = none)
    (hcheck : (if ptr then pointerCheck (src.a o.arr.toNat) (src.active r.k o.g) true (offInt o.off) (NElem.count o.n)
        (fun j => src.vPair o.x.toNat j)
      else arrayCheck (src.a o.arr.toNat) (src.view r.k o.x.toNat) (src.active r.k o.g) true (offInt o.off) (NElem.count o.n)
        (fun j => (src.v o.x.toNat j).toInt)) = .ok c) :
    let fp := if ptr then none else footprint (src.a o.arr.toNat) (src.view r.k o.x.toNat) (offInt o.off) (NElem.count o.n)
    stRes ptr o s r src g = storeLanes o (src.a o.arr.toNat) src c (s.sample r fp) r g := by
  refine (if_neg (ne_true_of_eq_false hformat)).trans ?_
  cases ptr with
  | true =>
    rw [if_pos rfl] at hcheck
    exact (if_pos rfl).trans (withCheck_ok hcheck hstop _ _)
  | false =>
    rw [if_neg Bool.false_ne_true] at hcheck
    exact (if_neg Bool.false_ne_true).trans (withCheck_ok hcheck hstop _ _)

/-- R84: an STU whose guard fails does nothing. -/
theorem stu_unguarded {s : State} {r : SplitRef} {g : Group} (o : MemU) (h : Issuing s r g)
    (hcode : s.codeAt r.slot (g.split r.k) = none) (hpass : (s.reads r g).passes o.g = false) :
    Effect (.stu o) s r g {} (fun _ => True) := by
  have hstop : s.entered.codeStop r s.entered = none := codeStop_none (s := s.entered) h.group hcode _
  exact effect_nothing (i := .stu o) (act := uniAct o.g) (f := stuRes o) h rfl (by simp [stuRes, underQCode, hpass, hstop])

/-- Settles O27: the checks lead ST, STP and STU to one run of their elements, whose outcomes `storeOutcome_of_run` gives. -/
theorem stores : Obligations.Stores := by
  unfold Obligations.Stores
  refine ⟨?_, ?_⟩
  · intro s s1 r g g1 ptr o c w h src a act n k s0 es hcode hbad hptr hblock hcheck hlanes
    have hformat : (arBad a || (ptr && decide (5 ≤ arEsz a)) || blockBad (g.countWindows r.k) o.d (arEsz a) n) = false := by
      have hb : blockBad (g.countWindows r.k) o.d (arEsz a) n = false := hblock
      simpa [hbad, hb] using hptr
    have hstop : ∀ x, s.entered.codeStop r x = none := codeStop_none (s := s.entered) h.group hcode
    exact storeOutcome_of_run h (exec_store ptr o s)
      ((stRes_checked (s := s.entered) hformat hstop hcheck).trans (storeLanes_run hlanes))
  · intro s s1 r g g1 o c w h src a k x s0 es hcode
    refine ⟨stu_unguarded o h hcode, fun hpass hbad hesz hcheck hlanes => ?_⟩
    have hformat : (arBad a || arEsz a == 4) = false := by simpa [hbad] using hesz
    have hstop : ∀ x, s.entered.codeStop r x = none := codeStop_none (s := s.entered) h.group hcode
    have huni : uniCheck a true (offInt o.off) x = .ok c := hcheck
    refine storeOutcome_of_run (i := .stu o) (f := stuRes o) (act := uniAct o.g) h rfl ?_
    refine (if_pos hpass).trans ((if_neg (ne_true_of_eq_false hformat)).trans ((withCheck_ok huni hstop _ _).trans ?_))
    simp only [countWindows_split, src, a, k, x, s0] at hlanes ⊢
    rw [hlanes]

end Sys2Proof.Machine
end

section
/-! SUPPORT. The codes of a binary format as numbers (R108, R112): their fields, and that the order of numbers is the order of their codes. -/

namespace Sys2Proof.Machine

namespace BinFmt

/-! ## The fields of a code -/

/-- The magnitude of a code: its bits below the sign. -/
def magOf (f : BinFmt) (x : Nat) : Nat := x % f.signBit

/-- The magnitude of a code that is no NaN as a multiple of the least subnormal number, infinity as the number after the greatest finite one. -/
def units (f : BinFmt) (a : Nat) : Nat :=
  if a / 2 ^ f.mbits = 0 then a else (2 ^ f.mbits + a % 2 ^ f.mbits) * 2 ^ (a / 2 ^ f.mbits - 1)

/-- Exponent of the least subnormal number. -/
def eleast (f : BinFmt) : Int := f.emin - f.mbits

/-- A code's number in multiples of the least subnormal number. -/
def level (f : BinFmt) (x : Nat) : Int := if f.signBit ≤ x then -(f.units (f.magOf x) : Int) else f.units (f.magOf x)

variable {f : BinFmt}

theorem signBit_eq (f : BinFmt) : f.signBit = 2 ^ f.mbits * 2 ^ f.ebits := by
  rw [BinFmt.signBit, Nat.pow_add, Nat.mul_comm]

theorem signBit_pos (f : BinFmt) : 0 < f.signBit := Nat.two_pow_pos _

theorem infBits_lt (f : BinFmt) : f.infBits < f.signBit := by
  rw [signBit_eq, BinFmt.infBits, Nat.mul_comm]
  exact Nat.mul_lt_mul_of_pos_left (by have := Nat.two_pow_pos f.ebits; omega) (Nat.two_pow_pos _)

theorem infBits_pos (f : BinFmt) (he : 0 < f.ebits) : 0 < f.infBits :=
  Nat.mul_pos (Nat.sub_pos_of_lt (Nat.one_lt_two_pow he.ne')) (Nat.two_pow_pos _)

theorem magOf_lt (f : BinFmt) (x : Nat) : f.magOf x < f.signBit := Nat.mod_lt _ f.signBit_pos

theorem exponent_eq (f : BinFmt) (x : Nat) : x / 2 ^ f.mbits % 2 ^ f.ebits = f.magOf x / 2 ^ f.mbits := by
  rw [magOf, signBit_eq, Nat.mod_mul_right_div_self]

theorem fraction_eq (f : BinFmt) (x : Nat) : x % 2 ^ f.mbits = f.magOf x % 2 ^ f.mbits := by
  rw [magOf, signBit_eq, Nat.mod_mul_right_mod]

theorem two_pow_width (f : BinFmt) : 2 ^ f.width = f.signBit * 2 := by
  rw [BinFmt.width, Nat.add_assoc, Nat.add_comm 1, Nat.pow_succ]; rfl

theorem sign_iff {x : Nat} (hx : x < 2 ^ f.width) : x / f.signBit % 2 = 1 ↔ f.signBit ≤ x := by
  have hq : x / f.signBit < 2 := Nat.div_lt_of_lt_mul (f.two_pow_width ▸ hx)
  have h1 : 1 ≤ x / f.signBit ↔ 1 * f.signBit ≤ x := Nat.le_div_iff_mul_le f.signBit_pos
  rw [Nat.one_mul] at h1
  rw [← h1]
  generalize x / f.signBit = q at *
  omega

/-- The exponent field is all ones from the code of infinity on. -/
theorem exponent_max_iff (f : BinFmt) (x : Nat) : f.magOf x / 2 ^ f.mbits = 2 ^ f.ebits - 1 ↔ f.infBits ≤ f.magOf x := by
  have hlt : f.magOf x / 2 ^ f.mbits < 2 ^ f.ebits := Nat.div_lt_of_lt_mul (f.signBit_eq ▸ f.magOf_lt x)
  rw [BinFmt.infBits, ← Nat.le_div_iff_mul_le (Nat.two_pow_pos _)]
  omega

/-! ## What a code stands for -/

section
variable {x : Nat}

theorem decode_inf (hx : x < 2 ^ f.width) (h : f.magOf x = f.infBits) : f.decode x = .inf (decide (f.signBit ≤ x)) := by
  have hex := (f.exponent_max_iff x).mpr h.ge
  have hfr : f.magOf x % 2 ^ f.mbits = 0 := by rw [h, BinFmt.infBits, Nat.mul_mod_left]
  simp only [BinFmt.decode, exponent_eq, fraction_eq, sign_iff hx, hex, hfr, if_true]

theorem decode_nan (hm : 0 < f.mbits) (h : f.infBits < f.magOf x) : f.decode x = .nan (!x.testBit (f.mbits - 1)) := by
  have hex := (f.exponent_max_iff x).mpr h.le
  have hfr : f.magOf x % 2 ^ f.mbits ≠ 0 := fun h0 => by
    have hdiv := Nat.div_add_mod (f.magOf x) (2 ^ f.mbits)
    rw [hex, h0, Nat.mul_comm] at hdiv
    exact h.ne hdiv
  have hquiet : x % 2 ^ f.mbits < 2 ^ (f.mbits - 1) ↔ x.testBit (f.mbits - 1) = false := by
    have hp : 2 ^ f.mbits = 2 ^ (f.mbits - 1) * 2 := by rw [← Nat.pow_succ, Nat.succ_eq_add_one, Nat.sub_add_cancel hm]
    have hd : x % 2 ^ f.mbits / 2 ^ (f.mbits - 1) = x / 2 ^ (f.mbits - 1) % 2 := by rw [hp, Nat.mod_mul_right_div_self]
    rw [← Nat.div_eq_zero_iff_lt (Nat.two_pow_pos _), hd, Nat.testBit_eq_decide_div_mod_eq, decide_eq_false_iff_not]
    omega
  simp only [BinFmt.decode, exponent_eq, hex, if_true, fraction_eq f x ▸ hfr, if_false, hquiet, ← Bool.not_eq_true', Bool.decide_eq_true]

theorem decode_fin (hx : x < 2 ^ f.width) (h : f.magOf x < f.infBits) : ∃ m e, f.decode x = .fin (decide (f.signBit ≤ x)) m e ∧
    f.eleast ≤ e ∧ m * 2 ^ (e - f.eleast).toNat = f.units (f.magOf x) := by
  have hex : f.magOf x / 2 ^ f.mbits ≠ 2 ^ f.ebits - 1 := mt (f.exponent_max_iff x).mp (not_le.mpr h)
  simp only [BinFmt.decode, exponent_eq, fraction_eq f x, sign_iff hx, hex, if_false, units, eleast, BinFmt.emin]
  split
  · next h0 =>
    exact ⟨_, _, rfl, le_rfl, by simp [Nat.mod_eq_of_lt ((Nat.div_eq_zero_iff_lt (Nat.two_pow_pos _)).mp h0)]⟩
  · next h0 =>
    generalize f.magOf x / 2 ^ f.mbits = ex at *
    refine ⟨_, _, rfl, by omega, ?_⟩
    congr 2
    omega

theorem isNan_decode (hm : 0 < f.mbits) (hx : x < 2 ^ f.width) : (f.decode x).isNan = nanCode f x := by
  rcases lt_trichotomy (f.magOf x) f.infBits with h | h | h
  · obtain ⟨m, e, hd, -⟩ := decode_fin hx h
    rw [hd]
    exact (decide_eq_false (lt_asymm h)).symm
  · rw [decode_inf hx h]
    exact (decide_eq_false h.not_gt).symm
  · rw [decode_nan hm h]
    exact (decide_eq_true h).symm

theorem isSnan_decode (hm : 0 < f.mbits) (hx : x < 2 ^ f.width) : (f.decode x).isSnan = snanCode f x := by
  have hn := isNan_decode hm hx
  by_cases h : f.infBits < f.magOf x
  · rw [decode_nan hm h] at hn ⊢
    rw [snanCode, ← hn]; rfl
  · rw [snanCode, show nanCode f x = false from decide_eq_false h] at *
    cases hd : f.decode x with
    | nan s => rw [hd] at hn; exact absurd hn Bool.noConfusion
    | inf => rfl
    | fin => rfl

theorem isNeg_decode (hx : x < 2 ^ f.width) (hn : nanCode f x = false) :
    (f.decode x).isNeg = decide (f.signBit ≤ x) := by
  rcases (not_lt.mp (of_decide_eq_false hn)).lt_or_eq with h | h
  · obtain ⟨m, e, hd, -⟩ := decode_fin hx h
    rw [hd]; rfl
  · rw [decode_inf hx h]; rfl

end

/-! ## The order of numbers -/

/-- Greater magnitudes have greater codes. -/
theorem units_strictMono (f : BinFmt) : StrictMono f.units := by
  intro a b hab
  have hM := Nat.two_pow_pos f.mbits
  have ha := Nat.div_add_mod a (2 ^ f.mbits)
  have hb := Nat.div_add_mod b (2 ^ f.mbits)
  have hra := Nat.mod_lt a hM
  have hle : a / 2 ^ f.mbits ≤ b / 2 ^ f.mbits := Nat.div_le_div_right hab.le
  unfold units
  generalize a / 2 ^ f.mbits = p at *
  generalize b / 2 ^ f.mbits = q at *
  generalize 2 ^ f.mbits = M at *
  rcases hle.eq_or_lt with rfl | hpq
  · -- one binade
    split
    · exact hab
    · exact Nat.mul_lt_mul_of_pos_right (by omega) (Nat.two_pow_pos _)
  · obtain ⟨q, rfl⟩ : ∃ n, q = n + 1 := ⟨q - 1, by omega⟩
    have hlow : M * 2 ^ q ≤ (M + b % M) * 2 ^ q := Nat.mul_le_mul_right _ (Nat.le_add_right _ _)
    rw [if_neg (Nat.succ_ne_zero q), Nat.add_sub_cancel]
    refine lt_of_lt_of_le ?_ hlow
    split
    · next h0 =>
      subst h0
      have : M * 1 ≤ M * 2 ^ q := Nat.mul_le_mul_left _ Nat.one_le_two_pow
      omega
    · next h0 =>
      obtain ⟨p, rfl⟩ := Nat.exists_eq_succ_of_ne_zero h0
      calc (M + a % M) * 2 ^ (p + 1 - 1) < (M * 2) * 2 ^ p := Nat.mul_lt_mul_of_pos_right (by omega) (Nat.two_pow_pos _)
        _ = M * 2 ^ (p + 1) := by rw [Nat.mul_assoc, Nat.pow_succ']
        _ ≤ M * 2 ^ q := Nat.mul_le_mul_left _ (Nat.pow_le_pow_right (by omega) (by omega))

end BinFmt

/-- Aligned at a lower exponent, a number is a greater multiple. -/
theorem alignTo_lower (neg : Bool) (m : Nat) {e q q' : Int} (h : q' ≤ q) (hq : q ≤ e) :
    alignTo neg m e q' = alignTo neg m e q * 2 ^ (q - q').toNat := by
  have hs : (e - q').toNat = (e - q).toNat + (q - q').toNat := by omega
  cases neg <;> simp [alignTo, hs, pow_add, mul_assoc]

/-- Finite numbers compare as their multiples at any exponent below both. -/
theorem numLt_fin (x y : Bool) (m n : Nat) {e d q : Int} (he : q ≤ e) (hd : q ≤ d) :
    numLt (.fin x m e) (.fin y n d) = decide (alignTo x m e q < alignTo y n d q) := by
  rw [numLt, alignTo_lower x m (le_min he hd) (min_le_left e d), alignTo_lower y n (le_min he hd) (min_le_right e d)]
  exact decide_eq_decide.mpr (mul_lt_mul_iff_left₀ (by positivity)).symm

namespace BinFmt

variable {f : BinFmt} {x y : Nat}

theorem alignTo_eq_level {m : Nat} {e : Int} (h : m * 2 ^ (e - f.eleast).toNat = f.units (f.magOf x)) :
    alignTo (decide (f.signBit ≤ x)) m e f.eleast = f.level x := by
  simp only [alignTo, level, decide_eq_true_eq, ← h]
  norm_cast

/-- Codes that are no NaN compare as their levels, infinities among them. -/
theorem numLt_decode (he : 0 < f.ebits) (hx : x < 2 ^ f.width) (hy : y < 2 ^ f.width) (hnx : nanCode f x = false) (hny : nanCode f y = false) :
    numLt (f.decode x) (f.decode y) = decide (f.level x < f.level y) := by
  have hmx : f.magOf x ≤ f.infBits := not_lt.mp (of_decide_eq_false hnx)
  have hmy : f.magOf y ≤ f.infBits := not_lt.mp (of_decide_eq_false hny)
  rcases hmx.lt_or_eq with hmx | hmx <;> rcases hmy.lt_or_eq with hmy | hmy
  · obtain ⟨m, e, hdx, hle, hux⟩ := decode_fin hx hmx
    obtain ⟨n, d, hdy, hle', huy⟩ := decode_fin hy hmy
    rw [hdx, hdy, numLt_fin _ _ m n hle hle', alignTo_eq_level hux, alignTo_eq_level huy]
  · obtain ⟨m, e, hdx, -⟩ := decode_fin hx hmx
    have hu := f.units_strictMono hmx
    rw [hdx, decode_inf hy hmy, numLt, level, level, hmy]
    split <;> split <;> simp [*] <;> omega
  · obtain ⟨n, d, hdy, -⟩ := decode_fin hy hmy
    have hu := f.units_strictMono hmy
    rw [hdy, decode_inf hx hmx, numLt, level, level, hmx]
    split <;> split <;> simp [*] <;> omega
  · have hpos := (Nat.zero_le _).trans_lt (f.units_strictMono (f.infBits_pos he))
    rw [decode_inf hx hmx, decode_inf hy hmy, numLt, level, level, hmx, hmy]
    split <;> split <;> simp [*]

/-- The order of R112: a magnitude upward, and below every positive number a magnitude downward. -/
theorem codePlace_eq {x : Nat} (hx : x < 2 ^ f.width) :
    codePlace f x = if f.signBit ≤ x then -(f.magOf x : Int) - 1 else f.magOf x := by
  rw [two_pow_width] at hx
  unfold codePlace magOf
  split
  · next h => rw [Nat.mod_eq_sub_mod h, Nat.mod_eq_of_lt (by omega)]
  · next h => rw [Nat.mod_eq_of_lt (not_le.mp h)]

theorem codePlace_inj (h : codePlace f x = codePlace f y) : x = y := by
  unfold codePlace at h
  split at h <;> split at h <;> omega

theorem numLe112_decode (he : 0 < f.ebits) (hm : 0 < f.mbits) (hx : x < 2 ^ f.width) (hy : y < 2 ^ f.width)
    (hnx : nanCode f x = false) (hny : nanCode f y = false) :
    numLe112 (f.decode x) (f.decode y) = decide (codePlace f x ≤ codePlace f y) := by
  have hlt := (f.units_strictMono).lt_iff_lt (a := f.magOf x) (b := f.magOf y)
  have hgt := (f.units_strictMono).lt_iff_lt (a := f.magOf y) (b := f.magOf x)
  rw [numLe112, numEq, isNan_decode hm hx, isNan_decode hm hy, hnx, hny, numLt_decode he hx hy hnx hny, numLt_decode he hy hx hny hnx,
    isNeg_decode hx hnx, isNeg_decode hy hny, codePlace_eq hx, codePlace_eq hy, level, level, Bool.eq_iff_iff]
  by_cases sx : f.signBit ≤ x <;> by_cases sy : f.signBit ≤ y <;> simp [sx, sy] <;> omega

/-- R112: the model's minimum and maximum of two codes are those of the rule. -/
theorem minMaxNum_eq_rule (he : 0 < f.ebits) (hm : 0 < f.mbits) (hx : x < 2 ^ f.width) (hy : y < 2 ^ f.width) (isMax num : Bool) :
    minMaxNum f isMax num x y = minMaxRule f isMax num x y := by
  simp only [minMaxNum, minMaxRule, isNan_decode hm hx, isNan_decode hm hy, isSnan_decode hm hx, isSnan_decode hm hy]
  cases hnx : nanCode f x <;> cases hny : nanCode f y
  case false.false =>
    have hinj : codePlace f x = codePlace f y → x = y := codePlace_inj
    rw [numLe112_decode he hm hx hy hnx hny]
    rcases lt_trichotomy (codePlace f x) (codePlace f y) with h | h | h
    · cases isMax <;> simp [h, h.le]
    · cases hinj h
      cases isMax <;> simp
    · cases isMax <;> simp [h.not_gt, h.not_ge]
  all_goals simp

end BinFmt
end Sys2Proof.Machine
end

section
/-! PROOF. Floating-point instructions of the group (R113, R114): each ends in `fpFinish` or `longFp`, which raise FPEXC with the flags alone where a
flag is enabled; and FMIN and FMAX (R112). -/

namespace Sys2Proof.Machine

open Sys2Proof

/-! ## FPEXC -/

section
variable {g : Group} {m : Mask} {fl : Nat → Flags}

/-- What an instruction answers that raises an enabled flag: FPEXC, with its flags alone written (R114). -/
def fpexcRes (g : Group) (m : Mask) (fl : Nat → Flags) : GRes :=
  .trap (Exc.plain .fpexc (fpexcVal m fl (orFlags m fl &&& g.enables))) (g.accrue (orFlags m fl))

theorem fpFinish_trap (h : orFlags m fl &&& g.enables ≠ 0) (done : Group) : fpFinish g m fl done = fpexcRes g m fl := if_neg h

theorem fpFinish_ok (h : orFlags m fl &&& g.enables = 0) (done : Group) : fpFinish g m fl done = .ok (done.accrue (orFlags m fl)) := if_pos h

theorem longFp_trap (h : orFlags m fl &&& g.enables ≠ 0) (k : Nat) (la : LA) (vecs : List VecDest) (unis : List UniDest) :
    longFp g k la m fl vecs unis = fpexcRes g m fl := if_neg h

end

section
variable {i : Instr} {gd : Guard} {f : Group → Nat → Nat × Flags}

/-- R114: an instruction that answers with `fpexcRes` where it raises an enabled flag takes FPEXC. -/
theorem fpTraps_of_res {op : Group → Group → Nat → GRes} (hi : ∀ s, exec i s = runG (laneAct gd) op s)
    (hop : ∀ src g k, let m := src.active k gd
      orFlags m (fun j => (f src j).2) &&& g.enables ≠ 0 → op src g k = fpexcRes g m (fun j => (f src j).2)) : FpTraps i gd f := by
  intro s r g h hmay src m fl hfl
  have hres : op src (g.countWindows r.k) r.k = fpexcRes (g.countWindows r.k) m (fun j => (f src j).2) := hop src _ _ hfl
  have hf : liftG op s.entered r src (g.countWindows r.k) = .trap (Exc.plain .fpexc (fpexcVal m (fun j => (f src j).2) (fl &&& g.enables)))
      (s.entered.setGroup r.group ((g.countWindows r.k).accrue fl)) := by rw [liftG, hres]; rfl
  exact takesTrap_of_trap (l := (g.countWindows r.k).inflight) (v := g.viol) h hmay (hi s) hf rfl
    (group_setGroup_same (s := s.entered) h.group) (sameMemory_setGroup s.entered _ _)

/-- The same of an instruction that ends in `fpFinish`, whatever its effect is. -/
theorem fpTraps_of_finish {done : Group → Group → Nat → Group}
    (hi : ∀ s, exec i s = runG (laneAct gd) (fun src g k => fpFinish g (src.active k gd) (fun j => (f src j).2) (done src g k)) s) :
    FpTraps i gd f := fpTraps_of_res hi fun _ _ _ h => fpFinish_trap h _

/-- The instruction works on its lanes by `f`, and its results go to one vector register or a pair. -/
def RunsLanes (i : Instr) (gd : Guard) (d : VReg) (wide : Bool) (f : Group → Nat → Nat × Flags) : Prop :=
  ∀ s, exec i s = runG (laneAct gd) (fun src g k => fpLanes src g k gd d wide (f src)) s

variable {d : VReg} {wide : Bool}

theorem fpTraps_of_lanes (hi : RunsLanes i gd d wide f) : FpTraps i gd f := fpTraps_of_finish hi

/-! ## Results of lanes -/

theorem keeps_fpWrite (g : Group) (k : Nat) (d : VReg) (wide : Bool) (m : Mask) (val : Nat → Nat) :
    g.Keeps (fpWrite (g.countWindows k) k d wide m val) k (fpWrites wide d) := by
  cases wide with
  | false => exact keeps_writeVec (keeps_count g k _) (by simp [fpWrites]) _ _ _
  | true => exact keeps_writePair (keeps_count g k _) (by simp [fpWrites]) (by simp [fpWrites]) _ _

theorem same_fpWrite {g : Group} {k : Nat} (hk : k < g.splits.length) (d : VReg) (wide : Bool) (m : Mask) (val : Nat → Nat) :
    g.SameSplit (fpWrite (g.countWindows k) k d wide m val) k := by
  cases wide with
  | false => exact same_writeVec (same_count g k) hk _ _ _ _
  | true => exact same_writePair (same_count g k) hk _ _ _

theorem holds_fpWrite {g : Group} {wide : Bool} {d : VReg} (hd : d.toNat + (if wide then 1 else 0) < g.vregs.length) (k : Nat) (m : Mask)
    (val : Nat → Nat) : fpHolds g (fpWrite (g.countWindows k) k d wide m val) m wide d val := by
  intro j hj
  cases wide with
  | false =>
    refine (v_writeVec (g.countWindows k) k m _ none (r := d.toNat) hd hj).trans ?_
    rw [regGet_perLane hj, v_count]
  | true => exact vPair_writePair (g.countWindows k) k m _ hd hj

theorem fflags_fpWrite (g : Group) (k : Nat) (d : VReg) (wide : Bool) (m : Mask) (val : Nat → Nat) :
    (fpWrite g k d wide m val).fflags = g.fflags := by
  cases wide <;> simp [fpWrite]

/-- R113, R338: without an enabled flag the lanes hold their results, and the flags accrue. -/
theorem fpCompletes_of_lanes (hi : RunsLanes i gd d wide f) : FpCompletes i gd d wide f := by
  intro s r g h hd src m fl hfl
  let gx := (fpWrite (g.countWindows r.k) r.k d wide m (fun j => (f src j).1)).accrue fl
  have hok : fpLanes src (g.countWindows r.k) r.k gd d wide (f src) = .ok gx := fpFinish_ok (g := g.countWindows r.k) hfl _
  refine effect_of_group (g' := gx) h (hi s) (by rw [liftG, hok]) (fun _ => ⟨holds_fpWrite hd r.k m _, ?_⟩)
    (keeps_accrue (keeps_fpWrite g r.k d wide m _) rfl fl) (same_accrue (same_fpWrite (split_lt h.used) d wide m _) fl)
  exact congrArg (· ||| fl.setWidth 64) (fflags_fpWrite _ _ _ _ _ _)

end

/-! ## The obligations -/

theorem runsLanes_cvtn {nf : NarrowFmt} (o : CvtnOp) (h : elemFmt o.fmt = some (.narrow nf)) :
    RunsLanes (.cvtn o) o.g o.d false (fun src j => cvtnNum nf (o.rnd == .rn) o.satf (fpNum o.ty src o.a j 0)) := by
  intro s
  have hop : cvtnOp o = fun src g k => fpLanes src g k o.g o.d false
      (fun j => cvtnNum nf (o.rnd == .rn) o.satf (fpNum o.ty src o.a j 0)) := by
    funext src g k
    simp only [cvtnOp, withNarrow, h, fpNum]
  rw [exec_cvtn, execCvtn, hop]

theorem runsLanes_cvtw {nf : NarrowFmt} (o : CvtwOp) (h : elemFmt o.fmt = some (.narrow nf)) :
    RunsLanes (.cvtw o) o.g o.d false (fun src j =>
      roundAny o.ty.fmt .rn false (nf.decode ((o.a.word src j).toNat / 2 ^ (8 * o.k.toNat)))) := by
  intro s
  have hop : cvtwOp o = fun src g k => fpLanes src g k o.g o.d false (fun j =>
      roundAny o.ty.fmt .rn false (nf.decode ((o.a.word src j).toNat / 2 ^ (8 * o.k.toNat)))) := by
    funext src g k
    simp only [cvtwOp, withNarrow, h]
  rw [exec_cvtw, execCvtw, hop]

/-- Settles O7: every instruction named ends in `fpFinish`, or in `longFp`, of the flags that the statement names. -/
theorem floatTraps : Obligations.FloatTraps := by
  unfold Obligations.FloatTraps
  intro gd d p a b c ty rnd num sat rel ts td la fmt nf k
  refine ⟨fpTraps_of_lanes (d := d) (wide := ty.wide) fun s => rfl, fpTraps_of_lanes (d := d) (wide := ty.wide) fun s => rfl,
    fpTraps_of_lanes (d := d) (wide := ty.wide) fun s => rfl, fpTraps_of_lanes (d := d) (wide := ty.wide) fun s => rfl,
    fpTraps_of_lanes (d := d) (wide := ty.wide) fun s => rfl, fpTraps_of_lanes (d := d) (wide := ty.wide) fun s => rfl,
    fpTraps_of_finish (exec_fcmp _), fpTraps_of_lanes (d := d) (wide := td.wide) fun s => rfl, fun hnf => ⟨?_, ?_⟩, fun row hrow => ?_⟩
  · exact fpTraps_of_lanes (runsLanes_cvtn ⟨gd, d, a, ty, fmt, rnd, sat⟩ hnf)
  · exact fpTraps_of_lanes (runsLanes_cvtw ⟨gd, d, a, ty, fmt, k⟩ hnf)
  · exact fpTraps_of_res (exec_specialFn row hrow _) fun _ _ k h => longFp_trap h k _ _ _

/-- Both elements of a value are codes of its type's format. -/
theorem elem_lt (ty : FTy) (bits e : Nat) : ty.elem bits e < 2 ^ ty.fmt.width := Nat.mod_lt _ (Nat.two_pow_pos _)

theorem ebits_pos (ty : FTy) : 0 < ty.fmt.ebits := by cases ty <;> decide
theorem mbits_pos (ty : FTy) : 0 < ty.fmt.mbits := by cases ty <;> decide

/-- Settles O58: FMIN and FMAX run `minMaxNum` in each element, which is the rule by `minMaxNum_eq_rule`. -/
theorem minimumMaximum : Obligations.MinimumMaximum := by
  unfold Obligations.MinimumMaximum
  intro gd d a b ty num
  have hrule (isMax : Bool) (u v e : Nat) :
      minMaxRule ty.fmt isMax num (ty.elem u e) (ty.elem v e) = minMaxNum ty.fmt isMax num (ty.elem u e) (ty.elem v e) :=
    (BinFmt.minMaxNum_eq_rule (ebits_pos ty) (mbits_pos ty) (elem_lt ty u e) (elem_lt ty v e) isMax num).symm
  simp only [hrule]
  exact ⟨fpCompletes_of_lanes fun _ => rfl, fpCompletes_of_lanes fun _ => rfl⟩

end Sys2Proof.Machine
end

section
/-! PROOF. MMA, MLD and MST in a whole and converged group (R126 to R135, R364, R365, R368, R369): what each comes to once its format block and
operands are accepted. -/

namespace Sys2Proof.Machine

open Sys2Proof

/-! ## Tables of cells -/

section
variable {α : Type}

/-- What is numbered as it is listed. -/
theorem zipIdx_map_range (f : Nat → α) (n : Nat) : ((List.range n).map f).zipIdx = (List.range n).map (fun q => (f q, q)) :=
  List.ext_getElem (by simp) (fun i _ _ => by simp)

theorem foldl_table (f : Nat → Nat → α) (g : α → Flags) (x : Flags) :
    ((List.range 32).map (fun i => (List.range 32).map (f i))).foldl (fun acc row => row.foldl (fun acc c => acc ||| g c) acc) x =
      (List.range 32).foldl (fun acc i => (List.range 32).foldl (fun acc j => acc ||| g (f i j)) acc) x := by
  simp only [List.foldl_map]

end

theorem rowDests_lanes (d : Nat) (rows : List (List Nat)) : ∀ v ∈ rowDests d rows, v.all = false := by
  intro v hv
  obtain ⟨x, -, rfl⟩ := List.mem_map.mp hv
  rfl

theorem mmaDests_lanes (fb : FmtBlock) (d : Nat) (cells : List (List (Nat × Nat × Flags))) : ∀ v ∈ mmaDests fb d cells, v.all = false := by
  intro v hv
  rcases List.mem_append.mp hv with hv | hv
  · exact rowDests_lanes _ _ v hv
  · split at hv
    · exact rowDests_lanes _ _ v hv
    · exact absurd hv List.not_mem_nil

/-! ## An MMA opens and goes on reading -/

section
variable {g g1 : Group} {k : Nat} {vecs : List VecDest} {la : LA} {kind : Unit3} {unis : List UniDest} {fl : Flags} {job : Option MmaJob}

theorem keeps_issueLong_job {w : Writes} (ha : ∀ d ∈ vecs, d.all = false) (h : g.Keeps g1 k w) (hr : ∀ d ∈ vecs, d.reg ∈ w.v)
    (hw : w.long = true) : g.Keeps (g1.issueLong k la kind vecs unis fl job) k w :=
  { keeps_issueLong ha h hr hw la kind unis fl with long := fun e => absurd e (by simp [hw]) }

theorem same_issueLong_job (ha : ∀ d ∈ vecs, d.all = false) (h : g.SameSplit g1 k) (hk : k < g.splits.length) :
    g.SameSplit (g1.issueLong k la kind vecs unis fl job) k := same_issueLong ha h hk la kind unis fl

theorem opens_issueLong_job (ha : ∀ d ∈ vecs, d.all = false) (hk : k < g.splits.length)
    {φ : Split → Split} (hφ : ∀ sp, (φ sp).ovr = sp.ovr) :
    Opens g (((g.countWindows k).issueLong k la kind vecs unis fl job).modSplit k φ) k kind la vecs unis fl job := by
  let go : Group := vecs.foldl (Group.openDest k) (g.countWindows k)
  obtain ⟨-, hn, hv, hu, hc⟩ := opens_issueLong (g := g) (g1 := g.countWindows k) ha hk rfl rfl rfl rfl la kind unis fl hφ
  obtain ⟨-, ei, en⟩ := regs_openDests (k := k) ha (g.countWindows k)
  refine ⟨?_, hn, hv, hu, hc⟩
  show go.inflight ++ [⟨go.nextId, _, _, _, _, _, _, _⟩] = _
  rw [ei, en]
  rfl

end

/-! ## MMA -/

/-- Rows and columns of the stored A, and of the stored B, of a format block (R124, R129). -/
def FmtBlock.shapeA (fb : FmtBlock) : MOp → Nat × Nat
  | .regs _ => (32, fb.a.slice)
  | .sp _ => if fb.tra then (fb.a.slice, 32) else (32, fb.a.slice)

def FmtBlock.shapeB (fb : FmtBlock) : MOp → Nat × Nat
  | .regs _ => (fb.a.slice, 32)
  | .sp _ => if fb.trb then (32, fb.a.slice) else (fb.a.slice, 32)

/-- The scale grids of A and B. -/
def FmtBlock.gridA (fb : FmtBlock) (a : MOp) : List Nat := gridBytes fb.geom fb.aoff fb.apitch (fb.shapeA a).1 (fb.shapeA a).2
def FmtBlock.gridB (fb : FmtBlock) (b : MOp) : List Nat := gridBytes fb.geom fb.boff fb.bpitch (fb.shapeB b).1 (fb.shapeB b).2

/-- What an MMA reads lies in the scratchpad, and no uncorrectable error stands in it. -/
structure MmaFits (s : State) (r : SplitRef) (fb : FmtBlock) (a b : MOp) : Prop where
  aRows : a.beyond fb.a fb.tra = none
  bRows : b.beyond fb.b (!fb.trb) = none
  aGrid : gridBeyond fb.geom fb.aoff fb.apitch (fb.shapeA a).1 (fb.shapeA a).2 = none
  bGrid : gridBeyond fb.geom fb.boff fb.bpitch (fb.shapeB b).1 (fb.shapeB b).2 = none
  sound : s.softBytes r (a.bytes fb.a fb.tra ++ b.bytes fb.b (!fb.trb) ++ fb.gridA a ++ fb.gridB b) = false

section
variable {s : State} {r : SplitRef} {src g : Group} {fb : FmtBlock} {a b : MOp} {p : SpPair}

/-- R133, R365: an accepted MMA opens with the cells of the scratchpad as it stands. -/
theorem mmaRes_accepted {o : MmaOp} (hp : src.passes o.g = true) (hd : ¬diverged g r.k = true) (hf : fmtBlock (pairBits src o.f) = some fb)
    (ha : MOperand.parse src fb.tra o.a = some a) (hb : MOperand.parse src fb.trb o.b = some b) (h : MmaFits s r fb a b) (z : Bool) (w : DWord) :
    let sp := ((s.drainAll r.group).lc r.slot r.lcid).scratch
    let cells := mmaCells sp src fb z o.d.toNat a b
    mmaRes z o w s r src g = .next ((s.drainAll r.group).done r (fun x => x.issueLong r.k o.la .matrix (mmaDests fb o.d.toNat cells) []
      (mmaFlags cells) (some ⟨z, o, src.vregs, src.sregs, sp, [], none⟩))) := by
  obtain ⟨hra, hrb, hga, hgb, hs⟩ := h
  refine (if_pos hp).trans ((if_neg hd).trans ?_)
  have hnone : (a.beyond fb.a fb.tra).or ((b.beyond fb.b (!fb.trb)).or
      ((gridBeyond fb.geom fb.aoff fb.apitch (fb.shapeA a).1 (fb.shapeA a).2).or
        (gridBeyond fb.geom fb.boff fb.bpitch (fb.shapeB b).1 (fb.shapeB b).2))) = none := by
    rw [hra, hrb, hga, hgb]; rfl
  simp only [hf, ha, hb]
  generalize hx : Option.or _ _ = x
  cases hx.symm.trans hnone
  exact if_neg (ne_true_of_eq_false hs)

/-! ## MLD -/

/-- The registers of an operand block that is loaded from a stored operand. -/
def mldDests (m : Cells) (o : MldOp) (f : ElemFmt) (kRows : Bool) (p : SpPair) : List VecDest :=
  (List.range f.blockRegs).map (fun q => ⟨o.d.toNat + q, Mask.full,
    perLane (fun i => blockWord f (fun k => if kRows then spCode m p f k i else spCode m p f i k) q), none, false⟩)

theorem mldDests_lanes (m : Cells) (o : MldOp) (f : ElemFmt) (kRows : Bool) (p : SpPair) : ∀ v ∈ mldDests m o f kRows p, v.all = false := by
  intro v hv
  obtain ⟨q, -, rfl⟩ := List.mem_map.mp hv
  rfl

/-- The format and the row order of the operand that an MLD loads. -/
def mldFmt (o : MldOp) (fb : FmtBlock) : ElemFmt := if o.opB then fb.b else fb.a
def mldRows (o : MldOp) (fb : FmtBlock) : Bool := if o.opB then !fb.trb else fb.tra

theorem mldRes_accepted {o : MldOp} (hp : src.passes o.g = true) (hd : ¬diverged g r.k = true) (hf : fmtBlock (pairBits src o.f) = some fb)
    (ha : spPair (pairBits src o.a) = some p) (hrows : MOp.beyond (mldFmt o fb) (mldRows o fb) (.sp p) = none)
    (hs : s.softBytes r ((MOp.sp p).bytes (mldFmt o fb) (mldRows o fb)) = false) (w : DWord) :
    mldRes o w s r src g = .next ((s.drainAll r.group).done r (fun x => x.issueLong r.k o.la .matrix
      (mldDests ((s.drainAll r.group).lc r.slot r.lcid).scratch o (mldFmt o fb) (mldRows o fb) p) [] 0)) := by
  refine (if_pos hp).trans ((if_neg hd).trans ?_)
  simp only [ha, hf]
  generalize hx : MOp.beyond _ _ _ = x
  cases hx.symm.trans hrows
  exact if_neg (ne_true_of_eq_false hs)

/-! ## MST -/

/-- The value that an MST stores from cell (i, j) of its rows, and the flags it raises. -/
def mstValue (o : MstOp) (sum : Bool) (src : Group) (fb : FmtBlock) (i j : Nat) : Nat × Flags :=
  mstCell fb.a fb.rnd fb.satf sum (src.v (o.d.toNat + i) j).toNat (if sum then (src.v (o.d.toNat + 32 + i) j).toNat else 0)

/-- Column `c` of stored row `q`. -/
def mstStored (o : MstOp) (sum : Bool) (src : Group) (fb : FmtBlock) (q c : Nat) : Nat × Flags :=
  if fb.tra then mstValue o sum src fb c q else mstValue o sum src fb q c

/-- The bytes that an MST stores, and its flags. -/
def mstWrites (o : MstOp) (sum : Bool) (src : Group) (fb : FmtBlock) (p : SpPair) (lcid : Nat) : List ByteWr :=
  ((List.range 32).flatMap (fun q => rowWrites p fb.a q ((List.range 32).map (fun c => (mstStored o sum src fb q c).1)))).map
    (fun w => ⟨.scratch lcid w.1, w.2, 0xFF⟩)

def mstFlags (o : MstOp) (sum : Bool) (src : Group) (fb : FmtBlock) : Flags :=
  (List.range 32).foldl (fun x i => (List.range 32).foldl (fun y j => y ||| (mstStored o sum src fb i j).2) x) 0

theorem mstRes_accepted {o : MstOp} (hp : src.passes o.g = true) (hd : ¬diverged g r.k = true) (hf : fmtBlock (pairBits src o.f) = some fb)
    (ha : spPair (pairBits src o.a) = some p) (hrows : firstBeyond p 32 (rowBytes fb.a 32) = none) (sum : Bool) (w : DWord) :
    mstRes sum o w s r src g = if s.storeFull r.group then .stall s
      else .next (s.done r (fun x => (x.enqueue (mstWrites o sum src fb p r.lcid) [] (some x.nextId)).issueLong r.k o.la .matrix [] []
        (mstFlags o sum src fb))) := by
  refine (if_pos hp).trans ((if_neg hd).trans ?_)
  simp only [ha, hf, hrows, zipIdx_map_range, List.flatMap_map, List.map_map, foldl_table]
  rfl

end

/-! ## The bytes of a stored row -/

theorem elemFmt_width_pos {code : BitVec 8} {f : ElemFmt} (h : elemFmt code = some f) : 0 < f.width := by
  unfold elemFmt at h
  dsimp only at h
  split_ifs at h <;> cases h <;> decide +revert

theorem fmtBlock_width_pos {x : Nat} {fb : FmtBlock} (h : fmtBlock x = some fb) : 0 < fb.a.width := by
  unfold fmtBlock at h
  split at h
  · next a b ha hb =>
    dsimp only at h
    split at h
    · cases h
    · cases h
      exact elemFmt_width_pos ha
  · cases h

theorem rowWrites_ne_nil (p : SpPair) {f : ElemFmt} (hf : 0 < f.width) (q : Nat) (codes : List Nat) : rowWrites p f q codes ≠ [] := by
  apply List.ne_nil_of_length_pos
  simp only [rowWrites, List.length_map, List.length_zipIdx, length_natLe, rowBytes]
  omega

theorem mstWrites_ne_nil (o : MstOp) (sum : Bool) (src : Group) {fb : FmtBlock} (hf : 0 < fb.a.width) (p : SpPair) (lcid : Nat) :
    mstWrites o sum src fb p lcid ≠ [] := by
  intro h
  rw [mstWrites, List.map_eq_nil_iff, List.flatMap_eq_nil_iff] at h
  exact rowWrites_ne_nil p hf 0 _ (h 0 (by simp))

/-! ## Effects -/

section
variable {i : Instr} {s : State} {r : SplitRef} {g : Group} {act : Group → Nat → Mask} {f : State → SplitRef → Group → Group → Res}
  {la : LA}

/-- From a meaning that ends by opening a long-latency instruction that goes on reading. -/
theorem effectAfter_openJob {s1 : State} {g1 : Group} {vecs : List VecDest} {fl : Flags} {job : Option MmaJob} (h : Issuing s r g)
    (hi : exec i s = runRes act f s) (hs : Still s1 r g1) (ha : ∀ d ∈ vecs, d.all = false)
    (hf : f s.entered r (s.reads r g) (g.countWindows r.k) = .next (s1.done r (fun x => x.issueLong r.k la .matrix vecs [] fl job))) :
    EffectAfter i s s1 r g1 (longWrites vecs) (fun g' => Opens g1 g' r.k .matrix la vecs [] fl job) :=
  have hk : r.k < g1.splits.length := split_lt hs.2
  effectAfter_done h hi hf hs
    (keeps_issueLong_job ha (keeps_count g1 r.k (longWrites vecs)) (fun _ hd => List.mem_map_of_mem hd) rfl)
    (same_issueLong_job ha (same_count g1 r.k) hk) (fun _ hφ => opens_issueLong_job ha hk hφ)

/-- From a meaning that enters its stores in the queue under its own number, and opens without a destination. -/
theorem effectAfter_openStores {fl : Flags} {wr : List ByteWr} (h : Issuing s r g) (hi : exec i s = runRes act f s) (hwr : wr ≠ [])
    (hf : f s.entered r (s.reads r g) (g.countWindows r.k) =
      .next (s.entered.done r (fun x => (x.enqueue wr [] (some x.nextId)).issueLong r.k la .matrix [] [] fl))) :
    EffectAfter i s s r g { long := true, stores := true }
      (fun g' => Opens g g' r.k .matrix la [] [] fl ∧ g'.storeQ = g.storeQ ++ [⟨wr, [], some g.nextId⟩]) := by
  let gq : Group := { g.countWindows r.k with storeQ := g.storeQ ++ [⟨wr, [], some g.nextId⟩] }
  have hk : r.k < g.splits.length := split_lt h.used
  have henq : (g.countWindows r.k).enqueue wr [] (some (g.countWindows r.k).nextId) = gq :=
    if_neg (by simpa [List.isEmpty_iff] using hwr)
  have hx : (s.entered.done r (fun x => (x.enqueue wr [] (some x.nextId)).issueLong r.k la .matrix [] [] fl)).group? r.group =
      some (gq.issueLong r.k la .matrix [] [] fl) := by
    rw [group_done, show s.entered.group? r.group = some g from h.group, Option.map_some, henq]
  have hkeep : g.Keeps gq r.k { long := true, stores := true } :=
    { keeps_count g r.k { long := true, stores := true } with storeQ := fun e => absurd e (by simp) }
  have none_all : ∀ d ∈ ([] : List VecDest), d.all = false := by simp
  exact effectAfter_of_next h hi hf hx ((onlyGroupAfter_entered s r.group).done _)
    (keeps_issueLong none_all hkeep (by simp) rfl la .matrix [] fl)
    (same_issueLong (g1 := gq) none_all (same_count g r.k) hk la .matrix [] fl) hk
    (fun _ hφ => ⟨opens_issueLong (g1 := gq) none_all hk rfl rfl rfl rfl la .matrix [] fl hφ, rfl⟩)

end

/-! ## The three instructions -/

/-- R133: a whole and converged group passes the first check. -/
theorem not_diverged {g : Group} {k : Nat} (hlive : g.ctl.live = Mask.full) (hmask : (g.split k).mask = Mask.full) :
    ¬diverged (g.countWindows k) k = true :=
  mt (diverged_iff (g.countWindows k) k).mp (not_not_intro ⟨hlive, hmask⟩)

theorem exec_mmaOf (z : Bool) (o : MmaOp) (s : State) :
    ∃ w, exec (if z then .mmaZ o else .mma o) s = runRes (uniAct o.g) (mmaRes z o w) s := by
  cases z <;> exact ⟨_, rfl⟩

theorem exec_mstOf (sum : Bool) (o : MstOp) (s : State) :
    ∃ w, exec (if sum then .mstSum o else .mst o) s = runRes (uniAct o.g) (mstRes sum o w) s := by
  cases sum <;> exact ⟨_, rfl⟩

theorem mmaDests_cells (m : Cells) (src : Group) (fb : FmtBlock) (z : Bool) (d : Nat) (a b : MOp) :
    let cell (i j : Nat) : Nat × Nat × Flags := mmaCell fb (mmaTerms m src fb z d a b i j)
    let table (f : Nat → Nat → Nat) : List (List Nat) := (List.range 32).map (fun i => (List.range 32).map (f i))
    mmaDests fb d (mmaCells m src fb z d a b) = rowDests d (table (fun i j => (cell i j).1)) ++
      (if fb.acc then rowDests (d + 32) (table (fun i j => (cell i j).2.1)) else []) := by
  simp only [mmaDests, mmaCells, List.map_map, Function.comp_def]

/-- Settles O36: with accepted operands each of the three is the opening (`mmaRes_accepted`, `mldRes_accepted`, `mstRes_accepted`) that the
statement names, or, an MST whose group's queue is full, a stall. -/
theorem matrix : Obligations.Matrix := by
  unfold Obligations.Matrix
  intro s r g g0 o l m fb a b p sum z h hlive hmask src s0 sp cell table dests flags aRows bRows f rows loaded stored row wr
  have hd := not_diverged hlive hmask
  refine ⟨fun hs => ⟨?_, ?_⟩, ?_⟩
  · intro hp hf ha hb hra hrb hga hgb hsoft
    obtain ⟨w, hi⟩ := exec_mmaOf z o s
    have hfits : MmaFits s.entered r fb a b := ⟨hra, hrb, hga, hgb, hsoft⟩
    have hopen := effectAfter_openJob h hi hs (mmaDests_lanes fb _ _) (mmaRes_accepted hp hd hf ha hb hfits z w)
    rw [mmaDests_cells, mmaFlags, mmaCells, foldl_table] at hopen
    exact hopen
  · intro hp hf ha hrows hsoft
    have hres := mldRes_accepted (s := s.entered) hp hd hf ha hrows hsoft (wordOf (.mld l))
    exact effectAfter_open (i := .mld l) (act := uniAct l.g) h rfl hs (mldDests_lanes _ l _ _ p) hres
  · intro hp hf ha hrows i
    obtain ⟨w, hi⟩ := exec_mstOf sum m s
    have hres := mstRes_accepted (s := s.entered) hp hd hf ha hrows sum w
    have hqueue : s.entered.storeFull r.group = g.queueFull := by
      rw [State.storeFull, show s.entered.group? r.group = some g from h.group]
    rw [hqueue] at hres
    refine ⟨fun hroom => ?_, fun hfull => ?_⟩
    · rw [hroom] at hres
      exact effectAfter_openStores h hi (mstWrites_ne_nil m sum src (fmtBlock_width_pos hf) p r.lcid) hres
    · rw [hfull] at hres
      exact stalls_in_place h hi hres rfl rfl

end Sys2Proof.Machine
end

section
/-! PROOF. A copy with more valid bytes than its size: what lies beyond its size is written with its last 16-byte unit (R180, R185). -/

namespace Sys2Proof.Machine

open Sys2Proof

/-- A copy of 4 bytes of which 16 are valid, from 0xFC of its own scratchpad to 0. CPA makes none (R179 bounds the valid bytes by the size). -/
def overlongCopy : CpaCopy :=
  { num := 0, gh := 0, lane := 0, size := 4, valid := 16, src := 0x30000000000000FC, dst := 0, zero := false, split := 0, recNum := 0
    ganginst := 0, role := 0, hint := 0, units := [], faulted := false, fail := none, failed := false }

/-- The placed context (log 7), with that copy in the engine and one byte in the scratchpad, in what the copy reads beyond its size. -/
def overlongContext : Context :=
  { placeContext with groups := [], lcs := [{ LogicalCore.empty with scratch := [(0x100, 1)], cpas := [overlongCopy] }] }

def overlongState : State := { State.reset with ctxs := regSet State.reset.ctxs 0 (some overlongContext) }

theorem overlongState_scratchOk : overlongState.ScratchOk := by
  intro slot c hc l hl
  by_cases h0 : slot = 0
  · subst h0
    obtain rfl : overlongContext = c := Option.some.inj hc
    obtain rfl : l = _ := List.mem_singleton.mp hl
    decide
  · have hnone : overlongState.ctx slot = none := 
      (regGet_regSet_other h0).trans (List.getD_eq_getElem?_getD.trans (List.getElem?_getD_replicate_default_eq none 8 slot))
    exact absurd (hnone.symm.trans hc) (by simp)

/-- What the engine reads of a scratchpad (R185). -/
theorem engRead_scratch {s : State} {cx : Cx} {c : Context} {addr : DWord} {l off n : Nat} (hc : s.ctx cx.slot = some c)
    (hp : placeOf c cx.lcid addr = some (.scratch l off)) (hsoft : s.softScratch cx.slot l off n = false)
    (hn : off + n ≤ Config.scratchBytes) (acc : Acc) (hint : Nat) :
    s.engRead cx acc hint addr n = .ok (Cells.read (s.lc cx.slot l).scratch off n) s := by
  simp [State.engRead, hc, hp, hsoft, Nat.not_lt.mpr hn]

/-- The copy writes byte 4, which lies beyond its 4 bytes. -/
theorem overlongCopy_writes_beyond :
    nextState (exec (.cpaCopyCompletion 0 0 0) overlongState) (fun t => scratchOf t 0 0 4 == 1) = true := by decide +kernel

/-- Refutes O44: nothing bounds the valid bytes of a copy by its size, and one with more changes a byte beyond its size. -/
theorem not_engineEvents : ¬ Obligations.EngineEvents := by
  unfold Obligations.EngineEvents
  intro h
  obtain ⟨hcopy, -⟩ := h overlongState (overlongState.performAll 0 0) 0 0 0 0 0 overlongContext overlongCopy _
    ⟨0, 0, 0, [], [], false, false, 0, 0, 0, false, none⟩ 0 (.access, 0) ⟨0, issueRef.group, .device, []⟩ rfl overlongState_scratchOk
    (by decide +kernel) rfl rfl
  obtain ⟨-, hread⟩ := hcopy (by decide +kernel) rfl rfl rfl rfl
  obtain ⟨t, ht, hbytes, -⟩ := hread rfl (engRead_scratch (c := overlongContext) (l := 0) (off := 0xFC) (by decide +kernel) (by decide +kernel)
    (by decide +kernel) (by decide) _ _) rfl
  have hkept : scratchOf t 0 0 4 = 0 := by
    rw [(hbytes 4).2 (fun ho => absurd ho.2.1 (by decide))]
    decide +kernel
  have hwritten : scratchOf t 0 0 4 = 1 := by simpa [nextState, ht] using overlongCopy_writes_beyond
  rw [hkept] at hwritten
  exact absurd hwritten (by decide)

end Sys2Proof.Machine
end

section
/-! PROOF. The compressed tier (R172, R173): the commands of a stack and their STATUS, its free frames and its region. -/

namespace Sys2Proof.Machine

open Sys2Proof

/-! ## The tier of a stack -/

/-- A change of a stack's tier is read back at that stack. -/
theorem tier_modTier_same {s : State} {hs : Nat} (hd : (stackDie hs).1 < s.dies.length)
    (hj : (stackDie hs).2 < (s.die (stackDie hs).1).tiers.length) (f : Tier → Tier) : (s.modTier hs f).tier hs = f (s.tier hs) := by
  rw [State.modTier, State.tier, die_modDie_same hd]
  exact regGet_regMod_same hj

/-- A stack that tier `j` of a die names is one of that die. -/
theorem stackDie_of_tierStack {die j hs : Nat} (h : tierStack die j = some hs) : stackDie hs = (die, j) := by
  simpa using List.find?_some h

/-- An event that changes the tier of one stack, at most, leaves memory, every context and the package. -/
theorem becomes_of_modTier {s : State} {die j hs : Nat} {e : Instr} {f : Tier → Tier} {x : Tier} (hst : tierStack die j = some hs)
    (hd : die < s.dies.length) (hj : j < (s.die die).tiers.length) (he : exec e s = .next (s.modTier hs f)) (hf : f (s.tier hs) = x) :
    ∃ t, exec e s = .next t ∧ t.tier hs = x ∧ t.mem = s.mem ∧ t.ctxs = s.ctxs ∧ t.pkg = s.pkg := by
  have hp := stackDie_of_tierStack hst
  refine ⟨_, he, ?_, rfl, rfl, rfl⟩
  rw [tier_modTier_same (by rwa [hp]) (by rwa [hp]), hf]

/-! ## The start and the end of a command -/

/-- R172: GO starts a command where none is in progress. -/
theorem tierCommand_eq {s : State} {die j hs arg : Nat} (hst : tierStack die j = some hs) (ha : arg < 2 ^ 23) (op : Nat) :
    s.tierCommand die j op arg = s.modTier hs (fun t => if t.run.isSome then t else { t with op := op, arg := arg, run := some (op, arg) }) := by
  rw [State.tierCommand, hst, State.modTier, stackDie_of_tierStack hst, Nat.mod_eq_of_lt ha]
  rfl

/-- The end of a command in progress is that of its OP. -/
theorem tierEnd_eq {s : State} {die j hs op arg : Nat} (hc : s.clocked = true) (hst : tierStack die j = some hs)
    (hrun : (s.tier hs).run = some (op, arg)) : s.tierEnd die j = if op = 1 then s.compress hs arg else s.freeZ hs arg := by
  simp [State.tierEnd, hst, hrun, hc]

theorem exec_tierCommandCompletion_compress {s : State} {die j hs arg : Nat} (hc : s.clocked = true) (hst : tierStack die j = some hs)
    (hrun : (s.tier hs).run = some (1, arg)) : exec (.tierCommandCompletion die j) s = .next (s.compress hs arg) :=
  congrArg _ ((tierEnd_eq hc hst hrun).trans (if_pos rfl))

theorem exec_tierCommandCompletion_free {s : State} {die j hs arg : Nat} (hc : s.clocked = true) (hst : tierStack die j = some hs)
    (hrun : (s.tier hs).run = some (2, arg)) : exec (.tierCommandCompletion die j) s = .next (s.freeZ hs arg) :=
  congrArg _ ((tierEnd_eq hc hst hrun).trans (if_neg (by decide)))

/-! ## OP 1 -/

/-- Index `i` is one that a new record of a tier may take. -/
def Tier.freeIndex (t : Tier) (i : Nat) : Bool := decide (i < 2 ^ 19) && !t.records.any (fun r => r.idx == i)

theorem Tier.freeIndex_iff {t : Tier} {i : Nat} : t.freeIndex i = true ↔ i < 2 ^ 19 ∧ ∀ r ∈ t.records, r.idx ≠ i := by
  simp [Tier.freeIndex]

theorem Tier.freeIndex_taken {t : Tier} {i : Nat} (h : ∃ r ∈ t.records, r.idx = i) : t.freeIndex i = false := by
  obtain ⟨r, hr, hi⟩ := h
  exact Bool.eq_false_iff.mpr fun hfree => (Tier.freeIndex_iff.mp hfree).2 r hr hi

theorem Tier.freeIndex_beyond {t : Tier} {i : Nat} (h : 2 ^ 19 ≤ i) : t.freeIndex i = false :=
  Bool.eq_false_iff.mpr fun hfree => Nat.not_lt.mpr h (Tier.freeIndex_iff.mp hfree).1

theorem compress_refused {s : State} {hs arg : Nat} (h : s.compressible hs arg = false) :
    s.compress hs arg = s.modTier hs (fun t => { t with run := none, status := 1 }) := by
  simp [State.compress, h]

theorem compress_noRoom {s : State} {hs arg : Nat} (h : s.compressible hs arg = true)
    (hn : (s.tier hs).granules < frameGranules (s.read (arg * 65536) 65536)) :
    s.compress hs arg = s.modTier hs (fun t => { t with run := none, status := 2 }) := by
  simp [State.compress, h, hn]

theorem compress_noIndex {s : State} {hs arg : Nat} (h : s.compressible hs arg = true)
    (hn : frameGranules (s.read (arg * 65536) 65536) ≤ (s.tier hs).granules) (hfull : ∀ k, (s.tier hs).freeIndex k = false) :
    s.compress hs arg = s.modTier hs (fun t => { t with run := none, status := 3 }) := by
  have hfind : (List.range ((s.tier hs).records.length + 1)).find? (s.tier hs).freeIndex = none := by simp [hfull]
  unfold State.compress
  dsimp only
  rw [if_neg (by simp [h]), if_neg (Nat.not_lt.mpr hn)]
  split
  · rfl
  · next k hk => exact absurd (hfind.symm.trans hk) (by simp)

/-- The new record takes the lowest free index (log 51), which is at most the number of records. -/
theorem compress_records {s : State} {hs arg i : Nat} (h : s.compressible hs arg = true)
    (hn : frameGranules (s.read (arg * 65536) 65536) ≤ (s.tier hs).granules) (hi : (s.tier hs).freeIndex i = true)
    (hle : i ≤ (s.tier hs).records.length) (hlow : ∀ k, k < i → (s.tier hs).freeIndex k = false) :
    let b := s.read (arg * 65536) 65536
    s.compress hs arg = s.modTier hs (fun t => { t with
      run := none, status := 0, result := hs * 2 ^ 19 + i, granules := t.granules - frameGranules b
      records := t.records ++ [⟨i, b, frameGranules b, (s.lostSectors.filter (fun k => k / 2048 == arg)).map (fun k => k % 2048)⟩] }) := by
  have hfind : (List.range ((s.tier hs).records.length + 1)).find? (s.tier hs).freeIndex = some i :=
    List.find?_range_eq_some.mpr ⟨hi, List.mem_range.mpr (Nat.lt_succ_of_le hle), fun k hk => by simp [hlow k hk]⟩
  unfold State.compress
  dsimp only
  rw [if_neg (by simp [h]), if_neg (Nat.not_lt.mpr hn)]
  split
  · next hk => exact absurd (hfind.symm.trans hk) (by simp)
  · next k hk =>
    obtain rfl : i = k := Option.some.inj (hfind.symm.trans hk)
    rfl

/-! ## OP 2 -/

theorem zrecord_eq {hs : Nat} (h : hs < 12) (s : State) (i : Nat) : s.zrecord hs i = (s.tier hs).records.find? (fun r => r.idx == i) :=
  if_neg (Nat.not_le.mpr h)

theorem freeZ_record {s : State} {hs i : Nat} {b : ZRec} (h12 : hs < 12) (hi : i < 2 ^ 19)
    (hb : (s.tier hs).records.find? (fun r => r.idx == i) = some b) (hm : s.recordMoving (hs * 2 ^ 19 + i) = false) :
    s.freeZ hs (hs * 2 ^ 19 + i) = s.modTier hs (fun t => { t.drop i with run := none, status := 0 }) := by
  have hdiv : (hs * 2 ^ 19 + i) / 2 ^ 19 = hs := by omega
  have hmod : (hs * 2 ^ 19 + i) % 2 ^ 19 = i := by omega
  rw [State.freeZ, hdiv, hmod, zrecord_eq h12, hb]
  exact if_pos ⟨rfl, rfl, congrArg not hm⟩

theorem freeZ_noRecord {s : State} {hs i : Nat} (h12 : hs < 12) (hi : i < 2 ^ 19) (hb : ∀ r ∈ (s.tier hs).records, r.idx ≠ i) :
    s.freeZ hs (hs * 2 ^ 19 + i) = s.modTier hs (fun t => { t with run := none, status := 4 }) := by
  have hmod : (hs * 2 ^ 19 + i) % 2 ^ 19 = i := by omega
  have hfind : (s.tier hs).records.find? (fun r => r.idx == i) = none := by simpa using hb
  rw [State.freeZ, hmod, zrecord_eq h12, hfind]
  exact if_neg fun h => Bool.false_ne_true h.2.1

/-! ## Free frames and the region -/

theorem exec_framePush_eq {s : State} {die j hs frame : Nat} (hc : s.clocked = true) (hst : tierStack die j = some hs)
    (hf : frame < 2 ^ 23) : exec (.framePush die j frame) s = .next (s.pushFrame hs frame) := by
  refine congrArg Host.Outcome.next ((running_clocked hc _).trans ?_)
  rw [State.framePush, hst, Nat.mod_eq_of_lt hf]

theorem exec_tierRegionWrite_eq {s : State} (hc : s.clocked = true) (die j : Nat) (v : DWord) :
    exec (.tierRegionWrite die j v) s = .next (s.regionWrite die j v) := congrArg _ (running_clocked hc _)

/-- R172: the region is not moved while the tier holds records, nor beyond its stack. -/
theorem regionWrite_ignored {s : State} {die j hs : Nat} {v : DWord} (hst : tierStack die j = some hs)
    (h : (s.tier hs).records ≠ [] ∨ stackUnits < bitsOf v.toNat 0 10 + bitsOf v.toNat 32 16) : s.regionWrite die j v = s := by
  rw [State.regionWrite, hst]
  refine if_pos ?_
  obtain hr | hr := h <;> simp [hr]

theorem regionWrite_empty {s : State} {die j hs : Nat} {v : DWord} (hst : tierStack die j = some hs) (hr : (s.tier hs).records = [])
    (hf : (s.tier hs).frames = []) (hfit : bitsOf v.toNat 0 10 + bitsOf v.toNat 32 16 ≤ stackUnits) :
    s.regionWrite die j v = s.modTier hs (fun t => { t with
      size := bitsOf v.toNat 32 16, start := bitsOf v.toNat 0 10, granules := bitsOf v.toNat 32 16 * 2 ^ 26 / 128 }) := by
  rw [State.regionWrite, hst]
  refine if_neg ?_
  simp [hr, hf, hfit]

/-- Settles O47: each command, push or region write changes the tier of its stack alone, as the lemma on its outcome says. -/
theorem tierEvents : Obligations.TierEvents := by
  unfold Obligations.TierEvents
  intro s die j hs arg i n v hc hst hd hj t0 becomes block bad size start
  have change {e : Instr} {f : Tier → Tier} (he : exec e s = .next (s.modTier hs f)) : becomes e (f t0) :=
    becomes_of_modTier hst hd hj he rfl
  have packs := exec_tierCommandCompletion_compress (arg := arg) hc hst
  have frees := exec_tierCommandCompletion_free (arg := hs * 2 ^ 19 + i) hc hst
  refine ⟨fun ha hrun => ?start, fun hrun hok hn => ?compress, fun hrun hno => ?refused,
    fun hrun hi h12 => ⟨fun b hb hm => ?free, fun hb => ?noRecord⟩, fun ha => ⟨fun hin hreg hlen => ?push, fun hout => ?drop⟩, fun hr hfit hf => ?region, fun h => ?ignored⟩
  case start =>
    have command (op : Nat) : (fun t : Tier => if t.run.isSome then t else { t with op := op, arg := arg, run := some (op, arg) }) t0 =
        { t0 with op := op, arg := arg, run := some (op, arg) } := by simp [hrun]
    exact ⟨becomes_of_modTier hst hd hj (congrArg _ ((running_clocked hc _).trans (tierCommand_eq hst ha 1))) (command 1),
      becomes_of_modTier hst hd hj (congrArg _ ((running_clocked hc _).trans (tierCommand_eq hst ha 2))) (command 2)⟩
  case compress =>
    subst hn
    refine ⟨fun hle hi19 hlen hfree hlow => ?_, fun hle hall => ?_, fun hlt => ?_⟩
    · exact change ((packs hrun).trans (congrArg _ (compress_records hok hle (Tier.freeIndex_iff.mpr ⟨hi19, hfree⟩) hlen
        (fun k hk => Tier.freeIndex_taken (hlow k hk)))))
    · refine change ((packs hrun).trans (congrArg _ (compress_noIndex hok hle fun k => ?_)))
      obtain hk | hk := Nat.lt_or_ge k (2 ^ 19)
      · exact Tier.freeIndex_taken (hall k hk)
      · exact Tier.freeIndex_beyond hk
    · exact change ((packs hrun).trans (congrArg _ (compress_noRoom hok hlt)))
  case refused => exact change ((packs hrun).trans (congrArg _ (compress_refused hno)))
  case free =>
    refine becomes_of_modTier hst hd hj ((frees hrun).trans (congrArg _ (freeZ_record h12 hi hb hm))) ?_
    rw [Tier.drop, hb]
  case noRecord => exact change ((frees hrun).trans (congrArg _ (freeZ_noRecord h12 hi hb)))
  case push =>
    refine change ((exec_framePush_eq hc hst ha).trans (congrArg _ (if_neg ?_)))
    rintro (hout | hcovered | hfull)
    · exact hout hin
    · exact Bool.false_ne_true (hreg.symm.trans hcovered)
    · exact Nat.not_le.mpr hlen hfull
  case drop =>
    refine (exec_framePush_eq hc hst ha).trans (congrArg _ (if_pos ?_))
    exact hout.imp_right Or.inl
  case region => exact change ((exec_tierRegionWrite_eq hc die j v).trans (congrArg _ (regionWrite_empty hst hr hf hfit)))
  case ignored => exact (exec_tierRegionWrite_eq hc die j v).trans (congrArg _ (regionWrite_ignored hst h))

end Sys2Proof.Machine
end

section
/-! SUPPORT. What the device does of itself on the way of an access, a translation or a logged error: the bytes that a write at the home slices
leaves, the slot registers, and what it leaves as it was outside memory, the dies and the requests of the turn. -/

namespace Sys2Proof.Machine

open Sys2Proof

/-! ## Bytes at the home slices -/

/-- An access at the home slices changes memory by what it pulls. -/
theorem mem_homeAccess (s : State) (pa n : Nat) (wr : Bool) : (s.homeAccess pa n wr).mem = (s.pullRange pa n).mem := State.l2Touch_mem ..

theorem mem_homeWrite {s : State} {pa : Nat} {bs : List Byte} (h : pa + bs.length ≤ Config.physBytes) :
    (s.homeWrite pa bs).mem = Cells.write (s.pullRange pa bs.length).mem pa bs := by
  rw [State.homeWrite, State.write, if_neg (Nat.not_lt.mpr h), mem_homeAccess]

/-- A byte after bytes have been written over memory. -/
theorem get_write {m : Cells} (hm : Memory.wf m = true) (x a : Nat) (bs : List Byte) :
    Cells.get (Cells.write m x bs) a = if x ≤ a ∧ a < x + bs.length then (bs[a - x]?).getD 0 else Cells.get m a := by
  split
  · next h =>
    obtain ⟨i, rfl⟩ := Nat.exists_eq_add_of_le h.1
    have hi : i < bs.length := by omega
    rw [get_write_same hm hi, Nat.add_sub_cancel_left, List.getElem?_eq_getElem hi, Option.getD_some]
  · exact get_write_other hm (by omega)

theorem get_homeWrite {s : State} {pa : Nat} {bs : List Byte} (hs : s.MemoryOk) (h : pa + bs.length ≤ Config.physBytes) (a : Nat) :
    Cells.get (s.homeWrite pa bs).mem a =
      if pa ≤ a ∧ a < pa + bs.length then (bs[a - pa]?).getD 0 else Cells.get (s.pullRange pa bs.length).mem a := by
  rw [mem_homeWrite h]
  exact get_write (memoryOk_pullRange hs pa bs.length) pa a bs

/-! ## Nothing but the device's own work -/

/-- `t` differs from `s` in memory, the marks of bad places, the dies, the requests of the turn, the draws, the host's queue and PEND at most: in no
context, in nothing on a link, and in no other register of the package. -/
def DeviceOnly (s t : State) : Prop :=
  t = { s with
    mem := t.mem, poison := t.poison, soft := t.soft, mended := t.mended, dies := t.dies, req := t.req, freeCtr := t.freeCtr
    hostOut := t.hostOut, pkg := { s.pkg with pend := t.pkg.pend } }

theorem DeviceOnly.refl (s : State) : DeviceOnly s s := rfl

theorem DeviceOnly.trans {s t u : State} (h : DeviceOnly s t) (h' : DeviceOnly t u) : DeviceOnly s u := by
  unfold DeviceOnly at *
  rw [h] at h'
  exact h'

theorem DeviceOnly.ctxs {s t : State} (h : DeviceOnly s t) : t.ctxs = s.ctxs := by rw [h]
theorem DeviceOnly.linkOut {s t : State} (h : DeviceOnly s t) : t.linkOut = s.linkOut := by rw [h]
theorem DeviceOnly.pkg {s t : State} (h : DeviceOnly s t) : t.pkg = { s.pkg with pend := t.pkg.pend } := by rw [h]

theorem HomeOnly.deviceOnly {s t : State} (h : HomeOnly s t) : DeviceOnly s t := by
  rw [h]
  rfl

/-! ## Notices and the error log -/

theorem deviceOnly_notice (s : State) (b : Nat) : DeviceOnly s (s.notice b) := by
  unfold State.notice
  split <;> rfl

theorem deviceOnly_logEvent (s : State) (d chan event cause addr slot : Nat) (info : BitVec 32) :
    DeviceOnly s (s.logEvent d chan event cause addr slot info) := by
  refine DeviceOnly.trans ?_ (deviceOnly_notice _ 3)
  rfl

theorem slotsKept_notice (s : State) (b : Nat) : SlotsKept s (s.notice b) := slotsKept_of_dies (State.notice_dies s b)

theorem slotsKept_logEvent (s : State) (d chan event cause addr slot : Nat) (info : BitVec 32) :
    SlotsKept s (s.logEvent d chan event cause addr slot info) := by
  refine SlotsKept.trans ?_ (slotsKept_notice _ 3)
  refine SlotsKept.trans (t := (s.nextSeq d chan).2) (slotsKept_modDie s d fun _ => rfl) (slotsKept_modDie _ d fun x => ?_)
  dsimp only
  split <;> rfl

/-- Logging an ECC is a draw and one event, or nothing. -/
theorem logEcc_cases (s : State) (slot die : Nat) (core : Option Nat) (e : Exc) :
    s.logEcc slot die core e = s ∨ ∃ d chan event cause addr info, s.logEcc slot die core e =
      s.draw.2.logEvent d chan event cause addr slot info := by
  unfold State.logEcc
  split
  · exact Or.inr ⟨_, _, _, _, _, _, rfl⟩
  · split
    · exact Or.inr ⟨_, _, _, _, _, _, rfl⟩
    · exact Or.inl rfl

theorem deviceOnly_logEcc (s : State) (slot die : Nat) (core : Option Nat) (e : Exc) : DeviceOnly s (s.logEcc slot die core e) := by
  obtain h | ⟨d, chan, event, cause, addr, info, h⟩ := logEcc_cases s slot die core e
  · rw [h]; rfl
  · rw [h]; exact DeviceOnly.trans (t := s.draw.2) rfl (deviceOnly_logEvent ..)

theorem slotsKept_logEcc (s : State) (slot die : Nat) (core : Option Nat) (e : Exc) : SlotsKept s (s.logEcc slot die core e) := by
  obtain h | ⟨d, chan, event, cause, addr, info, h⟩ := logEcc_cases s slot die core e
  · rw [h]; rfl
  · rw [h]; exact slotsKept_logEvent s.draw.2 ..

theorem mem_logEcc (s : State) (slot die : Nat) (core : Option Nat) (e : Exc) : (s.logEcc slot die core e).mem = s.mem := by
  obtain h | ⟨d, chan, event, cause, addr, info, h⟩ := logEcc_cases s slot die core e
  · rw [h]
  · rw [h, State.logEvent_mem]; rfl

/-! ## Translations and the device's own reads -/

theorem deviceOnly_homeWrite64 (s : State) (pa : Nat) (x : DWord) : DeviceOnly s (s.homeWrite64 pa x) := (homeOnly_homeWrite s pa _).deviceOnly

theorem deviceOnly_dirtyLog (s : State) (slot va : Nat) : DeviceOnly s (s.dirtyLog slot va) := by
  unfold State.dirtyLog
  dsimp only
  split
  · rfl
  · split
    · rfl
    · exact (deviceOnly_homeWrite64 s _ _).trans rfl

theorem deviceOnly_setAcD (s : State) (slot va pa : Nat) (a : Acc) : DeviceOnly s (s.setAcD slot va pa a) := by
  have hpull : DeviceOnly s (s.pullRange pa 8) := (homeOnly_pullRange s pa 8).deviceOnly
  unfold State.setAcD
  dsimp only
  have hset (n e : DWord) : DeviceOnly s (if n = e then s.pullRange pa 8 else (s.pullRange pa 8).homeWrite64 pa n) := by
    split
    · exact hpull
    · exact hpull.trans (deviceOnly_homeWrite64 _ _ _)
  split
  · exact (hset _ _).trans (deviceOnly_dirtyLog _ _ _)
  · exact hset _ _

theorem deviceOnly_tlbFill (s : State) (p : Port) (e : TlbEnt) : DeviceOnly s (s.tlbFill p e) := by
  unfold State.tlbFill
  dsimp only
  split <;> rfl

theorem deviceOnly_promote {s t : State} {slot va pa : Nat} {e n : DWord} (h : s.promote slot va pa e = .done n t) : DeviceOnly s t := by
  unfold State.promote at h
  dsimp only at h
  split at h
  · cases h
  · split at h
    · cases h
    · cases h
      exact (deviceOnly_homeWrite64 s _ _).trans rfl

theorem deviceOnly_translateWalk (s : State) (p : Port) (slot va : Nat) (a : Acc) : DeviceOnly s (s.translateWalk p slot va a).2 := by
  have hreads : ∀ l : List Nat, DeviceOnly s (l.foldl (fun acc pa => acc.homeAccess pa 8 false) s) := fun l =>
    (homeOnly_foldl (fun s pa => homeOnly_homeAccess s pa 8 false) l s).deviceOnly
  have hset (t : State) (pa : Nat) (e : TlbEnt) : DeviceOnly t ((t.setAcD slot va pa a).tlbFill p e) :=
    (deviceOnly_setAcD t slot va pa a).trans (deviceOnly_tlbFill _ _ _)
  unfold State.translateWalk
  dsimp only
  generalize hu : (walkReads s va 3 (s.rootOf slot)).foldl (fun acc pa => acc.homeAccess pa 8 false) s = u
  replace hreads : DeviceOnly s u := hu ▸ hreads _
  split
  · exact hreads
  · exact hreads
  · split
    · exact hreads
    · split
      · exact hreads
      · split
        · split
          · exact hreads
          · exact hreads
          · next hp => exact hreads.trans ((deviceOnly_promote hp).trans (hset _ _ _))
        · exact hreads.trans (hset _ _ _)

theorem deviceOnly_translate (s : State) (p : Port) (slot va : Nat) (a : Acc) : DeviceOnly s (s.translate p slot va a).2 := by
  unfold State.translate
  split
  · exact deviceOnly_translateWalk s p slot va a
  · next e he =>
    have hdraw : DeviceOnly s s.draw.2 := rfl
    generalize s.draw = x at hdraw
    obtain ⟨dr, s1⟩ := x
    dsimp only at hdraw ⊢
    have hread : DeviceOnly s (s1.homeAccess e.pteAddr 8 false) := hdraw.trans (homeOnly_homeAccess _ _ _ _).deviceOnly
    generalize s1.homeAccess e.pteAddr 8 false = s2 at hread
    split
    · exact hdraw.trans (deviceOnly_translateWalk s1 p slot va a)
    · split
      · split
        · exact hread
        · split
          · exact hread.trans ((deviceOnly_setAcD s2 slot va _ a).trans (deviceOnly_tlbFill _ _ _))
          · exact hread.trans (deviceOnly_translateWalk s2 p slot va a)
      · exact hdraw

/-- An access that answers leaves what the device's own work changes. -/
def MRes.Leaves {α : Type} (m : MRes α) (s : State) : Prop := ∀ a t, m = .ok a t → DeviceOnly s t

theorem leaves_transPieces (cx : Cx) (q : VReq) (straddle : Bool) (ps : List (Nat × Nat)) (acc : List (TRes × Nat)) (s : State) :
    (s.transPieces cx q straddle ps acc).Leaves s := by
  induction ps generalizing acc s with
  | nil =>
    intro a t h
    cases h
    rfl
  | cons x ps ih =>
    intro a t h
    unfold State.transPieces at h
    split at h
    · exact ih _ _ _ _ h
    · have htrans := deviceOnly_translate s cx.port cx.slot x.1 q.acc
      have goesOn {r : TRes} {s1 : State} (hx : s.translate cx.port cx.slot x.1 q.acc = (r, s1)) (tr : Trans) : DeviceOnly s (s1.noteTrans tr) := by
        rw [hx] at htrans
        exact htrans.trans rfl
      split at h
      · next hx => exact (goesOn hx _).trans (ih _ _ _ _ h)
      · next hx => exact (goesOn hx _).trans (ih _ _ _ _ h)
      · cases h
      · cases h
      · cases h
      · cases h

theorem leaves_transRange (s : State) (cx : Cx) (q : VReq) : (s.transRange cx q).Leaves s := leaves_transPieces cx q _ _ _ s

/-- A read of pieces none of which lies in a peer's memory. -/
theorem leaves_readFrom (cx : Cx) (ws : List ByteWr) (q : VReq) (reuse : Nat) {ps : List (TRes × Nat)} (hps : hasRemote ps = false)
    (va : Nat) (acc : List Byte) (s : State) : (s.readFrom cx ws q reuse va ps acc).Leaves s := by
  induction ps generalizing va acc s with
  | nil =>
    intro a t h
    cases h
    rfl
  | cons x ps ih =>
    obtain ⟨r, n⟩ := x
    obtain ⟨hr, hrest⟩ : r.isRemote = false ∧ hasRemote ps = false := by simpa [hasRemote] using hps
    intro a t h
    cases r with
    | phys pa cls =>
      unfold State.readFrom at h
      dsimp only at h
      split at h
      · cases h
      · exact ((homeOnly_pullRange s pa n).trans (homeOnly_l2Touch _ _ _ _ _ _)).deviceOnly.trans (ih hrest _ _ _ _ _ h)
    | remote rank pa => cases hr
    | fault _ _ => exact ih hrest _ _ _ _ _ h
    | noX => exact ih hrest _ _ _ _ _ h
    | ecc _ => exact ih hrest _ _ _ _ _ h
    | wait => exact ih hrest _ _ _ _ _ h

theorem deviceOnly_devRead {s t : State} {slot n : Nat} {addr : DWord} {b : List Byte} (h : s.devRead slot addr n = some (b, t)) :
    DeviceOnly s t := by
  unfold State.devRead at h
  dsimp only at h
  split at h
  · cases h
  · cases h
    rfl
  · next ps s1 htrans =>
    split at h
    · cases h
      rfl
    · next hlocal =>
      split at h
      · next b2 s2 hread =>
        cases h
        exact (leaves_transRange _ _ _ _ _ htrans).trans (leaves_readFrom _ _ _ _ (Bool.eq_false_iff.mpr hlocal) _ _ _ _ _ hread)
      · cases h
        rfl
      · cases h
        rfl

end Sys2Proof.Machine
end

section
/-! SUPPORT. The access to a page in motion (R174 to R176): the unit that it touches is pulled first, and the bytes that it then meets are those of
their home of that instant. -/

namespace Sys2Proof.Machine

open Sys2Proof

/-! ## Ranges in one line -/

theorem lineNums_line {pa n : Nat} (hn : 0 < n) (h : pa % 128 + n ≤ 128) : lineNums pa n = [pa / 128] := by
  have hlast : (pa + n - 1) / 128 + 1 - pa / 128 = 1 := by omega
  rw [lineNums, hlast]
  rfl

theorem pullRange_line {pa n : Nat} (hn : 0 < n) (h : pa % 128 + n ≤ 128) (s : State) : s.pullRange pa n = s.pullAt (128 * (pa / 128)) := by
  rw [State.pullRange, lineNums_line hn h]
  rfl

theorem MovePage.unit_cases (m : MovePage) : m.unit = 128 ∨ m.unit = 1024 := by
  unfold MovePage.unit
  split
  · exact Or.inl rfl
  · exact Or.inr rfl

/-- R174, R175: the unit of a line is that of every byte in it. -/
theorem pullAt_line {s : State} {pa : Nat} {m : MovePage} (h : s.movePage (pa / 65536) = some m) :
    s.pullAt (128 * (pa / 128)) = s.pullUnit m (pa % 65536 / m.unit) true := by
  have hframe : 128 * (pa / 128) / 65536 = pa / 65536 := by omega
  have hunit : 128 * (pa / 128) % 65536 / m.unit = pa % 65536 / m.unit := by
    obtain hu | hu := m.unit_cases <;> rw [hu] <;> omega
  rw [State.pullAt, hframe, h, ← hunit]

theorem pullAt_line_still {s : State} {pa : Nat} (h : s.movePage (pa / 65536) = none) : s.pullAt (128 * (pa / 128)) = s := by
  have hframe : 128 * (pa / 128) / 65536 = pa / 65536 := by omega
  rw [State.pullAt, hframe, h]

/-! ## The pull of a unit -/

theorem dst_of_movePage {s : State} {frame : Nat} {m : MovePage} (h : s.movePage frame = some m) : m.dst = frame := by
  simpa using List.find?_some h

/-- A page in motion stands in the list of a die of the device. -/
theorem homeDie_lt_of_movePage {s : State} {frame : Nat} {m : MovePage} (h : s.movePage frame = some m) :
    homeDie (frame * 65536) < s.dies.length := by
  by_contra hd
  have hreset : s.die (homeDie (frame * 65536)) = Die.reset := by
    simp [State.die, regGet, List.getD_eq_getElem?_getD, List.getElem?_eq_none (Nat.le_of_not_lt hd)]
  rw [State.movePage, hreset] at h
  cases h

theorem pullUnit_pulled {m : MovePage} {i : Nat} (h : m.pulled.contains i = true) (s : State) (touch : Bool) : s.pullUnit m i touch = s := if_pos h

theorem moves_modTier (s : State) (hs : Nat) (f : Tier → Tier) (d : Nat) : ((s.modTier hs f).die d).moves = (s.die d).moves := by
  by_cases hd : d = (stackDie hs).1
  · subst hd
    by_cases hl : (stackDie hs).1 < s.dies.length
    · rw [State.modTier, die_modDie_same hl]
    · simp [State.modTier, State.modDie, State.die, regMod, List.getElem?_eq_none (Nat.le_of_not_lt hl)]
  · exact congrArg Die.moves (regGet_regMod_other hd)

/-- Marking sectors leaves memory and the dies. -/
theorem spoils_keep (l : List Nat) (f : Nat → Nat) (s : State) :
    (l.foldl (fun acc k => acc.spoil (f k)) s).mem = s.mem ∧ (l.foldl (fun acc k => acc.spoil (f k)) s).dies = s.dies := by
  induction l generalizing s with
  | nil => exact ⟨rfl, rfl⟩
  | cons k l ih => exact ih (s.spoil (f k))

/-- The unit's bytes are written at its place. -/
theorem mem_pullUnit {m : MovePage} {i : Nat} (h : m.pulled.contains i = false) (s : State) (touch : Bool) :
    (s.pullUnit m i touch).mem = (s.write (m.dst * 65536 + i * m.unit) (s.moveSource m i)).mem := by
  have hspoil := (spoils_keep (s.moveBad m i) (fun k => 2048 * m.dst + k) (s.write (m.dst * 65536 + i * m.unit) (s.moveSource m i))).1
  rw [State.pullUnit, if_neg (Bool.eq_false_iff.mp h)]
  dsimp only
  split <;> exact hspoil

/-- Unit `i` of a page is noted as pulled. -/
def MovePage.notePull (dst i : Nat) (x : MovePage) : MovePage := if x.dst = dst then { x with pulled := x.pulled ++ [i] } else x

theorem MovePage.notePull_dst (dst i : Nat) (x : MovePage) : (x.notePull dst i).dst = x.dst := by
  unfold MovePage.notePull
  split <;> rfl

theorem moves_pullUnit {s : State} {m : MovePage} {i : Nat} (hd : homeDie (m.dst * 65536) < s.dies.length) (h : m.pulled.contains i = false)
    (touch : Bool) : ((s.pullUnit m i touch).die (homeDie (m.dst * 65536))).moves =
      (s.die (homeDie (m.dst * 65536))).moves.map (MovePage.notePull m.dst i) := by
  have hdies := (spoils_keep (s.moveBad m i) (fun k => 2048 * m.dst + k) (s.write (m.dst * 65536 + i * m.unit) (s.moveSource m i))).2
  rw [State.write_dies] at hdies
  rw [State.pullUnit, if_neg (Bool.eq_false_iff.mp h)]
  dsimp only
  generalize (s.moveBad m i).foldl (fun (acc : State) k => acc.spoil (2048 * m.dst + k)) _ = u at hdies ⊢
  have hmoves : ((u.modDie (homeDie (m.dst * 65536)) fun d => { d with moves := d.moves.map (MovePage.notePull m.dst i) }).die
      (homeDie (m.dst * 65536))).moves = (s.die (homeDie (m.dst * 65536))).moves.map (MovePage.notePull m.dst i) := by
    rw [die_modDie_same (hdies ▸ hd), State.die, State.die, hdies]
  split
  · exact (moves_modTier _ _ _ _).trans hmoves
  · exact hmoves

theorem movePage_pullUnit {s : State} {frame i : Nat} {m : MovePage} (h : s.movePage frame = some m) (hi : m.pulled.contains i = false)
    (touch : Bool) :
    (s.pullUnit m i touch).movePage frame = some (m.notePull frame i) := by
  obtain rfl := dst_of_movePage h
  have hsame : ((fun x : MovePage => x.dst == m.dst) ∘ MovePage.notePull m.dst i) = fun x => x.dst == m.dst :=
    funext fun x => congrArg (· == m.dst) (x.notePull_dst m.dst i)
  rw [State.movePage, moves_pullUnit (homeDie_lt_of_movePage h) hi, List.find?_map, hsame]
  exact congrArg (Option.map _) h

/-! ## What the access meets -/

section Touched

variable {s : State} {pa n : Nat} {m : MovePage}

/-- The home of the bytes of one line of a page in motion. -/
theorem homeRead_line (hm : s.movePage (pa / 65536) = some m) (hline : pa % 128 + n ≤ 128) :
    s.homeRead pa n = (List.range n).map (fun i =>
      if m.pulled.contains (pa % 65536 / m.unit) then Cells.get s.mem (pa + i)
      else regGet 0 (s.moveSource m (pa % 65536 / m.unit)) ((pa + i) % 65536 % m.unit)) := by
  refine List.map_congr_left fun i hi => ?_
  have hi : i < n := List.mem_range.mp hi
  have hframe : (pa + i) / 65536 = pa / 65536 := by omega
  have hunit : (pa + i) % 65536 / m.unit = pa % 65536 / m.unit := by
    obtain hu | hu := m.unit_cases <;> rw [hu] <;> omega
  rw [hframe, hm]
  dsimp only
  rw [hunit]

/-- A byte of memory after the pull of the unit of `pa`. -/
theorem get_pullUnit (hs : s.MemoryOk) (hm : s.movePage (pa / 65536) = some m) (hfit : pa / 65536 * 65536 + 65536 ≤ Config.physBytes)
    (hlen : (s.moveSource m (pa % 65536 / m.unit)).length = m.unit) (hnew : m.pulled.contains (pa % 65536 / m.unit) = false)
    (touch : Bool) (a : Nat) :
    Cells.get (s.pullUnit m (pa % 65536 / m.unit) touch).mem a =
      if a / m.unit = pa / m.unit then regGet 0 (s.moveSource m (pa % 65536 / m.unit)) (a % 65536 % m.unit) else Cells.get s.mem a := by
  have hdst := dst_of_movePage hm
  have hroom : ¬ Config.physBytes < m.dst * 65536 + pa % 65536 / m.unit * m.unit + (s.moveSource m (pa % 65536 / m.unit)).length := by
    rw [hlen, hdst]
    obtain hu | hu := m.unit_cases <;> rw [hu] <;> omega
  rw [mem_pullUnit hnew, State.write, if_neg hroom]
  dsimp only
  rw [get_write hs, hlen, hdst]
  have hin : (pa / 65536 * 65536 + pa % 65536 / m.unit * m.unit ≤ a ∧ a < pa / 65536 * 65536 + pa % 65536 / m.unit * m.unit + m.unit) ↔
      a / m.unit = pa / m.unit := by
    obtain hu | hu := m.unit_cases <;> rw [hu] <;> omega
  by_cases h : a / m.unit = pa / m.unit
  · rw [if_pos (hin.mpr h), if_pos h, regGet, List.getD_eq_getElem?_getD]
    have hoff : a - (pa / 65536 * 65536 + pa % 65536 / m.unit * m.unit) = a % 65536 % m.unit := by
      obtain hu | hu := m.unit_cases <;> rw [hu] at h ⊢ <;> omega
    rw [hoff]
  · rw [if_neg (mt hin.mp h), if_neg h]

/-- R174 to R176: an access within a line of a page in motion pulls its unit, and then meets the bytes of their home. -/
theorem pullRange_moving (hs : s.MemoryOk) (hn : 0 < n) (hline : pa % 128 + n ≤ 128) (hm : s.movePage (pa / 65536) = some m)
    (hfit : pa / 65536 * 65536 + 65536 ≤ Config.physBytes) (hlen : (s.moveSource m (pa % 65536 / m.unit)).length = m.unit) :
    let u := s.pullRange pa n
    u.read pa n = s.homeRead pa n ∧ (∀ a, a / m.unit ≠ pa / m.unit → Cells.get u.mem a = Cells.get s.mem a) ∧
      ∃ m', u.movePage (pa / 65536) = some m' ∧ m'.pulled.contains (pa % 65536 / m.unit) = true := by
  intro u
  have hu : u = s.pullUnit m (pa % 65536 / m.unit) true := (pullRange_line hn hline s).trans (pullAt_line hm)
  rw [hu, homeRead_line hm hline]
  cases hnew : m.pulled.contains (pa % 65536 / m.unit) with
  | true =>
    rw [pullUnit_pulled hnew]
    exact ⟨rfl, fun _ _ => rfl, m, hm, hnew⟩
  | false =>
    have hget := get_pullUnit hs hm hfit hlen hnew true
    refine ⟨List.map_congr_left fun i hi => ?_, fun a ha => ?_, _, movePage_pullUnit hm hnew true, ?_⟩
    · have hi : i < n := List.mem_range.mp hi
      have hsame : (pa + i) / m.unit = pa / m.unit := by
        obtain hu | hu := m.unit_cases <;> rw [hu] <;> omega
      rw [hget, if_pos hsame]
      rfl
    · rw [hget, if_neg ha]
    · rw [MovePage.notePull, if_pos (dst_of_movePage hm)]
      simp

end Touched

end Sys2Proof.Machine
end

section
/-! SUPPORT. What arrives from the host: posts to the mailbox (R214), and accesses through BAR4 (R245, R291). -/

namespace Sys2Proof.Machine

open Sys2Proof

/-! ## The mailbox -/

theorem ctx_of_openCtx {s : State} {slot : Nat} {c : Context} (h : s.openCtx slot = some c) : s.ctx slot = some c := by
  unfold State.openCtx at h
  split at h
  · next hc =>
    split at h
    · cases h
    · rw [hc, h]
  · cases h

/-- A post from outside the groups is on its way at the end of its context's transit. -/
theorem ctx_extPost {s : State} {slot : Nat} {c : Context} (hc : s.ctx slot = some c) (src : PostSrc) (port : Nat) (m : Msg) :
    ∃ c', (s.extPost slot src port m).ctx slot = some c' ∧ c'.transit = c.transit ++ [.ext src port m] := by
  refine ⟨_, (ctx_modCtx_same s slot _).trans (congrArg (Option.map _) hc), rfl⟩

theorem mailboxWrite_open {s : State} {off : Nat} {bytes : List Byte} {c : Context} (hk : s.clocked = true) (hr : s.readyBit 1 = true)
    (hl : bytes.length = 8) (ha : off % 8 = 0) (hc : s.openCtx (off / 0x8000) = some c) :
    let port := off % 0x8000 / 8
    s.mailboxWrite off bytes = if wordHost ((c.bank (port / 256)).word (port % 256)) then
      s.extPost (off / 0x8000) .host port ⟨BitVec.ofNat 64 (leNat bytes), none⟩ else s.dropPost (some (off / 0x8000)) port bytes := by
  simp [State.mailboxWrite, hk, rdyMbox, hr, hl, ha, hc]

theorem joinDie_of_ctx {s : State} {slot : Nat} {c : Context} (hc : s.ctx slot = some c) : s.joinDie slot = c.joinDie := by
  rw [State.joinDie, hc]

/-- R274: a post that its port refuses counts as event 0x06 on the join die. -/
theorem count_dropPost {s : State} {slot : Nat} {c : Context} (hc : s.ctx slot = some c) (hd : c.joinDie < s.dies.length)
    (h6 : 6 < (s.die c.joinDie).counts.length) (port : Nat) (bytes : List Byte) :
    (((s.dropPost (some slot) port bytes).die c.joinDie).count 6).count = ((s.die c.joinDie).count 6).count + 1 := by
  rw [State.dropPost, joinDie_of_ctx hc, count_logEvent hd h6]

/-! ## BAR4 -/

/-- What the host may reach is some bytes of the stacks. -/
theorem physBytes_of_hostOk {s : State} {pa n : Nat} (h : s.hostOk pa n = true) : pa + n ≤ Config.physBytes := by
  simp only [State.hostOk, Bool.and_eq_true, decide_eq_true_eq] at h
  obtain ⟨⟨⟨⟨⟨-, hfit⟩, -⟩, -⟩, -⟩, -⟩ := h
  exact hfit

section Bar4

variable {s : State} {off n : Nat} {bytes : List Byte}

theorem bar4_write (hk : s.clocked = true) (hfit : off + bytes.length ≤ 2 ^ s.pkg.bar4Log) (n : Nat) :
    s.bar4 off n (some bytes) = if s.hostOk (s.pkg.wbase.toNat + off) bytes.length then s.homeWrite (s.pkg.wbase.toNat + off) bytes
      else { s with hostOut := s.hostOut ++ [.unsupported off] } := by
  unfold State.bar4
  dsimp only
  rw [if_neg (by simp [hk, hfit])]
  cases s.hostOk (s.pkg.wbase.toNat + off) bytes.length <;> rfl

theorem bar4_read_unsupported (hk : s.clocked = true) (hfit : off + n ≤ 2 ^ s.pkg.bar4Log)
    (hok : s.hostOk (s.pkg.wbase.toNat + off) n = false) : s.bar4 off n none = { s with hostOut := s.hostOut ++ [.unsupported off] } := by
  unfold State.bar4
  dsimp only
  rw [if_neg (by simp [hk, hfit]), if_pos (by simp [hok])]

/-- R161: a read answers the bytes at their home, or that they are uncorrectable. -/
theorem bar4_read_does (hk : s.clocked = true) (hfit : off + n ≤ 2 ^ s.pkg.bar4Log) (hok : s.hostOk (s.pkg.wbase.toNat + off) n = true) :
    let pa := s.pkg.wbase.toNat + off
    let u := s.homeAccess pa n false
    let t := s.bar4 off n none
    t.mem = u.mem ∧ t.ctxs = s.ctxs ∧ (u.eccOf pa n = none → t.hostOut = s.hostOut ++ [.read off (u.read pa n)]) ∧
      (u.eccOf pa n ≠ none → t.hostOut.getLast? = some (.uncorrectable off)) := by
  intro pa u t
  have hu : HomeOnly s u := homeOnly_homeAccess s pa n false
  have ht : t = s.bar4 off n none := rfl
  unfold State.bar4 at ht
  dsimp only at ht
  rw [if_neg (by simp [hk, hfit]), if_neg (by simp [hok])] at ht
  split at ht
  · next e he =>
    rw [ht]
    refine ⟨mem_logEcc u _ _ _ e, (deviceOnly_logEcc u _ _ _ e).ctxs.trans hu.ctxs, fun hnone => ?_, fun _ => by simp⟩
    exact absurd (he.symm.trans hnone) (by simp)
  · next hnone =>
    rw [ht]
    exact ⟨rfl, hu.ctxs, fun _ => congrArg (· ++ _) hu.hostOut, fun hne => absurd hnone hne⟩

end Bar4

end Sys2Proof.Machine
end

section
/-! SUPPORT. What arrives over the links (R296): flits on a port that is up, requests of a peer and answers to this device's own. -/

namespace Sys2Proof.Machine

open Sys2Proof

/-! ## Sending -/

/-- R281: a flit to a rank for which no port holds traffic leaves. -/
theorem sendFlit_leaves {s : State} {port rank : Nat} (h : s.pkg.holds.contains (port, rank) = false) (f : Flit) :
    s.sendFlit port rank f = { s with linkOut := s.linkOut ++ [.flit port rank f] } := if_neg (Bool.eq_false_iff.mp h)

/-- What the device does of itself before it sends a flit leaves the way of that flit open. -/
theorem DeviceOnly.sendFlit {s t : State} {port rank : Nat} (ht : DeviceOnly s t) (h : s.pkg.holds.contains (port, rank) = false) (f : Flit) :
    t.sendFlit port rank f = { t with linkOut := s.linkOut ++ [.flit port rank f] } := by
  have hholds : t.pkg.holds = s.pkg.holds := by rw [ht.pkg]
  rw [sendFlit_leaves (by rw [hholds]; exact h), ht.linkOut]

/-! ## Requests of a peer -/

section Serve

variable {s : State} {port rank src txn pa n slot : Nat} {need : List (Nat × Nat)} {rd wr : Bool} {f : State → List Byte × State}

theorem serve_refused (hr : s.rankSlot rank = some slot) (ha : s.admits src pa n rd wr = false) :
    s.serve port rank src txn pa n need rd wr f = s.sendFlit port src (.refuse rank txn) := by
  simp [State.serve, hr, ha]

theorem serve_ecc {e : Exc} (hr : s.rankSlot rank = some slot) (ha : s.admits src pa n rd wr = true)
    (he : need.findSome? (fun x => (s.homeAccess pa n wr).eccOf x.1 x.2) = some e) :
    s.serve port rank src txn pa n need rd wr f =
      ((s.homeAccess pa n wr).logEcc slot (homeDie pa) none e).sendFlit port src (.ecc rank (e.tval.toNat / 32) txn) := by
  simp [State.serve, hr, ha, he]

theorem serve_reply (hr : s.rankSlot rank = some slot) (ha : s.admits src pa n rd wr = true)
    (he : need.findSome? (fun x => (s.homeAccess pa n wr).eccOf x.1 x.2) = none) :
    s.serve port rank src txn pa n need rd wr f =
      (f (s.homeAccess pa n wr)).2.sendFlit port src (.reply rank txn (f (s.homeAccess pa n wr)).1) := by
  simp [State.serve, hr, ha, he]

end Serve

/-- The sectors that a mask names, as the search for an uncorrectable one goes through them. -/
theorem findSome?_maskSectors {α : Type} (line : Nat) (secs : BitVec 4) (f : Nat → Nat → Option α) :
    (maskSectors line secs).findSome? (fun x => f x.1 x.2) =
      ((List.range 4).filter (fun k => secs.getLsbD k)).findSome? (fun k => f (128 * line + 32 * k) 32) := by
  rw [maskSectors, List.findSome?_map]
  rfl

theorem lineBytes_eq (s : State) (line : Nat) (secs : BitVec 4) :
    s.lineBytes line secs = (List.range 4).flatMap (fun k =>
      if k ∈ (List.range 4).filter (fun k => secs.getLsbD k) then s.read (128 * line + 32 * k) 32 else List.replicate 32 0) := by
  refine List.flatMap_congr fun k hk => ?_
  simp only [List.mem_filter, hk, true_and]

/-! ## Bytes that a peer writes -/

/-- Writes of consecutive bytes, from the `k`th byte of a range on. -/
theorem get_foldl_putByteWr {s : State} (hs : s.MemoryOk) (pa k : Nat) (l : List (Byte × Byte)) (hfit : pa + k + l.length ≤ Config.physBytes)
    (slot a : Nat) :
    Cells.get (((l.zipIdx k).map (fun x => (⟨.phys (pa + x.2), x.1.1, x.1.2⟩ : ByteWr))).foldl (fun acc w => acc.putByteWr slot w) s).mem a =
      if pa + k ≤ a ∧ a < pa + k + l.length then
        applyWr (Cells.get s.mem a) ⟨.phys a, ((l[a - (pa + k)]?).getD (0, 0)).1, ((l[a - (pa + k)]?).getD (0, 0)).2⟩
      else Cells.get s.mem a := by
  induction l generalizing s k with
  | nil => rw [if_neg (by simp)]; rfl
  | cons x l ih =>
    simp only [List.length_cons] at hfit ⊢
    have hput : (s.putByteWr slot ⟨.phys (pa + k), x.1, x.2⟩).mem =
        Cells.set s.mem (pa + k) (applyWr (Cells.get s.mem (pa + k)) ⟨.phys (pa + k), x.1, x.2⟩) :=
      congrArg State.mem (if_neg (by omega))
    have hrest := ih (memoryOk_putByteWr hs slot ⟨.phys (pa + k), x.1, x.2⟩) (k + 1) (by omega)
    rw [hput] at hrest
    refine hrest.trans ?_
    obtain hlt | rfl | hgt := Nat.lt_trichotomy a (pa + k)
    · rw [if_neg (by omega), if_neg (by omega), get_set_other hs (by omega)]
    · rw [if_neg (by omega), if_pos (by omega), get_set_same hs, Nat.sub_self]
      rfl
    · rw [get_set_other hs (by omega), show a - (pa + k) = a - (pa + (k + 1)) + 1 by omega, List.getElem?_cons_succ]
      refine if_congr (by omega) rfl rfl

theorem homeOnly_putByteWr_phys (s : State) (slot : Nat) {w : ByteWr} (h : isPhys w = true) : HomeOnly s (s.putByteWr slot w) := by
  obtain ⟨l, v, b⟩ := w
  cases l with
  | phys pa =>
    unfold State.putByteWr
    dsimp only
    split <;> rfl
  | scratch lcid off => cases h
  | window lcid gh cls idx => cases h

/-- Writes of physical bytes alone change nothing but memory and the marks of bad places. -/
theorem homeOnly_putAll_phys (s : State) (slot : Nat) {ws : List ByteWr} (h : ∀ w ∈ ws, isPhys w = true) : HomeOnly s (s.putAll slot ws) := by
  refine HomeOnly.trans ?_ (homeOnly_rewrite _ _)
  induction ws generalizing s with
  | nil => rfl
  | cons w ws ih =>
    exact (homeOnly_putByteWr_phys s slot (h w (List.mem_cons_self ..))).trans (ih _ fun x hx => h x (List.mem_cons_of_mem _ hx))

theorem homeOnly_peerWrite (s : State) (pa : Nat) (bytes bits : List Byte) : HomeOnly s (s.peerWrite pa bytes bits) :=
  homeOnly_putAll_phys s 0 fun w hw => by
    obtain ⟨x, -, rfl⟩ := List.mem_map.mp hw
    rfl

/-- R156: a peer's write changes the bits that it names. -/
theorem get_peerWrite {s : State} {pa : Nat} {bytes bits : List Byte} (hs : s.MemoryOk) (hlen : bits.length = bytes.length)
    (hfit : pa + bytes.length ≤ Config.physBytes) (a : Nat) :
    Cells.get (s.peerWrite pa bytes bits).mem a = if pa ≤ a ∧ a < pa + bytes.length then
      (Cells.get s.mem a &&& ~~~(bits[a - pa]?).getD 0) ||| ((bytes[a - pa]?).getD 0 &&& (bits[a - pa]?).getD 0) else Cells.get s.mem a := by
  have hzip : (bytes.zip bits).length = bytes.length := by simp [hlen]
  have hget := get_foldl_putByteWr hs pa 0 (bytes.zip bits) (by omega) 0 a
  rw [hzip, Nat.add_zero] at hget
  rw [State.peerWrite, State.putAll, State.rewrite_mem]
  refine hget.trans ?_
  split
  · next h =>
    have hb : a - pa < bytes.length := by omega
    have hz : (bytes.zip bits)[a - pa]? = some (bytes[a - pa], bits[a - pa]'(hlen ▸ hb)) := by
      rw [List.getElem?_eq_getElem (by omega), List.getElem_zip]
    rw [hz, List.getElem?_eq_getElem hb, List.getElem?_eq_getElem (hlen ▸ hb)]
    rfl
  · rfl

/-! ## Answers to this device's requests -/

theorem answers_iff {s : State} {rank src txn : Nat} {x : RemoteTxn} :
    s.answers rank src txn x = true ↔ x.txn = txn ∧ x.rank = src ∧ s.isRank x.who.slot rank = true := by
  simp [State.answers, and_assoc]

/-- R296: an answer that no request of this device waits for is dropped (log 25). -/
theorem answered_dropped {s : State} {rank src txn : Nat} (h : ∀ x ∈ s.pkg.remote, s.answers rank src txn x = false) (a : PeerReply) :
    s.answered rank src txn a = s := by
  have hfind : s.pkg.remote.find? (s.answers rank src txn) = none := List.find?_eq_none.mpr fun x hx => by simp [h x hx]
  rw [State.answered, hfind]

/-- An answer to a request that is no PREF's is noted in that request. -/
theorem answered_noted {s : State} {rank src txn : Nat} {x : RemoteTxn} (hx : s.pkg.remote.find? (s.answers rank src txn) = some x)
    (hpref : ∀ k l y u z, x.who ≠ .pref k l y u z) (a : PeerReply) :
    s.answered rank src txn a = s.modPkg (fun p => { p with
      remote := p.remote.map (fun y => if s.answers rank src txn y then { y with reply := some a } else y) }) := by
  rw [State.answered, hx]
  dsimp only
  cases hw : x.who with
  | pref k l y u z => exact absurd hw (hpref k l y u z)
  | _ => rfl

theorem answered_does {s : State} {rank src txn : Nat} (a : PeerReply)
    (hpref : ∀ x ∈ s.pkg.remote, x.txn = txn → x.rank = src → s.isRank x.who.slot rank = true → ∀ k l y u z, x.who ≠ .pref k l y u z) :
    let t := s.answered rank src txn a
    t.ctxs = s.ctxs ∧ t.mem = s.mem ∧
      (∀ x ∈ t.pkg.remote, x.txn = txn → x.rank = src → s.isRank x.who.slot rank = true → x.reply = some a) ∧
      ∀ x ∈ s.pkg.remote, s.isRank x.who.slot rank = false → x ∈ t.pkg.remote := by
  intro t
  cases hfind : s.pkg.remote.find? (s.answers rank src txn) with
  | none =>
    have hnone : ∀ x ∈ s.pkg.remote, s.answers rank src txn x = false := fun x hx => by simpa using List.find?_eq_none.mp hfind x hx
    have ht : t = s := answered_dropped hnone a
    rw [ht]
    refine ⟨rfl, rfl, fun x hx htxn hrank hself => ?_, fun _ hx _ => hx⟩
    exact absurd (answers_iff.mpr ⟨htxn, hrank, hself⟩) (by simp [hnone x hx])
  | some x =>
    obtain ⟨htxn, hrank, hself⟩ := answers_iff.mp (List.find?_some hfind)
    have ht : t = _ := answered_noted hfind (hpref x (List.mem_of_find?_eq_some hfind) htxn hrank hself) a
    rw [ht]
    refine ⟨rfl, rfl, fun y hy htxn hrank hself => ?_, fun y hy hother => ?_⟩
    · obtain ⟨z, -, rfl⟩ := List.mem_map.mp hy
      by_cases hz : s.answers rank src txn z = true
      · rw [if_pos hz]
      · rw [if_neg hz] at htxn hrank hself
        exact absurd (answers_iff.mpr ⟨htxn, hrank, hself⟩) hz
    · refine List.mem_map.mpr ⟨y, hy, if_neg fun h => ?_⟩
      exact Bool.false_ne_true (hother.symm.trans (answers_iff.mp h).2.2)

end Sys2Proof.Machine
end

section
/-! SUPPORT. Drains and resumes between devices (R281, R289, R296). -/

namespace Sys2Proof.Machine

open Sys2Proof

/-! ## A port goes down -/

theorem ctx_mapCtxs {s t : State} {f : Context → Context} (h : t.ctxs = s.ctxs.map (fun c => c.map f)) (k : Nat) : t.ctx k = (s.ctx k).map f := by
  simp only [State.ctx, regGet, List.getD_eq_getElem?_getD, h, List.getElem?_map]
  cases s.ctxs[k]? <;> rfl

theorem getLsbD_or_twoPow {w : Nat} (x : BitVec w) {n : Nat} (h : n < w) : (x ||| BitVec.ofNat w (2 ^ n)).getLsbD n = true := by
  rw [BitVec.getLsbD_or, BitVec.getLsbD_ofNat]
  simp [h]

/-- R281: the port that goes down counts as answered in every drain. -/
theorem portDown_does {s : State} {port : Nat} (hk : s.clocked = true) (hp : port < 16) :
    let t := s.portDown port
    t.pkg.linkDown.getLsbD port = true ∧ t.mem = s.mem ∧ ∀ k, t.ctx k = (s.ctx k).map (Context.drained port) := by
  intro t
  have ht : t = { s.modPkg (fun p => { p with linkDown := p.linkDown ||| BitVec.ofNat 16 (2 ^ port) }) with
      ctxs := s.ctxs.map (fun c => c.map (Context.drained port)) } := (if_neg (by omega)).trans (if_pos hk)
  rw [ht]
  exact ⟨getLsbD_or_twoPow _ hp, rfl, ctx_mapCtxs rfl⟩

theorem drainTimeout_eq {s : State} {slot port : Nat} {c : Context} (hk : s.clocked = true) (hc : s.ctx slot = some c) (hp : port ∈ c.drains)
    (hl : s.drainLate c = true) : s.drainTimeout port slot = s.portDown port := by
  simp [State.drainTimeout, hc, hp, hl, hk]

/-! ## A drain marker, and a resume marker -/

theorem drainRequest_holds {s : State} {port rank : Nat} (hk : s.clocked = true) (hp : s.portUp port = true) :
    let t := s.drainRequest port rank
    (port, rank) ∈ t.pkg.holds ∧ t.ctxs = s.ctxs ∧ t.linkOut = s.linkOut ++ [.drainMarker port] := by
  intro t
  have ht : t = { s with
      pkg := { s.pkg with holds := if s.pkg.holds.contains (port, rank) then s.pkg.holds else s.pkg.holds ++ [(port, rank)] }
      linkOut := s.linkOut ++ [.drainMarker port] } := if_neg (by simp [hk, hp])
  rw [ht]
  refine ⟨?_, rfl, rfl⟩
  dsimp only
  split
  · next h => exact List.contains_iff_mem.mp h
  · simp

theorem deviceOnly_peerSeek (port rank : Nat) (l : List (Nat × DWord)) (s : State) : DeviceOnly s (s.peerSeek port rank l).2 := by
  induction l generalizing s with
  | nil => rfl
  | cons x l ih =>
    unfold State.peerSeek
    split
    · exact ih s
    · next h s1 hread =>
      have hs1 := deviceOnly_devRead hread
      split
      · exact hs1.trans (ih s1)
      · split
        · next b s2 hread2 =>
          have hs2 := hs1.trans (deviceOnly_devRead hread2)
          split
          · exact hs2
          · exact hs2.trans (ih s2)
        · exact hs1.trans (ih s1)

/-- The package once a resume marker has been noted. -/
def State.noteResume (s : State) (port rank : Nat) : State := s.modPkg (fun p => { p with resumes := [(port, rank)] })

/-- R296: the marker that finds traffic held for its rank is noted, and the peer tables are read for its port. -/
theorem resumeMarker_eq {s : State} {port rank : Nat} (hk : s.clocked = true) (hp : s.portUp port = true) (hh : ∃ x ∈ s.pkg.holds, x.2 = rank)
    (hr : s.pkg.resumes = []) :
    let y := (s.noteResume port rank).peerSeek port rank (s.noteResume port rank).peerTables
    s.resumeMarker port rank = if y.1 then y.2.releaseHeld port rank else y.2 := by
  have hheld : (s.pkg.holds.any (fun x => x.2 == rank) && !s.pkg.resumes.contains (port, rank)) = true := by
    simpa [hr] using hh
  have hnote : s.modPkg (fun p => { p with resumes := p.resumes ++ [(port, rank)] }) = s.noteResume port rank := by
    simp [State.noteResume, State.modPkg, hr]
  rw [State.resumeMarker, if_neg (by simp [hk, hp]), if_pos hheld, hnote]
  rfl

theorem resumeMarker_waits {s : State} {port rank : Nat} (hk : s.clocked = true) (hp : s.portUp port = true) (hh : ∃ x ∈ s.pkg.holds, x.2 = rank)
    (hr : s.pkg.resumes = []) (hn : (s.noteResume port rank).peerNames port rank = false) :
    let t := s.resumeMarker port rank
    t.pkg.resumes = [(port, rank)] ∧ t.pkg.holds = s.pkg.holds ∧ t.linkOut = s.linkOut := by
  intro t
  have hseek := deviceOnly_peerSeek port rank (s.noteResume port rank).peerTables (s.noteResume port rank)
  have ht : t = _ := (resumeMarker_eq hk hp hh hr).trans (if_neg (Bool.eq_false_iff.mp hn))
  rw [ht, hseek.pkg, hseek.linkOut]
  exact ⟨rfl, rfl, rfl⟩

theorem resumeMarker_releases {s : State} {port rank : Nat} (hk : s.clocked = true) (hp : s.portUp port = true)
    (hh : ∃ x ∈ s.pkg.holds, x.2 = rank) (hr : s.pkg.resumes = []) (hn : (s.noteResume port rank).peerNames port rank = true) :
    let t := s.resumeMarker port rank
    t.pkg.resumes = [] ∧ t.pkg.holds = s.pkg.holds.filter (fun x => x.2 != rank) ∧
      t.linkOut = s.linkOut ++ (s.pkg.heldFor.filter (fun x => x.2.1 == rank)).map (fun x => .flit port rank x.2.2) := by
  intro t
  have hseek := deviceOnly_peerSeek port rank (s.noteResume port rank).peerTables (s.noteResume port rank)
  have ht : t = _ := (resumeMarker_eq hk hp hh hr).trans (if_pos hn)
  rw [ht, State.releaseHeld, hseek.pkg, hseek.linkOut]
  refine ⟨?_, rfl, rfl⟩
  simp [State.noteResume, State.modPkg]

end Sys2Proof.Machine
end

section
/-! PROOF. What reaches the device from the host and over the links. -/

namespace Sys2Proof.Machine

open Sys2Proof

/-! ## Flits of a peer -/

section Flits

variable {s : State} {port rank src slot : Nat}

theorem exec_flit_post {n : Nat} {payload : DWord} {c : Context} (hk : s.clocked = true) (hp : s.portUp port = true)
    (hr : s.rankSlot rank = some slot) (hc : s.openCtx slot = some c) (hw : wordPeer ((c.bank (n / 256)).word (n % 256)) = true) :
    exec (.ringusFlitArrival port rank (.post src n payload)) s = .next (s.extPost slot (.link port) n ⟨payload, none⟩) := by
  refine congrArg Host.Outcome.next ((if_neg (by simp [hk, hp])).trans ?_)
  simp [hr, hc, hw]

theorem exec_flit_read (hk : s.clocked = true) (hp : s.portUp port = true) (line : Nat) (secs : BitVec 4) (txn : Nat) :
    exec (.ringusFlitArrival port rank (.read src line secs txn)) s = .next (s.serve port rank src txn (128 * line) 128
      (maskSectors line secs) true false (fun x => (x.lineBytes line secs, x))) :=
  congrArg Host.Outcome.next (if_neg (by simp [hk, hp]))

theorem exec_flit_write (hk : s.clocked = true) (hp : s.portUp port = true) (pa : Nat) (bytes bits : List Byte) (txn : Nat) :
    exec (.ringusFlitArrival port rank (.write src pa bytes bits txn)) s = .next (s.serve port rank src txn pa bytes.length [] false true
      (fun x => ([], x.peerWrite pa bytes bits))) :=
  congrArg Host.Outcome.next (if_neg (by simp [hk, hp]))

theorem exec_flit_reply (hk : s.clocked = true) (hp : s.portUp port = true) (txn : Nat) (bytes : List Byte) :
    exec (.ringusFlitArrival port rank (.reply src txn bytes)) s = .next (s.answered rank src txn (.bytes bytes)) :=
  congrArg Host.Outcome.next (if_neg (by simp [hk, hp]))

/-- What the device does of itself for a request, and then its answer on the port. -/
theorem sent_of_deviceOnly {t : State} {i : Instr} {f : Flit} (ht : DeviceOnly s t) (hh : s.pkg.holds.contains (port, src) = false)
    (hi : exec i s = .next (t.sendFlit port src f)) :
    ∃ u, exec i s = .next u ∧ u.ctxs = s.ctxs ∧ u.linkOut = s.linkOut ++ [.flit port src f] := by
  rw [ht.sendFlit hh] at hi
  exact ⟨_, hi, ht.ctxs, rfl⟩

/-- R161, R296: a read is answered with its sectors, or with the first of them that is uncorrectable, or refused. -/
theorem readFlit_sends (hk : s.clocked = true) (hp : s.portUp port = true) (hr : s.rankSlot rank = some slot)
    (hh : s.pkg.holds.contains (port, src) = false) (line : Nat) (secs : BitVec 4) (txn : Nat) :
    let sent (f : Flit) : Prop := ∃ t, exec (.ringusFlitArrival port rank (.read src line secs txn)) s = .next t ∧ t.ctxs = s.ctxs ∧
      t.linkOut = s.linkOut ++ [.flit port src f]
    let asked := (List.range 4).filter (fun k => secs.getLsbD k)
    let u := s.homeAccess (128 * line) 128 false
    (s.admits src (128 * line) 128 true false = true → (∀ k ∈ asked, u.eccOf (128 * line + 32 * k) 32 = none) →
      sent (.reply rank txn ((List.range 4).flatMap (fun k => if k ∈ asked then u.read (128 * line + 32 * k) 32 else List.replicate 32 0)))) ∧
    (∀ e, s.admits src (128 * line) 128 true false = true → asked.findSome? (fun k => u.eccOf (128 * line + 32 * k) 32) = some e →
      sent (.ecc rank (e.tval.toNat / 32) txn)) ∧
    (s.admits src (128 * line) 128 true false = false → sent (.refuse rank txn)) := by
  intro sent asked u
  have hu : DeviceOnly s u := (homeOnly_homeAccess s (128 * line) 128 false).deviceOnly
  have hexec := exec_flit_read (rank := rank) (src := src) hk hp line secs txn
  have hsecs := findSome?_maskSectors line secs u.eccOf
  refine ⟨fun ha hall => ?_, fun e ha he => ?_, fun ha => ?_⟩
  · have hnone := hsecs.trans (List.findSome?_eq_none_iff.mpr hall)
    rw [serve_reply hr ha hnone] at hexec
    rw [← lineBytes_eq]
    exact sent_of_deviceOnly hu hh hexec
  · rw [serve_ecc hr ha (hsecs.trans he)] at hexec
    exact sent_of_deviceOnly (hu.trans (deviceOnly_logEcc u _ _ _ e)) hh hexec
  · rw [serve_refused hr ha] at hexec
    exact sent_of_deviceOnly (DeviceOnly.refl s) hh hexec

/-- R296: an admitted write changes the bits that it names, over what is pulled for it, and is answered. -/
theorem writeFlit_does (hk : s.clocked = true) (hp : s.portUp port = true) (hr : s.rankSlot rank = some slot) (hs : s.MemoryOk)
    (hh : s.pkg.holds.contains (port, src) = false) {pa : Nat} {bytes bits : List Byte} (ha : s.admits src pa bytes.length false true = true)
    (hlen : bits.length = bytes.length) (hfit : pa + bytes.length ≤ Config.physBytes) (txn : Nat) :
    let i : Instr := .ringusFlitArrival port rank (.write src pa bytes bits txn)
    (∃ t, exec i s = .next t ∧ t.ctxs = s.ctxs ∧ t.linkOut = s.linkOut ++ [.flit port src (.reply rank txn [])]) ∧
      ∃ t, exec i s = .next t ∧ ∀ a, Cells.get t.mem a =
        let old := Cells.get (s.pullRange pa bytes.length).mem a
        if pa ≤ a ∧ a < pa + bytes.length then
          (old &&& ~~~(bits[a - pa]?).getD 0) ||| ((bytes[a - pa]?).getD 0 &&& (bits[a - pa]?).getD 0)
        else old := by
  intro i
  have hexec := exec_flit_write (rank := rank) (src := src) hk hp pa bytes bits txn
  rw [serve_reply hr ha rfl] at hexec
  let u := s.homeAccess pa bytes.length true
  have hu : HomeOnly s (u.peerWrite pa bytes bits) := (homeOnly_homeAccess s pa bytes.length true).trans (homeOnly_peerWrite u pa bytes bits)
  refine ⟨sent_of_deviceOnly hu.deviceOnly hh hexec, _, hexec, fun a => ?_⟩
  rw [hu.deviceOnly.sendFlit hh]
  refine (get_peerWrite (memoryOk_homeAccess hs pa bytes.length true) hlen hfit a).trans ?_
  rw [mem_homeAccess]

end Flits

/-! ## The host -/

/-- R214: a write of the mailbox is a post, or is dropped with event 0x06. -/
theorem mailboxWrite_does {s : State} {off : Nat} {bytes : List Byte} {c : Context} (hk : s.clocked = true) (hr : s.readyBit 1 = true)
    (hl : bytes.length = 8) (ha : off % 8 = 0) (hc : s.openCtx (off / 0x8000) = some c) :
    let port := off % 0x8000 / 8
    let word : DWord := (c.bank (port / 256)).word (port % 256)
    (wordHost word = true → ∃ t, exec (.mailboxWrite off bytes) s = .next t ∧ t.mem = s.mem ∧ ∃ c', t.ctx (off / 0x8000) = some c' ∧
      c'.transit = c.transit ++ [.ext .host port ⟨BitVec.ofNat 64 (leNat bytes), none⟩]) ∧
    (wordHost word = false → c.joinDie < s.dies.length → 6 < (s.die c.joinDie).counts.length →
      ∃ t, exec (.mailboxWrite off bytes) s = .next t ∧ t.ctxs = s.ctxs ∧
        ((t.die c.joinDie).count 6).count = ((s.die c.joinDie).count 6).count + 1) := by
  intro port word
  have hctx := ctx_of_openCtx hc
  have hexec : exec (.mailboxWrite off bytes) s = .next _ := congrArg Host.Outcome.next (mailboxWrite_open hk hr hl ha hc)
  refine ⟨fun hw => ?_, fun hw hd h6 => ?_⟩
  · rw [if_pos hw] at hexec
    exact ⟨_, hexec, State.modCtx_mem .., ctx_extPost hctx _ _ _⟩
  · rw [if_neg (Bool.eq_false_iff.mp hw)] at hexec
    exact ⟨_, hexec, State.logEvent_ctxs .., count_dropPost hctx hd h6 _ _⟩

/-- R245: a write of the host is performed at the home slices, and one that the device refuses is answered so. -/
theorem bar4Write_does {s : State} {off : Nat} {bytes : List Byte} (hk : s.clocked = true) (hs : s.MemoryOk)
    (hfit : off + bytes.length ≤ 2 ^ s.pkg.bar4Log) (n : Nat) :
    let at_ := s.pkg.wbase.toNat + off
    let i : Instr := .hostBar4Access off n (some bytes)
    (s.hostOk at_ bytes.length = true → ∃ t, exec i s = .next t ∧ t.ctxs = s.ctxs ∧ t.hostOut = s.hostOut ∧ ∀ a, Cells.get t.mem a =
      if at_ ≤ a ∧ a < at_ + bytes.length then (bytes[a - at_]?).getD 0 else Cells.get (s.pullRange at_ bytes.length).mem a) ∧
    (s.hostOk at_ bytes.length = false → exec i s = .next { s with hostOut := s.hostOut ++ [.unsupported off] }) := by
  intro at_ i
  have hexec : exec i s = .next _ := congrArg Host.Outcome.next (bar4_write hk hfit n)
  refine ⟨fun hok => ?_, fun hno => ?_⟩
  · rw [if_pos hok] at hexec
    have hhome := homeOnly_homeWrite s at_ bytes
    exact ⟨_, hexec, hhome.ctxs, hhome.hostOut, get_homeWrite hs (physBytes_of_hostOk hok)⟩
  · rw [if_neg (Bool.eq_false_iff.mp hno)] at hexec
    exact hexec

/-- Settles O48: each arrival is the lemma on it: posts and accesses of the host, the pull of a page in motion, flits, answers, drains and resumes. -/
theorem hostAndLinks : Obligations.HostAndLinks := by
  unfold Obligations.HostAndLinks
  intro s off n port rank src txn pa slot line secs bytes c payload bits hs hk does p word at_ sent
  refine ⟨fun hr hl ha hc => mailboxWrite_does hk hr hl ha hc, mem_homeAccess s pa n,
    fun hn hline => ⟨fun hstill => ?still, fun m hm hfit => ?moving⟩, fun hfit => bar4Write_does hk hs hfit n,
    fun hfit => ⟨fun hno => ?unsupported, fun hok => ?read⟩, fun hp => ?down, fun hc hd hl hp => ?timeout,
    fun hup => ⟨fun hr hc hw => ?post, fun hh hr => ⟨readFlit_sends hk hup hr hh line secs txn, fun ha hlen hfit => ?write⟩,
      fun hpref => ?reply, fun hnone => ?stray, ?drain, fun hc => ?marker, fun hh hr => ⟨fun hn => ?waits, fun hn => ?releases⟩⟩⟩
  case still => rw [pullRange_line hn hline, pullAt_line_still hstill]
  case moving => exact fun hlen => pullRange_moving hs hn hline hm hfit hlen
  case unsupported => exact congrArg _ (bar4_read_unsupported hk hfit hno)
  case read => exact ⟨_, rfl, bar4_read_does hk hfit hok⟩
  case down =>
    obtain ⟨hbit, hmem, hctx⟩ := portDown_does hk hp
    exact ⟨_, rfl, hbit, hmem, fun k x hx => ⟨_, (hctx k).trans (congrArg _ hx), rfl⟩⟩
  case timeout =>
    obtain ⟨hbit, -, hctx⟩ := portDown_does hk hp
    exact ⟨_, congrArg Host.Outcome.next (drainTimeout_eq hk hc hd hl), hbit, _, (hctx slot).trans (congrArg _ hc), rfl⟩
  case post => exact ⟨_, exec_flit_post hk hup hr hc hw, State.modCtx_mem .., ctx_extPost (ctx_of_openCtx hc) _ _ _⟩
  case write => exact writeFlit_does hk hup hr hs hh ha hlen hfit txn
  case reply => exact ⟨_, exec_flit_reply hk hup txn bytes, answered_does (.bytes bytes) hpref⟩
  case stray =>
    refine (exec_flit_reply hk hup txn bytes).trans (congrArg _ (answered_dropped (fun x hx => ?_) _))
    exact Bool.eq_false_iff.mpr fun h => Bool.false_ne_true ((hnone x hx).symm.trans (answers_iff.mp h).2.2)
  case drain => exact ⟨_, rfl, drainRequest_holds hk hup⟩
  case marker =>
    have hexec : exec (.drainMarkerArrival port slot) s = .next (s.modCtx slot (Context.drained port)) :=
      congrArg _ (if_pos (by simp [hk, hup]))
    exact ⟨_, hexec, State.modCtx_mem .., State.modCtx_pkg .., _, (ctx_modCtx_same s slot _).trans (congrArg _ hc), rfl⟩
  case waits => exact ⟨_, rfl, resumeMarker_waits hk hup hh hr hn⟩
  case releases => exact ⟨_, rfl, resumeMarker_releases hk hup hh hr hn⟩

end Sys2Proof.Machine
end

section
/-! SUPPORT. The park registers of a slot, and the shape of a state: how many slots each die has, and which context slots are taken. -/

namespace Sys2Proof.Machine

open Sys2Proof

/-! ## Park registers -/

theorem SlotsKept.slot {s t : State} (h : SlotsKept s t) (d slot : Nat) : (t.die d).slot slot = (s.die d).slot slot := by
  rw [Die.slot, h.slots, Die.slot]

theorem SlotsKept.parkRegs {s t : State} (h : SlotsKept s t) (d slot : Nat) : t.parkRegs d slot = s.parkRegs d slot := by
  rw [State.parkRegs, h.slot, State.parkRegs]

theorem parkRegs_of_dies {s t : State} (h : t.dies = s.dies) (d slot : Nat) : t.parkRegs d slot = s.parkRegs d slot :=
  (slotsKept_of_dies h).parkRegs d slot

theorem parkRegs_notice (s : State) (b d slot : Nat) : (s.notice b).parkRegs d slot = s.parkRegs d slot := (slotsKept_notice s b).parkRegs d slot

/-- The die has the slot's registers. -/
def State.HasSlot (s : State) (d slot : Nat) : Prop := d < s.dies.length ∧ slot < (s.die d).slots.length

theorem SlotsKept.hasSlot {s t : State} (h : SlotsKept s t) {d slot : Nat} (hs : s.HasSlot d slot) : t.HasSlot d slot :=
  ⟨by rw [h.length]; exact hs.1, by rw [h.slots]; exact hs.2⟩

theorem parkRegs_modPark {s : State} {d slot : Nat} (h : s.HasSlot d slot) (f : ParkRegs → ParkRegs) :
    (s.modPark d slot f).parkRegs d slot = f (s.parkRegs d slot) := congrArg SlotRegs.park (slot_modSlotRegs_same h.1 h.2 _)

/-! ## The shape of a state -/

/-- Each die has as many slots as before, and the same context slots are taken. -/
def ShapeKept (s t : State) : Prop :=
  t.dies.map (fun d => d.slots.length) = s.dies.map (fun d => d.slots.length) ∧ t.ctxs.map Option.isSome = s.ctxs.map Option.isSome

theorem ShapeKept.refl (s : State) : ShapeKept s s := ⟨rfl, rfl⟩

theorem ShapeKept.trans {s t u : State} (h : ShapeKept s t) (h' : ShapeKept t u) : ShapeKept s u := ⟨h'.1.trans h.1, h'.2.trans h.2⟩

theorem SlotsKept.shapeKept {s t : State} (h : SlotsKept s t) (hc : t.ctxs = s.ctxs) : ShapeKept s t := by
  refine ⟨?_, by rw [hc]⟩
  simpa [Function.comp_def] using congrArg (List.map List.length) h

theorem shapeKept_of_dies {s t : State} (hd : t.dies = s.dies) (hc : t.ctxs = s.ctxs) : ShapeKept s t := (slotsKept_of_dies hd).shapeKept hc

theorem shapeKept_foldl {α : Type} {f : State → α → State} (h : ∀ s a, ShapeKept s (f s a)) (l : List α) (s : State) :
    ShapeKept s (l.foldl f s) := by
  induction l generalizing s with
  | nil => exact .refl s
  | cons a l ih => exact (h s a).trans (ih _)

theorem ShapeKept.hasSlot {s t : State} (h : ShapeKept s t) {d slot : Nat} (hs : s.HasSlot d slot) : t.HasSlot d slot := by
  obtain ⟨hd, hslot⟩ := hs
  have hlen : t.dies.length = s.dies.length := by simpa using congrArg List.length h.1
  refine ⟨by rw [hlen]; exact hd, ?_⟩
  have := congrArg (fun l => l[d]?.getD Die.reset.slots.length) h.1
  simp only [List.getElem?_map, Option.getD_map (f := fun x : Die => x.slots.length)] at this
  simpa [State.die, regGet, List.getD_eq_getElem?_getD, this] using hslot

theorem ShapeKept.isSome_ctx {s t : State} (h : ShapeKept s t) (k : Nat) : (t.ctx k).isSome = (s.ctx k).isSome := by
  have := congrArg (fun l => l[k]?.getD (none : Option Context).isSome) h.2
  simp only [List.getElem?_map, Option.getD_map (f := Option.isSome)] at this
  simpa [State.ctx, regGet, List.getD_eq_getElem?_getD] using this

theorem shapeKept_setCtx {s : State} {slot : Nat} {c : Context} (hc : s.ctx slot = some c) (c' : Context) : ShapeKept s (s.setCtx slot c') := by
  refine ⟨rfl, List.ext_getElem? fun j => ?_⟩
  rw [State.ctx, regGet, List.getD_eq_getElem?_getD] at hc
  by_cases hj : slot = j
  · subst hj
    cases hs : s.ctxs[slot]? with
    | none => simp [hs] at hc
    | some o =>
      obtain rfl : o = some c := by simpa [hs] using hc
      obtain ⟨hlt, hget⟩ := List.getElem?_eq_some_iff.mp hs
      simp [State.setCtx, regSet, hlt, hget]
  · simp [State.setCtx, regSet, List.getElem?_set_ne hj]

theorem shapeKept_modCtx (s : State) (slot : Nat) (f : Context → Context) : ShapeKept s (s.modCtx slot f) := by
  unfold State.modCtx
  split
  · next c hc => exact shapeKept_setCtx hc _
  · exact .refl s

theorem shapeKept_modDie (s : State) (d : Nat) {f : Die → Die} (h : ∀ x, (f x).slots.length = x.slots.length) : ShapeKept s (s.modDie d f) := by
  refine ⟨List.ext_getElem? fun j => ?_, rfl⟩
  simp only [State.modDie, List.getElem?_map, getElem?_regMod]
  split
  · cases s.dies[j]? <;> simp [h]
  · rfl

theorem shapeKept_modSlotRegs (s : State) (d slot : Nat) (f : SlotRegs → SlotRegs) : ShapeKept s (s.modSlotRegs d slot f) :=
  shapeKept_modDie s d fun _ => length_regMod

end Sys2Proof.Machine
end

section
/-! SUPPORT. A park's request (R276, R277): a TIMER that is due is taken first (R267), which may write a fault record but ends no context. -/

namespace Sys2Proof.Machine

open Sys2Proof

/-! ## What taking a TIMER leaves -/

theorem shapeKept_modGroup (s : State) (r : GroupRef) (f : Group → Group) : ShapeKept s (s.modGroup r f) := shapeKept_modCtx s _ _

theorem shapeKept_modSplit (s : State) (r : SplitRef) (f : Split → Split) : ShapeKept s (s.modSplit r f) := shapeKept_modGroup s _ _

theorem shapeKept_notice (s : State) (b : Nat) : ShapeKept s (s.notice b) := (slotsKept_notice s b).shapeKept (ctxs_notice s b)

theorem shapeKept_homeWrite (s : State) (pa : Nat) (bs : List Byte) : ShapeKept s (s.homeWrite pa bs) :=
  (slotsKept_homeWrite s pa bs).shapeKept (homeOnly_homeWrite s pa bs).ctxs

theorem shapeKept_ringRecord (s : State) (slot d : Nat) (ws : List DWord) : ShapeKept s (s.ringRecord slot d ws) := by
  unfold State.ringRecord
  dsimp only
  split
  · exact (shapeKept_modSlotRegs s _ slot _).trans (shapeKept_of_dies rfl rfl)
  · exact ((shapeKept_homeWrite s _ _).trans (shapeKept_modSlotRegs _ _ slot _)).trans (shapeKept_notice _ 1)

theorem shapeKept_nextSeq (s : State) (d chan : Nat) : ShapeKept s (s.nextSeq d chan).2 := shapeKept_modDie s d fun _ => rfl

theorem shapeKept_record (s : State) (slot : Nat) (a : RecordArgs) : ShapeKept s (s.record slot a).2 :=
  (shapeKept_nextSeq s a.die a.chan).trans (shapeKept_ringRecord _ _ _ _)

theorem shapeKept_spreadHalt (s : State) (slot recNum inst : Nat) (lcid die : Option Nat) (seq : BitVec 32) :
    ShapeKept s (s.spreadHalt slot recNum inst lcid die seq) := by
  unfold State.spreadHalt
  split
  · exact .refl s
  · next c hc =>
    refine (shapeKept_setCtx hc _).trans (shapeKept_foldl (fun acc r => ?_) _ _)
    split
    · exact .refl acc
    · split
      · exact .refl acc
      · exact shapeKept_modSplit acc r _

theorem shapeKept_fatal (s : State) (r : SplitRef) (act : Mask) (e : Exc) (unhandled nested : Bool) :
    ShapeKept s (s.fatal r act e unhandled nested) := by
  unfold State.fatal
  split
  · exact .refl s
  · exact ((shapeKept_record s _ _).trans (shapeKept_modGroup _ _ _)).trans (shapeKept_spreadHalt _ _ _ _ _ _ _)

theorem shapeKept_traceFlow (s : State) (r : SplitRef) (pc target : DWord) : ShapeKept s (s.traceFlow r pc target) := by
  unfold State.traceFlow State.traceAt State.trace
  split
  · exact shapeKept_modSlotRegs s _ _ _
  · exact .refl s

theorem shapeKept_userTrap {s0 s : State} (h : ShapeKept s0 s) (r : SplitRef) (act : Mask) (e : Exc) : ShapeKept s0 (s0.userTrap s r act e) := by
  unfold State.userTrap
  split
  · exact h
  · split
    · exact h.trans (shapeKept_fatal _ _ _ _ _ _)
    · split
      · exact h.trans (shapeKept_fatal _ _ _ _ _ _)
      · split
        · exact shapeKept_modSplit s0 r _
        · dsimp only
          generalize hu : (s.setGroup r.group _).traceFlow r _ _ = u
          have henter : ShapeKept s0 u := hu ▸ (h.trans (shapeKept_modGroup s r.group _)).trans (shapeKept_traceFlow _ r _ _)
          split
          · exact henter
          · exact (henter.trans (shapeKept_modGroup _ _ _)).trans (shapeKept_fatal _ _ _ _ _ _)

theorem shapeKept_takeTimer (s : State) (r : SplitRef) (g : Group) : ShapeKept s (s.takeTimer r g) := by
  unfold State.takeTimer
  dsimp only
  generalize hs0 : s.modGroup r.group _ = s0
  have hraise : ShapeKept s (s0.raise s0 r (g.split r.k).mask (Exc.plain .timer 0)) :=
    (hs0 ▸ shapeKept_modGroup s _ _ : ShapeKept s s0).trans
      (shapeKept_userTrap (s0 := s0) (s := s0.remoteDone (.split r)) (shapeKept_of_dies rfl rfl) _ _ _)
  split
  · split
    · exact (hraise.trans (shapeKept_modGroup _ _ _)).trans (shapeKept_modSplit _ _ _)
    · exact hraise
  · exact hraise

theorem shapeKept_timersFirst (s : State) (slot : Nat) (l : List Nat) : ShapeKept s (s.timersFirst slot l) := by
  unfold State.timersFirst
  split
  · exact .refl s
  · refine shapeKept_foldl (fun acc r => ?_) _ s
    split
    · split
      · exact shapeKept_takeTimer acc r _
      · exact .refl acc
    · exact .refl acc

/-! ## No TIMER is due -/

theorem takesTimer_of_not_pends {g : Group} (h : g.timerPends = false) (k : Nat) : g.takesTimer k = false := by
  rw [Group.takesTimer, h, Bool.false_and]

theorem slot_of_mem_splitRefs {c : Context} {slot : Nat} {r : SplitRef} (h : r ∈ c.splitRefs slot) : r.slot = slot := by
  obtain ⟨x, -, hr⟩ := List.mem_flatMap.mp h
  obtain ⟨k, -, rfl⟩ := List.mem_map.mp hr
  rfl

theorem mem_insertBy {α : Type} (key : α → Nat) (x : α) (l : List α) (y : α) : y ∈ insertBy key x l ↔ y = x ∨ y ∈ l := by
  induction l with
  | nil => simp [insertBy]
  | cons z l ih =>
    unfold insertBy
    split
    · simp
    · simp [ih, or_left_comm]

theorem mem_sortBy {α : Type} (key : α → Nat) (l : List α) (y : α) : y ∈ sortBy key l ↔ y ∈ l := by
  induction l with
  | nil => rfl
  | cons x l ih => rw [sortBy, mem_insertBy, ih, List.mem_cons]

/-- A fold whose steps all keep a state ends in it. -/
theorem foldl_eq_self {α β : Type} {f : α → β → α} {a : α} {l : List β} (h : ∀ b ∈ l, f a b = a) : l.foldl f a = a := by
  induction l with
  | nil => rfl
  | cons b l ih =>
    rw [List.foldl_cons, h b List.mem_cons_self]
    exact ih fun x hx => h x (List.mem_cons_of_mem _ hx)

theorem timersFirst_of_none_pends {s : State} {slot : Nat}
    (h : ∀ q g, q.slot = slot → s.group? q = some g → g.timerPends = false) (l : List Nat) : s.timersFirst slot l = s := by
  unfold State.timersFirst
  split
  · rfl
  · refine foldl_eq_self fun r hr => ?_
    have hslot : r.slot = slot := slot_of_mem_splitRefs (List.mem_filter.mp ((mem_sortBy _ _ _).mp hr)).1
    split
    · next g hg => rw [takesTimer_of_not_pends (h r.group g hslot hg)]; simp
    · rfl

/-! ## The request -/

/-- R276: a request that is not refused stops the context, after the TIMERs that are due. -/
theorem parkRequest_accepted {s : State} {die slot : Nat} {c : Context} (hk : s.clocked = true) (hc : s.ctx slot = some c) (hj : c.joinDie = die)
    (hb : (s.parkRegs die slot).busy = false) (hp : c.park = .none) (hd : c.destroying = false) :
    s.parkRequest die slot = ((s.timersFirst slot (List.range c.lcs.length)).modPark die slot (fun r =>
      { r with busy := true, status := 0, src := 1, op := 1 })).modCtx slot (fun c => { c with park := .stopping, parkSrc := 1 }) := by
  unfold State.parkRequest State.parkBegin
  simp [hc, hk, hj, hb, hp, hd]

theorem parkRequest_does {s : State} {die slot : Nat} {c : Context} (hk : s.clocked = true) (hs : s.HasSlot die slot) (hc : s.ctx slot = some c)
    (hj : c.joinDie = die) (hb : (s.parkRegs die slot).busy = false) (hp : c.park = .none) (hd : c.destroying = false) :
    let t := s.parkRequest die slot
    (t.parkRegs die slot).busy = true ∧ (t.parkRegs die slot).status = 0 ∧ ∃ y, t.ctx slot = some y ∧ y.park = .stopping ∧ y.parkSrc = 1 ∧
      ((∀ q g, q.slot = slot → s.group? q = some g → g.timerPends = false) → t.mem = s.mem ∧ y.groups = c.groups) := by
  rw [parkRequest_accepted hk hc hj hb hp hd]
  generalize hu : s.timersFirst slot (List.range c.lcs.length) = u
  have hshape : ShapeKept s u := hu ▸ shapeKept_timersFirst s slot _
  obtain ⟨y, hy⟩ : ∃ y, u.ctx slot = some y := Option.isSome_iff_exists.mp (by rw [hshape.isSome_ctx, hc]; rfl)
  have hregs := parkRegs_modPark (hshape.hasSlot hs) (fun r => { r with busy := true, status := 0, src := 1, op := 1 })
  intro t
  have htregs : t.parkRegs die slot = _ := (parkRegs_of_dies (State.modCtx_dies _ _ _) die slot).trans hregs
  refine ⟨by rw [htregs], by rw [htregs], { y with park := .stopping, parkSrc := 1 }, ?_, rfl, rfl, fun hnone => ?_⟩
  · exact (ctx_modCtx_same _ slot _).trans (congrArg (Option.map _) hy)
  · obtain rfl : s = u := (timersFirst_of_none_pends hnone _).symm.trans hu
    obtain rfl : c = y := Option.some.inj (hc.symm.trans hy)
    exact ⟨State.modCtx_mem _ _ _, rfl⟩

end Sys2Proof.Machine
end

section
/-! SUPPORT. A park's capture (R277, R278): the image goes to its home, and the slot is freed. -/

namespace Sys2Proof.Machine

open Sys2Proof

/-! ## A context that leaves its slot -/

theorem slots_advanceHead (d : Die) : d.advanceHead.slots = d.slots := by
  unfold Die.advanceHead
  split <;> rfl

theorem slots_withdraw (mine : Waiter → Bool) (d : Die) : (d.withdraw mine).slots = d.slots := slots_advanceHead _

theorem slotsKept_unplace (s : State) (slot lcid : Nat) : SlotsKept s (s.unplace slot lcid) := by
  unfold State.unplace
  split
  · rfl
  · exact (slotsKept_of_dies (State.modLc_dies _ _ _ _)).trans (slotsKept_modDie _ _ fun _ => rfl)

theorem mem_unplace (s : State) (slot lcid : Nat) : (s.unplace slot lcid).mem = s.mem := by
  unfold State.unplace
  split
  · rfl
  · exact State.modLc_mem _ _ _ _

theorem mem_foldl_unplace (slot : Nat) (l : List Nat) (s : State) : (l.foldl (fun acc i => acc.unplace slot i) s).mem = s.mem := by
  induction l generalizing s with
  | nil => rfl
  | cons i l ih => exact (ih _).trans (mem_unplace s slot i)

theorem slotsKept_freeContext (s : State) (slot : Nat) : SlotsKept s (s.freeContext slot) := by
  unfold State.freeContext
  split
  · rfl
  · dsimp only
    generalize hu : (List.range _).foldl _ s = u
    have hlcs : SlotsKept s u := hu ▸ slotsKept_foldl (fun t i => slotsKept_unplace t slot i) _ s
    refine hlcs.trans ?_
    simp [SlotsKept, Function.comp_def, slots_withdraw, Die.dropPages]

theorem mem_freeContext (s : State) (slot : Nat) : (s.freeContext slot).mem = s.mem := by
  unfold State.freeContext
  split
  · rfl
  · exact mem_foldl_unplace slot _ s

theorem regGet_none_regSet_none (l : List (Option Context)) (i : Nat) : regGet none (regSet l i none) i = none := by
  rcases Nat.lt_or_ge i l.length with h | h
  · exact regGet_regSet_same h
  · simp [regGet, regSet, List.getD_eq_getElem?_getD, h]

theorem ctx_freeContext (s : State) (slot : Nat) : (s.freeContext slot).ctx slot = none := by
  unfold State.freeContext
  split
  · assumption
  · exact regGet_none_regSet_none _ slot

/-! ## The capture -/

section Capture

variable {s s1 s2 : State} {die slot : Nat} {c c1 : Context} {peers : List (List Byte)}

/-- R278: a quiet and drained context is captured, unless its image does not fit. -/
theorem parkCapture_eq (hk : s.clocked = true) (hc : s.ctx slot = some c) (hp : c.park = .draining) (hd : c.drains = [])
    (hq : s.stopQuiet slot c = true) (hcp : c.copiesQuiet slot = true) (ht : c.transit = [])
    (h1 : s1 = ((s.releaseStop slot).arriveAll slot).endBanks slot) (hc1 : s1.ctx slot = some c1)
    (h2 : s1.peerCopies slot (s1.peersOf slot) = some (peers, s2)) :
    let img := s2.image slot c1 peers
    let r := s.parkRegs c.joinDie slot
    s.parkCapture slot = if r.size = 0 ∨ r.size.toNat < img.length then s.parkFails slot c
      else (((s2.homeWrite r.addr.toNat img).freeContext slot).modPark c.joinDie slot (fun r =>
        { r with busy := false, status := 0, len := BitVec.ofNat 64 img.length })).notice 2 := by
  unfold State.parkCapture
  rw [hc]
  dsimp only
  rw [if_neg (by simp [hk, hp, hd, hq, hcp, ht]), ← h1, hc1, h2]

theorem parkFails_does (hs : s.HasSlot c.joinDie slot) (hc : s.ctx slot = some c) :
    let t := s.parkFails slot c
    t.mem = s.mem ∧ (t.parkRegs c.joinDie slot).busy = false ∧ (t.parkRegs c.joinDie slot).status = 1 ∧
      ∃ y, t.ctx slot = some y ∧ y.park = .none := by
  intro t
  let u := s.setCtx slot { c.pastPark s.cycles with park := .none, drains := [] }
  have hregs : t.parkRegs c.joinDie slot = { s.parkRegs c.joinDie slot with busy := false, status := 1 } :=
    (parkRegs_notice _ _ _ _).trans (parkRegs_modPark (s := u) hs _)
  refine ⟨State.notice_mem _ _, by rw [hregs], by rw [hregs], { c.pastPark s.cycles with park := .none, drains := [] }, ?_, rfl⟩
  exact (ctx_of_ctxs (ctxs_notice _ _) slot).trans (ctx_setCtx_same hc)

theorem captured_does {img : List Byte} {addr : Nat} {x : Byte} (hs : s2.HasSlot die slot) (hm : s2.MemoryOk)
    (hfit : addr + img.length ≤ Config.physBytes) :
    let t := (((s2.homeWrite addr img).freeContext slot).modPark die slot (fun r =>
      { r with busy := false, status := 0, len := BitVec.ofNat 64 img.length })).notice 2
    t.ctx slot = none ∧ (t.parkRegs die slot).busy = false ∧ (t.parkRegs die slot).status = 0 ∧
      (t.parkRegs die slot).len = BitVec.ofNat 64 img.length ∧ ∀ i, img[i]? = some x → Cells.get t.mem (addr + i) = x := by
  generalize hu : (s2.homeWrite addr img).freeContext slot = u
  intro t
  have hkept : SlotsKept s2 u := hu ▸ (slotsKept_homeWrite s2 addr img).trans (slotsKept_freeContext _ slot)
  have hregs : t.parkRegs die slot = { u.parkRegs die slot with busy := false, status := 0, len := BitVec.ofNat 64 img.length } :=
    (parkRegs_notice _ _ _ _).trans (parkRegs_modPark (hkept.hasSlot hs) _)
  have hmem : t.mem = (s2.homeWrite addr img).mem := (State.notice_mem _ _).trans (hu ▸ mem_freeContext _ slot)
  refine ⟨(ctx_of_ctxs (ctxs_notice _ _) slot).trans (hu ▸ ctx_freeContext _ slot), by rw [hregs], by rw [hregs], by rw [hregs], fun i hi => ?_⟩
  obtain ⟨hlt, -⟩ := List.getElem?_eq_some_iff.mp hi
  rw [hmem, get_homeWrite hm hfit, if_pos (by omega), Nat.add_sub_cancel_left, hi, Option.getD_some]

end Capture

end Sys2Proof.Machine
end

section
/-! SUPPORT. A resume (R287 to R290): what its request leaves where it fails, and where it restores the context, and its end. -/

namespace Sys2Proof.Machine

open Sys2Proof

/-! ## A resume that fails -/

section Fails

variable {s u : State} {die slot : Nat}

theorem resumeFails_does (hu : SlotsKept s u) (hs : s.HasSlot die slot) (hb : (s.parkRegs die slot).busy = false) (status len : Nat) :
    let t := u.resumeFails die slot status len
    t.ctxs = u.ctxs ∧ t.mem = u.mem ∧ (t.parkRegs die slot).busy = false ∧ (t.parkRegs die slot).status = status := by
  intro t
  have hregs : t.parkRegs die slot = { s.parkRegs die slot with op := 2, src := 1, status := status, len := BitVec.ofNat 64 len } := by
    rw [← hu.parkRegs]
    exact (parkRegs_notice _ _ _ _).trans (parkRegs_modPark (hu.hasSlot hs) _)
  exact ⟨ctxs_notice _ _, State.notice_mem _ _, by rw [hregs]; exact hb, by rw [hregs]⟩

/-- R161: a resume that meets an uncorrectable sector reports a failure (log 33). -/
theorem resumeEcc_does (hu : HomeOnly s u) (hk : SlotsKept s u) (hs : s.HasSlot die slot) (hb : (s.parkRegs die slot).busy = false) (len : Nat)
    (e : Exc) :
    let t := u.resumeEcc die slot len e
    t.ctxs = s.ctxs ∧ (t.parkRegs die slot).busy = false ∧ (t.parkRegs die slot).status ≠ 0 := by
  have hlog : SlotsKept s (u.logEcc 0 die none e).draw.2 := hk.trans (slotsKept_logEcc u 0 die none e)
  obtain ⟨hctxs, -, hbusy, hstatus⟩ := resumeFails_does hlog hs hb (1 + Config.eccStatus (u.logEcc 0 die none e).draw.1 % 6) len
  exact ⟨hctxs.trans ((deviceOnly_logEcc u 0 die none e).ctxs.trans hu.ctxs), hbusy, fun h => by have := hstatus.symm.trans h; omega⟩

end Fails

/-! ## A resume that restores -/

theorem mapDies_draws (s : State) (l : List Nat) : ∃ n, (s.mapDies l).2 = { s with freeCtr := n } := by
  induction l generalizing s with
  | nil => exact ⟨s.freeCtr, rfl⟩
  | cons g l ih =>
    obtain ⟨n, h⟩ := ih s.draw.2
    exact ⟨n, h⟩

theorem restore_fails {s : State} {die slot len : Nat} {b : List Byte} (h : imageStatus (s.parkRegs die slot).size.toNat b ≠ 0) :
    s.restore die slot len b = s.resumeFails die slot (imageStatus (s.parkRegs die slot).size.toNat b) len := if_pos h

/-- R288, R289: the context takes its own slot where that is free, and is captured there until RESUME_END. -/
theorem restore_eq {s : State} {die slot len : Nat} {b : List Byte} (h8 : slot < 8)
    (h : imageStatus (s.parkRegs die slot).size.toNat b = 0) (hc : s.ctx slot = none) :
    ∃ n c, c.park = .captured ∧ c.joinDie = die ∧ s.restore die slot len b =
      (({ s with freeCtr := n, ctxs := regSet s.ctxs slot (some c) } : State).modPark die slot (fun r =>
        { r with busy := true, status := 0, op := 2, src := 1, rslot := slot, len := BitVec.ofNat 64 len })).modSlotRegs die slot (fun x =>
          { x with fring := { x.fring with base := word64 (b.take len) 0x48 } }) := by
  obtain ⟨n, hmap⟩ := mapDies_draws s (hdDieGrps (b.take len)).dedup
  have hslot : s.resumeSlot slot = some slot := if_pos ⟨by rw [hc]; rfl, h8⟩
  refine ⟨n, restoredContext s.cycles slot die (s.parkRegs die slot).root.toNat (s.parkRegs die slot).pbtab.toNat
    (dieIn (s.mapDies (hdDieGrps (b.take len)).dedup).1) (b.take len), rfl, rfl, ?_⟩
  unfold State.restore
  dsimp only
  rw [if_neg (not_not_intro h), hslot]
  dsimp only
  rw [hmap]

theorem restore_does {s : State} {die slot len : Nat} {b : List Byte} (hs : s.HasSlot die slot) (h8 : slot < 8) (hl : s.ctxs.length = 8)
    (h : imageStatus (s.parkRegs die slot).size.toNat b = 0) (hc : s.ctx slot = none) :
    let t := s.restore die slot len b
    t.mem = s.mem ∧ (t.parkRegs die slot).busy = true ∧ (t.parkRegs die slot).rslot = slot ∧
      ∃ y, t.ctx slot = some y ∧ y.park = .captured ∧ y.joinDie = die := by
  obtain ⟨n, c, hpark, hjoin, heq⟩ := restore_eq (len := len) h8 h hc
  rw [heq]
  intro t
  have hregs := congrArg SlotRegs.park (slot_modSlotRegs_modSlotRegs_same (s := { s with freeCtr := n, ctxs := regSet s.ctxs slot (some c) })
    hs.1 hs.2 (fun x => { x with park := { x.park with busy := true, status := 0, op := 2, src := 1, rslot := slot, len := BitVec.ofNat 64 len } })
    (fun x => { x with fring := { x.fring with base := word64 (b.take len) 0x48 } }))
  exact ⟨rfl, congrArg ParkRegs.busy hregs, congrArg ParkRegs.rslot hregs, c, regGet_regSet_same (hl ▸ h8), hpark, hjoin⟩

/-! ## The request -/

section Request

variable {s : State} {die slot : Nat}

theorem resumeRequest_header_ecc (hk : s.clocked = true) (hd : die < 8) (hs : slot < 8) (hb : (s.parkRegs die slot).busy = false) {e : Exc} :
    let r := s.parkRegs die slot
    let first := s.homeAccess r.addr.toNat 0x1000 false
    first.eccOf r.addr.toNat 0x1000 = some e → s.resumeRequest die slot = first.resumeEcc die slot r.len.toNat e := by
  intro r first he
  unfold State.resumeRequest
  dsimp only
  rw [if_neg (by simp [hk, hb, hd, hs]), he]

theorem resumeRequest_restores {first both : State} {head : List Byte} {n : Nat} (hk : s.clocked = true) (hd : die < 8) (hs : slot < 8)
    (hb : (s.parkRegs die slot).busy = false) (hfirst : s.homeAccess (s.parkRegs die slot).addr.toNat 0x1000 false = first)
    (hhead : first.read (s.parkRegs die slot).addr.toNat 0x1000 = head) (hn : min (word head 8) (s.parkRegs die slot).size.toNat - 0x1000 = n)
    (hboth : (if n = 0 then first else first.homeAccess ((s.parkRegs die slot).addr.toNat + 0x1000) n false) = both)
    (hnone : first.eccOf (s.parkRegs die slot).addr.toNat 0x1000 = none)
    (hrest : n = 0 ∨ both.eccOf ((s.parkRegs die slot).addr.toNat + 0x1000) n = none) :
    s.resumeRequest die slot =
      both.restore die slot (word head 8) (head ++ both.read ((s.parkRegs die slot).addr.toNat + 0x1000) n) := by
  have hecc : (if n = 0 then none else both.eccOf ((s.parkRegs die slot).addr.toNat + 0x1000) n) = none := by
    split
    · rfl
    · next h => exact hrest.resolve_left h
  unfold State.resumeRequest
  dsimp only
  rw [if_neg (by simp [hk, hb, hd, hs]), hfirst, hhead, hn, hboth, hnone]
  dsimp only
  rw [hecc]

theorem resumeRequest_does (hk : s.clocked = true) (hd : die < 8) (h8 : slot < 8) (hs : s.HasSlot die slot) (hl : s.ctxs.length = 8)
    (hb : (s.parkRegs die slot).busy = false) :
    let r := s.parkRegs die slot
    let first := s.homeAccess r.addr.toNat 0x1000 false
    let head := first.read r.addr.toNat 0x1000
    let n := min (word head 8) r.size.toNat - 0x1000
    let both := if n = 0 then first else first.homeAccess (r.addr.toNat + 0x1000) n false
    let whole := head ++ both.read (r.addr.toNat + 0x1000) n
    let t := s.resumeRequest die slot
    (∀ e, first.eccOf r.addr.toNat 0x1000 = some e → t.ctxs = s.ctxs ∧ (t.parkRegs die slot).busy = false ∧ (t.parkRegs die slot).status ≠ 0) ∧
    (first.eccOf r.addr.toNat 0x1000 = none → n = 0 ∨ both.eccOf (r.addr.toNat + 0x1000) n = none →
      (imageStatus r.size.toNat whole ≠ 0 → t.ctxs = s.ctxs ∧ t.mem = both.mem ∧ (t.parkRegs die slot).busy = false ∧
        (t.parkRegs die slot).status = imageStatus r.size.toNat whole) ∧
      (imageStatus r.size.toNat whole = 0 → s.ctx slot = none → t.mem = both.mem ∧ (t.parkRegs die slot).busy = true ∧
        (t.parkRegs die slot).rslot = slot ∧ ∃ y, t.ctx slot = some y ∧ y.park = .captured ∧ y.joinDie = die)) := by
  intro r first head n both whole t
  have hfirst : SlotsKept s first := slotsKept_homeAccess s _ _ _
  have hhome : HomeOnly s first := homeOnly_homeAccess s _ _ _
  refine ⟨fun e he => ?_, fun hnone hrest => ?_⟩
  · rw [show t = _ from resumeRequest_header_ecc hk hd h8 hb he]
    exact resumeEcc_does hhome hfirst hs hb _ e
  · have hboth : SlotsKept s both ∧ HomeOnly s both := by
      dsimp only [both]
      split
      · exact ⟨hfirst, hhome⟩
      · exact ⟨hfirst.trans (slotsKept_homeAccess _ _ _ _), hhome.trans (homeOnly_homeAccess _ _ _ _)⟩
    obtain ⟨hkept, hbh⟩ := hboth
    have hregs : both.parkRegs die slot = r := hkept.parkRegs die slot
    have ht : t = both.restore die slot (word head 8) whole := resumeRequest_restores hk hd h8 hb rfl rfl rfl rfl hnone hrest
    refine ⟨fun hbad => ?_, fun hgood hfree => ?_⟩
    · rw [ht, restore_fails (by rw [hregs]; exact hbad), hregs]
      obtain ⟨hctxs, hmem, hbusy, hstatus⟩ := resumeFails_does hkept hs hb (imageStatus r.size.toNat whole) (word head 8)
      exact ⟨hctxs.trans hbh.ctxs, hmem, hbusy, hstatus⟩
    · rw [ht]
      exact restore_does (hkept.hasSlot hs) h8 (by rw [hbh.ctxs]; exact hl) (by rw [hregs]; exact hgood)
        ((ctx_of_ctxs hbh.ctxs slot).trans hfree)

end Request

/-! ## The end -/

/-- R289, R290: the context runs, its meridian goes on from what the image holds, and a resume marker leaves on every port that is up. -/
theorem resumeEnd_does {s : State} {die slot : Nat} {c : Context} (hk : s.clocked = true) (hs : s.HasSlot die slot)
    (hc : s.ctx (s.parkRegs die slot).rslot = some c) (hj : c.joinDie = die) (hr : s.restores die slot (s.parkRegs die slot).rslot = true)
    (hp : c.park = .captured) (hi : c.insts = []) :
    let k := (s.parkRegs die slot).rslot
    let t := s.resumeEnd die slot
    t.mem = s.mem ∧ (t.parkRegs die slot).busy = false ∧ t.linkOut = s.linkOut ++ s.upPorts.map (fun q => .resumeMarker q k) ∧
      ∃ y, t.ctx k = some y ∧ y.park = .none ∧ s.meridian + y.merOff = c.merOff := by
  intro k t
  let u : State := { s.setCtx k { c with park := .none, merOff := c.merOff - s.meridian } with
    linkOut := s.linkOut ++ s.upPorts.map (fun q => .resumeMarker q k) }
  have hnone (v : State) : c.insts.foldl (fun acc i => acc.heldRecord (s.parkRegs die slot).rslot i) v = v := by
    rw [hi]
    rfl
  have ht : t = (u.modPark die slot (fun x => { x with busy := false })).notice 2 := by
    dsimp only [t]
    unfold State.resumeEnd
    dsimp only
    rw [hc]
    dsimp only
    rw [if_neg (by simp [hk, hr, hp, hj]), hnone]
    rfl
  have hregs : t.parkRegs die slot = { s.parkRegs die slot with busy := false } := by
    rw [ht]
    exact (parkRegs_notice _ _ _ _).trans (parkRegs_modPark (s := u) hs _)
  refine ⟨?_, by rw [hregs], ?_, { c with park := .none, merOff := c.merOff - s.meridian }, ?_, rfl, ?_⟩
  · rw [ht]; exact State.notice_mem _ _
  · rw [ht]; exact (deviceOnly_notice _ 2).linkOut
  · rw [ht]; exact (ctx_of_ctxs (ctxs_notice _ _) k).trans (ctx_setCtx_same hc)
  · exact add_sub_cancel _ _

end Sys2Proof.Machine
end

section
/-! SUPPORT. Contexts that the host makes and ends (R293): CREATE, DESTROY and the end of a command. -/

namespace Sys2Proof.Machine

open Sys2Proof

/-! ## What CREATE answers -/

/-- R161: a create that meets an uncorrectable sector reports a failure (log 33), and makes no context. -/
theorem createEcc_fails (v : State) (e : Exc) :
    (v.createEcc e).1 ≠ 0 ∧ (v.createEcc e).2.1 = v.pkg.cmdSlot ∧ (v.createEcc e).2.2.ctxs = v.ctxs := by
  refine ⟨?_, rfl, (deviceOnly_logEcc v 0 0 none e).ctxs⟩
  show regGet 4 [1, 2, 4] _ ≠ 0
  generalize Config.eccStatus _ % 3 = k
  match k with
  | 0 | 1 | 2 => decide
  | k + 3 => simp [regGet]

theorem createWith_bad {v : State} {b : List Byte} {dgs : List Nat} (h : createBad b dgs = true) :
    v.createWith b dgs = (2, v.pkg.cmdSlot, v) := if_pos h

theorem createWith_full {v : State} {b : List Byte} {dgs : List Nat} (h : createBad b dgs = false)
    (hfull : ∀ k, k < 8 → (v.ctx k).isSome = true) : v.createWith b dgs = (1, v.pkg.cmdSlot, v) := by
  have hnone : (List.range 8).find? (fun k => (v.ctx k).isNone) = none := by
    simpa [List.find?_eq_none, Option.isSome_iff_ne_none] using hfull
  unfold State.createWith
  rw [if_neg (by simp [h]), hnone]

theorem createWith_free {v : State} {b : List Byte} {dgs : List Nat} {slot : Nat} (h : createBad b dgs = false) (h8 : slot < 8)
    (hfree : v.ctx slot = none) (hless : ∀ k, k < slot → (v.ctx k).isSome = true) :
    ∃ lcs n, lcs.map LogicalCore.dieGrp = dgs ∧ v.createWith b dgs =
      (0, slot, { v with freeCtr := n, ctxs := regSet v.ctxs slot (some ((newContext b lcs).launchRoot (word64 b 48))) }) := by
  obtain ⟨n, hmap⟩ := mapDies_draws v dgs.dedup
  have hslot : (List.range 8).find? (fun k => (v.ctx k).isNone) = some slot := by
    rw [List.find?_range_eq_some]
    refine ⟨by simp [hfree], List.mem_range.mpr h8, fun k hk => ?_⟩
    simpa using hless k hk
  refine ⟨dgs.map (fun g => emptyLc g (dieIn (v.mapDies dgs.dedup).1 g)), n, by simp [Function.comp_def, emptyLc], ?_⟩
  unfold State.createWith
  rw [if_neg (by simp [h]), hslot]
  dsimp only
  rw [hmap]

/-- What a create needs ready (R294). -/
def State.createReady (s : State) (b : List Byte) (n : Nat) : Bool :=
  s.readyBit rdyFw && s.readyBit (rdyDie (crJoin (leNat b))) && s.stackReady (crRoot b) 0x4000 && s.stackReady (word b 56) (max 1 (2 * n)) &&
    s.descReady (crRoot b) (word64 b 48)

section Create

variable {s u v : State} {b : List Byte} {n : Nat} (hu : s.homeAccess s.pkg.crec.toNat 64 false = u)

include hu in
theorem create_record_ecc {e : Exc} (h : u.eccOf s.pkg.crec.toNat 64 = some e) : s.create = u.createEcc e := by
  unfold State.create
  dsimp only
  rw [hu, h]

variable (hb : u.read s.pkg.crec.toNat 64 = b) (hn : crNlc (leNat b) = n)
  (hv : (if n = 0 then u else u.homeAccess (word b 56) (2 * n) false) = v) (hecc : u.eccOf s.pkg.crec.toNat 64 = none)

include hu hb hn hecc

theorem create_not_ready (hr : u.createReady b n = false) : s.create = (4, u.pkg.cmdSlot, u) := by
  unfold State.create
  dsimp only
  rw [hu, hb, hn, hecc]
  dsimp only
  rw [if_pos (by simpa only [State.createReady, ← Bool.not_and, Bool.not_eq_true'] using hr)]

include hv

theorem create_map_ecc {e : Exc} (hr : u.createReady b n = true) (h0 : n ≠ 0) (h : v.eccOf (word b 56) (2 * n) = some e) :
    s.create = v.createEcc e := by
  unfold State.create
  dsimp only
  rw [hu, hb, hn, hv, hecc]
  dsimp only
  rw [if_neg (by simpa only [State.createReady, ← Bool.not_and, Bool.not_eq_true', Bool.not_eq_false] using hr), if_neg h0, h]

theorem create_reads (hr : u.createReady b n = true) (h : n = 0 ∨ v.eccOf (word b 56) (2 * n) = none) :
    s.create = v.createWith b ((List.range n).map (fun i => v.readNat (word b 56 + 2 * i) 2)) := by
  have hnone : (if n = 0 then none else v.eccOf (word b 56) (2 * n)) = none := by
    split
    · rfl
    · next h0 => exact h.resolve_left h0
  unfold State.create
  dsimp only
  rw [hu, hb, hn, hv, hecc]
  dsimp only
  rw [if_neg (by simpa only [State.createReady, ← Bool.not_and, Bool.not_eq_true', Bool.not_eq_false] using hr), hnone]

end Create

end Sys2Proof.Machine
end

section
/-! SUPPORT. The commands of a host on contexts (R293): their STATUS, what they leave, and their end. -/

namespace Sys2Proof.Machine

open Sys2Proof

/-! ## CREATE -/

theorem readyBit_of_pkg {s t : State} (h : t.pkg = s.pkg) (n : Nat) : t.readyBit n = s.readyBit n := by rw [State.readyBit, h, State.readyBit]

theorem stackReady_of_pkg {s t : State} (h : t.pkg = s.pkg) (pa n : Nat) : t.stackReady pa n = s.stackReady pa n := by
  simp only [State.stackReady, readyBit_of_pkg h]

/-- R294: the READY bits are those of before the record is read; only the descriptor's place is looked up after it. -/
theorem createReady_of_pkg {s u : State} (h : u.pkg = s.pkg) (b : List Byte) (n : Nat) :
    u.createReady b n = (s.readyBit 3 && s.readyBit (4 + leNat b / 2 ^ 12 % 8) && s.stackReady (word b 32) 0x4000 &&
      s.stackReady (word b 56) (max 1 (2 * n)) && u.descReady (word b 32) (word64 b 48)) := by
  rw [State.createReady, readyBit_of_pkg h, readyBit_of_pkg h, stackReady_of_pkg h, stackReady_of_pkg h]
  rfl

section Commands

variable {s : State} (hk : s.clocked = true) (hrun : s.pkg.cmdRun = none)

include hk hrun

theorem contextCreate_eq : s.contextCreate = s.create.2.2.modPkg (fun p =>
    { p with cmdRun := some (1, s.create.2.1), cmdOp := 1, cmdStatus := s.create.1, cmdSlot := s.create.2.1 }) := if_neg (by simp [hk, hrun])

/-- A create that makes nothing reports its STATUS with the slot of the command before. -/
theorem contextCreate_refused {v : State} (hv : HomeOnly s v) (hslot : s.create.2.1 = v.pkg.cmdSlot) (hctxs : s.create.2.2.ctxs = v.ctxs) :
    let t := s.contextCreate
    t.ctxs = s.ctxs ∧ t.pkg.cmdStatus = s.create.1 ∧ t.pkg.cmdRun = some (1, s.pkg.cmdSlot) := by
  rw [contextCreate_eq hk hrun]
  refine ⟨hctxs.trans hv.ctxs, rfl, ?_⟩
  rw [← hv.pkg, ← hslot]
  rfl

theorem contextCreate_ecc {v : State} (hv : HomeOnly s v) {e : Exc} (h : s.create = v.createEcc e) :
    let t := s.contextCreate
    t.ctxs = s.ctxs ∧ t.pkg.cmdStatus ≠ 0 ∧ t.pkg.cmdRun = some (1, s.pkg.cmdSlot) := by
  obtain ⟨hstatus, hslot, hctxs⟩ := createEcc_fails v e
  obtain ⟨hall, hst, hcmd⟩ := contextCreate_refused hk hrun hv (by rw [h, hslot]) (by rw [h, hctxs])
  exact ⟨hall, by rw [hst, h]; exact hstatus, hcmd⟩

theorem contextCreate_status {v : State} (hv : HomeOnly s v) {st : Nat} (h : s.create = (st, v.pkg.cmdSlot, v)) :
    let t := s.contextCreate
    t.ctxs = s.ctxs ∧ t.pkg.cmdStatus = st ∧ t.pkg.cmdRun = some (1, s.pkg.cmdSlot) := by
  obtain ⟨hall, hst, hcmd⟩ := contextCreate_refused hk hrun hv (by rw [h]) (by rw [h])
  exact ⟨hall, by rw [hst, h], hcmd⟩

theorem contextCreate_makes {v : State} {b : List Byte} {dgs : List Nat} {slot : Nat} (hv : HomeOnly s v) (hl : s.ctxs.length = 8)
    (h : s.create = v.createWith b dgs) (hgood : createBad b dgs = false) (h8 : slot < 8) (hfree : s.ctx slot = none)
    (hless : ∀ k, k < slot → (s.ctx k).isSome = true) :
    let t := s.contextCreate
    t.mem = v.mem ∧ t.pkg.cmdStatus = 0 ∧ t.pkg.cmdRun = some (1, slot) ∧ ∃ lcs, lcs.map LogicalCore.dieGrp = dgs ∧
      t.ctx slot = some ((newContext b lcs).launchRoot (word64 b 48)) := by
  obtain ⟨lcs, n, hlcs, hwith⟩ := createWith_free (v := v) hgood h8 ((ctx_of_ctxs hv.ctxs slot).trans hfree) fun k hlt => by
    rw [ctx_of_ctxs hv.ctxs]
    exact hless k hlt
  rw [contextCreate_eq hk hrun, h, hwith]
  exact ⟨rfl, rfl, rfl, lcs, hlcs, regGet_regSet_same (by rw [hv.ctxs, hl]; exact h8)⟩

/-! ## DESTROY -/

theorem contextDestroy_open {slot : Nat} {c : Context} (h8 : slot < 8) (hc : s.openCtx slot = some c) :
    let t := s.contextDestroy slot
    t.mem = s.mem ∧ t.ctx slot = some { c with destroying := true } ∧ t.pkg.cmdRun = some (2, slot) ∧ t.pkg.cmdStatus = 0 := by
  unfold State.contextDestroy
  rw [if_neg (by simp [hk, hrun]), Nat.mod_eq_of_lt h8, hc]
  exact ⟨rfl, ctx_setCtx_same (s := s.modPkg _) (ctx_of_openCtx hc), rfl, rfl⟩

theorem contextDestroy_none {slot : Nat} (h8 : slot < 8) (hc : s.openCtx slot = none) :
    let t := s.contextDestroy slot
    t.ctxs = s.ctxs ∧ t.pkg.cmdRun = some (2, slot) ∧ t.pkg.cmdStatus = 3 := by
  unfold State.contextDestroy
  rw [if_neg (by simp [hk, hrun]), Nat.mod_eq_of_lt h8, hc]
  exact ⟨rfl, rfl, rfl⟩

end Commands

/-! ## The end of a command -/

/-- The state after a command has ended: BUSY is clear and the host is told. -/
def State.commandDone (s : State) : State := (s.modPkg (fun p => { p with cmdRun := none })).notice 2

theorem commandDone_does (s : State) :
    s.commandDone.ctxs = s.ctxs ∧ s.commandDone.mem = s.mem ∧ s.commandDone.pkg.cmdRun = none ∧ s.commandDone.pkg.pend.getLsbD 2 = true :=
  ⟨ctxs_notice _ 2, State.notice_mem _ 2, by rw [State.commandDone, (deviceOnly_notice _ 2).pkg]; rfl, pend_notice _ (by decide)⟩

theorem commandEnd_create {s : State} {slot : Nat} (hk : s.clocked = true) (hr : s.pkg.cmdRun = some (1, slot)) :
    s.commandEnd = s.commandDone := by
  unfold State.commandEnd
  simp [hr, hk, State.commandDone]

theorem commandEnd_destroy {s : State} {slot : Nat} (hk : s.clocked = true) (hr : s.pkg.cmdRun = some (2, slot)) (hst : s.pkg.cmdStatus = 0)
    (hq : s.destroyQuiet slot = true) : s.commandEnd = (s.freeContext slot).commandDone := by
  unfold State.commandEnd
  simp [hr, hk, hst, hq, State.commandDone]

end Sys2Proof.Machine
end

section
/-! PROOF. Contexts are parked, resumed, created and destroyed as R276 to R278, R287 to R290 and R293 say (O49). -/

namespace Sys2Proof.Machine

open Sys2Proof

theorem crNlc_eq (w : Nat) : crNlc w = w % 2 ^ 11 := by rw [crNlc, bitsOf, Nat.pow_zero, Nat.div_one]

/-- The root gang of a created context, and the fields of its record. -/
theorem launchRoot_newContext (b : List Byte) (lcs : List LogicalCore) (desc : DWord) :
    let y := (newContext b lcs).launchRoot desc
    y.root = word b 32 ∧ y.cls = leNat b / 2 ^ 16 % 4 ∧ y.weight = leNat b / 2 ^ 20 % 16 + 1 ∧ y.sup = (leNat b).testBit 24 ∧
      y.joinDie = leNat b / 2 ^ 12 % 8 ∧ y.lcs = lcs ∧ y.groups = [] ∧ ∃ e, y.records = [e] ∧ e.descAddr = desc ∧ e.payloads = [] ∧
        e.scope = none ∧ e.queued = true ∧ e.launched = true ∧ e.launching = true ∧ e.failed = !launchAddr desc :=
  ⟨rfl, rfl, rfl, rfl, rfl, rfl, rfl, _, rfl, rfl, rfl, rfl, rfl, rfl, rfl, rfl⟩

/-- Settles O49: a park's request takes the TIMERs that are due and stops the context, and what those may change keeps the slots and contexts
that there are; a capture, a resume, a create and a destroy each follow the one branch that their hypotheses leave open. -/
theorem contextLife : Obligations.ContextLife := by
  unfold Obligations.ContextLife
  intro s s1 s2 die slot c c1 img peers x _ hk hdie hslot hlen r does
  have hs : s.HasSlot die slot := ⟨hdie, hslot⟩
  refine ⟨?request, ?capture, ?resume, ?resumeEnd, ?commands, ?createEnd, ?destroyEnd⟩
  case request =>
    exact fun hc hj hb hp hd => ⟨_, exec_parkRequest die slot s, parkRequest_does hk hs hc hj hb hp hd⟩
  case capture =>
    rintro hc rfl hp hd hq hcp ht h1 hc1 h2 rfl
    have heq := parkCapture_eq hk hc hp hd hq hcp ht h1 hc1 h2
    refine ⟨fun hsmall => ⟨_, exec_parkCapture slot s, ?_⟩, fun hsize hfits hm hdie2 hslot2 hphys => ⟨_, exec_parkCapture slot s, ?_⟩⟩
    · rw [heq, if_pos hsmall]
      exact parkFails_does hs hc
    · rw [heq, if_neg (not_or.mpr ⟨hsize, Nat.not_lt.mpr hfits⟩)]
      exact captured_does ⟨hdie2, hslot2⟩ hm hphys
  case resume =>
    intro first head len n both whole h8d h8 hb
    obtain ⟨hecc, hread⟩ := resumeRequest_does hk h8d h8 hs hlen hb
    refine ⟨fun e he => ⟨_, exec_resumeRequest die slot s, hecc e he⟩, fun hnone hrest => ?_⟩
    obtain ⟨hbad, hgood⟩ := hread hnone hrest
    exact ⟨fun h => ⟨_, exec_resumeRequest die slot s, hbad h⟩, fun h hfree => ⟨_, exec_resumeRequest die slot s, hgood h hfree⟩⟩
  case resumeEnd =>
    exact fun hc hj hr hp hi => ⟨_, exec_resumeEnd die slot s, resumeEnd_does hk hs hc hj hr hp hi⟩
  case commands =>
    intro hrun
    refine ⟨?create, ?destroy⟩
    case create =>
      intro u b field w n v dgs desc ready refused
      have hu : HomeOnly s u := homeOnly_homeAccess s _ _ _
      have hv : HomeOnly s v := by
        dsimp only [v]
        split
        · exact hu
        · exact hu.trans (homeOnly_homeAccess _ _ _ _)
      have hready : u.createReady b n = ready := createReady_of_pkg hu.pkg b n
      have hn : crNlc (leNat b) = n := crNlc_eq w
      refine ⟨fun e he => ⟨_, exec_contextCreate s, contextCreate_ecc hk hrun hu (create_record_ecc rfl he)⟩, fun hrec => ⟨fun hr => ?notReady,
        fun e hr h0 he => ?mapEcc, fun hr hmap => ?reads⟩⟩
      case notReady =>
        exact ⟨_, exec_contextCreate s, contextCreate_status hk hrun hu (create_not_ready rfl rfl hn hrec (hready.trans hr))⟩
      case mapEcc =>
        exact ⟨_, exec_contextCreate s, contextCreate_ecc hk hrun hv (create_map_ecc rfl rfl hn rfl hrec (hready.trans hr) h0 he)⟩
      case reads =>
        have hwith : s.create = v.createWith b dgs := create_reads rfl rfl hn rfl hrec (hready.trans hr) hmap
        refine ⟨fun hbad => ⟨_, exec_contextCreate s, contextCreate_status hk hrun hv (hwith.trans (createWith_bad hbad))⟩,
          fun hgood hfull => ⟨_, exec_contextCreate s, contextCreate_status hk hrun hv (hwith.trans (createWith_full hgood fun k h => ?_))⟩,
          fun hgood hfree hless h8 => ⟨_, exec_contextCreate s, ?_⟩⟩
        · rw [ctx_of_ctxs hv.ctxs]
          exact hfull k h
        · obtain ⟨hmem, hst, hcmd, lcs, hlcs, hctx⟩ := contextCreate_makes hk hrun hv hlen hwith hgood h8 hfree hless
          obtain ⟨hroot, hcls, hweight, hsup, hjoin, hcores, hgroups, e, hrecord⟩ := launchRoot_newContext b lcs desc
          exact ⟨hmem, hst, hcmd, _, e, hctx, hroot, hcls, hweight, hsup, hjoin, (congrArg (List.map LogicalCore.dieGrp) hcores).trans hlcs, hgroups,
            hrecord⟩
    case destroy =>
      exact fun h8 => ⟨fun hc => ⟨_, exec_contextDestroy slot s, contextDestroy_open hk hrun h8 hc⟩,
        fun hc => ⟨_, exec_contextDestroy slot s, contextDestroy_none hk hrun h8 hc⟩⟩
  case createEnd =>
    intro hrun
    obtain ⟨hctxs, -, hcmd, hpend⟩ := commandDone_does s
    exact ⟨_, exec_contextCommandEnd s, by rw [commandEnd_create hk hrun]; exact ⟨hctxs, hcmd, hpend⟩⟩
  case destroyEnd =>
    intro hrun hst hq
    obtain ⟨hctxs, hmem, hcmd, hpend⟩ := commandDone_does (s.freeContext slot)
    refine ⟨_, exec_contextCommandEnd s, ?_⟩
    rw [commandEnd_destroy hk hrun hst hq]
    exact ⟨(ctx_of_ctxs hctxs slot).trans (ctx_freeContext s slot), hmem.trans (mem_freeContext s slot), hcmd, hpend⟩

end Sys2Proof.Machine
end
